-- ==== Sys2Proof/Word.lean ====
section
/-! DEFINITION. The plain types of the model: bytes, register words, lines, stored words and sparse tables. -/

namespace Sys2Proof

/-- One byte. -/
abbrev Byte := BitVec 8
/-- One 32-bit register word (R23). -/
abbrev Word := BitVec 32
/-- One 64-bit value: a map entry, a directory entry, a time in ns, a counter. -/
abbrev DWord := BitVec 64
/-- The 64 data bytes of a line, byte `i` in bits `[8i+7:8i]` (R5). -/
abbrev Line := BitVec 512
/-- The 80-byte stored word of a line location, symbol `i` in bits `[8i+7:8i]` (R153). -/
abbrev Stored := BitVec 640
/-- A device physical address (45 bits, after R46). -/
abbrev Dpa := BitVec 45
/-- A DPA line number, `DPA[44:6]`. -/
abbrev LineNo := BitVec 39
/-- A DPA page number, `DPA[44:12]`. -/
abbrev PageNo := BitVec 33
/-- An 18-bit Slate ID (R228). -/
abbrev Slate := BitVec 18
/-- A 6-bit Marwen device ID (R314). -/
abbrev DevId := BitVec 6
/-- A sparse table: keys strictly rising, no entry equal to what an unlisted key reads as. -/
abbrev Tab (α : Type) := List (Nat × α)

end Sys2Proof
end

