-- ==== Sys2Proof/Syntax.lean ====
section
/-! DEFINITION. The commands of the block: one constructor for each row of spec/opcode_table.json, with the row's
operands. What the outside world decides (a measured value, which physical error struck, what a partner answered)
stands in the operands; everything else is the state's. -/

namespace Sys2Proof

/-- A path to the register window, coded as `WIN_ERR.PATH` (R30); a host path names its port. -/
inductive Path where
  | secure | normal | host (p : Fin 16) | sideband | debug
deriving DecidableEq, Repr

/-- The two addresses the sideband target answers (R370). -/
inductive SbAddr where
  | main | service
deriving DecidableEq, Repr

/-- The MetaValue of a CXL.mem request (R205). -/
inductive MetaVal where
  | i | s | a
deriving DecidableEq, Repr

/-- An SRAM array error met on a lookup (R62, R68, R224, R233). -/
inductive SramErr where
  | none
  /-- the Stage word of the line has an uncorrectable error -/
  | stage
  /-- the cached map entry has an uncorrectable error -/
  | map
  /-- the directory entry has an uncorrectable error -/
  | dir
  /-- the Slate context has an uncorrectable error -/
  | slate
deriving DecidableEq, Repr

/-- What the surroundings contribute to the arrival of a request: whether the IDE check passed (R274), the ingress
occupancy of the port in flits (R278), an SRAM error on the lookups, a datapath or misrouting error caught by the
checks of R409. -/
structure Env where
  ideOk : Bool := true
  occ : Nat := 0
  sram : SramErr := .none
  datapath : Bool := false
  misrouted : Bool := false
deriving DecidableEq, Repr

/-- The atomic operations of R256 (AOP codes 0 to 9). -/
inductive AtomOp where
  | add | swap | cas | and | or | xor | smin | smax | umin | umax
deriving DecidableEq, Repr

/-- The unit a stage belongs to for fencing and for the stall report (R18, R406). -/
inductive FUnit where
  | none
  | quadrant (q : Fin 4)
  | packEngine (q : Fin 4) (e : Fin 2)
  | sealPipe (q : Fin 4) (k : Fin 4)
  | cluster (q : Fin 4)
  | channel (c : Fin 16)
  | sub (u : Fin 32)
  | brick (b : Fin 8)
deriving DecidableEq, Repr

/-- The debug token of R345: which key it was signed for, the nonce and the enables it asks for. `valid` is what the
ECDSA P-384 verification answers. -/
structure Token where
  vendor : Bool
  nonce : BitVec 256
  enables : BitVec 4
  sigValid : Bool
deriving DecidableEq, Repr

/-- What one DDR training run of R197 found. -/
inductive TrainResult where
  | stored
  | full
  | fail (step : BitVec 4) (rank : BitVec 3)
deriving DecidableEq, Repr

/-- One DIMM population fact read from SPD (R185): the value `DIMM_CFG` takes, the media pages it gives each
quadrant and the ranks and banks the DIMM has. -/
structure DimmInfo where
  cfg : BitVec 32
  cause : Option (BitVec 8)
deriving DecidableEq, Repr

/-- One setting of the site profile as the secure firmware writes it during Boot (R445): a register load, or an
entry of a table that has no register of its own. -/
inductive ProfileItem where
  | reg (row : Nat) (off : BitVec 20) (v : BitVec 32)
  | personality (b : Fin 8) (marwen : Bool)
  | region (extent : BitVec 15) (skim lined : Bool)
  | fwHead (p : Fin 16)
  | slateCtx (slate : BitVec 18) (v : BitVec 128)
  | fallback (i : BitVec 12) (base len slate : BitVec 32)
  /-- the Memory_Active_Timeout code that every host port advertises (R450) -/
  | memTimeout (code : BitVec 8)
deriving DecidableEq, Repr

/-- A site profile copy as it stands in flash (R444): its sequence number, whether MAGIC, FORMAT, SERIAL and CHECK
(and, where R444 asks for one, the signature) are right, and its settings. -/
structure ProfileCopy where
  seq : BitVec 16
  valid : Bool
  items : List ProfileItem
  /-- the row of R445 whose load-time check fails on this board for a reason outside the registers -/
  badRow : Option Nat
deriving DecidableEq, Repr

/-- What the surroundings contribute to the end of a boot step (R446). -/
inductive BootInput where
  | ok
  /-- step 3: condition 1 to 4 of R371 failed its three retries -/
  | supplyFail (cond : Fin 5)
  /-- step 4: image copies that the verification of R347 rejects, and the SVN of the normal image -/
  | images (secA secB normA normB : Bool) (svn : BitVec 16)
  /-- step 5: the two site-profile copies of the flash -/
  | profile (a b : ProfileCopy)
  /-- step 6: the number of invalid calibration records and whether every delay check passed -/
  | calib (bad : Nat)
  /-- step 7: the SPD contents of the 16 channels, what training answered for the failing one, and the data media
  pages of each quadrant -/
  | dimms (d : List DimmInfo) (rsvBase : BitVec 30)
deriving DecidableEq, Repr

/-- The commands of the block, in the order of spec/opcode_table.json. -/
inductive Instr where
  -- 01 architecture, 02 control model
  | paceWindowEnd (m : Fin 5) (count : Nat)
  | stageStall (u : FUnit) (stageId : BitVec 16) (slate : Slate) (began : DWord)
  | registerWrite (p : Path) (off : BitVec 20) (bytes : Nat) (v : Word)
  | lowWordRead (p : Path) (off : BitVec 20) (bytes : Nat)
  | sidebandRead (a : SbAddr) (body : List Byte)
  | sidebandWrite (a : SbAddr) (body : List Byte)
  | sidebandOtherOpcode (a : SbAddr) (body : List Byte)
  | cut (p : Path) (page : BitVec 8) (v : Word)
  | action (p : Path) (page : BitVec 8) (v : Word)
  | blockReset (p : Path) (page : BitVec 8) (v : Word)
  | fenceReq (p : Path) (page : BitVec 8) (v : Word)
  | cutDone (page : BitVec 8)
  | blockResetEnd (page : BitVec 8)
  | winErrClear (p : Path) (v : Word)
  -- CXL.mem and CXL.io
  | memRd (p : Fin 16) (tag : Nat) (hpa : BitVec 64) (m : MetaVal) (env : Env)
  | memRdData (p : Fin 16) (tag : Nat) (hpa : BitVec 64) (env : Env)
  | memWr (p : Fin 16) (tag : Nat) (hpa : BitVec 64) (m : MetaVal) (data : Line) (poison : Bool) (env : Env)
  | memWrPtl (p : Fin 16) (tag : Nat) (hpa : BitVec 64) (m : MetaVal) (data : Line) (mask : DWord) (env : Env)
  | memInv (p : Fin 16) (tag : Nat) (hpa : BitVec 64) (env : Env)
  | memInvNt (p : Fin 16) (tag : Nat) (hpa : BitVec 64) (env : Env)
  | memClnEvct (p : Fin 16) (tag : Nat) (hpa : BitVec 64) (env : Env)
  | memSpecRd (p : Fin 16) (hpa : BitVec 64) (env : Env)
  | biRspI (p : Fin 16) (line : LineNo)
  | biRspS (p : Fin 16) (line : LineNo)
  | biConflict (p : Fin 16) (line : LineNo)
  | ioMemRead (p : Fin 16) (tag : Nat) (dpa : Dpa) (len : Nat) (pasid : Option (BitVec 20)) (env : Env)
  | ioMemWrite (p : Fin 16) (tag : Nat) (dpa : Dpa) (bytes : List Byte) (pasid : Option (BitVec 20)) (env : Env)
  | atomicOp (p : Fin 16) (tag : Nat) (dpa : Dpa) (op : AtomOp) (bits : Nat) (operand compare : BitVec 128)
      (pasid : Option (BitVec 20)) (env : Env)
  -- 03 map and Stage
  | mapLineFill (q : Fin 4) (bad : BitVec 8)
  | pageBindComplete (q : Fin 4)
  | stageWriteBack (q : Fin 4)
  | flushRange (p : Path) (q : Fin 4)
  | cleanRange (p : Path) (q : Fin 4)
  | flushAll (p : Path) (q : Fin 4)
  | flushNone (p : Path) (q : Fin 4)
  | lockedLineFlush (q : Fin 4) (line : LineNo)
  | flushDone (q : Fin 4)
  -- 04 tiering
  | epochBoundary
  | demotionScan (q : Fin 4)
  | dollyMoveStart (q : Fin 4)
  | moveSourceReady (q : Fin 4)
  | moveDestinationWritten (q : Fin 4)
  | moveFreeOld (q : Fin 4)
  | extentOffer
  | offerLapse
  | releaseCapacityRequest (p : Fin 16)
  | releaseRequestLapse (p : Fin 16)
  | writeWaitAdmit (q : Fin 4)
  | capacityWriteTimeout (q : Fin 4)
  -- 05 compression
  | packEngineSchedule (q : Fin 4) (e : Fin 2)
  | packedPageDecode (q : Fin 4) (e : Fin 2)
  | packEngFence (p : Path) (q : Fin 4) (v : Word)
  -- 06 Seal
  | rangeSel (p : Path) (v : Word)
  | rangeDefine (p : Path)
  | rangeClear (p : Path)
  | rangeRetire (p : Path)
  | rangeRepaint (p : Path)
  | rangeSetRights (p : Path)
  | rangeCmdBadOp (p : Path) (op : BitVec 3)
  | rangeFlushDone (r : Fin 64)
  | rangeCmdComplete
  | fillSweepPage (q : Fin 4) (slot : Fin 4)
  | repaintPageStart (q : Fin 4) (slot : Fin 4)
  | repaintScratchWritten (q : Fin 4)
  | repaintPageDone (q : Fin 4)
  | pipeFence (p : Path) (q : Fin 4) (v : Word)
  -- 07 stored data protection
  | dramReadComplete (u : Fin 32) (err : Stored)
  | devFailWrite (p : Path) (q : Fin 4) (n : Fin 2) (v : Word)
  | regionSel (p : Path) (v : Word)
  | regionSet (p : Path) (v : Word)
  | regionCmdComplete
  | liningRebuildDone (q : Fin 4)
  | sanderRead (q : Fin 4)
  | forcedSanderRead (u : Fin 32)
  | scrubLapOverdue (q : Fin 4)
  | watchingExpiry (q : Fin 4) (mpa : DWord)
  | softPprDone (u : Fin 32)
  | flipArm (p : Path) (q : Fin 4) (v : Word)
  | flipDisarm (p : Path) (q : Fin 4) (v : Word)
  -- 08 DRAM controllers
  | dramCommandIssue (u : Fin 32) (ready : List Nat)
  | refreshDue (u : Fin 32) (rank : Fin 8)
  | mr4Poll (u : Fin 32) (rank : Fin 8) (twice hot : Bool)
  | zqCalibration (c : Fin 16)
  | dqsOscTracking (c : Fin 16)
  | rfmIssue (u : Fin 32) (bank : Nat)
  | alertNAssert (u : Fin 32) (span : Nat)
  | alertNDeassert (u : Fin 32)
  | commandReplayDone (u : Fin 32)
  | subFence (p : Path) (c : Fin 16) (v : Word)
  | selfRefreshEntry (u : Fin 32)
  | ddrTrainingDone (c : Fin 16) (r : TrainResult)
  | prechargePowerDown (u : Fin 32)
  -- 09 coherence
  | queueAdmit (q : Fin 4) (dirErr : Bool)
  | homeDataReady (q : Fin 4) (line : LineNo)
  | snoopTimeout (q : Fin 4) (line : LineNo) (agent : Fin 24)
  | atomWindowEnd (q : Fin 4)
  | dirProbe (p : Path) (q : Fin 4) (v : Word)
  -- 10 Slates
  | regulationWindowStart
  | ctxLoad (p : Path)
  | ctxWriteWord3 (p : Path)
  | ctxWriteRights (p : Path)
  | ctxCmdOp0 (p : Path)
  | fbLoad (p : Path)
  | fbWrite (p : Path)
  | fbCmdBadOp (p : Path) (op : BitVec 2)
  | slateCmdComplete
  -- 11 engines
  | doorbell (p : Path) (q : Fin 4) (i : BitVec 8) (v : Word)
  | descriptorFetch (q : Fin 4)
  | laneTakeJob (q : Fin 4) (l : Fin 8)
  | copy (q : Fin 4) (l : Fin 8)
  | fill (q : Fin 4) (l : Fin 8)
  | cmp (q : Fin 4) (l : Fin 8)
  | crc (q : Fin 4) (l : Fin 8)
  | scan (q : Fin 4) (l : Fin 8)
  | reduce (q : Fin 4) (l : Fin 8)
  | pack (q : Fin 4) (l : Fin 8)
  | unpack (q : Fin 4) (l : Fin 8)
  | atom (q : Fin 4) (l : Fin 8)
  | xfer (q : Fin 4) (l : Fin 8)
  | ringLoad (p : Path) (q : Fin 4)
  | ringEnable (p : Path) (q : Fin 4)
  | ringDisable (p : Path) (q : Fin 4)
  | ringResume (p : Path) (q : Fin 4)
  | ringSetOwner (p : Path) (q : Fin 4)
  | ringStopped (q : Fin 4) (i : BitVec 8)
  -- 12 host ports
  | hostLinkUp (p : Fin 16) (partnerRate : Fin 7) (width : Fin 17) (sets : List (List (Option Nat)))
  | hostLinkDown (p : Fin 16)
  | perstNAssert (p : Fin 16)
  | perstNDeassert (p : Fin 16)
  | hdmDecoderCommit (p : Fin 16) (i : Fin 4) (base size : BitVec 64) (ways : Nat) (gran : Nat) (pos : Nat)
      (dpaBase : Dpa) (db : Bool)
  | l0pWidthChange (p : Fin 16) (width : Fin 17)
  | histStart (p : Path) (b : Fin 8) (v : Word)
  | histDone (b : Fin 8) (counts : List Word) (offsets : Word)
  | spdmDoe (p : Fin 16) (msg : List Byte) (answer : List Byte)
  -- 12 mailbox (R276)
  | getEventRecords (p : Fin 16) (log : Fin 5)
  | clearEventRecords (p : Fin 16) (log : Fin 5) (handles : Option (List Nat))
  | getEventInterruptPolicy (p : Fin 16)
  | setEventInterruptPolicy (p : Fin 16) (policy : List Byte)
  | getFwInfo (p : Fin 16)
  | transferFw (p : Fin 16) (secureImage : Bool) (last : Bool) (chunk : List Byte)
  | activateFw (p : Fin 16) (verifies : Bool)
  | getTimestamp (p : Fin 16)
  | setTimestamp (p : Fin 16) (ns : DWord)
  | getSupportedLogs (p : Fin 16)
  | getLog (p : Fin 16) (cel : Bool)
  | identifyMemoryDevice (p : Fin 16)
  | getPartitionInfo (p : Fin 16)
  | getHealthInfo (p : Fin 16)
  | getAlertConfiguration (p : Fin 16)
  | setAlertConfiguration (p : Fin 16) (cfg : List Byte)
  | getPoisonList (p : Fin 16)
  | injectPoison (p : Fin 16) (dpa : Dpa)
  | clearPoison (p : Fin 16) (dpa : Dpa) (data : Line)
  | getDynamicCapacityConfiguration (p : Fin 16)
  | getDynamicCapacityExtentList (p : Fin 16)
  | addDynamicCapacityResponse (p : Fin 16) (extent : BitVec 15)
  | releaseDynamicCapacity (p : Fin 16) (extent : BitVec 15)
  | sanitize (p : Fin 16)
  | secureErase (p : Fin 16)
  | unsupportedOpcode (p : Fin 16) (opcode : BitVec 16)
  -- 13 Marwen link
  | linkTrained (b : Fin 8) (lanes : BitVec 8) (sets : List (List (Option Nat)))
  | init (b : Fin 8) (flit : BitVec 2048)
  | initDone (b : Fin 8) (flit : BitVec 2048)
  | initRetry (b : Fin 8)
  | lctlRepeat (b : Fin 8)
  | retrainReq (b : Fin 8) (flit : BitVec 2048)
  | widthReq (b : Fin 8) (flit : BitVec 2048)
  | widthAck (b : Fin 8) (flit : BitVec 2048)
  | resume (b : Fin 8) (flit : BitVec 2048)
  | keysw (b : Fin 8) (flit : BitVec 2048)
  | keyswAck (b : Fin 8) (flit : BitVec 2048)
  | down (b : Fin 8) (flit : BitVec 2048)
  | dataFlit (b : Fin 8) (flit : BitVec 2048)
  | ccFlit (b : Fin 8) (flit : BitVec 2048)
  | idleFlit (b : Fin 8) (flit : BitVec 2048)
  | nakFlit (b : Fin 8) (flit : BitVec 2048)
  | sackFlit (b : Fin 8) (flit : BitVec 2048)
  | badFlit (b : Fin 8) (flit : BitVec 2048)
  | reservedFlit (b : Fin 8) (flit : BitVec 2048)
  | nakTimer (b : Fin 8)
  | replayTimer (b : Fin 8)
  | ccRtxTimer (b : Fin 8)
  | sackTimer (b : Fin 8)
  | ackCoalesceTimer (b : Fin 8)
  | flitSlotOpen (b : Fin 8)
  | blockLockLost (b : Fin 8) (lanes : BitVec 8)
  | blockLockRegained (b : Fin 8) (lanes : BitVec 8)
  | downTimeExpiry (b : Fin 8)
  | retrainLimitExpiry (b : Fin 8)
  | recoveryComplete (b : Fin 8) (sets : List (List (Option Nat)))
  | widthCtlRetrain (p : Path) (b : Fin 8)
  | widthCtlReq (p : Path) (b : Fin 8) (mask : BitVec 8)
  -- 14 Marwen packets: input port and the packet's slots (header first)
  | mwRd (b : Fin 8) (slots : List (BitVec 128)) (env : Env)
  | mwWr (b : Fin 8) (slots : List (BitVec 128)) (env : Env)
  | mwWrp (b : Fin 8) (slots : List (BitVec 128)) (env : Env)
  | mwAtom (b : Fin 8) (slots : List (BitVec 128)) (env : Env)
  | mwPgrant (b : Fin 8) (slots : List (BitVec 128))
  | mwPrel (b : Fin 8) (slots : List (BitVec 128))
  | mwCmp (b : Fin 8) (slots : List (BitVec 128))
  | mwGranted (b : Fin 8) (slots : List (BitVec 128))
  | mwData (b : Fin 8) (slots : List (BitVec 128))
  | mwAdata (b : Fin 8) (slots : List (BitVec 128))
  | mwRds (b : Fin 8) (slots : List (BitVec 128)) (env : Env)
  | mwRde (b : Fin 8) (slots : List (BitVec 128)) (env : Env)
  | mwRdcur (b : Fin 8) (slots : List (BitVec 128)) (env : Env)
  | mwOwn (b : Fin 8) (slots : List (BitVec 128)) (env : Env)
  | mwWrc (b : Fin 8) (slots : List (BitVec 128)) (env : Env)
  | mwWrcp (b : Fin 8) (slots : List (BitVec 128)) (env : Env)
  | mwWbd (b : Fin 8) (slots : List (BitVec 128)) (env : Env)
  | mwEvc (b : Fin 8) (slots : List (BitVec 128)) (env : Env)
  | mwAtmc (b : Fin 8) (slots : List (BitVec 128)) (env : Env)
  | mwSnpinv (b : Fin 8) (slots : List (BitVec 128))
  | mwSnpdata (b : Fin 8) (slots : List (BitVec 128))
  | mwSnpfwds (b : Fin 8) (slots : List (BitVec 128))
  | mwSnpfwde (b : Fin 8) (slots : List (BitVec 128))
  | mwRspi (b : Fin 8) (slots : List (BitVec 128))
  | mwRsps (b : Fin 8) (slots : List (BitVec 128))
  | mwRspfwd (b : Fin 8) (slots : List (BitVec 128))
  | mwGnti (b : Fin 8) (slots : List (BitVec 128))
  | mwGnts (b : Fin 8) (slots : List (BitVec 128))
  | mwGnte (b : Fin 8) (slots : List (BitVec 128))
  | mwFwddata (b : Fin 8) (slots : List (BitVec 128))
  | mwWcmp (b : Fin 8) (slots : List (BitVec 128))
  | mwAcmp (b : Fin 8) (slots : List (BitVec 128))
  | mwMgt (b : Fin 8) (slots : List (BitVec 128)) (answer : List (BitVec 128))
  | mwUnknownOpcode (b : Fin 8) (slots : List (BitVec 128))
  | transitPacket (b : Fin 8) (slots : List (BitVec 128))
  | responseTimeout (tag : BitVec 12)
  | tagHoldbackEnd (tag : BitVec 12)
  -- 15 management worlds
  | gate (core : Fin 4) (pc : DWord) (word : Word) (target : DWord) (atTarget : Word) (user : Bool)
  | gret (core : Fin 4) (pc : DWord) (word : Word) (user : Bool)
  | entry (core : Fin 4) (pc : DWord) (word : Word)
  | illegalCustom0 (core : Fin 4) (pc : DWord) (word : Word)
  | secureInterrupt (pc : DWord) (enabledInSecure : Bool)
  | keyUnwrap (target : BitVec 2) (index : BitVec 12) (block : List Byte)
  | keyDerive (target : BitVec 2) (index : BitVec 12) (block : List Byte)
  | keyZeroise (target : BitVec 2) (index : BitVec 12)
  | keyLoadPlain (target : BitVec 2) (index : BitVec 12) (block : List Byte)
  | keyCmdBadOp (op : BitVec 3) (target : BitVec 2) (index : BitVec 12)
  | keyCmdComplete
  | lifecycleAdvance (p : Path) (v : Word)
  | debugNonceRequest (p : Path) (nonce : BitVec 256)
  | debugUnlockToken (t : Token)
  | nonceExpiry (nonce : BitVec 256)
  | relock (p : Path) (v : Word)
  | claim (p : Path) (v : Word)
  | coreRelease (p : Path) (v : Word)
  | testEn (p : Path) (v : Word)
  | wdogKick (p : Path) (v : Word)
  | managementWatchdog
  -- 16 power
  | domainPowerOn (p : Path) (d : BitVec 5)
  | domainPowerOff (p : Path) (d : BitVec 5)
  | domainClockStop (p : Path) (d : BitVec 5)
  | domainClockStart (p : Path) (d : BitVec 5)
  | domainRequestDone
  | subStateSet (p : Path) (sub : BitVec 2)
  | leaveMaintain (p : Path)
  | maintainRequest (p : Path)
  | retainRequest (p : Path)
  | factoryRequest (p : Path)
  | modeReqNotAllowed (p : Path) (req : BitVec 3)
  | maintainReached
  | maintainOverrun
  | gafferEpoch (temps : List Int) (counts : List Nat) (work : BitVec 7)
  | avsbusAck
  | avsbusFault
  | retainFlushDone
  | retainPointOfNoReturn
  | sidebandAddressMatch
  | wakeNLow
  | wakeTimerExpiry
  | wakeStepDone
  | wakeStepTimeout
  | wakeRegulatorOffEnd
  | wakeRetry (a : SbAddr)
  | padRelease (p : Path) (v : Word)
  | aoRatioWindow (ratio : Word)
  | timeSet (p : Path) (v : Word)
  -- 17 feed
  | feedAdmit (b : Bool) (mv : Nat)
  | feedLost (b : Bool)
  | feedUnhealthy (b : Bool)
  | holdUpFlushDone
  | holdUpEventRecordWrite
  | reverseCurrent (b : Bool)
  | prechargeReached
  | prechargeTimeout
  | rampDone
  | fastTrip
  | overcurrent
  | faultTimerExpiry
  | stableIdleDone
  | retryWaitEnd
  | tripsReset
  | clearLatch (p : Path) (v : Word)
  | energyClr (p : Path) (v : Word)
  | feedSample (mv : List Int) (ma : List Int)
  | telemetryWindow
  -- 18 continuity
  | haltFlushDone
  | aliveToggle
  | sourceInject (p : Path) (v : Word)
  | firstErrorClear (p : Path) (v : Word)
  | latchedClear (p : Path) (w : Fin 16) (v : Word)
  | warmReset (p : Path) (v : Word)
  | warmResetFlushDone
  | warmResetTimeout
  | coldReset (p : Path) (v : Word)
  | warmPathReconcile
  | sramBist (q : Fin 4) (array : Nat) (way : Fin 16)
  | sramBistDone (q : Fin 4) (array : Nat) (way : Fin 16) (pass : Bool)
  | checkerSample (mismatches : List (BitVec 9))
  | supplyFault (cond : Fin 3)
  | aoPowerUp
  | vauxLoss
  -- 19 calibration
  | slicerRescore (lane : Fin 64) (scores : List (Option Nat))
  | delayTrialDone (stage : Nat) (nearMisses : Nat)
  | nearMiss (stage : Nat)
  | matchedDelayTrim (stage : Nat)
  | calRecordProgrammed
  | calSectorEraseDone
  -- 20 Dailies
  | snap (p : Path) (v : Word)
  | snapshotTick
  | bwWindowEnd
  | viewPageRead (p : Path) (slate : Option (BitVec 20)) (v : Fin 48) (off : BitVec 12)
  -- 21 start-up
  | bootStepDone (i : BootInput)
  | bootPortTimeout
  -- added at the end of the table
  | debugDpaRead (dpa : Dpa)
  | spdmOverMctp (msg : List Byte) (answer : List Byte)
  | feedHealthy (b : Bool)
  | faultTimerIdle
  | supplyFaultEnd (cond : Fin 3)
  | prbsCheckerLock (b : Fin 8) (lane : Fin 8) (locked : Bool) (errors : BitVec 48)
deriving DecidableEq, Repr

end Sys2Proof
end

