-- ==== Sys2Proof/Config.lean ====
section
/-! DEFINITION. What one device has fixed for good (fuses, published algorithms the spec names without restating) and the
free values: constants with no body, so that no proof can see what they are. -/

namespace Sys2Proof.Config

/-- The `n`-th free value of a run: what the spec leaves open each time it leaves it open. `State.freeCtr` counts. -/
opaque free (n : Nat) : Nat

/-- PGDIR.VENDOR, fused at manufacture (R28). -/
opaque vendor : Word
/-- The life-cycle state burnt into the fuses of a device as it leaves for this run (R344). -/
opaque fusedLifecycle : Nat
/-- The top of the statically decoded capacity, in 1 GiB extents of the 45-bit DPA: the Dynamic Capacity region lies above it (R85). No
register or profile row gives it. -/
opaque staticTop : Fin 32769
/-- The same as a number. -/
def staticExtents : Nat := staticTop.val

/-- AES-256-XTS of one 64-byte line under a slot's two keys (R128, IEEE 1619): a permutation of the lines under each key and tweak. -/
opaque xtsLine (key : BitVec 512) (tweak : BitVec 128) : Equiv.Perm Line
/-- AES-256-XTS of one 256-byte slot (R129). -/
opaque xtsSlot (key : BitVec 512) (tweak : BitVec 128) : Equiv.Perm (BitVec 2048)
/-- Encryption and decryption of a line. -/
def xtsEncLine (key : BitVec 512) (tweak : BitVec 128) (plain : Line) : Line := xtsLine key tweak plain
def xtsDecLine (key : BitVec 512) (tweak : BitVec 128) (cipher : Line) : Line := (xtsLine key tweak).symm cipher
/-- Encryption and decryption of a slot. -/
def xtsEncSlot (key : BitVec 512) (tweak : BitVec 128) (plain : BitVec 2048) : BitVec 2048 := xtsSlot key tweak plain
def xtsDecSlot (key : BitVec 512) (tweak : BitVec 128) (cipher : BitVec 2048) : BitVec 2048 := (xtsSlot key tweak).symm cipher
/-- The 16-byte tag of AES-256-GCM over an empty plaintext (R130). -/
opaque gcmTag (key : BitVec 256) (iv : BitVec 96) (aad : List Byte) : BitVec 128
/-- The counter-mode key stream of AES-256-GCM, byte by byte (R305). -/
opaque gcmStream (key : BitVec 256) (iv : BitVec 96) (i : Nat) : Byte
/-- AES-256-GCM counter-mode encryption of link bytes, which is its own decryption (R305). -/
def gcmCrypt (key : BitVec 256) (iv : BitVec 96) (text : List Byte) : List Byte := text.zipIdx.map fun b => b.1 ^^^ gcmStream key iv b.2
/-- The 16-byte GCM tag over link bytes (R305): additional data, then ciphertext. -/
opaque gcmLinkTag (key : BitVec 256) (iv : BitVec 96) (aad cipher : List Byte) : BitVec 128
/-- AES Key Wrap (RFC 3394) of a blob under the device wrapping key (R132, R342): none where the integrity check fails. -/
opaque keyUnwrap (blob : List Byte) : Option (BitVec 768)
/-- The SP 800-108 KDF under the device secret (R132, R342). -/
opaque keyDerive (block : List Byte) : BitVec 768

/-- The match choice of the UPF encoder (R105): the tokens (literals, match length, offset) for a block behind a history. The rule
leaves the hash of the candidate search open; a choice that does not spell the block is not taken. -/
opaque upfMatch (effort : Nat) (window : Nat) (history block : List Byte) : List (List Byte × Nat × Nat)
/-- The literal code lengths of a TYPE 2 block (R104): no rule says how the encoder finds them. -/
opaque upfLengths (literals : List Byte) : List Nat
/-- The match choice of the DEFLATE encoder (R108). -/
opaque deflMatch (effort : Nat) (history block : List Byte) : List (List Byte × Nat × Nat)
/-- The literal/length and distance code lengths of a dynamic block (R108). -/
opaque deflLengths (tokens : List (List Byte × Nat × Nat)) : List Nat × List Nat
/-- The bits that spell those lengths in a dynamic block header, after its three header bits (RFC 1951). -/
opaque deflTable (lit dist : List Nat) : List Bool

/-- Gaffer coefficients, fused at manufacture (R363): static power in 1/16 W at a voltage in mV and a temperature in °C. -/
opaque gafferStatic (mv : Nat) (celsius : Int) : Nat
/-- Idle power of a block (quadrants 0 to 3, crossbar 4), in 1/16 W at reference point N (R363). -/
opaque gafferIdle (block : Nat) : Nat
/-- Energy of a Dailies event, in 1/1024 pJ (R363). -/
opaque gafferCoef (event : Nat) : Nat
/-- Power of the channels and lanes powered, in 1/16 W (R363). -/
opaque gafferPhy (domains : BitVec 20) : Nat

/-- DESC of a Dailies counter, fixed for good (R434 ff.): no rule lists the event codes. -/
opaque dailyDesc (key : Nat) : Word
/-- What Identify Memory Device returns besides the capacity (R276): CXL 3.1 defines it, and it is fused. -/
opaque identity : List Byte
/-- RAAIMT that the DIMM reports (R194). -/
opaque raaimt : Nat
/-- RAAMMT that the DIMM reports (R194). -/
opaque raammt : Nat
/-- The fraction of each tREFI that refresh occupies, in 1/1000, at the normal rate and at twice the rate (R240). -/
opaque refreshShare (twice : Bool) : Nat
/-- The DIMM's own limit on postponed refreshes (R192). -/
opaque dimmPostpone : Nat
/-- The payload rate of a host port at a trained rate code and width, in MB/s (R236): no rule states it. -/
opaque hostPayload (rate width : Nat) : Nat
/-- Whether the DIMM supports same-bank refresh (R192). -/
opaque dimmRefSb : Bool
/-- The NaN that REDUCE gives (R254): IEEE 754 leaves its payload open. -/
opaque fpNan (a b : BitVec 64) : BitVec 64

end Sys2Proof.Config
end

