-- ==== Sys2Proof/Machine/Tab.lean ====
section
/-! DEFINITION. Sparse tables in one canonical form (keys strictly rising, no entry equal to what an unlisted key
reads as), and the bit-field helpers every other file uses. -/

namespace Sys2Proof.Machine

/-- What key `k` reads as: its listed entry, or `d`. -/
def tabGet {α : Type} (d : α) : Tab α → Nat → α
  | [], _ => d
  | (i, v) :: t, k => if i = k then v else tabGet d t k

/-- Insert or replace the entry of `k`, keeping the keys rising. -/
def tabIns {α : Type} : Tab α → Nat → α → Tab α
  | [], k, v => [(k, v)]
  | (i, w) :: t, k, v => if k < i then (k, v) :: (i, w) :: t else if k = i then (k, v) :: t else (i, w) :: tabIns t k v

/-- Remove the entry of `k`. -/
def tabDel {α : Type} (t : Tab α) (k : Nat) : Tab α := t.filter fun e => e.1 != k

/-- Write `v` at `k`: writing what an unlisted key reads as removes the entry. -/
def tabPut {α : Type} [DecidableEq α] (d : α) (t : Tab α) (k : Nat) (v : α) : Tab α :=
  if v = d then tabDel t k else tabIns t k v

/-- Change the entry of `k` by `f`. -/
def tabMod {α : Type} [DecidableEq α] (d : α) (t : Tab α) (k : Nat) (f : α → α) : Tab α :=
  tabPut d t k (f (tabGet d t k))

/-- Keys above `k` everywhere in `t`. -/
def tabAbove {α : Type} (k : Nat) : Tab α → Bool
  | [] => true
  | (i, _) :: t => decide (k < i) && tabAbove k t

/-- The canonical form: keys strictly rising and no entry equal to the default. -/
def tabWf {α : Type} [DecidableEq α] (d : α) : Tab α → Bool
  | [] => true
  | (i, v) :: t => tabAbove i t && decide (v ≠ d) && tabWf d t

/-- Drop every entry whose key satisfies `p`. -/
def tabDrop {α : Type} (p : Nat → Bool) (t : Tab α) : Tab α := t.filter fun e => !p e.1

/-- The bits `[hi:lo]` of a word, as a number. -/
def fld {w : Nat} (v : BitVec w) (hi lo : Nat) : Nat := (v.toNat >>> lo) % 2 ^ (hi + 1 - lo)

/-- Bit `i` of a word. -/
def bitOf {w : Nat} (v : BitVec w) (i : Nat) : Bool := v.getLsbD i

/-- The word with its bits `[hi:lo]` replaced by `x`. -/
def setFld (v : Word) (hi lo x : Nat) : Word :=
  let m : Word := BitVec.ofNat 32 ((2 ^ (hi + 1 - lo) - 1) <<< lo)
  (v &&& ~~~m) ||| (BitVec.ofNat 32 (x <<< lo) &&& m)

/-- One bit as a number. -/
def b2n (b : Bool) : Nat := if b then 1 else 0

/-- A word of fields `(lowest bit, value)`. -/
def packW (l : List (Nat × Nat)) : Word := l.foldl (fun a e => a ||| BitVec.ofNat 32 (e.2 <<< e.1)) 0

/-- Add one, staying at the top. -/
def satInc {w : Nat} (v : BitVec w) : BitVec w := if v = BitVec.allOnes w then v else v + 1

/-- Replace element `i` of a list. -/
def listSet {α : Type} (l : List α) (i : Nat) (v : α) : List α := l.set i v

/-- The bytes of a number, least significant first. -/
def bytesOf (n count : Nat) : List Byte := (List.range count).map fun i => BitVec.ofNat 8 (n >>> (8 * i))

/-- The number whose little-endian bytes are `l`. -/
def ofBytes : List Byte → Nat
  | [] => 0
  | b :: l => b.toNat + 256 * ofBytes l

/-- The `k`-th number that is not in the rising list `u`. -/
def kthFree (u : List Nat) (k : Nat) : Nat := u.foldl (fun m x => if x ≤ m then m + 1 else m) k

/-- The mask of bits `[hi:lo]`. -/
def maskW (hi lo : Nat) : Word := BitVec.ofNat 32 ((2 ^ (hi + 1 - lo) - 1) <<< lo)

/-- Take the first element that satisfies `p` out of a list. -/
def takeFirst {α : Type} (p : α → Bool) : List α → Option (α × List α)
  | [] => none
  | a :: l => if p a then some (a, l) else (takeFirst p l).map fun r => (r.1, a :: r.2)

/-- Replace each element that satisfies `p` by `f` of it. -/
def mapIf {α : Type} (p : α → Bool) (f : α → α) (l : List α) : List α := l.map fun a => if p a then f a else a

end Sys2Proof.Machine
end

