-- ==== Sys2Proof/Machine/Float.lean ====
section
/-! DEFINITION. The IEEE 754 arithmetic of REDUCE (R254): binary64 addition rounded to nearest even, binary32 widened to binary64,
and minimum and maximum. -/

namespace Sys2Proof.Machine

/-- A binary format: exponent and fraction widths. -/
structure FpFmt where
  e : Nat
  m : Nat
deriving DecidableEq, Repr

def fp32 : FpFmt := ⟨8, 23⟩
def fp64 : FpFmt := ⟨11, 52⟩

/-- Sign, biased exponent and fraction of a number's bits. -/
def fpSign (f : FpFmt) (x : Nat) : Bool := x.testBit (f.e + f.m)
def fpExp (f : FpFmt) (x : Nat) : Nat := x / 2 ^ f.m % 2 ^ f.e
def fpFrac (f : FpFmt) (x : Nat) : Nat := x % 2 ^ f.m
def fpIsNan (f : FpFmt) (x : Nat) : Bool := fpExp f x = 2 ^ f.e - 1 && fpFrac f x ≠ 0
def fpIsInf (f : FpFmt) (x : Nat) : Bool := fpExp f x = 2 ^ f.e - 1 && fpFrac f x = 0

/-- The exact value of a finite number in units of its format's smallest subnormal. -/
def fpInt (f : FpFmt) (x : Nat) : Int :=
  let mag := if fpExp f x = 0 then fpFrac f x else (2 ^ f.m + fpFrac f x) * 2 ^ (fpExp f x - 1)
  if fpSign f x then -(mag : Int) else mag

/-- The infinity of a sign. -/
def fpInf (f : FpFmt) (neg : Bool) : Nat := (2 ^ f.e - 1) * 2 ^ f.m + b2n neg * 2 ^ (f.e + f.m)

/-- Round an exact value, in units of the smallest subnormal, to nearest even; `zero` is the sign of an exact zero. -/
def fpRound (f : FpFmt) (v : Int) (zero : Bool) : Nat :=
  let n := v.natAbs
  let s := if n = 0 then zero else decide (v < 0)
  let sg := b2n s * 2 ^ (f.e + f.m)
  if n < 2 ^ (f.m + 1) then sg + n
  else
    let sh := n.log2 - f.m
    let q := n / 2 ^ sh
    let r := n % 2 ^ sh
    let half := 2 ^ (sh - 1)
    let q := if half < r ∨ (r = half ∧ q % 2 = 1) then q + 1 else q
    let (q, sh) := if q = 2 ^ (f.m + 1) then (2 ^ f.m, sh + 1) else (q, sh)
    if 2 ^ f.e - 1 ≤ sh + 1 then fpInf f s else sg + sh * 2 ^ f.m + q

/-- A NaN of a format: quiet, with an open payload. -/
def fpNan (f : FpFmt) (a b : Nat) : Nat :=
  let q := (2 ^ f.e - 1) * 2 ^ f.m + 2 ^ (f.m - 1)
  (Config.fpNan (BitVec.ofNat 64 a) (BitVec.ofNat 64 b)).toNat % 2 ^ (f.e + f.m + 1) ||| q

/-- Addition: the sum, and whether finite operands overflowed to an infinity. -/
def fpAdd (f : FpFmt) (a b : Nat) : Nat × Bool :=
  if fpIsNan f a ∨ fpIsNan f b then (fpNan f a b, false)
  else if fpIsInf f a then (if fpIsInf f b ∧ fpSign f a ≠ fpSign f b then (fpNan f a b, false) else (a, false))
  else if fpIsInf f b then (b, false)
  else
    let r := fpRound f (fpInt f a + fpInt f b) (fpSign f a && fpSign f b)
    (r, fpIsInf f r)

/-- Binary32 to binary64: exact. -/
def fpWiden (x : Nat) : Nat :=
  if fpIsNan fp32 x then fpNan fp64 x 0
  else if fpIsInf fp32 x then fpInf fp64 (fpSign fp32 x)
  else fpRound fp64 (fpInt fp32 x * 2 ^ 925) (fpSign fp32 x)

/-- A key that orders numbers that are no NaN, with −0 below +0. -/
def fpKey (f : FpFmt) (x : Nat) : Int :=
  let mag := x % 2 ^ (f.e + f.m)
  if fpSign f x then -(mag : Int) - 1 else mag

/-- Minimum or maximum of IEEE 754-2019. -/
def fpPick (f : FpFmt) (min_ : Bool) (a b : Nat) : Nat :=
  if fpIsNan f a ∨ fpIsNan f b then fpNan f a b
  else if (if min_ then decide (fpKey f a ≤ fpKey f b) else decide (fpKey f b ≤ fpKey f a)) then a else b

end Sys2Proof.Machine
end

