-- ==== Sys2Proof/Machine/Code.lean ====
section
/-! DEFINITION. The codes the spec writes out: CRC-8 of the map entry (R56), CRC-32C and CRC-64, and the shortened
Reed-Solomon code of the stored word with its bounded-distance decoder (R154, R158). -/

namespace Sys2Proof.Machine

/-! ## Cyclic codes -/

/-- One bit of a most-significant-first CRC register of `w` bits. -/
def crcBit (w poly : Nat) (reg : Nat) (b : Bool) : Nat :=
  let top := (reg >>> (w - 1)) % 2
  let r := (reg <<< 1) % 2 ^ w
  if (top == 1) != b then r ^^^ poly else r

/-- One byte, most significant bit first. -/
def crcByte (w poly reg : Nat) (b : Byte) : Nat :=
  (List.range 8).foldl (fun r i => crcBit w poly r (b.getLsbD (7 - i))) reg

/-- CRC-8 of the map entry's bytes 0 to 6: polynomial 0x07, initial value 0xFF (R56). -/
def crc8 (bytes : List Byte) : Nat := bytes.foldl (crcByte 8 0x07) 0xFF

/-- A reflected CRC of `w` bits, one byte. -/
def crcRByte (poly reg : Nat) (b : Byte) : Nat :=
  (List.range 8).foldl (fun r _ => if r % 2 = 1 then (r >>> 1) ^^^ poly else r >>> 1) (reg ^^^ b.toNat)

/-- CRC-32C (Castagnoli): reflected, initial value and final XOR all ones. -/
def crc32c (bytes : List Byte) : Nat := bytes.foldl (crcRByte 0x82F63B78) 0xFFFFFFFF ^^^ 0xFFFFFFFF

/-! ## GF(2^8) of R154 -/

/-- Multiply by α = 2 modulo 0x11D. -/
def gfDouble (a : Nat) : Nat := if a < 128 then 2 * a else (2 * a) ^^^ 0x11D

/-- Multiplication in GF(2^8) with the polynomial 0x11D. -/
def gfMul (a b : Nat) : Nat :=
  ((List.range 8).foldl (fun (s : Nat × Nat) i => (if (b >>> i) % 2 = 1 then s.1 ^^^ s.2 else s.1, gfDouble s.2)) (0, a)).1

/-- α^n. -/
def gfExp (n : Nat) : Nat := (List.range (n % 255)).foldl (fun a _ => gfDouble a) 1

/-- The inverse a^254. -/
def gfInv (a : Nat) : Nat :=
  let a2 := gfMul a a
  let a4 := gfMul a2 a2
  let a8 := gfMul a4 a4
  let a16 := gfMul a8 a8
  let a32 := gfMul a16 a16
  let a64 := gfMul a32 a32
  let a128 := gfMul a64 a64
  gfMul a2 (gfMul a4 (gfMul a8 (gfMul a16 (gfMul a32 (gfMul a64 a128)))))

/-- Sum of two polynomials, lowest coefficient first. -/
def pAdd : List Nat → List Nat → List Nat
  | [], q => q
  | p, [] => p
  | a :: p, b :: q => (a ^^^ b) :: pAdd p q

/-- A polynomial times a constant. -/
def pScale (c : Nat) (p : List Nat) : List Nat := p.map (gfMul c)

/-- Product of two polynomials. -/
def pMul (p q : List Nat) : List Nat :=
  p.foldr (fun a acc => pAdd (pScale a q) (0 :: acc)) []

/-- The value of a polynomial at `x`. -/
def pEval (p : List Nat) (x : Nat) : Nat := p.foldr (fun a acc => a ^^^ gfMul x acc) 0

/-- The degree of a polynomial, 0 for the zero polynomial. -/
def pDeg (p : List Nat) : Nat := (p.zipIdx.foldl (fun d e => if e.1 = 0 then d else e.2) 0)

/-- The formal derivative in characteristic 2. -/
def pDeriv (p : List Nat) : List Nat := (p.drop 1).zipIdx.map fun e => if e.2 % 2 = 0 then e.1 else 0

/-- The generator (x − α^0)…(x − α^(r−1)) (R154). -/
def rsGen (r : Nat) : List Nat := (List.range r).foldl (fun g i => pMul g [gfExp i, 1]) [1]

/-- The remainder of m(x)·x^r by the generator: the check symbols p_0 … p_(r−1) (R154). -/
def rsCheck (r : Nat) (info : List Nat) : List Nat :=
  let g := (rsGen r).take r
  info.foldr (fun m reg =>
    let fb := m ^^^ (reg.getD (r - 1) 0)
    pAdd (0 :: reg.take (r - 1)) (pScale fb g)) (List.replicate r 0)

/-- The syndromes of a word c_0 … c_(n−1). -/
def rsSyndromes (r : Nat) (c : List Nat) : List Nat := (List.range r).map fun j => pEval c (gfExp j)

/-- The erasure locator of the erased positions. -/
def rsLocator (pos : List Nat) : List Nat := pos.foldl (fun g i => pMul g [1, gfExp i]) [1]

/-- One round of the Berlekamp-Massey iteration with erasures, on (k, L, Λ, B). -/
def rsRound (s : List Nat) (e : Nat) : Nat × Nat × List Nat × List Nat → Nat × Nat × List Nat × List Nat
  | (k, l, lam, b) =>
    let d := (List.range (l + 1)).foldl (fun a i => if i ≤ k - 1 then a ^^^ gfMul (lam.getD i 0) (s.getD (k - 1 - i) 0) else a) 0
    if d = 0 then (k + 1, l, lam, 0 :: b)
    else
      let t := pAdd lam (pScale d (0 :: b))
      if 2 * l ≤ k - 1 + e then (k + 1, k + e - l, t, pScale (gfInv d) lam) else (k + 1, l, t, 0 :: b)

/-- Correct a word of `n` symbols with `r` check symbols, the positions in `erased` known bad and at most `maxErr` other
symbols wrong: the corrected word, or none where no codeword lies within that reach (R158). -/
def rsCorrect (r maxErr : Nat) (erased : List Nat) (c : List Nat) : Option (List Nat) :=
  let s := rsSyndromes r c
  if s.all (· == 0) then some c
  else
    let e := erased.length
    let g := rsLocator erased
    let (_, _, lam, _) := (List.range (r - e)).foldl (fun st _ => rsRound s e st) (e + 1, e, g, g)
    let roots := (List.range c.length).filter fun i => pEval lam (gfExp ((255 - i % 255) % 255)) = 0
    let om := (pMul s lam).take r
    let dl := pDeriv lam
    let c' := c.zipIdx.map fun x =>
      if roots.contains x.2 then
        let xi := gfExp ((255 - x.2 % 255) % 255)
        x.1 ^^^ gfMul (gfExp x.2) (gfMul (pEval om xi) (gfInv (pEval dl xi)))
      else x.1
    let changed := ((c.zip c').zipIdx.filter fun x => x.1.1 != x.1.2 && !erased.contains x.2).length
    if roots.length = pDeg lam && changed ≤ maxErr && (rsSyndromes r c').all (· == 0) then some c' else none

/-! ## The stored word (R153, R154, R168) -/

/-- The 80 symbols s_0 … s_79 of a stored word. -/
def symsOf (w : Stored) : List Nat := (List.range 80).map fun i => (w.toNat >>> (8 * i)) % 256

/-- The stored word of 80 symbols. -/
def ofSyms (l : List Nat) : Stored := BitVec.ofNat 640 (ofBytes (l.map (BitVec.ofNat 8)))

/-- The number of check symbols of a profile (R154). -/
def profR (skim : Bool) : Nat := if skim then 8 else 16

/-- The code word c_0 … c_79 of the symbols: check symbols first, then information symbols (R154). -/
def toCode (skim : Bool) (s : List Nat) : List Nat :=
  if skim then (s.drop 64).take 8 ++ s.take 64 ++ s.drop 72 else s.drop 64 ++ s.take 64

/-- Back to the symbol order of R153. -/
def ofCode (skim : Bool) (c : List Nat) : List Nat :=
  if skim then (c.drop 8).take 64 ++ c.take 8 ++ c.drop 72 else c.drop 16 ++ c.take 16

/-- The code position of symbol `i`. -/
def codePos (skim : Bool) (i : Nat) : Nat :=
  if skim then (if i < 64 then i + 8 else if i < 72 then i - 64 else i) else (if i < 64 then i + 16 else i - 64)

/-- The symbols of a device (R153): eight for a x4 device, sixteen for a x8 device. -/
def deviceSyms (x8 : Bool) (dev : Nat) : List Nat :=
  if x8 then (List.range 16).map (16 * dev + ·) else (List.range 8).map (8 * dev + ·)

/-- Encode 64 data bytes and, in Skim, the eight sideband bytes S[8] to S[15] (R154, R155). -/
def encodeWord (skim : Bool) (data : Line) (side : DWord) : Stored :=
  let d := (List.range 64).map fun i => (data.toNat >>> (8 * i)) % 256
  let sb := (List.range 8).map fun i => (side.toNat >>> (8 * i)) % 256
  let info := if skim then d ++ sb else d
  ofSyms (ofCode skim (rsCheck (profR skim) info ++ info))

/-- The poison mask on the check symbols (R168). -/
def poisonMask (skim : Bool) : List Nat :=
  let m := [0x50, 0x4F, 0x49, 0x53, 0x4F, 0x4E, 0x21, 0xA5, 0x3C, 0xC3, 0x5A, 0x96, 0x69, 0x0F, 0xF0, 0x81]
  if skim then m.take 8 else m

/-- The poison word of a profile (R168). -/
def poisonWord (skim : Bool) : Stored := ofSyms (List.replicate 64 0 ++ poisonMask skim ++ List.replicate (if skim then 8 else 0) 0)

/-- The data bytes of a stored word. -/
def wordData (w : Stored) : Line := w.setWidth 512

/-- The sideband bytes S[8] to S[15]. -/
def wordSide (w : Stored) : DWord := (w >>> 576).setWidth 64

/-- The reach of R158: other symbols corrected, and the erased code positions, for a profile and a marked device. -/
def reachOf (skim : Bool) (marked : Option Nat) : Nat × List Nat :=
  match marked with
  | none => (if skim then 4 else 8, [])
  | some d => (if skim then 0 else 4, (deviceSyms false d).map (codePos skim))

/-- Correct a stored word within the reach of its profile. -/
def correctWord (skim : Bool) (marked : Option Nat) (w : Stored) : Option Stored :=
  let (k, er) := reachOf skim marked
  (rsCorrect (profR skim) k er (toCode skim (symsOf w))).map fun c => ofSyms (ofCode skim c)

/-- The word with the poison mask XORed into its check symbols (R157 step 1). -/
def unmask (skim : Bool) (w : Stored) : Stored :=
  w ^^^ ofSyms (List.replicate 64 0 ++ poisonMask skim ++ List.replicate (if skim then 8 else 0) 0)

/-- What steps 1 and 2 of R157 find. -/
inductive Dec where
  | poison (w : Stored) (corrected : Bool)
  | good (w : Stored) (corrected : Bool)
  | bad
deriving DecidableEq, Repr

/-- What the poison test finds (R157 step 1). With a Skim device erased every word lies within the reach; there only the poison word
itself (R168) is poison, so that stored data within the reach is never taken for it. -/
def poisonTest (skim : Bool) (marked : Option Nat) (u : Stored) : Option Stored :=
  match correctWord skim marked u with
  | some u' => if skim ∧ marked.isSome ∧ u' ≠ 0 then none else some u'
  | none => none

/-- Steps 1 and 2 of R157: the poison test, then correction. -/
def decodeWord (skim : Bool) (marked : Option Nat) (w : Stored) : Dec :=
  let u := unmask skim w
  match poisonTest skim marked u with
  | some u' => .poison (unmask skim u') (u' ≠ u)
  | none =>
    match correctWord skim marked w with
    | some w' => .good w' (w' ≠ w)
    | none => .bad

/-- The symbols a correction changed. -/
def changedSyms (w w' : Stored) : List Nat :=
  ((symsOf w).zip (symsOf w')).zipIdx.filterMap fun x => if x.1.1 = x.1.2 then none else some x.2

end Sys2Proof.Machine
end

