-- ==== Sys2Proof/Machine/RegTable.lean ====
section
/-! DEFINITION. The register window: its 256 pages (R27), the registers of each page with their offsets, access codes,
reset values and holding rules, as the register tables of the chapters give them (R28, R31, R70, R72, R87, R89, R123,
R150, R181, R198, R201, R225, R244, R265, R281, R311, R330, R351, R353, R374, R375, R377, R391, R417, R430, R441, R442, R453). -/

namespace Sys2Proof.Machine

/-- The registers of every page type, named <page><REGISTER>. -/
inductive RName where
  | hdrPageId | hdrPageCaps | hdrRunCtl | hdrRunStat | hdrFaultStat | hdrFaultMask | hdrAccess | hdrEventStat | hdrEventEn
  | pace
  | pgdirPageEntry | pgdirDomainOn | pgdirWinErr | pgdirWinErrCount | pgdirVendor
  | mapCfg | mapLimit | mapRsvBase | mapMissPend | mapChkErrLo | mapChkErrHi
  | stageCfg | stageFlushCtl | stageFlushBase | stageFlushLen | stageFlushStat | stageDirty | stageWbPend
  | dolly0Cfg | dolly0HeatCfg | dolly0Epoch | dolly0ListStat | dolly0MoveStat
  | dolly1CapCfg | dolly1Marks | dolly1Timers | dolly1WaitLimit | dolly1FreePages | dolly1PhysPages
  | dolly1State | dolly1Waiting | dolly1Timeouts
  | packCfg | packEngStat0 | packEngStat1 | packEngFence | packPageErrLo | packPageErrHi | packPageErrCount
  | sealPipeFence | sealPipeStat | sealAccErrLo | sealAccErrHi | sealAccErrCount | sealTagFailCount
  | sealRangeSel | sealRangeBase | sealRangeLen | sealRangeCfg | sealRangeHosts | sealRangeCmd | sealCmdStat
  | sealOpenRights | sealSlotSel | sealSlotStat | sealSweepStat | sealEdgeLo | sealEdgeHi
  | coatEccCfg | coatDevFail0 | coatDevFail1 | coatSandCfg | coatLapLimit | coatLapTime | coatLapStat
  | coatPatchCfg | coatPatchStat | coatSpareUsed | coatFlipMask0 | coatFlipMask1 | coatFlipMask2
  | coatFlipCtl | coatFlipMpaLo | coatFlipMpaHi | coatCorrCount | coatUncorrCount | coatRegionSel
  | coatRegionCfg | coatRegionCmd | coatRegionStat | coatPoisonStat
  | dmcCfg | dmcWqHi | dmcWqLo | dmcTally | dmcSubFence | dmcSubStat | dmcQueueA | dmcQueueB | dmcCaparCount
  | dmcTrefCount | dmcDimmCfg
  | dphyTrainStat | dphyPeriodic
  | dirCfg | dirSnoopLimit | dirOpen | dirStaleCount | dirTimeoutCount | dirPerr | dirPerrLineLo
  | dirPerrLineHi | dirProbeLineLo | dirProbeLineHi | dirProbeCtl | dirProbeEntryLo | dirProbeEntryHi
  | dirDbWinBase | dirDbWinLen | dirGateMap
  | slateWindow | slateFloorCfg | slatePackrd | slatePasidTag | slateFloor | slateCommitStat | slateScale
  | slateCtxSel | slateCtxW | slateCtxW3 | slateCtxCmd | slateFbSel | slateFbBase | slateFbLen | slateFbSlate
  | slateFbCmd | slateCmdStat | slateOverloadCount | slateInvalidCount | slatePortDef | slateClassCfg
  | nmeCfg | nmeLaneStat | nmeRingSel | nmeRingDescLo | nmeRingDescHi | nmeRingCompLo | nmeRingCompHi
  | nmeRingCfg | nmeRingOwner | nmeRingHosts | nmeRingCmd | nmeRingStat | nmeJobCount | nmeDbErr
  | nmeDoorbell
  | hptCfg | hptLinkStat | hptPanic | hptIngress | hptPrbsCtl | hptPrbsSel | hptPrbsErrLo | hptPrbsErrHi
  | hptHistCtl | hptHistCnt | hptHistOfs
  | mwlCfg | mwlLinkStat | mwlDownTime | mwlPanic | mwlTimers | mwlWidthCtl | mwlPrbsCtl | mwlPrbsSel
  | mwlPrbsErrLo | mwlPrbsErrHi | mwlHistCtl | mwlHistCnt | mwlHistOfs | mwlTxCtrLo | mwlTxCtrHi
  | mwlStreamStat | mwlBadFlits | mwlReplays | mwlCcRtx | mwlTagFails | mwlRetrains
  | mwtCfg | mwtRspLimit | mwtSpanSlate | mwtDonorBase | mwtDonorLen | mwtTags | mwtErr | mwtTimeoutCount
  | mwtNoRouteCount | mwtStrayCount | mwtRoute
  | mgtCoreStat | mgtWdogCfg | mgtWdogKick | mgtGateErr | mgtGateErrAddr | mgtFwStat
  | seciPageRights | seciLifecycle | seciDebugEn | seciClaim | seciClaimRefused | seciCoreRelease
  | seciSirqRoute | seciKeyCmd | seciKeySrc | seciKeyStat | seciTestEn
  | timeNowLo | timeNowHi | timeSetLo | timeSetHi | timeStat | timeRatio | timeUncLo | timeUncHi
  | gafferCfg | gafferCap | gafferEst | gafferVcore | gafferGrants | gafferTemp | gafferTempXb | gafferTherm
  | pwrMode | pwrModeReq | pwrReqStat | pwrDomReq | pwrDomStat | pwrWakeEn | pwrWakeSrc | pwrWakeTimer
  | pwrWakeStat | pwrPadStat | pwrPadRelease | pwrMaintLimit | pwrEntryAborts
  | feedCfg | feedTimer | feedWarn | feedLevels | feedStat | feedCtl | feedHoldup | feedRevCount | feedV
  | feedI | feedP | feedELo | feedEHi
  | fltCfg | fltStallLimit | fltStat | fltLossSub | fltLossQ | fltResetCtl | fltResetCfg | fltResetCause
  | fltInj | fltEvtSel | fltEvtCount | fltFeCtl | fltFe | fltEvt | fltAssert | fltLatched | fltSev
  | calCfg | calArea | calStoreStat | calWear | calBadRecords | calNearMiss | calTrimCount | calSlicerSel
  | calSlicerStat | calSlicerScore
  | viewClass | viewClassCtr | viewSetCtr | viewPortOut | viewPortIn
  | daily0SnapCtl | daily0SnapSeq | daily0SnapTimeLo | daily0SnapTimeHi | daily0BwWindow | daily0BwSeq
  | daily0BwHp | daily0BwMp | daily0ViewBind
  | sbiAddr | sbiBootStat | sbiBootDetail | sbiBootMs | sbiProfile
deriving DecidableEq, Repr

/-- One row of a register table: the offset of its first instance, how many there are and how far apart, the reset
value, and the bits each access code of R35 covers. `df` marks the bits that are not reserved; `swReg` a register
whose every write needs the secure world; `persist` a register held through R44; `profile` one that the site profile
loads (R445). -/
structure RegRow where
  off : Nat
  count : Nat
  stride : Nat
  reset : Word
  rw : Word
  cw : Word
  sw : Word
  w1c : Word
  w1s : Word
  wo : Word
  df : Word
  swReg : Bool
  persist : Bool
  profile : Bool
deriving DecidableEq, Repr

/-- The row of each register. -/
def RName.row : RName → RegRow
  | .hdrPageId => ⟨0x0, 1, 0x0, 0x0, 0x0, 0x0, 0x0, 0x0, 0x0, 0x0, 0xFFFFFFFF, false, false, false⟩
  | .hdrPageCaps => ⟨0x4, 1, 0x0, 0x0, 0x0, 0x0, 0x0, 0x0, 0x0, 0x0, 0xFFFFFFFF, false, false, false⟩
  | .hdrRunCtl => ⟨0x8, 1, 0x0, 0x0, 0x0, 0x0, 0x0, 0x0, 0x0, 0xF, 0xF, false, false, false⟩
  | .hdrRunStat => ⟨0xC, 1, 0x0, 0x0, 0x0, 0x0, 0x0, 0x100, 0x0, 0x0, 0x10F, false, false, false⟩
  | .hdrFaultStat => ⟨0x10, 1, 0x0, 0x0, 0x0, 0x0, 0x0, 0xFFFFFFFF, 0x0, 0x0, 0xFFFFFFFF, false, false, false⟩
  | .hdrFaultMask => ⟨0x14, 1, 0x0, 0x0, 0xFFFFFFFF, 0x0, 0x0, 0x0, 0x0, 0x0, 0xFFFFFFFF, false, false, false⟩
  | .hdrAccess => ⟨0x18, 1, 0x0, 0x0, 0x0, 0x0, 0x0, 0x0, 0x0, 0x0, 0xF, false, false, false⟩
  | .hdrEventStat => ⟨0x1C, 1, 0x0, 0x0, 0x0, 0x0, 0x0, 0xFFFFFFFF, 0x0, 0x0, 0xFFFFFFFF, false, false, false⟩
  | .hdrEventEn => ⟨0x20, 1, 0x0, 0x0, 0xFFFFFFFF, 0x0, 0x0, 0x0, 0x0, 0x0, 0xFFFFFFFF, false, false, false⟩
  | .pace => ⟨0x40, 1, 0x0, 0x0, 0x0, 0x0, 0x0, 0x0, 0x0, 0x0, 0x8000FFFF, false, false, false⟩
  | .pgdirPageEntry => ⟨0x40, 256, 0x4, 0x0, 0x0, 0x0, 0x0, 0x0, 0x0, 0x0, 0xFFFFFFFF, false, false, false⟩
  | .pgdirDomainOn => ⟨0x440, 1, 0x0, 0x1, 0x0, 0x0, 0x0, 0x0, 0x0, 0x0, 0xFFFFFFFF, false, false, false⟩
  | .pgdirWinErr => ⟨0x444, 1, 0x0, 0x0, 0x0, 0x0, 0x0, 0x80000000, 0x0, 0x0, 0xFFEFFFFF, false, false, false⟩
  | .pgdirWinErrCount => ⟨0x448, 1, 0x0, 0x0, 0x0, 0x0, 0x0, 0x0, 0x0, 0x0, 0xFFFFFFFF, false, false, false⟩
  | .pgdirVendor => ⟨0x44C, 1, 0x0, 0x0, 0x0, 0x0, 0x0, 0x0, 0x0, 0x0, 0xFFFFFFFF, false, false, false⟩
  | .mapCfg => ⟨0x40, 1, 0x0, 0x7, 0x0, 0x7, 0x0, 0x0, 0x0, 0x0, 0x7, false, false, false⟩
  | .mapLimit => ⟨0x44, 1, 0x0, 0x0, 0x0, 0x0, 0x0, 0x0, 0x0, 0x0, 0xFFFF, false, false, true⟩
  | .mapRsvBase => ⟨0x48, 1, 0x0, 0x0, 0x0, 0x0, 0x0, 0x0, 0x0, 0x0, 0x3FFFFFFF, false, false, false⟩
  | .mapMissPend => ⟨0x4C, 1, 0x0, 0x0, 0x0, 0x0, 0x0, 0x0, 0x0, 0x0, 0x7F, false, false, false⟩
  | .mapChkErrLo => ⟨0x50, 1, 0x0, 0x0, 0x0, 0x0, 0x0, 0x0, 0x0, 0x0, 0xFFFFFFFF, false, false, false⟩
  | .mapChkErrHi => ⟨0x54, 1, 0x0, 0x0, 0x0, 0x0, 0x0, 0x80000000, 0x0, 0x0, 0x80000001, false, false, false⟩
  | .stageCfg => ⟨0x40, 1, 0x0, 0xFFFF0000, 0x0, 0xFFFF0001, 0x0, 0x0, 0x0, 0x0, 0xFFFF0001, false, false, false⟩
  | .stageFlushCtl => ⟨0x44, 1, 0x0, 0x0, 0x3, 0x0, 0x0, 0x0, 0x0, 0x80000000, 0x80000003, false, false, false⟩
  | .stageFlushBase => ⟨0x48, 1, 0x0, 0x0, 0xFFFFFF, 0x0, 0x0, 0x0, 0x0, 0x0, 0xFFFFFF, false, false, false⟩
  | .stageFlushLen => ⟨0x4C, 1, 0x0, 0x0, 0x1FFFFFF, 0x0, 0x0, 0x0, 0x0, 0x0, 0x1FFFFFF, false, false, false⟩
  | .stageFlushStat => ⟨0x50, 1, 0x0, 0x0, 0x0, 0x0, 0x0, 0x6, 0x0, 0x0, 0x7, false, false, false⟩
  | .stageDirty => ⟨0x54, 1, 0x0, 0x0, 0x0, 0x0, 0x0, 0x0, 0x0, 0x0, 0x3FFFF, false, false, false⟩
  | .stageWbPend => ⟨0x58, 1, 0x0, 0x0, 0x0, 0x0, 0x0, 0x0, 0x0, 0x0, 0x7F, false, false, false⟩
  | .dolly0Cfg => ⟨0x40, 1, 0x0, 0x1, 0x0, 0x3, 0x0, 0x0, 0x0, 0x0, 0x3, false, false, false⟩
  | .dolly0HeatCfg => ⟨0x44, 1, 0x0, 0x804026, 0x0, 0xFFFFFF, 0x0, 0x0, 0x0, 0x0, 0xFFFFFF, false, false, false⟩
  | .dolly0Epoch => ⟨0x48, 1, 0x0, 0x3E8, 0x0, 0xFFFF, 0x0, 0x0, 0x0, 0x0, 0xFFFF, false, false, false⟩
  | .dolly0ListStat => ⟨0x50, 4, 0x4, 0x0, 0x0, 0x0, 0x0, 0x0, 0x0, 0x0, 0x3FF03FF, false, false, false⟩
  | .dolly0MoveStat => ⟨0x60, 4, 0x4, 0x0, 0x0, 0x0, 0x0, 0x0, 0x0, 0x0, 0xF, false, false, false⟩
  | .dolly1CapCfg => ⟨0x40, 1, 0x0, 0x0, 0x0, 0xFFFF0001, 0x0, 0x0, 0x0, 0x0, 0xFFFF0001, false, false, true⟩
  | .dolly1Marks => ⟨0x44, 1, 0x0, 0x500281E, 0x0, 0x3FF003FF, 0x0, 0x0, 0x0, 0x0, 0x3FFFFFFF, false, false, false⟩
  | .dolly1Timers => ⟨0x48, 1, 0x0, 0x138803E8, 0x0, 0xFFFFFFFF, 0x0, 0x0, 0x0, 0x0, 0xFFFFFFFF, false, false, false⟩
  | .dolly1WaitLimit => ⟨0x4C, 1, 0x0, 0xA, 0x0, 0x3FF, 0x0, 0x0, 0x0, 0x0, 0x3FF, false, false, false⟩
  | .dolly1FreePages => ⟨0x50, 4, 0x4, 0x0, 0x0, 0x0, 0x0, 0x0, 0x0, 0x0, 0xFFFFFFFF, false, false, false⟩
  | .dolly1PhysPages => ⟨0x60, 4, 0x4, 0x0, 0x0, 0x0, 0x0, 0x0, 0x0, 0x0, 0xFFFFFFFF, false, false, false⟩
  | .dolly1State => ⟨0x70, 1, 0x0, 0x0, 0x0, 0x0, 0x0, 0x0, 0x0, 0x0, 0x7FFFFF, false, false, false⟩
  | .dolly1Waiting => ⟨0x74, 1, 0x0, 0x0, 0x0, 0x0, 0x0, 0x0, 0x0, 0x0, 0xFFFF, false, false, false⟩
  | .dolly1Timeouts => ⟨0x78, 1, 0x0, 0x0, 0x0, 0x0, 0x0, 0x0, 0x0, 0x0, 0xFFFFFFFF, false, true, false⟩
  | .packCfg => ⟨0x40, 1, 0x0, 0x33, 0x0, 0x37, 0x0, 0x0, 0x0, 0x0, 0x37, false, false, false⟩
  | .packEngStat0 => ⟨0x44, 1, 0x0, 0x0, 0x0, 0x0, 0x0, 0x0, 0x0, 0x0, 0x77, false, false, false⟩
  | .packEngStat1 => ⟨0x48, 1, 0x0, 0x0, 0x0, 0x0, 0x0, 0x0, 0x0, 0x0, 0x77, false, false, false⟩
  | .packEngFence => ⟨0x4C, 1, 0x0, 0x0, 0x0, 0x0, 0x0, 0x0, 0x3, 0x0, 0x3, false, false, false⟩
  | .packPageErrLo => ⟨0x50, 1, 0x0, 0x0, 0x0, 0x0, 0x0, 0x0, 0x0, 0x0, 0xFFFFFFFF, false, false, false⟩
  | .packPageErrHi => ⟨0x54, 1, 0x0, 0x0, 0x0, 0x0, 0x0, 0x80000000, 0x0, 0x0, 0x80000001, false, false, false⟩
  | .packPageErrCount => ⟨0x58, 1, 0x0, 0x0, 0x0, 0x0, 0x0, 0x0, 0x0, 0x0, 0xFFFFFFFF, false, true, false⟩
  | .sealPipeFence => ⟨0x40, 1, 0x0, 0x0, 0x0, 0x0, 0x0, 0x0, 0xF, 0x0, 0xF, false, false, false⟩
  | .sealPipeStat => ⟨0x44, 1, 0x0, 0x0, 0x0, 0x0, 0x0, 0x0, 0x0, 0x0, 0xFF, false, false, false⟩
  | .sealAccErrLo => ⟨0x48, 1, 0x0, 0x0, 0x0, 0x0, 0x0, 0x0, 0x0, 0x0, 0xFFFFFFFF, false, false, false⟩
  | .sealAccErrHi => ⟨0x4C, 1, 0x0, 0x0, 0x0, 0x0, 0x0, 0x80000000, 0x0, 0x0, 0x83FFFFFF, false, false, false⟩
  | .sealAccErrCount => ⟨0x50, 1, 0x0, 0x0, 0x0, 0x0, 0x0, 0x0, 0x0, 0x0, 0xFFFFFFFF, false, true, false⟩
  | .sealTagFailCount => ⟨0x54, 1, 0x0, 0x0, 0x0, 0x0, 0x0, 0x0, 0x0, 0x0, 0xFFFFFFFF, false, true, false⟩
  | .sealRangeSel => ⟨0x80, 1, 0x0, 0x0, 0x0, 0x0, 0x3F, 0x0, 0x0, 0x0, 0x3F, true, false, false⟩
  | .sealRangeBase => ⟨0x84, 1, 0x0, 0x0, 0x0, 0x0, 0xFFFFFF, 0x0, 0x0, 0x0, 0xFFFFFF, true, false, false⟩
  | .sealRangeLen => ⟨0x88, 1, 0x0, 0x0, 0x0, 0x0, 0x1FFFFFF, 0x0, 0x0, 0x0, 0x1FFFFFF, true, false, false⟩
  | .sealRangeCfg => ⟨0x8C, 1, 0x0, 0x0, 0x0, 0x0, 0xF7F7F, 0x0, 0x0, 0x0, 0x73F7F7F, true, false, false⟩
  | .sealRangeHosts => ⟨0x90, 1, 0x0, 0x0, 0x0, 0x0, 0xFFFF, 0x0, 0x0, 0x0, 0xFFFF, true, false, false⟩
  | .sealRangeCmd => ⟨0x94, 1, 0x0, 0x0, 0x0, 0x0, 0x7, 0x0, 0x0, 0x0, 0x7, true, false, false⟩
  | .sealCmdStat => ⟨0x98, 1, 0x0, 0x0, 0x0, 0x0, 0x0, 0x0, 0x0, 0x0, 0x3FF, false, false, false⟩
  | .sealOpenRights => ⟨0x9C, 1, 0x0, 0x0, 0x0, 0x0, 0x7FFFF, 0x0, 0x0, 0x0, 0x7FFFF, true, true, false⟩
  | .sealSlotSel => ⟨0xA0, 1, 0x0, 0x0, 0x0, 0x0, 0x7F, 0x0, 0x0, 0x0, 0x7F, true, false, false⟩
  | .sealSlotStat => ⟨0xA4, 1, 0x0, 0x0, 0x0, 0x0, 0x0, 0x0, 0x0, 0x0, 0xFFFF0003, false, false, false⟩
  | .sealSweepStat => ⟨0xB0, 4, 0x4, 0x0, 0x0, 0x0, 0x0, 0x0, 0x0, 0x0, 0xFFF, false, true, false⟩
  | .sealEdgeLo => ⟨0xC0, 16, 0x8, 0x0, 0x0, 0x0, 0x0, 0x0, 0x0, 0x0, 0xFFFFFFFF, false, true, false⟩
  | .sealEdgeHi => ⟨0xC4, 16, 0x8, 0x0, 0x0, 0x0, 0x0, 0x0, 0x0, 0x0, 0x1, false, true, false⟩
  | .coatEccCfg => ⟨0x40, 1, 0x0, 0x110, 0x0, 0x1FF, 0x0, 0x0, 0x0, 0x0, 0x1FF, false, false, false⟩
  | .coatDevFail0 => ⟨0x44, 1, 0x0, 0x0, 0xFFFFFFFF, 0x0, 0x0, 0x0, 0x0, 0x0, 0xFFFFFFFF, false, true, false⟩
  | .coatDevFail1 => ⟨0x48, 1, 0x0, 0x0, 0xFFFFFFFF, 0x0, 0x0, 0x0, 0x0, 0x0, 0xFFFFFFFF, false, true, false⟩
  | .coatSandCfg => ⟨0x4C, 1, 0x0, 0x101, 0x0, 0xFF01, 0x0, 0x0, 0x0, 0x0, 0xFF01, false, false, false⟩
  | .coatLapLimit => ⟨0x50, 1, 0x0, 0x18, 0x0, 0xFFFF, 0x0, 0x0, 0x0, 0x0, 0xFFFF, false, false, false⟩
  | .coatLapTime => ⟨0x54, 1, 0x0, 0x0, 0x0, 0x0, 0x0, 0x0, 0x0, 0x0, 0xFFFFFFFF, false, false, false⟩
  | .coatLapStat => ⟨0x58, 1, 0x0, 0x0, 0x0, 0x0, 0x0, 0x0, 0x0, 0x0, 0xFFFF0001, false, false, false⟩
  | .coatPatchCfg => ⟨0x5C, 1, 0x0, 0x1071804, 0x0, 0x1FFFF07, 0x0, 0x0, 0x0, 0x0, 0x1FFFF07, false, false, false⟩
  | .coatPatchStat => ⟨0x60, 1, 0x0, 0x0, 0x0, 0x0, 0x0, 0x0, 0x0, 0x0, 0xFFFF01FF, false, false, false⟩
  | .coatSpareUsed => ⟨0x64, 4, 0x4, 0x0, 0x0, 0x0, 0x0, 0x0, 0x0, 0x0, 0x7FFF, false, false, false⟩
  | .coatFlipMask0 => ⟨0x74, 1, 0x0, 0x0, 0xFFFFFFFF, 0x0, 0x0, 0x0, 0x0, 0x0, 0xFFFFFFFF, false, false, false⟩
  | .coatFlipMask1 => ⟨0x78, 1, 0x0, 0x0, 0xFFFFFFFF, 0x0, 0x0, 0x0, 0x0, 0x0, 0xFFFFFFFF, false, false, false⟩
  | .coatFlipMask2 => ⟨0x7C, 1, 0x0, 0xFF0000, 0xFFFFFF, 0x0, 0x0, 0x0, 0x0, 0x0, 0xFFFFFF, false, false, false⟩
  | .coatFlipCtl => ⟨0x80, 1, 0x0, 0x0, 0x80000007, 0x0, 0x0, 0x40000000, 0x0, 0x0, 0xC0000007, false, false, false⟩
  | .coatFlipMpaLo => ⟨0x84, 1, 0x0, 0x0, 0x0, 0x0, 0x0, 0x0, 0x0, 0x0, 0xFFFFFFFF, false, false, false⟩
  | .coatFlipMpaHi => ⟨0x88, 1, 0x0, 0x0, 0x0, 0x0, 0x0, 0x0, 0x0, 0x0, 0x3FF, false, false, false⟩
  | .coatCorrCount => ⟨0x8C, 1, 0x0, 0x0, 0x0, 0x0, 0x0, 0x0, 0x0, 0x0, 0xFFFFFFFF, false, true, false⟩
  | .coatUncorrCount => ⟨0x90, 1, 0x0, 0x0, 0x0, 0x0, 0x0, 0x0, 0x0, 0x0, 0xFFFFFFFF, false, true, false⟩
  | .coatRegionSel => ⟨0xC0, 1, 0x0, 0x0, 0x7FFF, 0x0, 0x0, 0x0, 0x0, 0x0, 0x7FFF, false, false, false⟩
  | .coatRegionCfg => ⟨0xC4, 1, 0x0, 0x0, 0x3, 0x0, 0x0, 0x0, 0x0, 0x0, 0x3, false, false, false⟩
  | .coatRegionCmd => ⟨0xC8, 1, 0x0, 0x0, 0x0, 0x0, 0x0, 0x0, 0x0, 0x1, 0x1, false, false, false⟩
  | .coatRegionStat => ⟨0xCC, 1, 0x0, 0x0, 0x0, 0x0, 0x0, 0x0, 0x0, 0x0, 0xF, false, false, false⟩
  | .coatPoisonStat => ⟨0xD0, 1, 0x0, 0x0, 0x0, 0x0, 0x0, 0x80000000, 0x0, 0x0, 0x80001FFF, false, false, false⟩
  | .dmcCfg => ⟨0x40, 1, 0x0, 0x384100, 0x0, 0x3F7FF3, 0x0, 0x0, 0x0, 0x0, 0x3F7FF3, false, false, false⟩
  | .dmcWqHi => ⟨0x44, 1, 0x0, 0x30, 0x0, 0x7F, 0x0, 0x0, 0x0, 0x0, 0x7F, false, false, false⟩
  | .dmcWqLo => ⟨0x48, 1, 0x0, 0x10, 0x0, 0x7F, 0x0, 0x0, 0x0, 0x0, 0x7F, false, false, false⟩
  | .dmcTally => ⟨0x4C, 1, 0x0, 0x20400, 0x0, 0x3FFFF, 0x0, 0x0, 0x0, 0x0, 0x3FFFF, false, false, false⟩
  | .dmcSubFence => ⟨0x50, 1, 0x0, 0x0, 0x0, 0x0, 0x0, 0x0, 0x3, 0x0, 0x3, false, false, false⟩
  | .dmcSubStat => ⟨0x54, 1, 0x0, 0x0, 0x0, 0x0, 0x0, 0x0, 0x0, 0x0, 0x1FF, false, false, false⟩
  | .dmcQueueA => ⟨0x58, 1, 0x0, 0x0, 0x0, 0x0, 0x0, 0x0, 0x0, 0x0, 0x7F00FF, false, false, false⟩
  | .dmcQueueB => ⟨0x5C, 1, 0x0, 0x0, 0x0, 0x0, 0x0, 0x0, 0x0, 0x0, 0x7F00FF, false, false, false⟩
  | .dmcCaparCount => ⟨0x60, 1, 0x0, 0x0, 0x0, 0x0, 0x0, 0x0, 0x0, 0x0, 0xFFFFFFFF, false, true, false⟩
  | .dmcTrefCount => ⟨0x64, 1, 0x0, 0x0, 0x0, 0x0, 0x0, 0x0, 0x0, 0x0, 0xFFFFFFFF, false, true, false⟩
  | .dmcDimmCfg => ⟨0x68, 1, 0x0, 0x0, 0x0, 0x0, 0x0, 0x0, 0x0, 0x0, 0xFFFFFF, false, false, false⟩
  | .dphyTrainStat => ⟨0x40, 1, 0x0, 0x0, 0x0, 0x0, 0x0, 0x0, 0x0, 0x0, 0x7FF, false, false, false⟩
  | .dphyPeriodic => ⟨0x44, 1, 0x0, 0x800064, 0x0, 0xFFFFFFFF, 0x0, 0x0, 0x0, 0x0, 0xFFFFFFFF, false, false, false⟩
  | .dirCfg => ⟨0x40, 1, 0x0, 0x1400, 0x0, 0xFF03, 0x0, 0x0, 0x0, 0x0, 0xFF03, false, false, false⟩
  | .dirSnoopLimit => ⟨0x44, 1, 0x0, 0x3E8, 0x0, 0xFFFF, 0x0, 0x0, 0x0, 0x0, 0xFFFF, false, false, false⟩
  | .dirOpen => ⟨0x48, 1, 0x0, 0x0, 0x0, 0x0, 0x0, 0x0, 0x0, 0x0, 0xFFF, false, false, false⟩
  | .dirStaleCount => ⟨0x4C, 1, 0x0, 0x0, 0x0, 0x0, 0x0, 0x0, 0x0, 0x0, 0xFFFFFFFF, false, true, false⟩
  | .dirTimeoutCount => ⟨0x50, 1, 0x0, 0x0, 0x0, 0x0, 0x0, 0x0, 0x0, 0x0, 0xFFFFFFFF, false, true, false⟩
  | .dirPerr => ⟨0x54, 1, 0x0, 0x0, 0x0, 0x0, 0x0, 0x80000000, 0x0, 0x0, 0x8000FFFF, false, false, false⟩
  | .dirPerrLineLo => ⟨0x58, 1, 0x0, 0x0, 0x0, 0x0, 0x0, 0x0, 0x0, 0x0, 0xFFFFFFFF, false, false, false⟩
  | .dirPerrLineHi => ⟨0x5C, 1, 0x0, 0x0, 0x0, 0x0, 0x0, 0x0, 0x0, 0x0, 0x7F, false, false, false⟩
  | .dirProbeLineLo => ⟨0x60, 1, 0x0, 0x0, 0xFFFFFFFF, 0x0, 0x0, 0x0, 0x0, 0x0, 0xFFFFFFFF, false, false, false⟩
  | .dirProbeLineHi => ⟨0x64, 1, 0x0, 0x0, 0x7F, 0x0, 0x0, 0x0, 0x0, 0x0, 0x7F, false, false, false⟩
  | .dirProbeCtl => ⟨0x68, 1, 0x0, 0x0, 0x0, 0x0, 0x0, 0x0, 0x0, 0x1, 0xF, false, false, false⟩
  | .dirProbeEntryLo => ⟨0x6C, 1, 0x0, 0x0, 0x0, 0x0, 0x0, 0x0, 0x0, 0x0, 0xFFFFFFFF, false, false, false⟩
  | .dirProbeEntryHi => ⟨0x70, 1, 0x0, 0x0, 0x0, 0x0, 0x0, 0x0, 0x0, 0x0, 0xFFFFFFFF, false, false, false⟩
  | .dirDbWinBase => ⟨0x80, 16, 0x8, 0x0, 0x0, 0x0, 0x0, 0x0, 0x0, 0x0, 0x80FFFFFF, false, false, true⟩
  | .dirDbWinLen => ⟨0x84, 16, 0x8, 0x0, 0x0, 0x0, 0x0, 0x0, 0x0, 0x0, 0x1FFFFFF, false, false, true⟩
  | .dirGateMap => ⟨0x100, 4, 0x4, 0xE4E4E4E4, 0x0, 0x0, 0x0, 0x0, 0x0, 0x0, 0xFFFFFFFF, false, false, true⟩
  | .slateWindow => ⟨0x40, 1, 0x0, 0x14, 0x0, 0x3FF, 0x0, 0x0, 0x0, 0x0, 0x3FF, false, false, false⟩
  | .slateFloorCfg => ⟨0x44, 1, 0x0, 0x12C0334, 0x0, 0x3FF03FF, 0x0, 0x0, 0x0, 0x0, 0x3FF03FF, false, false, false⟩
  | .slatePackrd => ⟨0x48, 1, 0x0, 0x108, 0x0, 0x1FF, 0x0, 0x0, 0x0, 0x0, 0x1FF, false, false, false⟩
  | .slatePasidTag => ⟨0x4C, 1, 0x0, 0x0, 0x0, 0xFFFFFFFF, 0x0, 0x0, 0x0, 0x0, 0xFFFFFFFF, false, false, false⟩
  | .slateFloor => ⟨0x50, 1, 0x0, 0x0, 0x0, 0x0, 0x0, 0x0, 0x0, 0x0, 0xFFFFFFFF, false, false, false⟩
  | .slateCommitStat => ⟨0x54, 1, 0x0, 0x0, 0x0, 0x0, 0x0, 0x0, 0x0, 0x0, 0x7FFFF, false, false, false⟩
  | .slateScale => ⟨0x58, 1, 0x0, 0x10000, 0x0, 0x0, 0x0, 0x0, 0x0, 0x0, 0x1FFFF, false, false, false⟩
  | .slateCtxSel => ⟨0x5C, 1, 0x0, 0x0, 0x3FFFF, 0x0, 0x0, 0x0, 0x0, 0x0, 0x3FFFF, false, false, false⟩
  | .slateCtxW => ⟨0x60, 3, 0x4, 0x0, 0x0, 0x0, 0xFFFFFFFF, 0x0, 0x0, 0x0, 0xFFFFFFFF, true, false, false⟩
  | .slateCtxW3 => ⟨0x6C, 1, 0x0, 0x0, 0xFFFFFFFF, 0x0, 0x0, 0x0, 0x0, 0x0, 0xFFFFFFFF, false, false, false⟩
  | .slateCtxCmd => ⟨0x70, 1, 0x0, 0x0, 0x0, 0x0, 0x0, 0x0, 0x0, 0x3, 0x3, false, false, false⟩
  | .slateFbSel => ⟨0x74, 1, 0x0, 0x0, 0xFFF, 0x0, 0x0, 0x0, 0x0, 0x0, 0xFFF, false, false, false⟩
  | .slateFbBase => ⟨0x78, 1, 0x0, 0x0, 0x8FFFFFFF, 0x0, 0x0, 0x0, 0x0, 0x0, 0x8FFFFFFF, false, false, false⟩
  | .slateFbLen => ⟨0x7C, 1, 0x0, 0x0, 0x1FFFFFF, 0x0, 0x0, 0x0, 0x0, 0x0, 0x1FFFFFF, false, false, false⟩
  | .slateFbSlate => ⟨0x80, 1, 0x0, 0x0, 0x3FFFF, 0x0, 0x0, 0x0, 0x0, 0x0, 0x3FFFF, false, false, false⟩
  | .slateFbCmd => ⟨0x84, 1, 0x0, 0x0, 0x0, 0x0, 0x0, 0x0, 0x0, 0x3, 0x3, false, false, false⟩
  | .slateCmdStat => ⟨0x88, 1, 0x0, 0x0, 0x0, 0x0, 0x0, 0x0, 0x0, 0x0, 0x7, false, false, false⟩
  | .slateOverloadCount => ⟨0x8C, 1, 0x0, 0x0, 0x0, 0x0, 0x0, 0x0, 0x0, 0x0, 0xFFFFFFFF, false, true, false⟩
  | .slateInvalidCount => ⟨0x90, 1, 0x0, 0x0, 0x0, 0x0, 0x0, 0x0, 0x0, 0x0, 0xFFFFFFFF, false, true, false⟩
  | .slatePortDef => ⟨0xC0, 16, 0x4, 0x0, 0x0, 0x3FFFF, 0x0, 0x0, 0x0, 0x0, 0x3FFFF, false, false, false⟩
  | .slateClassCfg => ⟨0x100, 64, 0x4, 0x1000, 0x0, 0xFFFFF, 0x0, 0x0, 0x0, 0x0, 0xFFFFF, false, false, false⟩
  | .nmeCfg => ⟨0x40, 1, 0x0, 0xFF, 0x0, 0xFF, 0x0, 0x0, 0x0, 0x0, 0xFF, false, false, false⟩
  | .nmeLaneStat => ⟨0x44, 1, 0x0, 0x0, 0x0, 0x0, 0x0, 0x0, 0x0, 0x0, 0x7FFF, false, false, false⟩
  | .nmeRingSel => ⟨0x48, 1, 0x0, 0x0, 0xFF, 0x0, 0x0, 0x0, 0x0, 0x0, 0xFF, false, false, false⟩
  | .nmeRingDescLo => ⟨0x4C, 1, 0x0, 0x0, 0xFFFFFFFF, 0x0, 0x0, 0x0, 0x0, 0x0, 0xFFFFFFFF, false, false, false⟩
  | .nmeRingDescHi => ⟨0x50, 1, 0x0, 0x0, 0x1, 0x0, 0x0, 0x0, 0x0, 0x0, 0x1, false, false, false⟩
  | .nmeRingCompLo => ⟨0x54, 1, 0x0, 0x0, 0xFFFFFFFF, 0x0, 0x0, 0x0, 0x0, 0x0, 0xFFFFFFFF, false, false, false⟩
  | .nmeRingCompHi => ⟨0x58, 1, 0x0, 0x0, 0x1, 0x0, 0x0, 0x0, 0x0, 0x0, 0x1, false, false, false⟩
  | .nmeRingCfg => ⟨0x5C, 1, 0x0, 0x4, 0xFFFF001F, 0x0, 0x0, 0x0, 0x0, 0x0, 0xFFFF001F, false, false, false⟩
  | .nmeRingOwner => ⟨0x60, 1, 0x0, 0x0, 0x0, 0x0, 0x3FFFF, 0x0, 0x0, 0x0, 0x3FFFF, true, false, false⟩
  | .nmeRingHosts => ⟨0x64, 1, 0x0, 0x0, 0x0, 0x0, 0xFFFF, 0x0, 0x0, 0x0, 0xFFFF, true, false, false⟩
  | .nmeRingCmd => ⟨0x68, 1, 0x0, 0x0, 0x0, 0x0, 0x0, 0x0, 0x0, 0x7, 0x7, false, false, false⟩
  | .nmeRingStat => ⟨0x6C, 1, 0x0, 0x0, 0x0, 0x0, 0x0, 0x0, 0x0, 0x0, 0xFFFF003F, false, false, false⟩
  | .nmeJobCount => ⟨0x70, 1, 0x0, 0x0, 0x0, 0x0, 0x0, 0x0, 0x0, 0x0, 0xFFFFFFFF, false, true, false⟩
  | .nmeDbErr => ⟨0x74, 1, 0x0, 0x0, 0x0, 0x0, 0x0, 0x80000000, 0x0, 0x0, 0xFFFFFFFF, false, false, false⟩
  | .nmeDoorbell => ⟨0x400, 256, 0x4, 0x0, 0xFFFF, 0x0, 0x0, 0x0, 0x0, 0x0, 0xFFFFFFFF, false, false, false⟩
  | .hptCfg => ⟨0x40, 1, 0x0, 0x18, 0x0, 0x0, 0x0, 0x0, 0x0, 0x0, 0x3F, false, false, true⟩
  | .hptLinkStat => ⟨0x44, 2, 0x4, 0x0, 0x0, 0x0, 0x0, 0x0, 0x0, 0x0, 0x1FFFF, false, false, false⟩
  | .hptPanic => ⟨0x4C, 2, 0x4, 0x3010, 0x0, 0x13F3F, 0x0, 0x0, 0x0, 0x0, 0x13F3F, false, false, false⟩
  | .hptIngress => ⟨0x54, 1, 0x0, 0x0, 0x0, 0x0, 0x0, 0x0, 0x0, 0x0, 0x3FF03FF, false, false, false⟩
  | .hptPrbsCtl => ⟨0x58, 1, 0x0, 0x0, 0x0, 0x1F, 0x0, 0x0, 0x0, 0x0, 0x1F, false, false, false⟩
  | .hptPrbsSel => ⟨0x5C, 1, 0x0, 0x0, 0x7, 0x0, 0x0, 0x0, 0x0, 0x0, 0x7, false, false, false⟩
  | .hptPrbsErrLo => ⟨0x60, 1, 0x0, 0x0, 0x0, 0x0, 0x0, 0x0, 0x0, 0x0, 0xFFFFFFFF, false, false, false⟩
  | .hptPrbsErrHi => ⟨0x64, 1, 0x0, 0x0, 0x0, 0x0, 0x0, 0x0, 0x0, 0x0, 0x8000FFFF, false, false, false⟩
  | .hptHistCtl => ⟨0x68, 1, 0x0, 0x0, 0xF7, 0x0, 0x0, 0x0, 0x0, 0x80000000, 0xC00000F7, false, false, false⟩
  | .hptHistCnt => ⟨0x6C, 4, 0x4, 0x0, 0x0, 0x0, 0x0, 0x0, 0x0, 0x0, 0xFFFFFFFF, false, false, false⟩
  | .hptHistOfs => ⟨0x7C, 1, 0x0, 0x0, 0x0, 0x0, 0x0, 0x0, 0x0, 0x0, 0xFFFFFFFF, false, false, false⟩
  | .mwlCfg => ⟨0x40, 1, 0x0, 0x2800, 0x0, 0x3F03, 0x0, 0x0, 0x0, 0x0, 0x3F3F03, false, false, true⟩
  | .mwlLinkStat => ⟨0x44, 1, 0x0, 0x0, 0x0, 0x0, 0x0, 0x0, 0x0, 0x0, 0x3FFFFFF, false, false, false⟩
  | .mwlDownTime => ⟨0x48, 1, 0x0, 0x64, 0x0, 0x3FFF, 0x0, 0x0, 0x0, 0x0, 0x3FFF, false, false, false⟩
  | .mwlPanic => ⟨0x4C, 1, 0x0, 0x3010, 0x0, 0x13F3F, 0x0, 0x0, 0x0, 0x0, 0x13F3F, false, false, false⟩
  | .mwlTimers => ⟨0x50, 1, 0x0, 0xA080410, 0x0, 0xFFFFFFFF, 0x0, 0x0, 0x0, 0x0, 0xFFFFFFFF, false, false, false⟩
  | .mwlWidthCtl => ⟨0x54, 1, 0x0, 0xFF, 0xFF, 0x0, 0x0, 0x0, 0x0, 0xC0000000, 0xC00000FF, false, false, false⟩
  | .mwlPrbsCtl => ⟨0x58, 1, 0x0, 0x0, 0x0, 0x1F, 0x0, 0x0, 0x0, 0x0, 0x1F, false, false, false⟩
  | .mwlPrbsSel => ⟨0x5C, 1, 0x0, 0x0, 0x7, 0x0, 0x0, 0x0, 0x0, 0x0, 0x7, false, false, false⟩
  | .mwlPrbsErrLo => ⟨0x60, 1, 0x0, 0x0, 0x0, 0x0, 0x0, 0x0, 0x0, 0x0, 0xFFFFFFFF, false, false, false⟩
  | .mwlPrbsErrHi => ⟨0x64, 1, 0x0, 0x0, 0x0, 0x0, 0x0, 0x0, 0x0, 0x0, 0x8000FFFF, false, false, false⟩
  | .mwlHistCtl => ⟨0x68, 1, 0x0, 0x0, 0xF7, 0x0, 0x0, 0x0, 0x0, 0x80000000, 0xC00000F7, false, false, false⟩
  | .mwlHistCnt => ⟨0x6C, 4, 0x4, 0x0, 0x0, 0x0, 0x0, 0x0, 0x0, 0x0, 0xFFFFFFFF, false, false, false⟩
  | .mwlHistOfs => ⟨0x7C, 1, 0x0, 0x0, 0x0, 0x0, 0x0, 0x0, 0x0, 0x0, 0xFFFFFFFF, false, false, false⟩
  | .mwlTxCtrLo => ⟨0x80, 1, 0x0, 0x0, 0x0, 0x0, 0x0, 0x0, 0x0, 0x0, 0xFFFFFFFF, false, false, false⟩
  | .mwlTxCtrHi => ⟨0x84, 1, 0x0, 0x0, 0x0, 0x0, 0x0, 0x0, 0x0, 0x0, 0xFFFFFFFF, false, false, false⟩
  | .mwlStreamStat => ⟨0x88, 1, 0x0, 0x0, 0x0, 0x0, 0x0, 0x0, 0x0, 0x0, 0x7FFF03FF, false, false, false⟩
  | .mwlBadFlits => ⟨0x8C, 1, 0x0, 0x0, 0x0, 0x0, 0x0, 0x0, 0x0, 0x0, 0xFFFFFFFF, false, true, false⟩
  | .mwlReplays => ⟨0x90, 1, 0x0, 0x0, 0x0, 0x0, 0x0, 0x0, 0x0, 0x0, 0xFFFFFFFF, false, true, false⟩
  | .mwlCcRtx => ⟨0x94, 1, 0x0, 0x0, 0x0, 0x0, 0x0, 0x0, 0x0, 0x0, 0xFFFFFFFF, false, true, false⟩
  | .mwlTagFails => ⟨0x98, 1, 0x0, 0x0, 0x0, 0x0, 0x0, 0x0, 0x0, 0x0, 0xFFFFFFFF, false, true, false⟩
  | .mwlRetrains => ⟨0x9C, 1, 0x0, 0x0, 0x0, 0x0, 0x0, 0x0, 0x0, 0x0, 0xFFFFFFFF, false, true, false⟩
  | .mwtCfg => ⟨0x40, 1, 0x0, 0x0, 0x0, 0x0, 0x0, 0x0, 0x0, 0x0, 0x3F, false, false, true⟩
  | .mwtRspLimit => ⟨0x44, 1, 0x0, 0x3E8, 0x0, 0xFFFF, 0x0, 0x0, 0x0, 0x0, 0xFFFF, false, false, false⟩
  | .mwtSpanSlate => ⟨0x48, 1, 0x0, 0x0, 0x0, 0x3FFFF, 0x0, 0x0, 0x0, 0x0, 0x3FFFF, false, false, false⟩
  | .mwtDonorBase => ⟨0x4C, 1, 0x0, 0x0, 0x0, 0x0, 0x0, 0x0, 0x0, 0x0, 0x80FFFFFF, false, false, true⟩
  | .mwtDonorLen => ⟨0x50, 1, 0x0, 0x0, 0x0, 0x0, 0x0, 0x0, 0x0, 0x0, 0x1FFFFFF, false, false, true⟩
  | .mwtTags => ⟨0x54, 1, 0x0, 0x0, 0x0, 0x0, 0x0, 0x0, 0x0, 0x0, 0x1FFF, false, false, false⟩
  | .mwtErr => ⟨0x58, 1, 0x0, 0x0, 0x0, 0x0, 0x0, 0x80000000, 0x0, 0x0, 0x8FFFFFFF, false, false, false⟩
  | .mwtTimeoutCount => ⟨0x5C, 1, 0x0, 0x0, 0x0, 0x0, 0x0, 0x0, 0x0, 0x0, 0xFFFFFFFF, false, true, false⟩
  | .mwtNoRouteCount => ⟨0x60, 1, 0x0, 0x0, 0x0, 0x0, 0x0, 0x0, 0x0, 0x0, 0xFFFFFFFF, false, true, false⟩
  | .mwtStrayCount => ⟨0x64, 1, 0x0, 0x0, 0x0, 0x0, 0x0, 0x0, 0x0, 0x0, 0xFFFFFFFF, false, true, false⟩
  | .mwtRoute => ⟨0x100, 64, 0x4, 0x0, 0xFF, 0x0, 0x0, 0x0, 0x0, 0x0, 0xFF, false, false, true⟩
  | .mgtCoreStat => ⟨0x40, 1, 0x0, 0x11, 0x0, 0x0, 0x0, 0x0, 0x0, 0x0, 0xFFF, false, false, false⟩
  | .mgtWdogCfg => ⟨0x44, 1, 0x0, 0x3E8, 0x0, 0x1FFFF, 0x0, 0x0, 0x0, 0x0, 0x1FFFF, false, false, false⟩
  | .mgtWdogKick => ⟨0x48, 1, 0x0, 0x0, 0x0, 0x0, 0x0, 0x0, 0x0, 0x1, 0x1, false, false, false⟩
  | .mgtGateErr => ⟨0x4C, 1, 0x0, 0x0, 0x0, 0x0, 0x0, 0x80000000, 0x0, 0x0, 0x8000001F, false, false, false⟩
  | .mgtGateErrAddr => ⟨0x50, 1, 0x0, 0x0, 0x0, 0x0, 0x0, 0x0, 0x0, 0x0, 0xFFFFFFFF, false, false, false⟩
  | .mgtFwStat => ⟨0x54, 1, 0x0, 0x0, 0x0, 0x0, 0x0, 0x0, 0x0, 0x0, 0xFFFF0007, false, false, false⟩
  | .seciPageRights => ⟨0x40, 256, 0x4, 0x7, 0x0, 0x0, 0xFFF, 0x0, 0x0, 0x0, 0xFFF, true, false, false⟩
  | .seciLifecycle => ⟨0x440, 1, 0x0, 0x0, 0x0, 0x0, 0x30000, 0x0, 0x0, 0x0, 0x30003, true, false, false⟩
  | .seciDebugEn => ⟨0x444, 1, 0x0, 0x0, 0x0, 0x0, 0x0, 0x0, 0x0, 0x100, 0x1FF, true, false, false⟩
  | .seciClaim => ⟨0x448, 1, 0x0, 0x0, 0x0, 0x0, 0xFFFFF, 0x0, 0x0, 0x0, 0xFFFFF, true, false, false⟩
  | .seciClaimRefused => ⟨0x44C, 1, 0x0, 0x0, 0x0, 0x0, 0x0, 0x80000000, 0x0, 0x0, 0x800007FF, false, false, false⟩
  | .seciCoreRelease => ⟨0x450, 1, 0x0, 0x0, 0x0, 0x0, 0xE, 0x0, 0x0, 0x0, 0xE, true, false, false⟩
  | .seciSirqRoute => ⟨0x454, 1, 0x0, 0x0, 0x0, 0x0, 0x3, 0x0, 0x0, 0x0, 0x3, true, false, false⟩
  | .seciKeyCmd => ⟨0x458, 1, 0x0, 0x0, 0x0, 0x0, 0xFFF1F, 0x0, 0x0, 0x0, 0xFFF1F, true, false, false⟩
  | .seciKeySrc => ⟨0x45C, 1, 0x0, 0x0, 0x0, 0x0, 0x3FFFF, 0x0, 0x0, 0x0, 0x3FFFF, true, false, false⟩
  | .seciKeyStat => ⟨0x460, 1, 0x0, 0x0, 0x0, 0x0, 0x0, 0x0, 0x0, 0x0, 0xF, false, false, false⟩
  | .seciTestEn => ⟨0x464, 1, 0x0, 0x0, 0x0, 0x0, 0xF, 0x0, 0x0, 0x0, 0xF, true, false, false⟩
  | .timeNowLo => ⟨0x40, 1, 0x0, 0x0, 0x0, 0x0, 0x0, 0x0, 0x0, 0x0, 0xFFFFFFFF, false, false, false⟩
  | .timeNowHi => ⟨0x44, 1, 0x0, 0x0, 0x0, 0x0, 0x0, 0x0, 0x0, 0x0, 0xFFFFFFFF, false, false, false⟩
  | .timeSetLo => ⟨0x48, 1, 0x0, 0x0, 0xFFFFFFFF, 0x0, 0x0, 0x0, 0x0, 0x0, 0xFFFFFFFF, false, false, false⟩
  | .timeSetHi => ⟨0x4C, 1, 0x0, 0x0, 0xFFFFFFFF, 0x0, 0x0, 0x0, 0x0, 0x0, 0xFFFFFFFF, false, false, false⟩
  | .timeStat => ⟨0x50, 1, 0x0, 0x0, 0x0, 0x0, 0x0, 0x0, 0x0, 0x0, 0x3, false, false, false⟩
  | .timeRatio => ⟨0x54, 1, 0x0, 0x77359400, 0x0, 0x0, 0x0, 0x0, 0x0, 0x0, 0xFFFFFFFF, false, false, false⟩
  | .timeUncLo => ⟨0x58, 1, 0x0, 0x0, 0x0, 0x0, 0x0, 0x0, 0x0, 0x0, 0xFFFFFFFF, false, false, false⟩
  | .timeUncHi => ⟨0x5C, 1, 0x0, 0x0, 0x0, 0x0, 0x0, 0x0, 0x0, 0x0, 0xFFFFFFFF, false, false, false⟩
  | .gafferCfg => ⟨0x40, 1, 0x0, 0x28A6405, 0x0, 0x3FFFFFF, 0x0, 0x0, 0x0, 0x0, 0x3FFFFFF, false, false, false⟩
  | .gafferCap => ⟨0x44, 1, 0x0, 0xB9, 0x0, 0xFF, 0x0, 0x0, 0x0, 0x0, 0xFF, false, false, true⟩
  | .gafferEst => ⟨0x48, 1, 0x0, 0x0, 0x0, 0x0, 0x0, 0x0, 0x0, 0x0, 0xFFFF, false, false, false⟩
  | .gafferVcore => ⟨0x4C, 1, 0x0, 0x2EE02EE, 0x0, 0x0, 0x0, 0x0, 0x0, 0x0, 0x3FF03FF, false, false, false⟩
  | .gafferGrants => ⟨0x50, 1, 0x0, 0x0, 0x0, 0x0, 0x0, 0x0, 0x0, 0x0, 0x7F, false, false, false⟩
  | .gafferTemp => ⟨0x54, 1, 0x0, 0x0, 0x0, 0x0, 0x0, 0x0, 0x0, 0x0, 0xFFFFFFFF, false, false, false⟩
  | .gafferTempXb => ⟨0x58, 1, 0x0, 0x0, 0x0, 0x0, 0x0, 0x0, 0x0, 0x0, 0xFFFF, false, false, false⟩
  | .gafferTherm => ⟨0x5C, 1, 0x0, 0x0, 0x0, 0x0, 0x0, 0x0, 0x0, 0x0, 0x1F, false, false, false⟩
  | .pwrMode => ⟨0x40, 1, 0x0, 0x0, 0x0, 0x0, 0x0, 0x0, 0x0, 0x0, 0x37, false, false, false⟩
  | .pwrModeReq => ⟨0x44, 1, 0x0, 0x0, 0x0, 0x0, 0x0, 0x0, 0x0, 0x37, 0x37, false, false, false⟩
  | .pwrReqStat => ⟨0x48, 1, 0x0, 0x0, 0x0, 0x0, 0x0, 0x0, 0x0, 0x0, 0xF, false, false, false⟩
  | .pwrDomReq => ⟨0x4C, 1, 0x0, 0x0, 0x0, 0x0, 0x0, 0x0, 0x0, 0x7F, 0x7F, false, false, false⟩
  | .pwrDomStat => ⟨0x50, 1, 0x0, 0x0, 0x0, 0x0, 0x0, 0x0, 0x0, 0x0, 0xF, false, false, false⟩
  | .pwrWakeEn => ⟨0x54, 1, 0x0, 0x7, 0x1F, 0x0, 0x0, 0x0, 0x0, 0x0, 0x1F, false, false, false⟩
  | .pwrWakeSrc => ⟨0x58, 1, 0x0, 0x0, 0x0, 0x0, 0x0, 0x8000001F, 0x0, 0x0, 0x8000001F, false, false, false⟩
  | .pwrWakeTimer => ⟨0x5C, 1, 0x0, 0x0, 0xFFFFFFFF, 0x0, 0x0, 0x0, 0x0, 0x0, 0xFFFFFFFF, false, false, false⟩
  | .pwrWakeStat => ⟨0x60, 1, 0x0, 0x0, 0x0, 0x0, 0x0, 0x0, 0x80000000, 0x0, 0x8000003F, false, false, false⟩
  | .pwrPadStat => ⟨0x64, 1, 0x0, 0x0, 0x0, 0x0, 0x0, 0x0, 0x0, 0x0, 0x7F, false, false, false⟩
  | .pwrPadRelease => ⟨0x68, 1, 0x0, 0x0, 0x0, 0x0, 0x0, 0x0, 0x0, 0x7F, 0x7F, false, false, false⟩
  | .pwrMaintLimit => ⟨0x6C, 1, 0x0, 0x32, 0x3FF, 0x0, 0x0, 0x0, 0x0, 0x0, 0x3FF, false, false, false⟩
  | .pwrEntryAborts => ⟨0x70, 1, 0x0, 0x0, 0x0, 0x0, 0x0, 0x0, 0x0, 0x0, 0xFFFFFFFF, false, false, false⟩
  | .feedCfg => ⟨0x40, 1, 0x0, 0x31400C8, 0x0, 0x3FF03FF, 0x0, 0x0, 0x0, 0x0, 0x3FF03FF, false, false, true⟩
  | .feedTimer => ⟨0x44, 1, 0x0, 0x3E81388, 0x0, 0xFFFFFFFF, 0x0, 0x0, 0x0, 0x0, 0xFFFFFFFF, false, false, true⟩
  | .feedWarn => ⟨0x48, 1, 0x0, 0xA2AF8, 0x0, 0xFF3FFF, 0x0, 0x0, 0x0, 0x0, 0xFF3FFF, false, false, true⟩
  | .feedLevels => ⟨0x4C, 1, 0x0, 0x23282C88, 0x0, 0x3FFF3FFF, 0x0, 0x0, 0x0, 0x0, 0x3FFF3FFF, false, false, true⟩
  | .feedStat => ⟨0x50, 1, 0x0, 0x0, 0x0, 0x0, 0x0, 0x0, 0x0, 0x0, 0x7FFF, false, false, false⟩
  | .feedCtl => ⟨0x54, 1, 0x0, 0x0, 0x0, 0x0, 0x0, 0x0, 0x0, 0x3, 0x3, false, false, false⟩
  | .feedHoldup => ⟨0x58, 1, 0x0, 0x0, 0x0, 0x0, 0x0, 0x1, 0x0, 0x0, 0xFFFF0003, false, false, false⟩
  | .feedRevCount => ⟨0x5C, 1, 0x0, 0x0, 0x0, 0x0, 0x0, 0x0, 0x0, 0x0, 0xFFFFFFFF, false, false, false⟩
  | .feedV => ⟨0x60, 3, 0x20, 0x0, 0x0, 0x0, 0x0, 0x0, 0x0, 0x0, 0xFFFF, false, false, false⟩
  | .feedI => ⟨0x64, 3, 0x20, 0x0, 0x0, 0x0, 0x0, 0x0, 0x0, 0x0, 0xFFFFFFFF, false, false, false⟩
  | .feedP => ⟨0x68, 3, 0x20, 0x0, 0x0, 0x0, 0x0, 0x0, 0x0, 0x0, 0xFFFFFFFF, false, false, false⟩
  | .feedELo => ⟨0x6C, 3, 0x20, 0x0, 0x0, 0x0, 0x0, 0x0, 0x0, 0x0, 0xFFFFFFFF, false, false, false⟩
  | .feedEHi => ⟨0x70, 3, 0x20, 0x0, 0x0, 0x0, 0x0, 0x0, 0x0, 0x0, 0xFFFFFFFF, false, false, false⟩
  | .fltCfg => ⟨0x40, 1, 0x0, 0x6, 0xF, 0x0, 0x0, 0x0, 0x100, 0x0, 0x10F, false, false, false⟩
  | .fltStallLimit => ⟨0x44, 1, 0x0, 0xA, 0xFFFFF, 0x0, 0x0, 0x0, 0x0, 0x0, 0xFFFFF, false, false, false⟩
  | .fltStat => ⟨0x48, 1, 0x0, 0x0, 0x0, 0x0, 0x0, 0x8, 0x0, 0x0, 0xF, false, false, false⟩
  | .fltLossSub => ⟨0x4C, 1, 0x0, 0x0, 0x0, 0x0, 0x0, 0x0, 0x0, 0x0, 0xFFFFFFFF, false, false, false⟩
  | .fltLossQ => ⟨0x50, 1, 0x0, 0x0, 0x0, 0x0, 0x0, 0x0, 0x0, 0x0, 0xF, false, false, false⟩
  | .fltResetCtl => ⟨0x54, 1, 0x0, 0x0, 0x0, 0x0, 0x0, 0x0, 0x0, 0x3, 0x3, false, false, false⟩
  | .fltResetCfg => ⟨0x58, 1, 0x0, 0xA, 0xFF, 0x0, 0x0, 0x0, 0x0, 0x0, 0xFF, false, false, false⟩
  | .fltResetCause => ⟨0x5C, 1, 0x0, 0x0, 0x0, 0x0, 0x0, 0x0, 0x0, 0x0, 0x7F, false, false, false⟩
  | .fltInj => ⟨0x60, 1, 0x0, 0x0, 0x800001FF, 0x0, 0x0, 0x0, 0x0, 0x0, 0x800001FF, false, false, false⟩
  | .fltEvtSel => ⟨0x64, 1, 0x0, 0x0, 0x3F, 0x0, 0x0, 0x0, 0x0, 0x0, 0x3F, false, false, false⟩
  | .fltEvtCount => ⟨0x68, 1, 0x0, 0x0, 0x0, 0x0, 0x0, 0x0, 0x0, 0x0, 0xFFFFFFFF, false, true, false⟩
  | .fltFeCtl => ⟨0x6C, 1, 0x0, 0x0, 0x0, 0x0, 0x0, 0x0, 0x0, 0x1, 0x1, false, false, false⟩
  | .fltFe => ⟨0x80, 16, 0x4, 0x0, 0x0, 0x0, 0x0, 0x0, 0x0, 0x0, 0xFFFFFFFF, false, false, false⟩
  | .fltEvt => ⟨0xC0, 16, 0x4, 0x0, 0x0, 0x0, 0x0, 0x0, 0x0, 0x0, 0xFFFFFFFF, false, false, false⟩
  | .fltAssert => ⟨0x100, 16, 0x4, 0x0, 0x0, 0x0, 0x0, 0x0, 0x0, 0x0, 0xFFFFFFFF, false, false, false⟩
  | .fltLatched => ⟨0x140, 16, 0x4, 0x0, 0x0, 0x0, 0x0, 0xFFFFFFFF, 0x0, 0x0, 0xFFFFFFFF, false, false, false⟩
  | .fltSev => ⟨0x180, 32, 0x4, 0x0, 0xFFFFFFFF, 0x0, 0x0, 0x0, 0x0, 0x0, 0xFFFFFFFF, false, false, false⟩
  | .calCfg => ⟨0x40, 1, 0x0, 0x43, 0x0, 0xF3, 0x0, 0x0, 0x0, 0x0, 0xF3, false, false, false⟩
  | .calArea => ⟨0x44, 1, 0x0, 0x0, 0x0, 0x0, 0x0, 0x0, 0x0, 0x0, 0x3FFF, false, false, true⟩
  | .calStoreStat => ⟨0x48, 1, 0x0, 0x0, 0x0, 0x0, 0x0, 0x0, 0x0, 0x0, 0xFFFFFFFF, false, false, false⟩
  | .calWear => ⟨0x4C, 1, 0x0, 0x0, 0x0, 0x0, 0x0, 0x0, 0x0, 0x0, 0x1FFFF, false, false, false⟩
  | .calBadRecords => ⟨0x50, 1, 0x0, 0x0, 0x0, 0x0, 0x0, 0x0, 0x0, 0x0, 0xFFFFFFFF, false, true, false⟩
  | .calNearMiss => ⟨0x54, 1, 0x0, 0x0, 0x0, 0x0, 0x0, 0x0, 0x0, 0x0, 0xFFFFFFFF, false, true, false⟩
  | .calTrimCount => ⟨0x58, 1, 0x0, 0x0, 0x0, 0x0, 0x0, 0x0, 0x0, 0x0, 0xFFFFFFFF, false, true, false⟩
  | .calSlicerSel => ⟨0x5C, 1, 0x0, 0x0, 0x3F, 0x0, 0x0, 0x0, 0x0, 0x0, 0x3F, false, false, false⟩
  | .calSlicerStat => ⟨0x60, 1, 0x0, 0x0, 0x0, 0x0, 0x0, 0x0, 0x0, 0x0, 0x3F, false, false, false⟩
  | .calSlicerScore => ⟨0x64, 1, 0x0, 0x0, 0x0, 0x0, 0x0, 0x0, 0x0, 0x0, 0x3FFFFFFF, false, false, false⟩
  | .viewClass => ⟨0x40, 1, 0x0, 0x0, 0x0, 0x0, 0x0, 0x0, 0x0, 0x0, 0xFFFFFFFF, false, false, false⟩
  | .viewClassCtr => ⟨0x80, 4, 0x8, 0x0, 0x0, 0x0, 0x0, 0x0, 0x0, 0x0, 0xFFFFFFFF, false, false, false⟩
  | .viewSetCtr => ⟨0xA0, 4, 0x8, 0x0, 0x0, 0x0, 0x0, 0x0, 0x0, 0x0, 0xFFFFFFFF, false, false, false⟩
  | .viewPortOut => ⟨0x100, 24, 0x10, 0x0, 0x0, 0x0, 0x0, 0x0, 0x0, 0x0, 0xFFFFFFFF, false, false, false⟩
  | .viewPortIn => ⟨0x108, 24, 0x10, 0x0, 0x0, 0x0, 0x0, 0x0, 0x0, 0x0, 0xFFFFFFFF, false, false, false⟩
  | .daily0SnapCtl => ⟨0x40, 1, 0x0, 0x0, 0x0, 0x0, 0x0, 0x0, 0x0, 0x1, 0x1, false, false, false⟩
  | .daily0SnapSeq => ⟨0x44, 1, 0x0, 0x0, 0x0, 0x0, 0x0, 0x0, 0x0, 0x0, 0xFFFFFFFF, false, false, false⟩
  | .daily0SnapTimeLo => ⟨0x48, 1, 0x0, 0x0, 0x0, 0x0, 0x0, 0x0, 0x0, 0x0, 0xFFFFFFFF, false, false, false⟩
  | .daily0SnapTimeHi => ⟨0x4C, 1, 0x0, 0x0, 0x0, 0x0, 0x0, 0x0, 0x0, 0x0, 0xFFFFFFFF, false, false, false⟩
  | .daily0BwWindow => ⟨0x50, 1, 0x0, 0x3E8, 0xFFFFF, 0x0, 0x0, 0x0, 0x0, 0x0, 0xFFFFF, false, false, false⟩
  | .daily0BwSeq => ⟨0x54, 1, 0x0, 0x0, 0x0, 0x0, 0x0, 0x0, 0x0, 0x0, 0xFFFFFFFF, false, false, false⟩
  | .daily0BwHp => ⟨0x80, 16, 0x4, 0x0, 0x0, 0x0, 0x0, 0x0, 0x0, 0x0, 0xFFFFFFFF, false, false, false⟩
  | .daily0BwMp => ⟨0xC0, 8, 0x4, 0x0, 0x0, 0x0, 0x0, 0x0, 0x0, 0x0, 0xFFFFFFFF, false, false, false⟩
  | .daily0ViewBind => ⟨0x100, 48, 0x4, 0x0, 0x8003FFFF, 0x0, 0x0, 0x0, 0x0, 0x0, 0x8003FFFF, false, false, false⟩
  | .sbiAddr => ⟨0x40, 1, 0x0, 0x4D4C, 0x0, 0x0, 0x0, 0x0, 0x0, 0x0, 0x7F7F, false, false, true⟩
  | .sbiBootStat => ⟨0x44, 1, 0x0, 0x0, 0x0, 0x0, 0x0, 0x0, 0x0, 0x0, 0x3FF7F, false, false, false⟩
  | .sbiBootDetail => ⟨0x48, 1, 0x0, 0x0, 0x0, 0x0, 0x0, 0x0, 0x0, 0x0, 0xFFFFFFFF, false, false, false⟩
  | .sbiBootMs => ⟨0x4C, 1, 0x0, 0x0, 0x0, 0x0, 0x0, 0x0, 0x0, 0x0, 0xFFFFFFFF, false, false, false⟩
  | .sbiProfile => ⟨0x50, 1, 0x0, 0x0, 0x0, 0x0, 0x0, 0x0, 0x0, 0x0, 0x1FFFF, false, false, false⟩

/-- The registers of the common header (R31). -/
def regsHeader : List RName :=
  [.hdrPageId, .hdrPageCaps, .hdrRunCtl, .hdrRunStat, .hdrFaultStat, .hdrFaultMask, .hdrAccess, .hdrEventStat, .hdrEventEn]

/-- The registers of the PACE page after its header (R16). -/
def regsPace : List RName :=
  [.pace]

/-- The registers of the PGDIR page after its header (R28). -/
def regsPgdir : List RName :=
  [.pgdirPageEntry, .pgdirDomainOn, .pgdirWinErr, .pgdirWinErrCount, .pgdirVendor]

/-- The registers of the MAP page after its header (R70). -/
def regsMap : List RName :=
  [.mapCfg, .mapLimit, .mapRsvBase, .mapMissPend, .mapChkErrLo, .mapChkErrHi]

/-- The registers of the STAGE page after its header (R72). -/
def regsStage : List RName :=
  [.stageCfg, .stageFlushCtl, .stageFlushBase, .stageFlushLen, .stageFlushStat, .stageDirty, .stageWbPend]

/-- The registers of the DOLLY0 page after its header (R87). -/
def regsDolly0 : List RName :=
  [.dolly0Cfg, .dolly0HeatCfg, .dolly0Epoch, .dolly0ListStat, .dolly0MoveStat]

/-- The registers of the DOLLY1 page after its header (R89). -/
def regsDolly1 : List RName :=
  [.dolly1CapCfg, .dolly1Marks, .dolly1Timers, .dolly1WaitLimit, .dolly1FreePages, .dolly1PhysPages,
   .dolly1State, .dolly1Waiting, .dolly1Timeouts]

/-- The registers of the PACK page after its header (R123). -/
def regsPack : List RName :=
  [.packCfg, .packEngStat0, .packEngStat1, .packEngFence, .packPageErrLo, .packPageErrHi, .packPageErrCount]

/-- The registers of the SEAL page after its header (R150). -/
def regsSeal : List RName :=
  [.sealPipeFence, .sealPipeStat, .sealAccErrLo, .sealAccErrHi, .sealAccErrCount, .sealTagFailCount,
   .sealRangeSel, .sealRangeBase, .sealRangeLen, .sealRangeCfg, .sealRangeHosts, .sealRangeCmd, .sealCmdStat,
   .sealOpenRights, .sealSlotSel, .sealSlotStat, .sealSweepStat, .sealEdgeLo, .sealEdgeHi]

/-- The registers of the COAT page after its header (R181). -/
def regsCoat : List RName :=
  [.coatEccCfg, .coatDevFail0, .coatDevFail1, .coatSandCfg, .coatLapLimit, .coatLapTime, .coatLapStat,
   .coatPatchCfg, .coatPatchStat, .coatSpareUsed, .coatFlipMask0, .coatFlipMask1, .coatFlipMask2, .coatFlipCtl,
   .coatFlipMpaLo, .coatFlipMpaHi, .coatCorrCount, .coatUncorrCount, .coatRegionSel, .coatRegionCfg,
   .coatRegionCmd, .coatRegionStat, .coatPoisonStat]

/-- The registers of the DMC page after its header (R198). -/
def regsDmc : List RName :=
  [.dmcCfg, .dmcWqHi, .dmcWqLo, .dmcTally, .dmcSubFence, .dmcSubStat, .dmcQueueA, .dmcQueueB, .dmcCaparCount,
   .dmcTrefCount, .dmcDimmCfg]

/-- The registers of the DPHY page after its header (R201). -/
def regsDphy : List RName :=
  [.dphyTrainStat, .dphyPeriodic]

/-- The registers of the DIR page after its header (R225). -/
def regsDir : List RName :=
  [.dirCfg, .dirSnoopLimit, .dirOpen, .dirStaleCount, .dirTimeoutCount, .dirPerr, .dirPerrLineLo,
   .dirPerrLineHi, .dirProbeLineLo, .dirProbeLineHi, .dirProbeCtl, .dirProbeEntryLo, .dirProbeEntryHi,
   .dirDbWinBase, .dirDbWinLen, .dirGateMap]

/-- The registers of the SLATE page after its header (R244). -/
def regsSlate : List RName :=
  [.slateWindow, .slateFloorCfg, .slatePackrd, .slatePasidTag, .slateFloor, .slateCommitStat, .slateScale,
   .slateCtxSel, .slateCtxW, .slateCtxW3, .slateCtxCmd, .slateFbSel, .slateFbBase, .slateFbLen, .slateFbSlate,
   .slateFbCmd, .slateCmdStat, .slateOverloadCount, .slateInvalidCount, .slatePortDef, .slateClassCfg]

/-- The registers of the NME page after its header (R265). -/
def regsNme : List RName :=
  [.nmeCfg, .nmeLaneStat, .nmeRingSel, .nmeRingDescLo, .nmeRingDescHi, .nmeRingCompLo, .nmeRingCompHi,
   .nmeRingCfg, .nmeRingOwner, .nmeRingHosts, .nmeRingCmd, .nmeRingStat, .nmeJobCount, .nmeDbErr, .nmeDoorbell]

/-- The registers of the HPT page after its header (R281). -/
def regsHpt : List RName :=
  [.hptCfg, .hptLinkStat, .hptPanic, .hptIngress, .hptPrbsCtl, .hptPrbsSel, .hptPrbsErrLo, .hptPrbsErrHi,
   .hptHistCtl, .hptHistCnt, .hptHistOfs]

/-- The registers of the MWL page after its header (R311). -/
def regsMwl : List RName :=
  [.mwlCfg, .mwlLinkStat, .mwlDownTime, .mwlPanic, .mwlTimers, .mwlWidthCtl, .mwlPrbsCtl, .mwlPrbsSel,
   .mwlPrbsErrLo, .mwlPrbsErrHi, .mwlHistCtl, .mwlHistCnt, .mwlHistOfs, .mwlTxCtrLo, .mwlTxCtrHi,
   .mwlStreamStat, .mwlBadFlits, .mwlReplays, .mwlCcRtx, .mwlTagFails, .mwlRetrains]

/-- The registers of the MWT page after its header (R330). -/
def regsMwt : List RName :=
  [.mwtCfg, .mwtRspLimit, .mwtSpanSlate, .mwtDonorBase, .mwtDonorLen, .mwtTags, .mwtErr, .mwtTimeoutCount,
   .mwtNoRouteCount, .mwtStrayCount, .mwtRoute]

/-- The registers of the MGT page after its header (R351). -/
def regsMgt : List RName :=
  [.mgtCoreStat, .mgtWdogCfg, .mgtWdogKick, .mgtGateErr, .mgtGateErrAddr, .mgtFwStat]

/-- The registers of the SECI page after its header (R353). -/
def regsSeci : List RName :=
  [.seciPageRights, .seciLifecycle, .seciDebugEn, .seciClaim, .seciClaimRefused, .seciCoreRelease,
   .seciSirqRoute, .seciKeyCmd, .seciKeySrc, .seciKeyStat, .seciTestEn]

/-- The registers of the TIME page after its header (R374). -/
def regsTime : List RName :=
  [.timeNowLo, .timeNowHi, .timeSetLo, .timeSetHi, .timeStat, .timeRatio, .timeUncLo, .timeUncHi]

/-- The registers of the GAFFER page after its header (R375). -/
def regsGaffer : List RName :=
  [.gafferCfg, .gafferCap, .gafferEst, .gafferVcore, .gafferGrants, .gafferTemp, .gafferTempXb, .gafferTherm]

/-- The registers of the PWR page after its header (R377). -/
def regsPwr : List RName :=
  [.pwrMode, .pwrModeReq, .pwrReqStat, .pwrDomReq, .pwrDomStat, .pwrWakeEn, .pwrWakeSrc, .pwrWakeTimer,
   .pwrWakeStat, .pwrPadStat, .pwrPadRelease, .pwrMaintLimit, .pwrEntryAborts]

/-- The registers of the FEED page after its header (R391). -/
def regsFeed : List RName :=
  [.feedCfg, .feedTimer, .feedWarn, .feedLevels, .feedStat, .feedCtl, .feedHoldup, .feedRevCount, .feedV,
   .feedI, .feedP, .feedELo, .feedEHi]

/-- The registers of the FLT page after its header (R417). -/
def regsFlt : List RName :=
  [.fltCfg, .fltStallLimit, .fltStat, .fltLossSub, .fltLossQ, .fltResetCtl, .fltResetCfg, .fltResetCause,
   .fltInj, .fltEvtSel, .fltEvtCount, .fltFeCtl, .fltFe, .fltEvt, .fltAssert, .fltLatched, .fltSev]

/-- The registers of the CAL page after its header (R430). -/
def regsCal : List RName :=
  [.calCfg, .calArea, .calStoreStat, .calWear, .calBadRecords, .calNearMiss, .calTrimCount, .calSlicerSel,
   .calSlicerStat, .calSlicerScore]

/-- The registers of the VIEW page after its header (R441). -/
def regsView : List RName :=
  [.viewClass, .viewClassCtr, .viewSetCtr, .viewPortOut, .viewPortIn]

/-- The registers of the DAILY0 page after its header (R442). -/
def regsDaily0 : List RName :=
  [.daily0SnapCtl, .daily0SnapSeq, .daily0SnapTimeLo, .daily0SnapTimeHi, .daily0BwWindow, .daily0BwSeq,
   .daily0BwHp, .daily0BwMp, .daily0ViewBind]

/-- The registers of the SBI page after its header (R453). -/
def regsSbi : List RName :=
  [.sbiAddr, .sbiBootStat, .sbiBootDetail, .sbiBootMs, .sbiProfile]

end Sys2Proof.Machine
end

