-- ==== Sys2Proof/Machine/Upf.lean ====
section
/-! DEFINITION. Decoding the UPF stream and page variant (R97 to R107, R121). Input is a number whose bit `i` is bit `i mod 8`
of byte `i ÷ 8`; output is kept newest byte first. -/

namespace Sys2Proof.Machine

/-- What a decode step answers: it went on, it needs input beyond the end, or it met a bad element at a bit position. -/
inductive DRes (α : Type) where
  | ok (v : α)
  | more (pos : Nat) (out : List Byte)
  | err (code pos : Nat) (out : List Byte)
deriving Repr

/-- The input of a decode: its bits and how many there are. -/
structure BitSrc where
  bits : Nat
  len : Nat

/-- `k` bits at a position, where they are there. -/
def BitSrc.get (s : BitSrc) (pos k : Nat) : Option Nat := if pos + k ≤ s.len then some ((s.bits >>> pos) % 2 ^ k) else none

/-- The bytes as a bit source. -/
def bitSrc (l : List Byte) : BitSrc := { bits := ofBytes l, len := 8 * l.length }

/-- An extension value of at most three 7-bit groups (R101): its value and the position after it. -/
def readExt (s : BitSrc) (pos : Nat) (out : List Byte) : DRes (Nat × Nat) :=
  match s.get pos 8 with
  | none => .more pos out
  | some a =>
    if a < 128 then .ok (a, pos + 8)
    else match s.get (pos + 8) 8 with
      | none => .more pos out
      | some b =>
        if b < 128 then .ok (a % 128 + b * 128, pos + 16)
        else match s.get (pos + 16) 8 with
          | none => .more pos out
          | some c => if c < 128 then .ok (a % 128 + b % 128 * 128 + c * 16384, pos + 24) else .err 4 pos out

/-- The canonical codes of a literal table (R104): (length, code, symbol). -/
def canonical (maxLen : Nat) (lens : List Nat) : List (Nat × Nat × Nat) :=
  let syms := lens.zipIdx
  ((List.range maxLen).foldl (fun (a : Nat × List (Nat × Nat × Nat)) i =>
    let l := i + 1
    let here := (syms.filter fun e => e.1 = l).map (·.2)
    ((a.1 + here.length) * 2, a.2 ++ here.zipIdx.map fun e => (l, a.1 + e.2, e.1))) (0, [])).2

/-- Whether the lengths are right (R104): at most 12, complete, or one single symbol of length 1. -/
def tableOk (lens : List Nat) : Bool :=
  let used := lens.filter (· ≠ 0)
  used.all (· ≤ 12) && (used = [1] || decide ((used.map fun l => 2 ^ (12 - l)).sum = 4096))

/-- One Huffman code read most significant bit first. -/
def readCode (s : BitSrc) (codes : List (Nat × Nat × Nat)) : Nat → Nat → Nat → Nat → Option (Option (Nat × Nat))
  | 0, _, _, _ => some none
  | fuel + 1, pos, len, acc =>
    match s.get pos 1 with
    | none => none
    | some b =>
      let acc := acc * 2 + b
      match codes.find? fun c => c.1 = len + 1 ∧ c.2.1 = acc with
      | some c => some (some (c.2.2, pos + 1))
      | none => readCode s codes fuel (pos + 1) (len + 1) acc

/-- Literals of a run: bytes, or Huffman codes where the block has a table. -/
def readLits (s : BitSrc) (codes : Option (List (Nat × Nat × Nat))) : Nat → Nat → List Byte → DRes (Nat × List Byte)
  | 0, pos, out => .ok (pos, out)
  | n + 1, pos, out =>
    match codes with
    | none => match s.get pos 8 with
      | some b => readLits s codes n (pos + 8) (BitVec.ofNat 8 b :: out)
      | none => .more pos out
    | some cs => match readCode s cs 12 pos 0 0 with
      | none => .more pos out
      | some none => .err 3 pos out
      | some (some (v, p)) => readLits s codes n p (BitVec.ofNat 8 v :: out)

/-- Copy a match (R102): each byte is the one at the distance, so a short distance repeats. -/
def copyMatch : Nat → Nat → List Byte → List Byte
  | 0, _, out => out
  | n + 1, off, out => copyMatch n off (out.getD (off - 1) 0 :: out)

/-- The tokens of a block (R100, R102): `goal` is the output length at the block's end, `win` the window. -/
def readTokens (s : BitSrc) (codes : Option (List (Nat × Nat × Nat))) (goal win : Nat) : Nat → Nat → List Byte → DRes (Nat × List Byte)
  | 0, pos, out => .err 8 pos out
  | fuel + 1, pos, out =>
    if out.length = goal then .ok (pos, out)
    else match s.get pos 8 with
    | none => .more pos out
    | some ctrl =>
      let rc := ctrl % 16
      let mc := ctrl / 16
      if ctrl = 0 then .err 8 pos out
      else
        let p1 := pos + 8
        match (if rc = 15 then readExt s p1 out else .ok (0, p1)) with
        | .more p o => .more p o
        | .err c p o => .err c p o
        | .ok (rx, p2) =>
          let run := if rc = 15 then 15 + rx else rc
          if goal < out.length + run then .err 5 (if rc = 15 then p1 else pos) out
          else match (if mc = 15 then readExt s p2 out else .ok (0, p2)) with
          | .more p o => .more p o
          | .err c p o => .err c p o
          | .ok (lx, p3) =>
            let len := if mc = 0 then 0 else if mc = 15 then 18 + lx else mc + 3
            if goal < out.length + run + len then .err 6 (if mc = 15 then p2 else pos) out
            else if mc = 0 ∧ out.length + run ≠ goal then .err 8 pos out
            else match (if mc = 0 then some 0 else s.get p3 16) with
            | none => .more p3 out
            | some off =>
              if mc ≠ 0 ∧ (win < off + 1 ∨ out.length + run < off + 1) then .err 7 p3 out
              else match readLits s codes run (if mc = 0 then p3 else p3 + 16) out with
              | .more p o => .more p o
              | .err c p o => .err c p o
              | .ok (p4, out1) => readTokens s codes goal win fuel p4 (if mc = 0 then out1 else copyMatch len (off + 1) out1)

/-- A block's payload (R99): the output so far and the position after it, rounded up to a whole byte. -/
def readPayload (s : BitSrc) (type ulen win pos : Nat) (out : List Byte) : DRes (Nat × List Byte) :=
  let goal := out.length + ulen
  if type = 0 then readLits s none ulen pos out
  else if type = 1 then readTokens s none goal win (ulen + 1) pos out
  else match s.get pos 1024 with
    | none => .more pos out
    | some t =>
      let lens := (List.range 256).map fun i => (t >>> (4 * i)) % 16
      if tableOk lens then
        match readTokens s (some (canonical 12 lens)) goal win (ulen + 1) (pos + 1024) out with
        | .ok (p, o) => .ok ((p + 7) / 8 * 8, o)
        | r => r
      else .err 3 pos out

/-- How a whole decode ended: the output in order, the bytes read, the output known good, and a status of R120 with its DERR. -/
structure Decoded where
  out : List Byte
  used : Nat
  good : Nat
  status : Nat
  derr : Nat := 0
  errBit : Nat := 0
  ended : Bool := false
deriving Repr

/-- Decode a page variant (R107): the 4,096 bytes, or how many lines came out before it failed and the DERR. -/
def decodePageVariant (input : List Byte) : Decoded :=
  let bytes := input.take 3584
  let s := bitSrc bytes
  let short (p : Nat) (o : List Byte) : Decoded :=
    { out := o.reverse, used := bytes.length, good := 0, status := 3, derr := if 3584 ≤ input.length then 10 else 9, errBit := p }
  match s.get 0 32 with
  | none => short 0 []
  | some h =>
    let type := h % 4
    if type = 0 ∨ type = 3 ∨ h / 2 ^ 21 ≠ 0 ∨ h / 16 % 2 ^ 17 ≠ 4096 then { out := [], used := 4, good := 0, status := 3, derr := 2 }
    else match readPayload s type 4096 4096 32 [] with
    | .more p o => short p o
    | .err c p o => { out := o.reverse, used := p / 8 + 1, good := 0, status := 3, derr := c, errBit := p }
    | .ok (p, o) => match s.get p 32 with
      | none => short p o
      | some c =>
        if c = crc32c o.reverse then { out := o.reverse, used := p / 8 + 4, good := 4096, status := 0, ended := true }
        else { out := o.reverse, used := p / 8 + 4, good := 0, status := 2 }

/-- Byte `i` to `i + 63` of an output as a line. -/
def lineOfBytes (l : List Byte) (i : Nat) : Line := BitVec.ofNat 512 (ofBytes ((l.drop i).take 64))

end Sys2Proof.Machine
end

