-- ==== Sys2Proof/Machine/UpfDec.lean ====
section
/-! DEFINITION. Decoding element by element: the UPF stream (R97 to R104, R121) and DEFLATE, zlib and gzip (R109), with a limit on
the output (R118). A job that resumes decodes the stream's whole input again up to the output it has already given. -/

namespace Sys2Proof.Machine

/-! ## Bits -/

/-- The low `k` bits of a number, least significant first. -/
def bitsLsb (n k : Nat) : List Bool := (List.range k).map n.testBit
/-- The low `k` bits, most significant first: a Huffman code. -/
def bitsMsb (n k : Nat) : List Bool := (bitsLsb n k).reverse
/-- The number that bits spell, least significant first. -/
def ofBits : List Bool → Nat
  | [] => 0
  | b :: l => b2n b + 2 * ofBits l
/-- A list of bits as a source. -/
def bitsSrc (l : List Bool) : BitSrc := { bits := ofBits l, len := l.length }

/-! ## Tables -/

/-- CRC-32 of gzip: reflected polynomial 0xEDB88320. -/
def crc32 (bytes : List Byte) : Nat := bytes.foldl (crcRByte 0xEDB88320) 0xFFFFFFFF ^^^ 0xFFFFFFFF
/-- Adler-32 of zlib (RFC 1950). -/
def adler32 (bytes : List Byte) : Nat :=
  let r := bytes.foldl (fun (s : Nat × Nat) b => ((s.1 + b.toNat) % 65521, (s.2 + s.1 + b.toNat) % 65521)) (1, 0)
  r.2 * 65536 + r.1

/-- Base and extra bits of the length codes 257 to 285 (RFC 1951). -/
def lenCodes : List (Nat × Nat) :=
  [(3, 0), (4, 0), (5, 0), (6, 0), (7, 0), (8, 0), (9, 0), (10, 0), (11, 1), (13, 1), (15, 1), (17, 1), (19, 2), (23, 2), (27, 2),
   (31, 2), (35, 3), (43, 3), (51, 3), (59, 3), (67, 4), (83, 4), (99, 4), (115, 4), (131, 5), (163, 5), (195, 5), (227, 5), (258, 0)]
/-- Base and extra bits of the distance codes 0 to 29 (RFC 1951). -/
def distCodes : List (Nat × Nat) :=
  [(1, 0), (2, 0), (3, 0), (4, 0), (5, 1), (7, 1), (9, 2), (13, 2), (17, 3), (25, 3), (33, 4), (49, 4), (65, 5), (97, 5), (129, 6),
   (193, 6), (257, 7), (385, 7), (513, 8), (769, 8), (1025, 9), (1537, 9), (2049, 10), (3073, 10), (4097, 11), (6145, 11), (8193, 12),
   (12289, 12), (16385, 13), (24577, 13)]
/-- The fixed code lengths (RFC 1951). -/
def fixedLit : List Nat := List.replicate 144 8 ++ List.replicate 112 9 ++ List.replicate 24 7 ++ List.replicate 8 8
def fixedDist : List Nat := List.replicate 32 5

/-- Whether code lengths are complete, or a single code of length 1 where `one` allows it. -/
def lensOk (one : Bool) (lens : List Nat) : Bool :=
  let used := lens.filter (· ≠ 0)
  lens.all (· ≤ 15) && (decide ((used.map fun l => 2 ^ (15 - l)).sum = 32768) || (one && decide (used.length ≤ 1) && used.all (· = 1)))

/-- The order of the code length codes (RFC 1951). -/
def clOrder : List Nat := [16, 17, 18, 0, 8, 7, 9, 6, 10, 5, 11, 4, 12, 3, 13, 2, 14, 1, 15]

/-- What reading an element answers. -/
inductive ERes (α : Type) where
  | ok (v : α)
  | more
  | err (code : Nat)
deriving Repr

/-- One Huffman symbol of a code: none where its bits match no code. -/
def readSym (s : BitSrc) (codes : List (Nat × Nat × Nat)) (pos : Nat) : ERes (Option (Nat × Nat)) :=
  match readCode s codes ((codes.map (·.1)).foldl max 0) pos 0 0 with
  | none => .more
  | some r => .ok r

/-- The code lengths of a dynamic header, with its repeats (RFC 1951). -/
def readLengths (s : BitSrc) (codes : List (Nat × Nat × Nat)) (total : Nat) : Nat → Nat → List Nat → ERes (List Nat × Nat)
  | 0, _, _ => .err 0x12
  | fuel + 1, pos, acc =>
    if acc.length = total then .ok (acc, pos)
    else match readSym s codes pos with
    | .more => .more
    | .err c => .err c
    | .ok none => .err 0x12
    | .ok (some (sym, p)) =>
      if sym < 16 then readLengths s codes total fuel p (acc ++ [sym])
      else
        let k := if sym = 16 then 2 else if sym = 17 then 3 else 7
        match s.get p k with
        | none => .more
        | some x =>
          let n := (if sym = 18 then 11 else 3) + x
          if total < acc.length + n ∨ (sym = 16 ∧ acc.isEmpty) then .err 0x12
          else readLengths s codes total fuel (p + k) (acc ++ List.replicate n (if sym = 16 then acc.getLastD 0 else 0))

/-- The table of a dynamic block after its three header bits: the two codes' lengths and the position after it. -/
def readDynamic (s : BitSrc) (pos : Nat) : ERes (List Nat × List Nat × Nat) :=
  match s.get pos 14 with
  | none => .more
  | some h =>
    let nl := h % 32 + 257
    let nd := h / 32 % 32 + 1
    let nc := h / 1024 + 4
    match s.get (pos + 14) (3 * nc) with
    | none => .more
    | some c =>
      let cl := (List.range 19).map fun sym => match clOrder.idxOf? sym with
        | some i => if i < nc then (c >>> (3 * i)) % 8 else 0
        | none => 0
      if 286 < nl ∨ 30 < nd ∨ ¬ lensOk false cl then .err 0x12
      else match readLengths s (canonical 7 cl) (nl + nd) (nl + nd + 1) (pos + 14 + 3 * nc) [] with
        | .more => .more
        | .err e => .err e
        | .ok (l, p) =>
          let lit := l.take nl
          let dist := l.drop nl
          if lit.getD 256 0 ≠ 0 ∧ lensOk false lit ∧ lensOk true dist then .ok (lit, dist, p) else .err 0x12

/-! ## The decoder -/

/-- A decoder between elements. Output is newest byte first, `n` its length; PHASE as in R111. -/
structure Dc where
  pos : Nat := 0
  out : List Byte := []
  n : Nat := 0
  phase : Nat := 0
  btype : Nat := 0
  last : Bool := false
  win : Nat := 32768
  wlog : Nat := 0
  goal : Nat := 0
  bstart : Nat := 0
  table : Bool := false
  lens : List Nat := []
  dlens : List Nat := []
  runLeft : Nat := 0
  matchLeft : Nat := 0
  matchOff : Nat := 0
  good : Nat := 0
deriving Repr

/-- Why a decoder stops: the input ends within the element at `pos`, the output is full, the stream has ended, a check disagreed, or an
element at a bit position is bad. -/
inductive DStop where
  | more
  | full
  | ended
  | check
  | err (code at_ : Nat)
deriving DecidableEq, Repr

/-- One element: the decoder goes on, or stops. -/
abbrev DStep := Dc × Option DStop

/-- A literal goes out. -/
def Dc.push (c : Dc) (b : Byte) : Dc := { c with out := b :: c.out, n := c.n + 1 }

/-- Copy as much of the match as the output takes. -/
def Dc.copy (c : Dc) (lim : Nat) : Dc :=
  let k := min c.matchLeft (lim - c.n)
  { c with out := copyMatch k c.matchOff c.out, n := c.n + k, matchLeft := c.matchLeft - k }

/-- The fields of a UPF token before its literals (R100 to R102). -/
def upfToken (s : BitSrc) (c : Dc) : DStep :=
  match s.get c.pos 8 with
  | none => (c, some .more)
  | some ctrl =>
    let rc := ctrl % 16
    let mc := ctrl / 16
    let p1 := c.pos + 8
    if ctrl = 0 then ({ c with pos := p1 }, some (.err 8 c.pos))
    else match (if rc = 15 then readExt s p1 [] else .ok (0, p1)) with
    | .more _ _ => (c, some .more)
    | .err e p _ => ({ c with pos := p + 24 }, some (.err e p))
    | .ok (rx, p2) =>
      let run := if rc = 15 then 15 + rx else rc
      if c.goal < c.n + run then ({ c with pos := p2 }, some (.err 5 (if rc = 15 then p1 else c.pos)))
      else match (if mc = 15 then readExt s p2 [] else .ok (0, p2)) with
      | .more _ _ => (c, some .more)
      | .err e p _ => ({ c with pos := p + 24 }, some (.err e p))
      | .ok (lx, p3) =>
        let len := if mc = 0 then 0 else if mc = 15 then 18 + lx else mc + 3
        if c.goal < c.n + run + len then ({ c with pos := p3 }, some (.err 6 (if mc = 15 then p2 else c.pos)))
        else if mc = 0 ∧ c.n + run ≠ c.goal then ({ c with pos := p3 }, some (.err 8 c.pos))
        else match (if mc = 0 then some 0 else s.get p3 16) with
          | none => (c, some .more)
          | some off =>
            if mc ≠ 0 ∧ (c.win < off + 1 ∨ c.n + run < off + 1) then ({ c with pos := p3 + 16 }, some (.err 7 p3))
            else ({ c with pos := if mc = 0 then p3 else p3 + 16, runLeft := run, matchLeft := len, matchOff := off + 1 }, none)

/-- One element of a UPF stream. -/
def upfStep (s : BitSrc) (lim : Nat) (c : Dc) : DStep :=
  match c.phase with
  | 0 => match s.get 0 64 with
    | none => (c, some .more)
    | some h =>
      let wlog := h / 2 ^ 32 % 256
      if h % 2 ^ 32 = 0x01465055 ∧ 12 ≤ wlog ∧ wlog ≤ 16 ∧ h / 2 ^ 40 % 256 = 0 ∧ h / 2 ^ 48 % 256 = 255 - wlog ∧ h / 2 ^ 56 = 255 then
        ({ c with pos := 64, phase := 1, win := 2 ^ wlog, wlog }, none)
      else ({ c with pos := 64 }, some (.err 1 0))
  | 1 => match s.get c.pos 32 with
    | none => (c, some .more)
    | some h =>
      let ulen := h / 16 % 2 ^ 17
      let c' := { c with pos := c.pos + 32 }
      if h % 4 = 3 ∨ h / 2 ^ 21 ≠ 0 ∨ 65536 < ulen ∨ (ulen = 0 ∧ h % 8 ≠ 4) then (c', some (.err 2 c.pos))
      else ({ c' with phase := 2, btype := h % 4, last := h.testBit 2, goal := c.n + ulen, bstart := c.n, table := false,
                      runLeft := if h % 4 = 0 then ulen else 0 }, none)
  | 2 =>
    if 0 < c.runLeft then
      if c.n = lim then (c, some .full)
      else if c.btype = 2 then
        match readSym s (canonical 12 c.lens) c.pos with
        | .more => (c, some .more)
        | .err e => (c, some (.err e c.pos))
        | .ok none => ({ c with pos := c.pos + 1 }, some (.err 3 c.pos))
        | .ok (some (v, p)) => ({ c with pos := p, runLeft := c.runLeft - 1 }.push (BitVec.ofNat 8 v), none)
      else match s.get c.pos 8 with
        | none => (c, some .more)
        | some v => ({ c with pos := c.pos + 8, runLeft := c.runLeft - 1 }.push (BitVec.ofNat 8 v), none)
    else if 0 < c.matchLeft then (if c.n = lim then (c, some .full) else (c.copy lim, none))
    else if c.btype = 2 ∧ ¬ c.table then
      match s.get c.pos 1024 with
      | none => (c, some .more)
      | some t =>
        let lens := (List.range 256).map fun i => (t >>> (4 * i)) % 16
        if tableOk lens then ({ c with pos := c.pos + 1024, table := true, lens }, none) else ({ c with pos := c.pos + 1024 }, some (.err 3 c.pos))
    else if c.n = c.goal then
      let p := (c.pos + 7) / 8 * 8
      match s.get p 32 with
      | none => (c, some .more)
      | some x =>
        let c' := { c with pos := p + 32 }
        if x = crc32c (c.out.take (c.goal - c.bstart)).reverse then ({ c' with good := c.n, phase := if c.last then 3 else 1 }, none)
        else (c', some .check)
    else if c.n = lim then (c, some .full)
    else upfToken s c
  | _ => match s.get c.pos 32 with
    | none => (c, some .more)
    | some x =>
      let c' := { c with pos := c.pos + 32 }
      if x = crc32c c.out.reverse then ({ c' with phase := 4 }, some .ended) else ({ c' with good := 0 }, some .check)

/-- The end of a zero-ended field of a gzip header. -/
def skipZero (s : BitSrc) : Nat → Nat → Option Nat
  | 0, _ => none
  | fuel + 1, pos => match s.get pos 8 with
    | none => none
    | some b => if b = 0 then some (pos + 8) else skipZero s fuel (pos + 8)

/-- A gzip header (R109): the position after it. -/
def gzipHeader (s : BitSrc) : ERes Nat :=
  match s.get 0 80 with
  | none => .more
  | some h =>
    let flg := h / 2 ^ 24 % 256
    if h % 2 ^ 16 ≠ 0x8B1F ∨ h / 2 ^ 16 % 256 ≠ 8 ∨ 32 ≤ flg then .err 0x14
    else
      let p1 : Option Nat := if flg.testBit 2 then (s.get 80 16).bind (fun x => if 96 + 8 * x ≤ s.len then some (96 + 8 * x) else none) else some 80
      let p2 := p1.bind fun p => if flg.testBit 3 then skipZero s s.len p else some p
      let p3 := p2.bind fun p => if flg.testBit 4 then skipZero s s.len p else some p
      match p3 with
      | none => .more
      | some p =>
        if flg.testBit 1 then match s.get p 16 with
          | none => .more
          | some x => if x = crc32 (bytesOf s.bits (p / 8)) % 65536 then .ok (p + 16) else .err 0x14
        else .ok p

/-- A block header of DEFLATE. -/
def deflHead (s : BitSrc) (c : Dc) : DStep :=
  match s.get c.pos 3 with
  | none => (c, some .more)
  | some h =>
    let p := c.pos + 3
    let c' := { c with phase := 2, btype := h / 2, last := h.testBit 0, bstart := c.n, runLeft := 0 }
    match h / 2 with
    | 0 =>
      let p := (p + 7) / 8 * 8
      match s.get p 32 with
      | none => (c, some .more)
      | some x =>
        if x % 65536 + x / 65536 = 65535 then ({ c' with pos := p + 32, runLeft := x % 65536 }, none) else ({ c with pos := p + 32 }, some (.err 0x11 p))
    | 1 => ({ c' with pos := p, lens := fixedLit, dlens := fixedDist }, none)
    | 2 => match readDynamic s p with
      | .more => (c, some .more)
      | .err e => ({ c with pos := p + 14 }, some (.err e p))
      | .ok (lit, dist, p) => ({ c' with pos := p, lens := lit, dlens := dist }, none)
    | _ => ({ c with pos := p }, some (.err 0x10 c.pos))

/-- A block ends. -/
def deflEnd (c : Dc) : Dc := { c with phase := if c.last then 3 else 1, pos := if c.last then (c.pos + 7) / 8 * 8 else c.pos }

/-- One symbol of a Huffman block: a literal, a length with its distance, or the end. -/
def deflSym (s : BitSrc) (lim : Nat) (c : Dc) : DStep :=
  match readSym s (canonical 15 c.lens) c.pos with
  | .more => (c, some .more)
  | .err e => (c, some (.err e c.pos))
  | .ok none => (c, some (.err 0x12 c.pos))
  | .ok (some (v, p)) =>
    if v < 256 then (if c.n = lim then ({ c with pos := p }, some .full) else ({ c with pos := p }.push (BitVec.ofNat 8 v), none))
    else if v = 256 then (deflEnd { c with pos := p }, none)
    else match lenCodes[v - 257]? with
      | none => ({ c with pos := p }, some (.err 0x12 c.pos))
      | some (lb, lx) => match s.get p lx, readSym s (canonical 15 c.dlens) (p + lx) with
        | none, _ => (c, some .more)
        | _, .more => (c, some .more)
        | _, .err e => (c, some (.err e (p + lx)))
        | _, .ok none => ({ c with pos := p + lx }, some (.err 0x12 (p + lx)))
        | some le, .ok (some (dv, p2)) => match distCodes[dv]? with
          | none => ({ c with pos := p2 }, some (.err 0x12 (p + lx)))
          | some (db, dx) => match s.get p2 dx with
            | none => (c, some .more)
            | some de =>
              if c.n < db + de then ({ c with pos := p2 + dx }, some (.err 0x13 (p + lx)))
              else ({ c with pos := p2 + dx, matchLeft := lb + le, matchOff := db + de }, none)

/-- One element of a DEFLATE, zlib or gzip stream. -/
def deflStep (format : Nat) (s : BitSrc) (lim : Nat) (c : Dc) : DStep :=
  match c.phase with
  | 0 => match format with
    | 3 => match s.get 0 16 with
      | none => (c, some .more)
      | some h =>
        if h % 16 = 8 ∧ h / 16 % 16 ≤ 7 ∧ (h % 256 * 256 + h / 256) % 31 = 0 ∧ ¬ h.testBit 13 then ({ c with pos := 16, phase := 1 }, none)
        else ({ c with pos := 16 }, some (.err 0x14 0))
    | 4 => match gzipHeader s with
      | .more => (c, some .more)
      | .err e => ({ c with pos := 80 }, some (.err e 0))
      | .ok p => ({ c with pos := p, phase := 1 }, none)
    | _ => ({ c with phase := 1 }, none)
  | 1 => deflHead s c
  | 2 =>
    if 0 < c.matchLeft then (if c.n = lim then (c, some .full) else (c.copy lim, none))
    else if c.btype = 0 then
      if c.runLeft = 0 then (deflEnd c, none)
      else if c.n = lim then (c, some .full)
      else match s.get c.pos 8 with
        | none => (c, some .more)
        | some v => ({ c with pos := c.pos + 8, runLeft := c.runLeft - 1 }.push (BitVec.ofNat 8 v), none)
    else deflSym s lim c
  | _ => match format with
    | 3 => match s.get c.pos 32 with
      | none => (c, some .more)
      | some x =>
        let c' := { c with pos := c.pos + 32 }
        if bytesOf x 4 = (bytesOf (adler32 c.out.reverse) 4).reverse then ({ c' with phase := 4, good := c.n }, some .ended) else (c', some .check)
    | 4 => match s.get c.pos 64 with
      | none => (c, some .more)
      | some x =>
        let c' := { c with pos := c.pos + 64 }
        if x % 2 ^ 32 = crc32 c.out.reverse ∧ x / 2 ^ 32 = c.n % 2 ^ 32 then ({ c' with phase := 4, good := c.n }, some .ended) else (c', some .check)
    | _ => ({ c with phase := 4, good := c.n }, some .ended)

/-- Elements until the decoder stops. -/
def dcLoop (step : Dc → DStep) : Nat → Dc → Dc × DStop
  | 0, c => (c, .more)
  | fuel + 1, c => match step c with
    | (c, some r) => (c, r)
    | (c, none) => dcLoop step fuel c

/-- Decode a stream from its first byte, up to `lim` bytes of output. -/
def decodeStream (format : Nat) (input : List Byte) (lim : Nat) : Dc × DStop :=
  let s := bitSrc input
  dcLoop (if format = 0 then upfStep s lim else deflStep format s lim) (2 * (8 * input.length + lim) + 64) {}

end Sys2Proof.Machine
end

