-- ==== Sys2Proof/Machine/UpfEnc.lean ====
section
/-! DEFINITION. Encoding: the UPF blocks and the page variant (R97 to R107) and the DEFLATE, zlib and gzip formats (R108), as
sequences of whole units (R116). -/

namespace Sys2Proof.Machine

/-! ## Bits -/

/-- Bytes as bits. -/
def byteBits (l : List Byte) : List Bool := l.flatMap fun b => bitsLsb b.toNat 8
/-- The whole bytes of a list of bits. -/
def bitBytes (l : List Bool) : List Byte := bytesOf (ofBits l) (l.length / 8)
/-- The zero bits that fill up to a byte. -/
def padBits (n : Nat) : List Bool := List.replicate ((8 - n % 8) % 8) false

/-- A unit (R116): its UNIT code and its bits. -/
abbrev EncUnit := Nat × List Bool

/-! ## Tokens -/

/-- A literal run followed by a match; length 0 for none. -/
abbrev Tok := List Byte × Nat × Nat

/-- The output of tokens behind a history, newest byte first; none where a token is not allowed. `lo` and `hi` bound a match. -/
def replayToks (win lo hi : Nat) : List Tok → List Byte → Option (List Byte)
  | [], out => some out
  | (ls, n, off) :: rest, out =>
    let out := ls.reverse ++ out
    if n = 0 then (if rest.isEmpty ∧ ¬ ls.isEmpty then some out else none)
    else if n < lo ∨ hi < n ∨ off = 0 ∨ win < off ∨ out.length < off then none
    else replayToks win lo hi rest (copyMatch n off out)

/-- The encoder's tokens, where they spell the block; else the block as one literal run. -/
def tokensOf (choice : List Tok) (win lo hi : Nat) (history block : List Byte) : List Tok :=
  if replayToks win lo hi choice history.reverse = some (block.reverse ++ history.reverse) then choice
  else if block.isEmpty then [] else [(block, 0, 0)]

/-! ## UPF (R97 to R107) -/

/-- An extension value in 7-bit groups (R101). -/
def extBytes (v : Nat) : List Byte :=
  if v < 128 then [BitVec.ofNat 8 v]
  else if v < 16384 then [BitVec.ofNat 8 (v % 128 + 128), BitVec.ofNat 8 (v / 128)]
  else [BitVec.ofNat 8 (v % 128 + 128), BitVec.ofNat 8 (v / 128 % 128 + 128), BitVec.ofNat 8 (v / 16384)]

/-- The fields of a token before its literals (R100). -/
def tokHead (t : Tok) : List Byte :=
  let run := t.1.length
  let n := t.2.1
  let ctrl := min run 15 + 16 * (if n = 0 then 0 else if 18 ≤ n then 15 else n - 3)
  [BitVec.ofNat 8 ctrl] ++ (if 15 ≤ run then extBytes (run - 15) else []) ++ (if 18 ≤ n then extBytes (n - 18) else [])
    ++ (if n = 0 then [] else bytesOf (t.2.2 - 1) 2)

/-- The code of a literal. -/
def litBits (codes : List (Nat × Nat × Nat)) (b : Byte) : List Bool :=
  match codes.find? fun c => c.2.2 = b.toNat with
  | some c => bitsMsb c.2.1 c.1
  | none => []

/-- The 4-bit literal table of a TYPE 2 block. -/
def litTable (lens : List Nat) : List Bool := lens.flatMap fun l => bitsLsb l 4

/-- A block's type, its payload units and its payload bytes, shortest first, lower type on a tie (R105). `page` allows no TYPE 0. -/
def upfPayload (effort win : Nat) (page : Bool) (history block : List Byte) : Nat × List EncUnit :=
  let toks := tokensOf (Config.upfMatch effort win history block) win 4 2097169 history block
  let t1 := toks.map fun t => ((4 : Nat), byteBits (tokHead t ++ t.1))
  let n1 := (t1.map (·.2.length)).sum / 8
  let lits := toks.flatMap (·.1)
  let lens := Config.upfLengths lits
  let ok := lens.length = 256 && tableOk lens && lits.all fun b => lens.getD b.toNat 0 ≠ 0
  let codes := canonical 12 lens
  let t2 := toks.map fun t => ((4 : Nat), byteBits (tokHead t) ++ t.1.flatMap (litBits codes))
  let n2bits := (t2.map (·.2.length)).sum
  let n2 := 128 + (n2bits + 7) / 8
  let padded := match t2.reverse with
    | (k, b) :: rest => ((k, b ++ padBits n2bits) :: rest).reverse
    | [] => []
  let use2 := ok && decide (n2 < n1) && (page || decide (n2 < block.length))
  if use2 then (2, (3, litTable lens) :: padded)
  else if page || decide (n1 < block.length) then (1, t1)
  else (0, (List.range ((block.length + 63) / 64)).map fun i => ((5 : Nat), byteBits ((block.drop (64 * i)).take 64)))

/-- A block header (R98). -/
def upfHeader (type : Nat) (last cut : Bool) (ulen : Nat) : List Byte := bytesOf (type + b2n last * 4 + b2n cut * 8 + ulen * 16) 4

/-- The units of one block of a stream, with its header and trailer. -/
def upfBlock (effort wlog : Nat) (history block : List Byte) (last cut : Bool) : List EncUnit :=
  let (type, us) := if block.isEmpty then (0, []) else upfPayload effort (2 ^ wlog) false history block
  (2, byteBits (upfHeader type last cut block.length)) :: us ++ [(6, byteBits (bytesOf (crc32c block) 4))]

/-- The stream header (R97). -/
def upfStreamHeader (wlog : Nat) : List Byte :=
  [0x55, 0x50, 0x46, 0x01, BitVec.ofNat 8 wlog, 0, ~~~(BitVec.ofNat 8 wlog), 0xFF]

/-- The page variant of 4,096 bytes (R107), of whatever length it comes to. -/
def encodePage (effort : Nat) (bytes : List Byte) : List Byte :=
  let (type, us) := upfPayload effort 4096 true [] bytes
  upfHeader type true false 4096 ++ bitBytes (us.flatMap (·.2)) ++ bytesOf (crc32c bytes) 4

/-! ## DEFLATE (R108) -/

/-- The code of a value in such a table: its index, extra bit count and extra value; the last entry whose base does not pass it. -/
def rangeCode (t : List (Nat × Nat)) (v : Nat) : Nat × Nat × Nat :=
  (t.zipIdx.foldl (fun (best : Nat × Nat × Nat) e => if e.1.1 ≤ v then (e.2, e.1.2, v - e.1.1) else best) (0, 0, 0))

/-- A symbol's code. -/
def symBits (codes : List (Nat × Nat × Nat)) (sym : Nat) : List Bool :=
  match codes.find? fun c => c.2.2 = sym with
  | some c => bitsMsb c.2.1 c.1
  | none => []

/-- The units of a block's tokens and its end under two codes. -/
def deflBody (lit dist : List Nat) (toks : List Tok) : List EncUnit :=
  let lc := canonical 15 lit
  let dc := canonical 15 dist
  (toks.map fun t =>
    let lits := t.1.flatMap fun b => symBits lc b.toNat
    if t.2.1 = 0 then ((4 : Nat), lits)
    else
      let l := rangeCode lenCodes t.2.1
      let x := rangeCode distCodes t.2.2
      (4, lits ++ symBits lc (257 + l.1) ++ bitsLsb l.2.2 l.2.1 ++ symBits dc x.1 ++ bitsLsb x.2.2 x.2.1))
  ++ [(4, symBits lc 256)]

/-- Whether two codes spell every symbol of the tokens. -/
def deflCovers (lit dist : List Nat) (toks : List Tok) : Bool :=
  lit.length ≤ 286 && dist.length ≤ 30 && 257 ≤ lit.length && 1 ≤ dist.length && lensOk false lit && lensOk true dist && lit.getD 256 0 ≠ 0 &&
  toks.all fun t => t.1.all (fun b => lit.getD b.toNat 0 ≠ 0) &&
    (t.2.1 = 0 || (lit.getD (257 + (rangeCode lenCodes t.2.1).1) 0 ≠ 0 && dist.getD (rangeCode distCodes t.2.2).1 0 ≠ 0))

/-- A stored block from bit phase `p` (RFC 1951). -/
def deflStored (p : Nat) (last : Bool) (block : List Byte) : List EncUnit :=
  (2, bitsLsb (b2n last) 3 ++ padBits (p + 3) ++ bitsLsb block.length 16 ++ bitsLsb (65535 - block.length) 16)
    :: (List.range ((block.length + 63) / 64)).map fun i => (5, byteBits ((block.drop (64 * i)).take 64))

/-- Bits of units. -/
def unitBits (l : List EncUnit) : Nat := (l.map (·.2.length)).sum

/-- The shortest block from bit phase `p`: stored, then fixed, then dynamic on a tie (R108). -/
def deflBlock (effort p : Nat) (history block : List Byte) (last : Bool) : List EncUnit :=
  let h := history.drop (history.length - 32768)
  let toks := tokensOf (Config.deflMatch effort h block) 32768 3 258 h block
  let st := deflStored p last block
  let fx := (2, bitsLsb (b2n last + 2) 3) :: deflBody fixedLit fixedDist toks
  let (lit, dist) := Config.deflLengths toks
  let dy := [((2 : Nat), bitsLsb (b2n last + 4) 3), (3, Config.deflTable lit dist)] ++ deflBody lit dist toks
  let best := if unitBits st ≤ unitBits fx then st else fx
  let spelled : Bool := match readDynamic (bitsSrc (Config.deflTable lit dist)) 0 with
    | .ok x => decide (x = (lit, dist, (Config.deflTable lit dist).length))
    | .more | .err _ => false
  if deflCovers lit dist toks ∧ spelled ∧ unitBits dy < unitBits best then dy else best

/-- zlib and gzip headers and trailers (R108). -/
def wrapHeader (format effort : Nat) : List Byte :=
  match format with
  | 3 => [0x78, if effort = 0 then 0x01 else 0x9C]
  | 4 => [0x1F, 0x8B, 8, 0, 0, 0, 0, 0, if effort = 0 then 0x04 else 0x00, 0xFF]
  | _ => []
def wrapTrailer (format : Nat) (all : List Byte) : List Byte :=
  match format with
  | 3 => (bytesOf (adler32 all) 4).reverse
  | 4 => bytesOf (crc32 all) 4 ++ bytesOf (all.length % 2 ^ 32) 4
  | _ => []

/-! ## Streams -/

/-- An encode between units: the pending units, the bits and the kind of block in progress, and the input consumed since START. -/
structure EncSt where
  units : List EncUnit := []
  bits : List Bool := []
  input : List Byte := []
  blockStart : Nat := 0
  blockDone : Nat := 0
  final : Bool := false
  curStart : Nat := 0
  btype : Nat := 0
  table : Nat := 0
deriving DecidableEq, Repr

/-- The largest block of a format. -/
def blockMax (format : Nat) : Nat := if format = 0 then 65536 else 65535

/-- The type of a block from its header unit, and its literal table. -/
def unitType (format : Nat) (us : List EncUnit) : Nat := match us with
  | (2, b) :: _ => if format = 0 then ofBits (b.take 2) else ofBits ((b.drop 1).take 2)
  | _ => 0
def unitTable (us : List EncUnit) : Nat := match us with
  | _ :: (3, b) :: _ => ofBits b
  | _ => 0

/-- The units that end a stream after its last block; `p` is the bit phase after that block. -/
def streamEnd (format p : Nat) (all : List Byte) : List EncUnit :=
  if format = 0 then [(7, byteBits (bytesOf (crc32c all) 4))]
  else
    let pad := padBits p
    let tr := wrapTrailer format all
    if pad.isEmpty ∧ tr.isEmpty then [] else [(7, pad ++ byteBits tr)]

/-- The units of the block that ends at the input consumed, with what CUT and END add (R99, R114). -/
def blockUnits (format effort wlog : Nat) (s : EncSt) (cut fin : Bool) : List EncUnit :=
  let hist := s.input.take s.blockStart
  let cur := s.input.drop s.blockStart
  if format = 0 then
    if cur.isEmpty ∧ ¬ fin then []
    else upfBlock effort wlog (hist.drop (hist.length - 2 ^ wlog)) cur fin (cut && !cur.isEmpty) ++ (if fin then streamEnd 0 0 s.input else [])
  else
    let p := s.bits.length
    let body := if cur.isEmpty ∧ (cut ∨ ¬ fin) then [] else deflBlock effort p hist cur (fin && !cut)
    let p1 := p + unitBits body
    let tail := if cut then deflStored p1 fin [] else []
    body ++ tail ++ (if fin then streamEnd format (p1 + unitBits tail) s.input else [])

/-- Write pending units while they fit into `room` bytes: the state, the bytes in order, and whether all went out. -/
def flushUnits : List EncUnit → EncSt → Nat → List Byte → EncSt × List Byte × Bool
  | [], s, _, out => ({ s with units := [] }, out, true)
  | u :: rest, s, room, out =>
    let nb := s.bits ++ u.2
    let k := nb.length / 8
    if room < k then ({ s with units := u :: rest }, out, false)
    else
      let isBlock := 2 ≤ u.1 && u.1 ≤ 6
      flushUnits rest { s with bits := nb.drop (8 * k), blockDone := if isBlock then s.blockDone + k else s.blockDone } (room - k) (out ++ bitBytes (nb.take (8 * k)))

/-- Encode: flush what is pending, then take input block by block; a stream's header goes out with its first block, whose input is
consumed first (R112, R116). `x` is the input left. Answers the state, the output, the input consumed by this job, and whether it
stopped with OUT_FULL. -/
def encodeLoop (format effort wlog : Nat) (cut fin : Bool) : Nat → EncSt → List Byte → Nat → List Byte → Nat → EncSt × List Byte × Nat × Bool
  | 0, s, _, _, out, used => (s, out, used, false)
  | fuel + 1, s, x, cap, out, used =>
    let fresh := s.input.isEmpty && (s.units.headD (0, [])).1 = 1
    let (s, out, ok) := if fresh then (s, out, true) else flushUnits s.units s (cap - out.length) out
    if ¬ ok then (s, out, used, true)
    else if s.final then (s, out, used, false)
    else
      let n := min (blockMax format - (s.input.length - s.blockStart)) x.length
      let s := { s with input := s.input ++ x.take n }
      let x := x.drop n
      let full := s.input.length - s.blockStart = blockMax format
      let atEnd := x.isEmpty && (cut || fin)
      if full ∨ atEnd then
        let us := blockUnits format effort wlog s (cut && x.isEmpty) (fin && x.isEmpty)
        let s := { s with units := s.units ++ us, curStart := s.blockStart, blockStart := s.input.length, blockDone := 0, final := fin && x.isEmpty, btype := unitType format us, table := unitTable us }
        if atEnd then
          let (s, out, ok) := flushUnits s.units s (cap - out.length) out
          (s, out, used + n, !ok)
        else encodeLoop format effort wlog cut fin fuel s x cap out (used + n)
      else
        let (s, out, ok) := flushUnits s.units s (cap - out.length) out
        (s, out, used + n, !ok)

/-- The state of a stream at START: its header is pending. -/
def encodeStart (format effort wlog : Nat) : EncSt :=
  let h := if format = 0 then upfStreamHeader wlog else wrapHeader format effort
  { units := if h.isEmpty then [] else [(1, byteBits h)] }

/-- One encode job from a state. -/
def encodeRun (format effort wlog : Nat) (cut fin : Bool) (s : EncSt) (x : List Byte) (cap : Nat) : EncSt × List Byte × Nat × Bool :=
  encodeLoop format effort wlog cut fin (x.length + 2) s x cap [] 0

end Sys2Proof.Machine
end

