-- ==== Sys2Proof/Machine/State.lean ====
section
/-! DEFINITION. The state of the block as plain data: its registers, the window's latches, every table, queue, buffer and
engine the chapters name, the media and the always-on island, and the queue of commands that wait. -/

namespace Sys2Proof.Machine

/-! ## The register window (02) -/

/-- The five run states of a block (R39). -/
inductive Run where
  | rolling | cutting | cut | resetting | fenced
deriving DecidableEq, Repr

/-- What a page holds beside its registers: the run state, a Continuity fence that arrived while Resetting, the
WRITE_REFUSED bit (R33), EVENT_STAT (R34) and the source whose record fenced the block (R403). -/
structure PageSt where
  run : Run
  fenceAtEnd : Option Nat := none
  writeRefused : Bool := false
  eventStat : Word := 0
  fencedBy : Option Nat := none
deriving DecidableEq, Repr

/-- The read latch and the write latch of one path (R25): the window offset of the register and the word held. -/
structure Latches where
  rd : Option (Nat × Word) := none
  wr : Option (Nat × Word) := none
deriving DecidableEq, Repr

/-! ## Requests -/

/-- Who a request answers to. -/
inductive Src where
  | host (p : Fin 16) (tag : Nat)
  | io (p : Fin 16) (tag : Nat) (lo n : Nat)
  | mw (b : Fin 8) (dev : DevId) (tag : BitVec 12) (code : Nat)
  /-- a lane's job that waits for a line to be granted to it: it gets no answer, its row finds the line ready -/
  | engine (q : Fin 4) (lane : Fin 8)
  /-- the completion record of a job of a ring, with its interrupt (R250, R251) -/
  | compl (q : Fin 4) (ring : BitVec 8) (int : Bool)
  | debug
deriving DecidableEq, Repr

/-- Who finds a failure, coded as FINDER of R402. -/
inductive Finder where
  | host | engine | marwen | sander | dolly | sweep | partialWrite | flush | debug
deriving DecidableEq, Repr

/-- The kinds of request the directory distinguishes (R205). -/
inductive Kind where
  | rs | re | rc | own | wr | wb | evc | atm
deriving DecidableEq, Repr

/-- What a request does at the home once it may. -/
inductive Op where
  | read
  | write (data : Line)
  | writePtl (data : Line) (mask : DWord)
  | poisonWrite
  | atomic (op : AtomOp) (bits off : Nat) (operand compare : BitVec 128)
  | none
deriving DecidableEq, Repr

/-- One request on its way. `agent` is its directory agent (R204); `keep` the state a WR or WB leaves its sender
(0 I, 1 S, 2 E); `slate`, `cls`, `noStage`, `heatW` what the Slate lookup gave (R231, R233); `limited` a write already
charged to the gates. -/
structure Req where
  id : Nat
  src : Src
  kind : Kind
  op : Op
  line : Nat
  agent : Nat
  keep : Nat := 0
  slate : Nat := 0
  cls : Nat := 63
  noStage : Bool := false
  heatW : Nat := 1
  panic : Bool := false
deriving DecidableEq, Repr

/-- Where a request stands when it cannot go on: the parking points and intakes the chapters name. -/
inductive Wait where
  /-- admission is stopped at the ports (R361, R399, R412) -/
  | admission
  /-- port gate of a host port or Marwen port (R236) -/
  | portGate
  /-- the intake of a quadrant one of whose blocks is cutting, cut or resetting (R41) -/
  | intake
  /-- a flushing range or an edge page (R136, R137, R139) -/
  | range
  /-- the quadrant queue (R209) -/
  | queue
  /-- a map line is being fetched (R59) -/
  | map
  /-- DRAM gate of the quadrant (R236) -/
  | dramGate
  /-- a binding is being written with zeros (R58) -/
  | bind
  /-- an urgent promotion (R78) -/
  | promote
  /-- no room for a binding or promotion (R86) -/
  | room
  /-- a decode of the Packed page (R94) -/
  | decode
  /-- a Stage way or write-back buffer place (R65), or a write queue place (R186) -/
  | stage
  /-- the read of the line from DRAM (R186) -/
  | dram
  /-- a place in a read queue (R186) -/
  | readQueue
  /-- the peer's grant or data (R221) -/
  | peer
  /-- the Seal pipelines are all fenced (R149) -/
  | seal
  /-- an older write of the same tracked line that is not done yet (R206, R209) -/
  | line
deriving DecidableEq, Repr

/-- A waiting request with the stage it waits at, its home quadrant and the time it came to wait. -/
structure Waiting where
  req : Req
  wait : Wait
  q : Fin 4
  since : DWord
deriving DecidableEq, Repr

/-! ## Set-associative arrays -/

/-- One set of a 16-way array: the ways in use with their keys, and the 15 bits of the pseudo-LRU tree. -/
structure ASet (α : Type) where
  ways : List (Nat × Nat × α) := []
  plru : BitVec 15 := 0
deriving DecidableEq, Repr

/-! ## Quadrant: map, Stage, tiering (03, 04) -/

/-- What the map cache holds for a key: a small entry, or a large entry with base MPN and frame heat (R59, R60). -/
inductive MapEnt where
  | small (e : DWord) (dirty : Bool)
  | large (base heat : Nat) (dirty : Bool)
deriving DecidableEq, Repr

/-- One Stage line (R63): the plaintext and whether it is dirty. -/
structure SLine where
  data : Line
  dirty : Bool
deriving DecidableEq, Repr

/-- One entry of the write-back buffer (R65): the line, its data, the media place its page had at admission (R469; none
for a Span line), and the class it is charged to (R238). -/
structure WbEnt where
  line : Nat
  data : Line
  loc : Option Nat
  cls : Option Nat := none
  keepValid : Bool := false
deriving DecidableEq, Repr

/-- A flush of the Stage flush engine (R69): OP, first frame and past-the-end frame, and who asked. -/
inductive FlushBy where
  | software | range (r : Nat) | hardware
deriving DecidableEq, Repr
structure Flush where
  op : Nat
  lo : Nat
  hi : Nat
  by_ : FlushBy
deriving DecidableEq, Repr

/-- What a media page is used for (R61, R84). -/
inductive MUse where
  | free
  | open_ (page : Nat)
  | pool (slots : BitVec 16)
  | lining (extent : Nat)
deriving DecidableEq, Repr

/-- Where a Dolly move stands (R80). -/
inductive MPhase where
  | started | taken | switched
deriving DecidableEq, Repr

/-- The move of a quadrant (R80): page, entries, destination room, the lines poisoned on the way and the recopy mask. -/
structure Move where
  kind : Nat
  urgent : Bool
  page : Nat
  oldEntry : DWord
  newEntry : DWord
  phase : MPhase
  recopy : DWord
  data : List Line
  bad : List Nat
  /-- lines still to be asked for or sent -/
  todo : DWord := 0
  /-- the number of the first request that arrived after MOVING was set -/
  first : Nat := 0
  /-- whether step 2 is done -/
  ready : Bool := false
deriving DecidableEq, Repr

/-- The Dolly journal line (R82). `ok` stands for its CHECK. -/
structure DollyJ where
  active : Bool
  kind : Nat
  urgent : Bool
  phase : Nat
  seq : Word
  page : Nat
  oldEntry : DWord
  newEntry : DWord
  ok : Bool := true
deriving DecidableEq, Repr

/-- The Repaint journal line (R143). -/
structure RepaintJ where
  step : Nat
  slot : Nat
  repaint : Bool
  range : Nat
  seq : Word
  page : Nat
  nextEdge : Nat
  ok : Bool := true
deriving DecidableEq, Repr

/-- The page a sweep of the quadrant works on (R140). -/
structure SweepPage where
  slot : Nat
  page : Nat
  scratch : Bool
  words : List (Nat × Stored)
deriving DecidableEq, Repr

/-! ## Pack engines (05) -/

/-- The client of a pack engine, coded as ENG_STAT.CLIENT (R124). -/
inductive PackWork where
  | decode (page : Nat)
  | promotion (page : Nat)
  | dolly (page : Nat)
  | job (lane : Nat)
deriving DecidableEq, Repr

/-- One pack engine: what it works on, what it set aside, whether it is fenced, and whether the last work taken was a
job block (R92). -/
structure Engine where
  work : Option PackWork := none
  aside : Option PackWork := none
  fenced : Bool := false
  lastJob : Bool := false
deriving DecidableEq, Repr

/-- A page decode that waits or runs (R94): whether it is marked decode-and-promote (R243), and the reader that began it. -/
structure Decode where
  page : Nat
  promote : Bool
  reader : Nat
  running : Bool
deriving DecidableEq, Repr

/-! ## Seal (06) -/

/-- The state of a key range (R135). -/
inductive RState where
  | unused | active | flushing | filling | repainting
deriving DecidableEq, Repr

/-- One key range (R126, R151); `cmd` is the RANGE_CMD operation that put it into Flushing, Filling or Repainting. -/
structure Range where
  base : Nat := 0
  len : Nat := 0
  keySlot : Nat := 0
  nextSlot : Nat := 0
  enc : Bool := false
  tag : Bool := false
  debugRd : Bool := false
  test : Bool := false
  sweep : Nat := 0
  state : RState := .unused
  hosts : BitVec 16 := 0
  cmd : Nat := 0
  /-- the quadrants that have finished the flush of Flushing -/
  flushed : BitVec 4 := 0
deriving DecidableEq, Repr

/-- A command of the range table being applied (R133): its operation, its range, and the range with the staged settings. -/
structure RangeCmd where
  op : Nat
  r : Nat
  new : Range
deriving DecidableEq, Repr

/-- One key slot (R132). -/
structure KeySlot where
  bound : Bool := false
  derived : Bool := false
  generation : BitVec 16 := 0
  key : BitVec 768 := 0
deriving DecidableEq, Repr

/-- One sweep slot (R137, R142). -/
structure Sweep where
  range : Nat := 0
  active : Bool := false
  repaint : Bool := false
  qdone : BitVec 4 := 0
  edge : List Nat := [0, 0, 0, 0]
deriving DecidableEq, Repr

/-! ## Stored data (07) -/

/-- The CXL source of a poison record (R169). -/
inductive PSource where
  | internal | external | injected | vendor
deriving DecidableEq, Repr

/-- One poison-list record (R169, R170, R171): first line, 1 or 64 lines less those removed, source, time, and whether it
stands without a location. -/
structure PRec where
  line : Nat
  lines : Nat
  removed : List Nat := []
  src : PSource
  time : DWord
  located : Bool := true
deriving DecidableEq, Repr

/-- The state of a Patch table entry (R178). -/
inductive PatchState where
  | counting | watching | hard
deriving DecidableEq, Repr
structure Patch where
  loc : Nat
  count : Nat
  time : DWord
  state : PatchState
deriving DecidableEq, Repr

/-- Where the Sander stands (R175): the part, the position in it, and when the lap began. -/
structure Sander where
  part : Nat := 0
  pos : Nat := 0
  line : Nat := 0
  lapStart : DWord := 0
  overdue : Bool := false
  laps : BitVec 16 := 0
deriving DecidableEq, Repr

/-! ## DRAM (08) -/

/-- What a DRAM read is for. -/
inductive RPurpose where
  | req (r : Req)
  | sander
deriving DecidableEq, Repr

/-- One read in a sub-channel's queue (R186, R189): its place, page line, purpose, whether its port is in panic, how often
it was passed, and the word taken when it issued or met a queued write (R187). -/
structure RdEnt where
  loc : Nat
  line : Nat
  purpose : RPurpose
  panic : Bool
  passed : Nat := 0
  word : Option Stored := none
deriving DecidableEq, Repr

/-- One write in a sub-channel's queue: its place, its stored word and how often it was passed (R186, R189). -/
structure WqEnt where
  loc : Nat
  word : Stored
  passed : Nat := 0
deriving DecidableEq, Repr

/-- The scheduler's mode (R188). -/
inductive SMode where
  | read | drain | idleWrite
deriving DecidableEq, Repr

/-- The commands a sub-channel issues, as its retry buffer keeps them (R195). -/
inductive DCmd where
  | activate (bank row : Nat)
  | precharge (bank : Nat)
  | read (loc : Nat)
  | write (loc : Nat) (word : Stored)
  | refresh (rank : Nat)
  | rfm (bank : Nat)
  | drfm (bank row radius : Nat)
  | selfRefresh
  | powerDown
deriving DecidableEq, Repr

/-- One sub-channel (R186 to R197). -/
structure Sub where
  rq : List RdEnt := []
  wq : List WqEnt := []
  flight : List RdEnt := []
  mode : SMode := .read
  panic : Bool := false
  retry : List DCmd := []
  inRetry : Bool := false
  alert : Bool := false
  replays : List DCmd := []
  failedReplays : Nat := 0
  fenced : Bool := false
  swFence : Bool := false
  postponed : List Nat := [0, 0, 0, 0, 0, 0, 0, 0]
  nextBank : List Nat := [0, 0, 0, 0, 0, 0, 0, 0]
  twice : BitVec 8 := 0
  hot : BitVec 8 := 0
  selfRefresh : Bool := false
  powerDown : Bool := false
  ppr : Bool := false
deriving DecidableEq, Repr

/-- One DRAM bank (R191, R193, R194): open row, last row and how it was left, the 2-bit counter, the tally table, the
refreshes since it was cleared, the accumulated activates and whether an RFM is owed. -/
structure Bank where
  openRow : Option Nat := none
  lastRow : Option Nat := none
  leftOpen : Bool := false
  settled : Bool := true
  ctr : Nat := 2
  tally : List (Nat × Nat) := []
  refs : Nat := 0
  raa : Nat := 0
deriving DecidableEq, Repr

/-! ## Directory (09) -/

/-- The stable states (R208). -/
inductive DState where
  | i | s | e
deriving DecidableEq, Repr

/-- A directory entry (R207). -/
structure DEnt where
  state : DState
  vector : BitVec 24
  ownerPeer : Nat := 0
  pg : Nat := 0
deriving DecidableEq, Repr

/-- The transient states (R211). -/
inductive TState where
  | awaitData | invalidating | downgrading | forwarding | evicting
deriving DecidableEq, Repr

/-- An open transaction (R209, R211): the request, its state, the agents awaited with their marks (R213) and the peers each
gate still waits for, the data collected, whether home data was poisoned, the victim line while Evicting, the holders
of the line to keep. -/
structure Trans where
  line : Nat
  req : Req
  state : TState
  await : List Nat := []
  marked : List Nat := []
  peers : List (Nat × Nat) := []
  data : Option Line := none
  poison : Bool := false
  homeReady : Bool := false
  peerPending : Bool := false
  victim : Option Nat := none
  opened : Nat := 0
deriving DecidableEq, Repr

/-- One remembered ATM (R219). -/
structure AtmMem where
  line : Nat
  agent : Nat
  time : DWord
  hit : Bool
deriving DecidableEq, Repr

/-- The peer's snoop of a Span line in progress (R222): line, peer, tag, the snoop's opcode, the requester to forward to,
the local agents awaited and the data returned. -/
structure PeerSnoop where
  line : Nat
  port : Nat
  peer : Nat
  tag : Nat
  opcode : Nat
  fwdPeer : Nat
  fwdTag : Nat
  await : List Nat
  data : Option Line
deriving DecidableEq, Repr

/-! ## Regulation (10) -/

/-- A regulation gate (R237, R238): tokens and used bytes of each class, and the pool. -/
structure Gate where
  tokens : Tab Int := []
  used : Tab Nat := []
  pool : Nat := 0
deriving DecidableEq, Repr

/-! ## Near-memory engines (11) -/

/-- The state of a job ring (R263). -/
inductive RingState where
  | off | running | stopping | error
deriving DecidableEq, Repr

/-- One job ring (R247, R248, R263). -/
structure Ring where
  descPage : Nat := 0
  compPage : Nat := 0
  cfg : Word := 4
  owner : Nat := 0
  hosts : BitVec 16 := 0
  head : Nat := 0
  tail : Nat := 0
  pass : Nat := 0
  state : RingState := .off
deriving DecidableEq, Repr

/-- How an XFER job stands (R257): how many bytes have been sent for, the tags still unanswered, and the first bad status. -/
structure XferRun where
  pos : Nat := 0
  open_ : Nat := 0
  bad : Nat := 0
deriving DecidableEq, Repr

/-- One job: its ring, its descriptor index, the pass parity at fetch, the 64 descriptor bytes (R249, R250), the status it
is to complete with unstarted (`early`, 0 none), whether its write has waited for room in a quadrant (R86) and has waited
too long (`late`), and how its transfer stands. -/
structure Job where
  ring : Nat
  index : Nat
  phase : Bool
  desc : List Byte
  slate : Nat
  early : Nat := 0
  roomQ : Option Nat := none
  late : Bool := false
  xfer : XferRun := {}
deriving DecidableEq, Repr

/-- The engine cluster of a quadrant: job queue, lanes, the ring the fetch goes round from, and the lines it holds in E
(R253, R258). -/
structure Cluster where
  queue : List Job := []
  lanes : Tab (Option Job) := []
  lastRing : Nat := 0
  held : List Nat := []
  rings : Tab Ring := []
  ringResult : Nat := 0
deriving DecidableEq, Repr

/-! ## The quadrant -/

structure Quad where
  mapSets : Tab (ASet MapEnt) := []
  miss : List Nat := []
  runs : List (Nat × Nat) := []
  use : Tab MUse := []
  badPages : List Nat := []
  stage : Tab (ASet SLine) := []
  wb : List WbEnt := []
  flush : Option Flush := none
  flushQ : List Flush := []
  lockedFlush : List Nat := []
  binds : List (Nat × Nat) := []
  samples : Nat := 0
  promo : List Nat := []
  demo : List Nat := []
  scanPos : Nat := 0
  move : Option Move := none
  moveSeq : Word := 0
  urgent : List Nat := []
  level : Nat := 0
  journal : Option DollyJ := none
  repaintJ : Option RepaintJ := none
  sweepPage : Option SweepPage := none
  sweepSeq : Word := 0
  engines : List Engine := [{}, {}]
  decodes : List Decode := []
  failedPages : List Nat := []
  pipeFenced : BitVec 4 := 0
  sander : Sander := {}
  patch : List Patch := []
  patchDropped : BitVec 16 := 0
  devCounts : Tab Nat := []
  remap : Tab (Option Nat) := []
  spareUsed : List Nat := [0, 0, 0, 0]
  rebuilds : List RdEnt := []
  pprUsed : List Nat := []
  flip : Option (Nat) := none
  poisonCopy : Option (List PRec) := none
  dir : Tab (ASet DEnt) := []
  dirBroken : List (Nat × Nat) := []
  trans : List Trans := []
  pred : Tab Nat := []
  atms : List AtmMem := []
  peerSnoops : List PeerSnoop := []
  gate : Gate := {}
  cluster : Cluster := {}
  waysOut : List (Nat × Nat) := []
  bistFail : List (Nat × Nat) := []
deriving DecidableEq, Repr

/-! ## Continuity (18) -/

/-- One record (R401): the CONTEXT of R402 as its 32 bytes, byte 0 in bits [7:0]. -/
structure Rec where
  time : DWord
  source : Nat
  sev : Nat
  timeValid : Bool
  injected : Bool
  seq : Word
  ctx : BitVec 256
deriving DecidableEq, Repr

/-- Continuity (R394 to R405). `halted` and `haltFlushed` are the bits of FLT.STAT, which outlive the halt; `haltRunning` and `haltOn` say
that a halt is under way and that one has ended and stands (R399). -/
structure Flt where
  latched : BitVec 512 := 0
  asserting : BitVec 512 := 0
  ring : List Rec := []
  fe : Option Rec := none
  feOverflow : Bool := false
  feCount : Word := 0
  seq : Word := 0
  clearRefused : Bool := false
  halted : Bool := false
  haltFlushed : Bool := false
  haltRunning : Bool := false
  haltOn : Bool := false
  alive : Bool := false
  lossSub : BitVec 32 := 0
  lossQ : BitVec 4 := 0
  locked : Bool := false
  stalls : List (FUnit × BitVec 16) := []
deriving DecidableEq, Repr

/-- A reaction that an assertion calls for and that the same step still owes (R397). -/
inductive React where
  | fence (u : FUnit) (source : Nat)
  | softFence (u : FUnit)
  | halt
deriving DecidableEq, Repr

/-! ## Power (16) -/

/-- The modes (R359). -/
inductive Mode where
  | boot | service | degraded | maintain | retain | factory
deriving DecidableEq, Repr

/-- The mode request being applied: Maintain or Retain (R361, R367). -/
inductive ModeReq where
  | maintain | retain
deriving DecidableEq, Repr

/-- Modes, domains, wake and time (R357 to R373): `req` is the request being applied, `holdUp` says that
a hold-up flush runs (R388), `domReq` the domain and operation of the domain request,
`ponr` the point of no return of R367, `warm` the path that asked for the warm reset that runs (R412), `activating` the head whose
Activate FW runs (R362), `cutBy` the clusters that the entry to Maintain or Retain cut, `kept` the time counter's value while XB is off,
`aoTicks` the AO ticks since then or, after a cold reset, since AO was powered. -/
structure Pwr where
  mode : Mode := .boot
  sub : Nat := 0
  subReq : Nat := 0
  dom : BitVec 20 := 1
  clkStop : BitVec 20 := 0
  req : Option ModeReq := none
  holdUp : Bool := false
  reqResult : Nat := 0
  domReq : Option (Nat × Nat) := none
  domResult : Nat := 0
  ponr : Bool := false
  wakeStep : Nat := 0
  wakeAttempts : Nat := 0
  wakeFail : Bool := false
  failStep : Nat := 0
  regOff : Bool := false
  wakeLatched : Bool := false
  vrEn : Bool := false
  pads : BitVec 7 := 0
  warm : Option Nat := none
  now : DWord := 0
  valid : Bool := false
  calValid : Bool := false
  unc : DWord := 0
  ratio : Word := 0x77359400
  kept : Option DWord := none
  aoTicks : DWord := 0
  activating : Option Nat := none
  cutBy : BitVec 4 := 0
deriving DecidableEq, Repr

/-- The Gaffer (R363 to R366). -/
structure Gaffer where
  vcore : Nat := 750
  est : Nat := 0
  grants : BitVec 7 := 0
  temps : List Int := [0, 0, 0, 0, 0, 0]
  trimForced : Bool := false
  upCount : Nat := 0
  step : Option Nat := none
  avsFault : Bool := false
  overCap : Bool := false
  thermFenced : BitVec 4 := 0
  lastThermal : Option DWord := none
  allFenced : Option DWord := none
deriving DecidableEq, Repr

/-! ## Host ports and heads (12) -/

/-- One committed HDM decoder of a port (R45): base, size, interleave ways, granularity, this device's position, the DPA it
starts at and whether it is HDM-DB. -/
structure Hdm where
  committed : Bool := false
  error : Bool := false
  base : Nat := 0
  size : Nat := 0
  ways : Nat := 1
  gran : Nat := 256
  pos : Nat := 0
  dpaBase : Nat := 0
  db : Bool := false
deriving DecidableEq, Repr

/-- One host port (R268 to R278): link, IDE streams (secure, the key set in use, failed, and whether the port has been reset since a failure), PERST_N
asserted, panic, ingress occupancy, decoders, memory active and the advertised timeout. Answers are owed only to requests numbered from
`upId` on: those that came since the link last went down (R275). -/
structure HPort where
  up : Bool := false
  rate : Nat := 0
  width : Nat := 0
  trained : Nat := 0
  ideMem : Bool := false
  ideIo : Bool := false
  memSet : Bool := false
  ioSet : Bool := false
  memBroken : Bool := false
  ioBroken : Bool := false
  wasReset : Bool := false
  perst : Bool := true
  panic : Bool := false
  occ : Nat := 0
  hdm : Tab Hdm := []
  memActive : Bool := false
  memTimeout : Nat := 0
  upId : Nat := 0
deriving DecidableEq, Repr

/-- The contents of an event record (R276, R397, R467, R85, R86, R452). -/
inductive Ev where
  | vendor (r : Rec)
  | media (r : PRec)
  | deviceFailed (q k dev : Nat)
  | hardLine (mpa : Nat)
  | subFilled (u : Nat)
  | addCapacity (extent : Nat)
  | releaseCapacity (extent : Nat)
  | holdUp (us : Nat) (done : Bool)
deriving DecidableEq, Repr

/-- One event record in a head's log. -/
structure EvRec where
  handle : Nat
  time : DWord
  ev : Ev
deriving DecidableEq, Repr

/-- A firmware transfer, incomplete or complete and not yet activated (R276, R348). -/
structure FwXfer where
  head : Nat
  secure : Bool
  bytes : Nat
  complete : Bool
deriving DecidableEq, Repr

/-- One head's mailbox state (R276): its five logs of 64 records, lost records, policies, capacity to transfer firmware. -/
structure Head where
  logs : List (List EvRec) := [[], [], [], [], []]
  lost : List Nat := [0, 0, 0, 0, 0]
  nextHandle : Nat := 1
  policy : List Byte := [0, 0, 0, 0, 0]
  alerts : List Byte := []
  fwOk : Bool := false
deriving DecidableEq, Repr

/-- One link brick's test hardware (R279, R280) and its lane locks. -/
structure Brick where
  testing : Bool := false
  errs : Tab (BitVec 48) := []
  lock : BitVec 8 := 0
  histDone : Bool := false
  histRun : Bool := false
deriving DecidableEq, Repr

/-- A CXL.io memory read of several lines (R273): its port and tag, its lines, and the parts read so far, each with its line, its bytes
and whether it is poisoned. -/
structure IoRead where
  port : Nat
  tag : Nat
  first : Nat
  lines : Nat
  parts : Tab (List Byte × Bool) := []
deriving DecidableEq, Repr

/-! ## What the block sends -/

/-- The contents of a mailbox answer (R276), as far as the spec gives them; their layout is CXL 3.1's. -/
inductive MbAns where
  | none
  | records (l : List EvRec) (lost : Nat)
  | bytes (l : List Byte)
  | time (ns : DWord)
  /-- the secure and the normal copy that run, and the copies the boot flags name (true for B) -/
  | firmware (secB normB secNext normNext : Bool)
  /-- Get Supported Logs: the Command Effects Log alone -/
  | logs
  /-- the Command Effects Log: the opcodes implemented -/
  | effects (opcodes : List Nat)
  /-- the capacity in 1 GiB extents, all volatile and none of it partitionable -/
  | capacity (extents : Nat)
  /-- Identify Memory Device: the capacity, and what CXL 3.1 asks for besides -/
  | identity (extents : Nat) (other : List Byte)
  /-- health: whether the device is Degraded, and a free value for what CXL 3.1 leaves to the device -/
  | health (degraded : Bool) (other : Nat)
  | poison (l : List PRec) (overflow : Bool) (lost : Option DWord)
  /-- Dynamic Capacity region 0: first extent, extents, block size in bytes -/
  | region (base len block : Nat)
  | extents (l : List Nat)
deriving DecidableEq, Repr

/-- Every message, answer and pin event the block sends out. -/
inductive Out where
  | regData (path : Path) (v : Word)
  | sideband (bytes : List Byte)
  /-- CXL.mem S2M data response: the line, whether it carries poison, and the state granted (0 I, 1 S, 2 E) -/
  | memData (p : Fin 16) (tag : Nat) (data : Line) (poison : Bool) (grant : Nat)
  /-- CXL.mem S2M NDR completion: 0 Cmp, 1 Cmp-S, 2 Cmp-E -/
  | memCmp (p : Fin 16) (tag : Nat) (grant : Nat)
  | biConflictAck (p : Fin 16) (line : Nat)
  | biSnp (p : Nat) (line : Nat) (inv : Bool)
  | ioData (p : Fin 16) (tag : Nat) (bytes : List Byte) (poison : Bool)
  | ioUr (p : Fin 16) (tag : Nat)
  /-- CXL.io AtomicOp completion with the original value -/
  | ioAtomic (p : Fin 16) (tag : Nat) (value : BitVec 128)
  | mwPacket (b : Nat) (slots : List (BitVec 128))
  | mwFlit (b : Fin 8) (flit : BitVec 2048)
  | mwDown (b : Fin 8)
  | msix (p : Nat) (vector : Nat)
  /-- an event record put into a head's log (R276): 0 Informational, 1 Warning, 2 Failure, 3 Fatal, 4 Dynamic Capacity -/
  | event (p : Nat) (log : Nat) (ev : Ev)
  | mailbox (p : Fin 16) (opcode code : Nat) (answer : MbAns)
  | spdm (p : Option (Fin 16)) (answer : List Byte)
  /-- the secure service's answer to a nonce request (R345) -/
  | nonce (p : Path) (nonce : BitVec 256)
  | avsbus (mv : Nat)
  | hostLinkDown (p : Nat)
  | hostLinkUp (p : Nat)
  | nack
  | debugData (data : Line) (accErr : Bool)
  | peerData (b : Nat) (tag : Nat) (data : Line) (poison : Bool)
deriving DecidableEq, Repr

/-- A command of the SLATE page being applied (R234). -/
inductive SlateCmd where
  | ctx (op : Nat) (secure : Bool)
  | fb (op : Nat)
deriving DecidableEq, Repr

/-- The Dynamic Capacity bookkeeping (R85, R86): the host each granted extent is bound to, in the order granted, the offer
and its host for each offer outstanding, oldest first, the last recipient and time, and each host's release request with the time of its answer or lapse. -/
structure Capacity where
  granted : List (Nat × Nat) := []
  offers : List (Nat × Nat) := []
  lastHost : Nat := 15
  lastOffer : Option DWord := none
  release : List (Nat × Nat) := []
  lastRelease : List (Nat × DWord) := []
deriving DecidableEq, Repr

/-- Regulation (R235 to R241): the port gates, the state, the allowances in 1/65536 of 0.5 GB/s and the floors in 1/16 GB/s. -/
structure Reg where
  ports : Tab Gate := []
  oversub : Bool := false
  overNominal : Bool := false
  scale : Nat := 0x10000
  floor : Nat := 0
  nominal : Nat := 0
  cfg : Tab Word := []
deriving DecidableEq, Repr

/-! ## Marwen link and fabric (13, 14) -/

/-- One unacknowledged CC flit (R301): its number, the flit as sent, whether it is due to be sent again, and when it was last sent. -/
structure CcOut where
  num : Nat
  flit : BitVec 2048
  again : Bool := false
  sent : DWord := 0
deriving DecidableEq, Repr

/-- One end of a Marwen link (R284 to R310). `state` is coded as LINK_STAT.STATE. Credits, credit returns owed and the
INIT values are in the order REQ, RSP, DAT, CC, MGT. `tx` holds the packets that wait at the transmit queue, `ingress`
the packets delivered and not yet handled, each with its channel in its lead byte. `want` and `peerWant` are this end's
and the peer's proposal of a retrain (false) or width change (true) with its lane mask. -/
structure MPort where
  state : Nat := 0
  leader : Bool := false
  width : Nat := 0
  mask : BitVec 8 := 0
  peerId : DevId := 0
  lock : BitVec 8 := 0xFF
  lockLost : Option DWord := none
  initRetry : Bool := false
  initGot : Bool := false
  doneGot : Bool := false
  doneSent : Bool := false
  credits : List Nat := [0, 0, 0, 0, 0]
  peerInit : List Nat := [0, 0, 0, 0, 0]
  owed : List Nat := [0, 0, 0, 0, 0]
  rxE : BitVec 12 := 0
  nakSent : Bool := false
  nakCount : Nat := 0
  nakDue : Bool := false
  txN : BitVec 12 := 0
  replayBuf : List (BitVec 12 × BitVec 2048) := []
  replayAt : Option Nat := none
  replayRun : Option (BitVec 12) := none
  replayTries : Nat := 0
  cce : BitVec 10 := 0
  reorder : List (BitVec 10 × BitVec 2048) := []
  ccN : BitVec 10 := 0
  ccOut : List CcOut := []
  ccSinceSent : Nat := 0
  sackDue : Bool := false
  lastCc : Bool := false
  ackCount : Nat := 0
  ackDue : Bool := false
  lctl : List (BitVec 128) := []
  want : Option (Bool × BitVec 8) := none
  peerWant : Option (Bool × BitVec 8) := none
  recovering : Bool := false
  resumeSent : Bool := false
  resumeGot : Bool := false
  since : DWord := 0
  ks : Option Bool := none
  switch : Option Bool := none
  txCtr : DWord := 0
  ccCtr : DWord := 0
  rxStart : Tab (BitVec 12 × BitVec 10) := []
  rxCtr : Tab (DWord × DWord) := []
  rekeyed : Bool := false
  occ : Nat := 0
  panic : Bool := false
  tx : List (List (BitVec 128)) := []
  ingress : List (List (BitVec 128)) := []
deriving DecidableEq, Repr

/-- What an outstanding tag waits for (R323). -/
inductive TagFor where
  /-- a grant, a completion or data for a local transaction on a Span line -/
  | span (line : Nat)
  /-- a Dolly read or write of line `idx` of a Span page, or (64) its page request -/
  | dolly (q idx : Nat)
  /-- an XFER job of a lane -/
  | xfer (q lane off : Nat)
  /-- a write-back of a Span line, or a message whose answer ends nothing but the tag -/
  | note
  /-- the release of a Span page -/
  | release (page : Nat)
deriving DecidableEq, Repr

/-- One of the 4,096 tags in use (R323): its peer, what it is for, its request's opcode and port, when the request left,
and whether the tag is held back. -/
structure TagUse where
  peer : Nat
  port : Nat
  opcode : Nat
  use : TagFor
  since : DWord
  held : Bool := false
deriving DecidableEq, Repr

/-! ## Management worlds (15) -/

/-- The world extension's view of one core (R333 to R340): released, in the secure world, halted by debug, the two secure
CSRs, its pc, and the trap CSRs a gate fault writes. -/
structure CoreSt where
  running : Bool := false
  secure : Bool := false
  halted : Bool := false
  pc : DWord := 0
  sepc : DWord := 0
  stvec : DWord := 0
  mtvec : DWord := 0
  mepc : DWord := 0
  mcause : DWord := 0
  mtval : DWord := 0
deriving DecidableEq, Repr

/-- The key command that runs (R342): operation, target, index, the source block, and whether it is misaligned or outside the
secure SRAM. -/
structure KeyRun where
  op : Nat
  target : Nat
  index : Nat
  block : List Byte
  srcBad : Bool
deriving DecidableEq, Repr

/-- The life-cycle store, what the debug enables rest on (R343 to R345), and the cores. `burn` is the next code, burnt at the next
cold reset; `nonces` the nonces given out and neither used nor expired. -/
structure Life where
  state : BitVec 2 := 0
  burn : Option (BitVec 2) := none
  unlocked : BitVec 4 := 0
  nonces : List (BitVec 256) := []
  testSecret : Bool := false
  cores : List CoreSt := [{}, {}, {}, {}]
deriving DecidableEq, Repr

/-! ## Feed controller (17) -/

/-- The feed controller (R379 to R390). Index 0 is feed A, 1 feed B, 2 the output. `st` is coded as STAT.STATE; `warnPin` says that
FEED_WARN_N is asserted; `degraded` are the WARN bits of STAT; `pairs` the transistor pairs that are on; energies are in 10⁻⁵ µJ, the
sums of the running window in mV, mA and µW; `began` is when the last hold-up flush began. -/
structure Feed where
  st : Nat := 0
  powerGood : Bool := false
  warnPin : Bool := false
  admitted : BitVec 2 := 0
  healthy : BitVec 2 := 0
  degraded : BitVec 2 := 0
  pairs : BitVec 2 := 0
  timerRun : Bool := false
  trips : Nat := 0
  lastFault : Nat := 0
  rev : List (BitVec 16) := [0, 0]
  energy : List Int := [0, 0, 0]
  sumMv : List Int := [0, 0, 0]
  sumMa : List Int := [0, 0, 0]
  sumUw : List Int := [0, 0, 0]
  samples : Nat := 0
  meanMv : List Int := [0, 0, 0]
  meanMa : List Int := [0, 0, 0]
  meanMw : List Int := [0, 0, 0]
  ran : Bool := false
  done : Bool := false
  flushUs : Nat := 0
  began : Nat := 0
deriving DecidableEq, Repr

/-- A record in the hold-up area of the flash (R388, R390, R399, R411): whether a boot has read it, the records written, and
what PREV code it stands for (1 hold-up with DONE, 2 hold-up without DONE, 3 halt or requested cold reset). -/
structure HoldRec where
  /-- written since the last boot that read the area -/
  fresh : Bool := true
  prev : Nat
  records : List Rec
  fe : Option Rec
  time : DWord := 0
  us : Nat := 0
deriving DecidableEq, Repr

/-! ## Calibration (19) -/

/-- The slicer sets of one lane (R419, R420). -/
structure Slicer where
  set : Nat := 0
  valid : Bool := false
  pending : Bool := false
  best : Nat := 0
  scores : List Nat := [0, 0, 0]
deriving DecidableEq, Repr

/-- The delay line of one bundled-data stage (R421 to R423): MASK, guard segment, the mask the search or check tries, whether
that is a check, whether a trim waits for the stage's empty moment, and whether its search or check has ended. -/
structure Delay where
  mask : Nat := 0xFF
  guard : Option Nat := none
  trying : Option Nat := none
  checking : Bool := false
  trim : Bool := false
  done : Bool := false
deriving DecidableEq, Repr

/-- A record of the store (R425): kind, key, units and body. -/
structure CalRec where
  kind : Nat
  key : Nat
  units : Nat
  body : List Nat
deriving DecidableEq, Repr

/-- A sector of the calibration area (R424): STATE 0 Spare, 1 Working, 2 Retired; ERASES; the copies it holds, oldest first, each
with its WCOUNT. -/
structure Sector where
  st : Nat := 0
  erases : Nat := 0
  recs : List (CalRec × Nat) := []
deriving DecidableEq, Repr

/-- The calibration store (R424 to R429): sectors, pending records, the sector being written, the working
sectors that hold copies (oldest first, the sector being written last), the erase that runs, keys whose counter ended, and whether it has stopped until the next boot. -/
structure Cal where
  lanes : Tab Slicer := []
  stages : Tab Delay := []
  sectors : List Sector := []
  queue : List CalRec := []
  writeAt : Nat := 0
  order : List Nat := []
  erasing : Option Nat := none
  readOnly : Bool := false
  ended : List (Nat × Nat) := []
  stopped : Bool := false
deriving DecidableEq, Repr

/-! ## Dailies (20) -/

/-- The counters this model keeps (R433 to R439), keyed by 128 × (page − 0xC1) + k: live values and the last snapshot; the
free-value index the last snapshot drew for the counters whose events the spec does not name; bytes in and out of each
port (0 to 15 HP, 16 to 23 MP) in the bandwidth window, and the window's length. -/
structure Daily where
  live : Tab DWord := []
  snap : Tab DWord := []
  snapFree : Option Nat := none
  snapDue : Bool := false
  winOut : Tab Nat := []
  winIn : Tab Nat := []
  winUs : Nat := 1000
deriving DecidableEq, Repr

/-- Boot (R446 to R452): when it started, in device time from XB's power-up on, the PREV report owed at step 9, whether Boot runs, and
whether the warm path has been reconciled (R415). -/
structure Boot where
  began : DWord := 0
  owed : Bool := false
  active : Bool := false
  reconciled : Bool := false
deriving DecidableEq, Repr

/-- The device, but for the feed controller and the life-cycle store. -/
structure Dev where
  regs : Tab Word := []
  /-- CW settings written while their page is Cut and not yet in force (R42), by window offset -/
  staged : Tab (Option Word) := []
  pages : Tab (Option PageSt) := []
  latches : Tab Latches := []
  flt : Flt := {}
  pwr : Pwr := {}
  gaffer : Gaffer := {}
  quads : Tab Quad := []
  subs : Tab Sub := []
  banks : Tab Bank := []
  dram : Tab Stored := []
  /-- sub-channels that a DMC block reset or the warm path filled with poison (R408): their unlisted places read as the poison word -/
  subFill : BitVec 32 := 0
  mapShare : Tab DWord := []
  dimm : Tab Word := []
  ranges : Tab Range := []
  slots : Tab KeySlot := []
  sweeps : Tab Sweep := []
  rangeBusy : Option RangeCmd := none
  rangeResult : Nat := 0
  rangeLast : Nat := 0
  regions : Tab (Bool × Bool) := []
  linings : Tab Nat := []
  backed : Tab Nat := []
  regionBusy : Option (Nat × Word) := none
  regionResult : Nat := 0
  poison : List PRec := []
  poisonOverflow : Bool := false
  poisonLost : Option DWord := none
  ctxs : Tab (BitVec 128) := []
  ctxBad : List Nat := []
  fbs : Tab (BitVec 96) := []
  slateBusy : Option SlateCmd := none
  slateResult : Nat := 0
  reg : Reg := {}
  cap : Capacity := {}
  marwen : BitVec 8 := 0
  ports : Tab HPort := []
  heads : Tab Head := []
  bricks : Tab Brick := []
  mports : Tab MPort := []
  tags : Tab (Option TagUse) := []
  grantee : Tab (Option Nat) := []
  mgt : Tab (List Byte) := []
  ideKeys : Tab (Option (BitVec 256)) := []
  mwKeys : Tab (Option (BitVec 256)) := []
  keyRun : Option KeyRun := none
  cal : Cal := {}
  daily : Daily := {}
  boot : Boot := {}
  /-- MAP.LIMIT and CAL.AREA as the last boot loaded them, to compare on the warm path (R448) -/
  profileWas : Option (Word × Word) := none
  flash : List HoldRec := []
  supply : BitVec 3 := 0
  wdogSince : DWord := 0
  fwXfer : Option FwXfer := none
  /-- the copies that the boot flags in flash name: bit 0 the secure image, bit 1 the normal one, 0 for A (R347, R348) -/
  bootFlag : BitVec 2 := 0
  /-- the streams open in contexts (R111, R117, R118), by the context's DPA: the input consumed and the encode units not yet written -/
  streams : Tab (Option EncSt) := []
  waits : List Waiting := []
  ioReads : List IoRead := []
  nextId : Nat := 0
  react : List React := []
  out : List Out := []
  freeCtr : Nat := 0
deriving DecidableEq, Repr

/-- The block: the commands that wait, first in first out, and the device. -/
structure State where
  pending : List Instr
  dev : Dev
  feed : Feed
  life : Life
deriving DecidableEq, Repr

/-- Why a run can stop. No command of this block ends in a fault: the one constructor is raised by nobody (safe). -/
inductive Fault where
  /-- Raised by no command; a run of this model never stops with a fault. Safe. -/
  | none
deriving DecidableEq, Repr

/-- Why a command can be refused as a whole. -/
inductive Refusal where
  /-- Raised by `exec` for a command that has no meaning yet. Safe. -/
  | notModelled (mnemonic : String)
deriving DecidableEq, Repr

/-- The block right after reset: every register at its reset value, nothing on but the always-on island, the mode Boot. -/
def State.reset : State :=
  { pending := [], dev := {}, feed := {}, life := { state := BitVec.ofNat 2 Config.fusedLifecycle } }

end Sys2Proof.Machine
end

