-- ==== Sys2Proof/Machine/Pages.lean ====
section
/-! DEFINITION. The blocks behind the 256 pages (R27), the numbering, default severities and units of the Continuity
sources (R394, R395 and each page's table), and reading and writing one register of one block. -/

namespace Sys2Proof.Machine

/-- The blocks of R27, with their instance. -/
inductive Block where
  | pgdir | time | flt | gaffer | pwr | feed | cal | sbi | mgt | seci | xbar | slate | dolly (i : Nat)
  | qctl (q : Nat) | map (q : Nat) | stage (q : Nat) | pack (q : Nat) | seal (q : Nat) | coat (q : Nat) | dir (q : Nat)
  | nme (q : Nat) | dmc (c : Nat) | dphy (c : Nat) | hpt (b : Nat) | mwl (b : Nat) | mwt (b : Nat) | daily (i : Nat)
deriving DecidableEq, Repr

/-- The page of a block (R27). -/
def Block.page : Block → Nat
  | .pgdir => 0x00 | .time => 0x01 | .flt => 0x02 | .gaffer => 0x03 | .pwr => 0x04 | .feed => 0x05 | .cal => 0x06
  | .sbi => 0x07 | .mgt => 0x08 | .seci => 0x09 | .xbar => 0x10 | .slate => 0x11 | .dolly i => 0x12 + i
  | .qctl q => 0x20 + 8 * q | .map q => 0x21 + 8 * q | .stage q => 0x22 + 8 * q | .pack q => 0x23 + 8 * q
  | .seal q => 0x24 + 8 * q | .coat q => 0x25 + 8 * q | .dir q => 0x26 + 8 * q | .nme q => 0x27 + 8 * q
  | .dmc c => 0x40 + c | .dphy c => 0x50 + c | .hpt b => 0x80 + b | .mwl b => 0x80 + b | .mwt b => 0x90 + b
  | .daily i => 0xC0 + i

/-- The block at a page, none where the page is unassigned (R27); `mw` marks the bricks of Marwen personality. -/
def blockAt (mw : BitVec 8) (p : Nat) : Option Block :=
  if p < 0x0A then
    [Block.pgdir, .time, .flt, .gaffer, .pwr, .feed, .cal, .sbi, .mgt, .seci][p]?
  else if p = 0x10 then some .xbar
  else if p = 0x11 then some .slate
  else if p = 0x12 ∨ p = 0x13 then some (.dolly (p - 0x12))
  else if 0x20 ≤ p ∧ p < 0x40 then
    let q := (p - 0x20) / 8
    [Block.qctl q, .map q, .stage q, .pack q, .seal q, .coat q, .dir q, .nme q][p % 8]?
  else if 0x40 ≤ p ∧ p < 0x50 then some (.dmc (p - 0x40))
  else if 0x50 ≤ p ∧ p < 0x60 then some (.dphy (p - 0x50))
  else if 0x80 ≤ p ∧ p < 0x88 then some (if mw.getLsbD (p - 0x80) then .mwl (p - 0x80) else .hpt (p - 0x80))
  else if 0x90 ≤ p ∧ p < 0x98 then (if mw.getLsbD (p - 0x90) then some (.mwt (p - 0x90)) else none)
  else if 0xC0 ≤ p ∧ p < 0x100 then some (.daily (p - 0xC0))
  else none

/-- The block type code of R27. -/
def Block.typeCode : Block → Nat
  | .pgdir => 0x01 | .time => 0x02 | .flt => 0x03 | .gaffer => 0x04 | .pwr => 0x05 | .feed => 0x06 | .cal => 0x07
  | .sbi => 0x08 | .mgt => 0x09 | .seci => 0x0A | .xbar => 0x10 | .slate => 0x11 | .dolly _ => 0x12
  | .qctl _ => 0x20 | .map _ => 0x21 | .stage _ => 0x22 | .pack _ => 0x23 | .seal _ => 0x24 | .coat _ => 0x25
  | .dir _ => 0x26 | .nme _ => 0x27 | .dmc _ => 0x40 | .dphy _ => 0x50 | .hpt _ => 0x80 | .mwl _ => 0x81
  | .mwt _ => 0x90 | .daily _ => 0xC0

/-- The instance number of R27. -/
def Block.inst : Block → Nat
  | .dolly i | .qctl i | .map i | .stage i | .pack i | .seal i | .coat i | .dir i | .nme i | .dmc i | .dphy i | .hpt i
  | .mwl i | .mwt i | .daily i => i
  | _ => 0

/-- PAGE_ID (R31, R32). -/
def Block.pageId (b : Block) : Word := packW [(24, b.typeCode), (16, b.inst), (0, 1)]

/-- The run-control capabilities CUT_CAP, RESET_CAP and FENCE_CAP of R27. -/
def Block.caps : Block → Bool × Bool × Bool
  | .gaffer | .cal | .sbi | .slate | .dolly _ | .dphy _ | .mwt _ => (true, true, false)
  | .feed | .mgt | .xbar | .map _ | .stage _ | .coat _ | .dir _ => (true, false, false)
  | .qctl _ => (true, false, true)
  | .pack _ | .seal _ | .nme _ | .dmc _ | .hpt _ | .mwl _ => (true, true, true)
  | .pgdir | .time | .flt | .pwr | .seci | .daily _ => (false, false, false)

/-- The power domain of a block, as its DOMAIN_ON bit (R27, R29). -/
def Block.domain : Block → Nat
  | .pgdir | .pwr | .feed | .sbi => 0
  | .cal | .mgt => 1
  | .seci => 2
  | .time | .flt | .gaffer | .xbar | .slate | .dolly _ | .daily _ => 3
  | .qctl q | .map q | .stage q | .pack q | .seal q | .coat q | .dir q | .nme q => 4 + q
  | .dmc c => 4 + c / 4
  | .dphy c => 8 + c / 4
  | .hpt b | .mwl b | .mwt b => 12 + b

/-- The registers of a block after its header. -/
def Block.regs : Block → List RName
  | .pgdir => regsPgdir | .time => regsTime | .flt => regsFlt | .gaffer => regsGaffer | .pwr => regsPwr
  | .feed => regsFeed | .cal => regsCal | .sbi => regsSbi | .mgt => regsMgt | .seci => regsSeci
  | .xbar => regsPace | .slate => regsSlate | .dolly i => if i = 0 then regsDolly0 else regsDolly1
  | .qctl _ => regsPace | .map _ => regsMap | .stage _ => regsStage | .pack _ => regsPack
  | .seal q => if q = 0 then regsSeal else regsSeal.filter fun n => n.row.off < 0x080
  | .coat q => if q = 0 then regsCoat else regsCoat.filter fun n => n.row.off < 0x0C0
  | .dir q => if q = 0 then regsDir else regsDir.filter fun n => n.row.off < 0x080
  | .nme _ => regsNme | .dmc _ => regsDmc | .dphy _ => regsDphy | .hpt _ => regsHpt | .mwl _ => regsMwl
  | .mwt _ => regsMwt | .daily i => if i = 0 then regsDaily0 else if 0x10 ≤ i then regsView else []

/-- The register at an offset of a page, with its index (R28, R31 and the chapters' tables). -/
def findReg (b : Block) (off : Nat) : Option (RName × Nat) :=
  (regsHeader ++ b.regs).findSome? fun n =>
    let r := n.row
    if off < r.off then none
    else if r.stride = 0 then (if off = r.off then some (n, 0) else none)
    else if (off - r.off) % r.stride = 0 ∧ (off - r.off) / r.stride < r.count then some (n, (off - r.off) / r.stride)
    else none

/-! ## Continuity sources -/

/-- BASE and STRIDE of R394. -/
def Block.srcBase : Block → Option (Nat × Nat)
  | .flt => some (0, 4) | .gaffer => some (4, 8) | .pwr => some (12, 4) | .feed => some (16, 8) | .cal => some (24, 8)
  | .mgt => some (32, 4) | .seci => some (36, 4) | .xbar => some (40, 4) | .slate => some (44, 4) | .dolly _ => some (48, 2)
  | .qctl _ => some (52, 4) | .map _ => some (68, 4) | .stage _ => some (84, 4) | .pack _ => some (100, 4)
  | .seal _ => some (116, 4) | .coat _ => some (132, 16) | .dir _ => some (196, 4) | .nme _ => some (212, 4)
  | .dmc _ => some (228, 4) | .hpt _ => some (292, 8) | .mwl _ => some (292, 8) | .mwt _ => some (356, 8)
  | .pgdir | .time | .sbi | .dphy _ | .daily _ => none

/-- The source ID of a page's FAULT_STAT bit (R394). -/
def srcId (b : Block) (bit : Nat) : Nat :=
  match b.srcBase with
  | some (base, stride) => base + b.inst * stride + bit
  | none => 511

/-- The block and FAULT_STAT bit of a source ID (R394). -/
def srcOf (mw : BitVec 8) (id : Nat) : Option (Block × Nat) :=
  if id < 4 then some (.flt, id)
  else if id < 12 then some (.gaffer, id - 4)
  else if id < 16 then some (.pwr, id - 12)
  else if id < 24 then some (.feed, id - 16)
  else if id < 32 then some (.cal, id - 24)
  else if id < 36 then some (.mgt, id - 32)
  else if id < 40 then some (.seci, id - 36)
  else if id < 44 then some (.xbar, id - 40)
  else if id < 48 then some (.slate, id - 44)
  else if id < 52 then some (.dolly ((id - 48) / 2), (id - 48) % 2)
  else if id < 68 then some (.qctl ((id - 52) / 4), (id - 52) % 4)
  else if id < 84 then some (.map ((id - 68) / 4), (id - 68) % 4)
  else if id < 100 then some (.stage ((id - 84) / 4), (id - 84) % 4)
  else if id < 116 then some (.pack ((id - 100) / 4), (id - 100) % 4)
  else if id < 132 then some (.seal ((id - 116) / 4), (id - 116) % 4)
  else if id < 196 then some (.coat ((id - 132) / 16), (id - 132) % 16)
  else if id < 212 then some (.dir ((id - 196) / 4), (id - 196) % 4)
  else if id < 228 then some (.nme ((id - 212) / 4), (id - 212) % 4)
  else if id < 292 then some (.dmc ((id - 228) / 4), (id - 228) % 4)
  else if id < 356 then
    let b := (id - 292) / 8
    some (if mw.getLsbD b then .mwl b else .hpt b, (id - 292) % 8)
  else if id < 420 then some (.mwt ((id - 356) / 8), (id - 356) % 8)
  else none

/-- The default severity of a source (0 Log, 1 Notice, 2 Fence, 3 Halt), 0 for a bit that no table names. -/
def defaultSev (b : Block) (bit : Nat) : Nat :=
  let sev : List Nat := match b with
    | .flt => [2, 0, 3, 3]
    | .xbar => [0, 3]
    | .qctl _ => [3, 1, 2]
    | .map _ => [2, 2]
    | .stage _ => [1]
    | .dolly _ => [1]
    | .pack _ => [1, 2, 1]
    | .seal _ => [0, 1, 1, 2]
    | .coat _ => [1, 1, 1, 1, 1, 0, 1, 0, 1, 2]
    | .dmc _ => [0, 2, 1, 2]
    | .dir _ => [0, 1, 2, 2]
    | .slate => [0, 1, 3]
    | .nme _ => [0, 2]
    | .hpt _ => [1, 1, 2]
    | .mwl _ => [1, 0, 0, 1, 1, 2]
    | .mwt _ => [1, 0, 1, 0, 1, 2]
    | .mgt => [1, 0]
    | .seci => [0, 0, 1, 3]
    | .gaffer => [1, 1, 2, 3, 3]
    | .pwr => [3, 1]
    | .feed => [1, 0, 1, 1, 1, 0, 3]
    | .cal => [0, 0, 1, 1, 1, 2]
    | .pgdir | .time | .sbi | .dphy _ | .daily _ => []
  sev.getD bit 0

/-- How many sources a page has. -/
def Block.sources (b : Block) : Nat :=
  match b with
  | .flt => 4 | .xbar => 2 | .qctl _ => 3 | .map _ => 2 | .stage _ => 1 | .dolly _ => 1 | .pack _ => 3 | .seal _ => 4
  | .coat q => if q = 0 then 10 else 10
  | .dmc _ => 4 | .dir _ => 4 | .slate => 3 | .nme _ => 2 | .hpt _ => 3 | .mwl _ => 6 | .mwt _ => 6 | .mgt => 2 | .seci => 4
  | .gaffer => 5 | .pwr => 2 | .feed => 7 | .cal => 6
  | .pgdir | .time | .sbi | .dphy _ | .daily _ => 0

/-- Sources whose severity is fixed at Halt (R398): the Continuity checker, Wake failure and Thermal halt. -/
def fixedHalt (id : Nat) : Bool := id = 2 || id = 12 || id = 7

/-- The reset value of SEV[w]: the default severities of sources 16w to 16w + 15 (R417, R418). -/
def sevReset (w : Nat) : Word :=
  packW ((List.range 16).map fun j =>
    (2 * j, match srcOf 0 (16 * w + j) with | some (b, bit) => defaultSev b bit | none => 0))

/-! ## Registers -/

/-- The reset value of register `n`, index `i` (R44, R37, R417). -/
def resetAt (n : RName) (i : Nat) : Word :=
  if n = .seciPageRights then (if i = 0 ∨ i = 2 ∨ i = 4 ∨ i = 5 ∨ i = 7 then 0x47 else 0x07)
  else if n = .fltSev then sevReset i
  else n.row.reset

/-- The window offset of a register (R22). -/
def regKey (b : Block) (n : RName) (i : Nat) : Nat := b.page * 0x1000 + n.row.off + i * n.row.stride

/-- The stored value of a register. -/
def rget (d : Dev) (b : Block) (n : RName) (i : Nat := 0) : Word := tabGet (resetAt n i) d.regs (regKey b n i)

/-- Store a register. -/
def rput (d : Dev) (b : Block) (n : RName) (v : Word) (i : Nat := 0) : Dev :=
  { d with regs := tabPut (resetAt n i) d.regs (regKey b n i) v }

/-- A field of a register. -/
def rfld (d : Dev) (b : Block) (n : RName) (hi lo : Nat) (i : Nat := 0) : Nat := fld (rget d b n i) hi lo

/-- Write a field of a register. -/
def rputFld (d : Dev) (b : Block) (n : RName) (hi lo x : Nat) (i : Nat := 0) : Dev :=
  rput d b n (setFld (rget d b n i) hi lo x) i

/-- Add one to a saturating counter register. -/
def rbump (d : Dev) (b : Block) (n : RName) : Dev := rput d b n (satInc (rget d b n))

/-- The state a page comes up in: Cut where it has CUT_CAP, else Rolling (R31). -/
def pageReset (b : Block) : PageSt := { run := if b.caps.1 then .cut else .rolling }

/-- The state of a block's page. -/
def pget (d : Dev) (b : Block) : PageSt := (tabGet none d.pages b.page).getD (pageReset b)

/-- Change the state of a block's page. -/
def pmod (d : Dev) (b : Block) (f : PageSt → PageSt) : Dev :=
  { d with pages := tabPut none d.pages b.page (some (f (pget d b))) }

/-- Raise bit `i` of a page's EVENT_STAT (R34). -/
def raiseEvent (d : Dev) (b : Block) (i : Nat) : Dev :=
  pmod d b fun p => { p with eventStat := p.eventStat ||| BitVec.ofNat 32 (2 ^ i) }

/-- The quadrant's state. -/
def quad (d : Dev) (q : Nat) : Quad := tabGet {} d.quads q
/-- Change a quadrant. -/
def qmod (d : Dev) (q : Nat) (f : Quad → Quad) : Dev := { d with quads := tabMod {} d.quads q f }
/-- A sub-channel's state; `u` is 2c + s (R408). -/
def subc (d : Dev) (u : Nat) : Sub := tabGet {} d.subs u
/-- Change a sub-channel. -/
def umod (d : Dev) (u : Nat) (f : Sub → Sub) : Dev := { d with subs := tabMod {} d.subs u f }
/-- A host port's state. -/
def port (d : Dev) (p : Nat) : HPort := tabGet {} d.ports p
/-- Change a host port. -/
def portMod (d : Dev) (p : Nat) (f : HPort → HPort) : Dev := { d with ports := tabMod {} d.ports p f }
/-- Send. The log of what was sent has its newest entry first. -/
def send (d : Dev) (o : Out) : Dev := { d with out := o :: d.out }
/-- The next free value. -/
def fresh (d : Dev) : Nat := d.freeCtr
/-- Use up a free value. -/
def bumpFree (d : Dev) : Dev := { d with freeCtr := d.freeCtr + 1 }

/-- Whether a domain is powered with its clocks running (R358). -/
def clocked (d : Dev) (dom : Nat) : Bool := d.pwr.dom.getLsbD dom && !d.pwr.clkStop.getLsbD dom

/-- The block of brick `b` under its personality (R27). -/
def brickBlock (d : Dev) (b : Nat) : Block := if d.marwen.getLsbD b then .mwl b else .hpt b

/-- The host ports that a brick provides: SPLIT 0 and 2 one, SPLIT 1 two, SPLIT 3 none (R268). -/
def portPresent (d : Dev) (p : Nat) : Bool :=
  let b := p / 2
  if d.marwen.getLsbD b then false
  else
    let split := rfld d (.hpt b) .hptCfg 1 0
    if p % 2 = 0 then split ≠ 3 else split = 1

/-- The heads of the device: one for each host port that exists (R272). -/
def headsOf (d : Dev) : List Nat := (List.range 16).filter (portPresent d)

end Sys2Proof.Machine
end

