-- ==== Sys2Proof/Machine/Addr.lean ====
section
/-! DEFINITION. Addresses: host decode (R45, R46), home quadrant and local numbers (R47, R48, R63), media placement and the
MPA (R51 to R53), the page map entry and its check (R54 to R57), key ranges and rights (R126, R139, R146), the region
table (R161), and the Slate lookup (R231 to R233). A line is named by its number DPA[44:6], a page by DPA[44:12], a media place by `locOf`. -/

namespace Sys2Proof.Machine

/-! ## DPA -/

/-- The page of a line. -/
def pageOfLine (line : Nat) : Nat := line / 64
/-- The frame of a page, DPA[44:21]. -/
def frameOf (page : Nat) : Nat := page / 512
/-- The extent of a page, DPA[44:30]. -/
def extentOf (page : Nat) : Nat := page / 2 ^ 18

/-- XOR of the 2-bit groups of a frame number (R47). -/
def homeOfFrame (f : Nat) : Nat :=
  (List.range 12).foldl (fun a i => a ^^^ ((f >>> (2 * i)) % 4)) 0

/-- The home quadrant of a page (R47). -/
def homeOf (page : Nat) : Nat := homeOfFrame (frameOf page)

/-- A natural number below 4 as a quadrant. -/
def quadOf (n : Nat) : Fin 4 := Fin.ofNat 4 n

/-- The quadrant-local page number (R48). -/
def localPage (page : Nat) : Nat := frameOf page / 4 * 512 + page % 512

/-- The page of a quadrant-local page number (R48): DPA[22:21] follows from the quadrant and the other groups. -/
def pageOfLocal (q lp : Nat) : Nat :=
  let hi := lp / 512
  let lo := (homeOfFrame (hi * 4)) ^^^ q
  (hi * 4 + lo) * 512 + lp % 512

/-- The quadrant-local line number QLN (R63). -/
def qln (line : Nat) : Nat := localPage (pageOfLine line) * 64 + line % 64

/-- MAP.LIMIT in pages; each quadrant's MAP page shows the same loaded value. -/
def limitPages (d : Dev) (q : Nat) : Nat := rfld d (.map q) .mapLimit 15 0 * 2 ^ 18

/-- The DPA of a host address under a committed decoder (R45): the interleave bits are removed. -/
def Hdm.decode (h : Hdm) (hpa : Nat) : Option Nat :=
  if h.committed ∧ h.base ≤ hpa ∧ hpa < h.base + h.size then
    let off := hpa - h.base
    some (h.dpaBase + off / (h.gran * h.ways) * h.gran + off % h.gran)
  else none

/-- The first decoder of the port that covers the address. -/
def hpaToDpa (d : Dev) (p hpa : Nat) : Option (Nat × Hdm) :=
  (List.range 4).findSome? fun i =>
    let h := tabGet {} (port d p).hdm i
    (h.decode hpa).map fun a => (a, h)

/-- The host an extent of the Dynamic Capacity region is granted to. -/
def grantedTo (d : Dev) (extent : Nat) : Option Nat := (d.cap.granted.find? fun e => e.1 = extent).map (·.2)

/-- Outside granted capacity for a host (R46): at or above MAP.LIMIT, or in an extent not granted to it. -/
def outsideCapacity (d : Dev) (p page : Nat) : Bool :=
  decide (limitPages d (homeOf page) ≤ page) ||
  (decide (Config.staticExtents ≤ extentOf page) && decide (grantedTo d (extentOf page) ≠ some p))

/-! ## Media places (R51, R52) -/

/-- The media place of line `l` of media page `mpn` of quadrant `q`, or of a spare line of a channel. -/
def locOf (q mpn l : Nat) : Nat := q * 2 ^ 40 + mpn * 64 + l
/-- A spare line of the channel's pool (R179). -/
def spareLoc (q chan idx : Nat) : Nat := q * 2 ^ 40 + 2 ^ 38 + chan * 2 ^ 16 + idx
/-- Whether a place lies in the spare pool. -/
def isSpare (loc : Nat) : Bool := loc % 2 ^ 40 ≥ 2 ^ 38
/-- The quadrant of a place. -/
def locQuad (loc : Nat) : Nat := loc / 2 ^ 40 % 4
/-- The media page of a place outside the spare pool. -/
def locMpn (loc : Nat) : Nat := loc % 2 ^ 38 / 64
/-- The channel in the quadrant of a place: (L[3:2] + MPN[1:0]) mod 4 (R51). -/
def locChan (loc : Nat) : Nat :=
  if isSpare loc then loc % 2 ^ 38 / 2 ^ 16 else (loc % 64 / 4 % 4 + locMpn loc % 4) % 4
/-- The sub-channel of a place, numbered 2c + s (R51, R408). -/
def locSub (loc : Nat) : Nat := 2 * (4 * locQuad loc + locChan loc) + loc % 2
/-- The sub-channel line address (R51). -/
def locSla (loc : Nat) : Nat :=
  if isSpare loc then loc % 2 ^ 16 else locMpn loc * 8 + loc % 64 / 16 * 2 + loc % 4 / 2

/-- The DDR5 fields of a place. -/
structure DdrLoc where
  burst : Nat
  row : Nat
  bank : Nat
  bg : Nat
  rank : Nat
  cid : Nat
  dimm : Nat
deriving DecidableEq, Repr

/-- SLA to the DDR5 location, with the field widths of DIMM_CFG (R52). -/
def ddrOf (cfg : Word) (sla : Nat) : DdrLoc :=
  let rb := fld cfg 4 3
  let cb := fld cfg 6 5
  let db := fld cfg 7 7
  let r0 := sla / 2 ^ 12
  let row := r0 / 2 ^ (rb + cb + db)
  { burst := sla % 128
    bg := (sla / 2 ^ 7 % 8) ^^^ (row % 8)
    bank := (sla / 2 ^ 10 % 4) ^^^ (row / 8 % 4)
    rank := r0 % 2 ^ rb
    cid := r0 / 2 ^ rb % 2 ^ cb
    dimm := r0 / 2 ^ (rb + cb) % 2 ^ db
    row := row }

/-- The accepted DIMM configuration of a channel (R185). -/
def dimmCfg (d : Dev) (c : Nat) : Word := tabGet 0 d.dimm c

/-- The DDR5 location of a place. -/
def ddrAt (d : Dev) (loc : Nat) : DdrLoc := ddrOf (dimmCfg d (4 * locQuad loc + locChan loc)) (locSla loc)

/-- The MPA of a place (R53). -/
def mpaOf (d : Dev) (loc : Nat) : Nat :=
  let x := ddrAt d loc
  x.burst + x.row % 2 ^ 18 * 2 ^ 7 + x.bank * 2 ^ 25 + x.bg * 2 ^ 27 + x.rank * 2 ^ 30 + x.cid * 2 ^ 32 + x.dimm * 2 ^ 35
    + loc % 2 * 2 ^ 36 + locChan loc * 2 ^ 37 + locQuad loc * 2 ^ 39 + b2n (isSpare loc) * 2 ^ 41

/-- The bank of a place within its sub-channel: one number for DIMM, rank, chip ID, bank group and bank. -/
def bankIdx (x : DdrLoc) : Nat := (((x.dimm * 4 + x.rank) * 8 + x.cid) * 8 + x.bg) * 4 + x.bank
/-- The rank of a bank number, counting both slots. -/
def rankOfBank (i : Nat) : Nat := i / 256
/-- The key of a bank of sub-channel `u`. -/
def bankKey (u i : Nat) : Nat := u * 2 ^ 12 + i

/-- The place a line of a media page really has: spare-line remapping (R179). -/
def placeOf (d : Dev) (q mpn l : Nat) : Nat :=
  match tabGet none (quad d q).remap (mpn * 64 + l) with
  | some idx => spareLoc q (locChan (locOf q mpn l)) idx
  | none => locOf q mpn l

/-! ## The page map entry (R54 to R57) -/

/-- The tier of a page (R54). -/
inductive Tier where
  | unbacked | open_ | packed | span
deriving DecidableEq, Repr

/-- STATE of an entry. -/
def tierOf (e : DWord) : Tier :=
  match fld e 1 0 with
  | 0 => .unbacked
  | 1 => .open_
  | 2 => .packed
  | _ => .span

/-- HEAT. -/
def heatOf (e : DWord) : Nat := fld e 7 2
/-- MOVING. -/
def movingOf (e : DWord) : Bool := e.getLsbD 8
/-- FRAME_WHOLE. -/
def wholeOf (e : DWord) : Bool := e.getLsbD 9
/-- MPN or POOL_MPN (R55). -/
def mpnOf (e : DWord) : Nat := fld e 41 12
/-- FIRST_SLOT. -/
def firstSlot (e : DWord) : Nat := fld e 45 42
/-- SLOT_COUNT. -/
def slotCount (e : DWord) : Nat := fld e 49 46
/-- PEER_PAGE. -/
def peerPage (e : DWord) : Nat := fld e 44 12
/-- PEER_ID. -/
def peerId (e : DWord) : Nat := fld e 50 45

/-- CHECK of the low 56 bits (R56). -/
def entryCheck (low : Nat) : Nat := crc8 (bytesOf low 7)

/-- Make an entry of its low 56 bits, with its CHECK (R56). -/
def mkEntry (low : Nat) : DWord := BitVec.ofNat 64 (low % 2 ^ 56 + entryCheck (low % 2 ^ 56) * 2 ^ 56)

/-- Unbacked with heat 0: 0x4400_0000_0000_0000 (R49). -/
def unbackedEntry : DWord := 0x4400000000000000

/-- The entry with HEAT `h`, MOVING `m` and FRAME_WHOLE `w`. -/
def entryWith (e : DWord) (h : Nat) (m w : Bool) : DWord :=
  let low := e.toNat % 2 ^ 56
  mkEntry (low - low % 1024 + low % 4 + min h 63 * 4 + b2n m * 256 + b2n w * 512)

/-- The entry with another heat. -/
def withHeat (e : DWord) (h : Nat) : DWord := entryWith e h (movingOf e) (wholeOf e)
/-- The entry with another MOVING. -/
def withMoving (e : DWord) (m : Bool) : DWord := entryWith e (heatOf e) m (wholeOf e)
/-- The entry with another FRAME_WHOLE. -/
def withWhole (e : DWord) (w : Bool) : DWord := entryWith e (heatOf e) (movingOf e) w

/-- An Open entry. -/
def openEntry (mpn heat : Nat) (whole : Bool := false) : DWord := mkEntry (1 + min heat 63 * 4 + b2n whole * 512 + mpn * 2 ^ 12)
/-- A Packed entry. -/
def packedEntry (mpn first count heat : Nat) : DWord :=
  mkEntry (2 + min heat 63 * 4 + mpn * 2 ^ 12 + first * 2 ^ 42 + count * 2 ^ 46)
/-- A Span entry. -/
def spanEntry (peer page heat : Nat) : DWord := mkEntry (3 + min heat 63 * 4 + page * 2 ^ 12 + peer * 2 ^ 45)

/-- The check of R57 against CHECK and the ranges of the fields. -/
def entryOk (e : DWord) (rsvBase : Nat) : Bool :=
  let low := e.toNat % 2 ^ 56
  decide (entryCheck low = e.toNat / 2 ^ 56) && decide (fld e 11 10 = 0) &&
  match tierOf e with
  | .unbacked => decide (fld e 55 12 = 0)
  | .open_ => decide (fld e 55 42 = 0) && decide (mpnOf e < rsvBase)
  | .packed =>
    decide (fld e 55 50 = 0) && decide (mpnOf e < rsvBase) && decide (slotCount e ≠ 0) && decide (slotCount e ≠ 15)
      && decide (firstSlot e + slotCount e ≤ 16)
  | .span => decide (fld e 55 51 = 0)

/-- MAP.RSV_BASE of a quadrant. -/
def rsvBase (d : Dev) (q : Nat) : Nat := rfld d (.map q) .mapRsvBase 29 0

/-! ## Ranges and rights (R126, R139, R146) -/

/-- The range of number `r`. -/
def range (d : Dev) (r : Nat) : Range := tabGet {} d.ranges r
/-- The sweep slot `s`. -/
def sweep (d : Dev) (s : Nat) : Sweep := tabGet {} d.sweeps s

/-- The defined range a frame lies in (R126). -/
def rangeOf (d : Dev) (frame : Nat) : Option Nat :=
  (List.range 64).find? fun r =>
    let x := range d r
    x.state ≠ .unused && decide (x.base ≤ frame) && decide (frame < x.base + x.len)

/-- The edge of the sweep of a range in a quadrant (R137). -/
def edgeOf (d : Dev) (x : Range) (q : Nat) : Nat := (sweep d x.sweep).edge.getD q 0

/-- Where a page stands in its range's sweep. -/
inductive Zone where
  | normal | wait | above
deriving DecidableEq, Repr

/-- Flushing and the edge page make requests wait; above a fill edge reads are zero and writes refused (R136, R137, R139). -/
def zoneOf (d : Dev) (page : Nat) : Zone :=
  match rangeOf d (frameOf page) with
  | none => .normal
  | some r =>
    let x := range d r
    match x.state with
    | .flushing => .wait
    | .filling =>
      let e := edgeOf d x (homeOf page)
      if (sweep d x.sweep).qdone.getLsbD (homeOf page) then .normal
      else if page < e then .normal else if page = e then .wait else .above
    | .repainting =>
      if (sweep d x.sweep).qdone.getLsbD (homeOf page) then .normal
      else if page = edgeOf d x (homeOf page) then .wait else .normal
    | .unused | .active => .normal

/-- Whether a page lies in a range under a sweep (R77, R243). -/
def underSweep (d : Dev) (page : Nat) : Bool :=
  match rangeOf d (frameOf page) with
  | none => false
  | some r => (range d r).state = .filling || (range d r).state = .repainting || (range d r).state = .flushing

/-- The key slot of a page's lines (R127, R139): none where they are plaintext. -/
def slotOf (d : Dev) (page : Nat) : Option Nat :=
  match rangeOf d (frameOf page) with
  | none => none
  | some r =>
    let x := range d r
    if ¬ x.enc then none
    else if x.state = .repainting then
      if (sweep d x.sweep).qdone.getLsbD (homeOf page) || decide (page < edgeOf d x (homeOf page)) then some x.nextSlot
      else some x.keySlot
    else some x.keySlot

/-- The profile of an extent (R161): true for Skim. -/
def skimOf (d : Dev) (page : Nat) : Bool := (tabGet (false, false) d.regions (extentOf page)).1
/-- LINED of an extent. -/
def linedOf (d : Dev) (page : Nat) : Bool := (tabGet (false, false) d.regions (extentOf page)).2

/-- Whether a line carries the tag (R127). -/
def taggedOf (d : Dev) (page : Nat) : Bool :=
  match rangeOf d (frameOf page) with
  | none => false
  | some r => (range d r).enc && (range d r).tag && skimOf d page

/-- A host port's right on a line (R146). -/
def hostRight (d : Dev) (p page : Nat) : Bool :=
  match rangeOf d (frameOf page) with
  | some r => (range d r).hosts.getLsbD p
  | none => (rget d (.seal 0) .sealOpenRights).getLsbD p

/-- A Slate context. -/
def ctxOfSlate (d : Dev) (slate : Nat) : BitVec 128 := tabGet 0 d.ctxs slate
/-- VALID of a context; one with an SRAM error counts as invalid (R233). -/
def ctxValid (d : Dev) (slate : Nat) : Bool := (ctxOfSlate d slate).getLsbD 96 && !d.ctxBad.contains slate

/-- An engine's or Marwen packet's right on a page through its Slate (R146). -/
def slateRight (d : Dev) (slate page : Nat) : Bool :=
  ctxValid d slate &&
  match rangeOf d (frameOf page) with
  | some r => (ctxOfSlate d slate).getLsbD r
  | none => (ctxOfSlate d slate).getLsbD 64 && (rget d (.seal 0) .sealOpenRights).getLsbD 16

/-- The debug path's right on a page (R146). -/
def debugRight (d : Dev) (page : Nat) : Bool :=
  match rangeOf d (frameOf page) with
  | some r => (range d r).debugRd
  | none => (rget d (.seal 0) .sealOpenRights).getLsbD 17

/-- The TEST right of FLIP_MASK on a page (R146): the range's TEST and SECI.TEST_EN of the home quadrant. -/
def testRight (d : Dev) (page : Nat) : Bool :=
  (rget d .seci .seciTestEn).getLsbD (homeOf page) &&
  match rangeOf d (frameOf page) with
  | some r => (range d r).test
  | none => (rget d (.seal 0) .sealOpenRights).getLsbD 18

/-! ## Tracked lines (R202) -/

/-- Whether a line lies in a DB window. -/
def trackedFrame (d : Dev) (frame : Nat) : Bool :=
  (List.range 16).any fun w =>
    let b := rget d (.dir 0) .dirDbWinBase w
    b.getLsbD 31 && decide (fld b 23 0 ≤ frame) && decide (frame < fld b 23 0 + rfld d (.dir 0) .dirDbWinLen 24 0 w)

/-- Whether a line is tracked. -/
def tracked (d : Dev) (line : Nat) : Bool := trackedFrame d (frameOf (pageOfLine line))

/-- The gate of a peer device (R204). -/
def gateOf (d : Dev) (peer : Nat) : Nat := fld (rget d (.dir 0) .dirGateMap (peer / 16)) (2 * (peer % 16) + 1) (2 * (peer % 16))

/-! ## Slates (R229 to R233) -/

/-- A CW setting of the SLATE page as the last window start took it into force (R239). -/
def slateCfg (d : Dev) (n : RName) (i : Nat := 0) : Word := tabGet (resetAt n i) d.reg.cfg (regKey .slate n i)

/-- The Slate of a CXL.mem request or of a CXL.io request to the DPA window (R231, R232). -/
def fallbackSlate (d : Dev) (p frame : Nat) : Nat :=
  let hit := (d.fbs.find? fun e =>
    let v := e.2
    v.getLsbD 31 && decide (fld v 27 24 = p) && decide (fld v 23 0 ≤ frame) && decide (frame < fld v 23 0 + fld v 56 32))
  match hit with
  | some e => fld e.2 81 64
  | none => fld (slateCfg d .slatePortDef p) 17 0

/-- The Slate of a request with a PASID prefix (R231). -/
def pasidSlate (d : Dev) (p : Nat) (pasid : BitVec 20) : Option Nat :=
  if fld pasid 19 18 = fld (slateCfg d .slatePasidTag) (2 * p + 1) (2 * p) then some (fld pasid 17 0) else none

/-- Class, NO_STAGE and HEAT_W of a Slate: class 63, 0 and 1 where the context is invalid (R229, R233). -/
def slatePolicy (d : Dev) (slate : Nat) : Nat × Bool × Nat :=
  let c := ctxOfSlate d slate
  if ctxValid d slate then (fld c 102 97, c.getLsbD 103, fld c 105 104) else (63, false, 1)

end Sys2Proof.Machine
end

