-- ==== Sys2Proof/Machine/Fault.lean ====
section
/-! DEFINITION. Continuity: a source asserts, is recorded and sent to the heads (R394 to R402, R467), and the poison list
(R169 to R171). The reactions an assertion owes (fence, halt) are put on `Dev.react`; `Machine/React.lean` runs them within the same step. -/

namespace Sys2Proof.Machine

/-! ## Event records -/

/-- Put an event record into a log of a head: 64 records, a further one is lost and counted (R276). -/
def logEvent (d : Dev) (p log : Nat) (ev : Ev) : Dev :=
  let h := tabGet {} d.heads p
  let l := h.logs.getD log []
  let h' :=
    if l.length < 64 then
      { h with logs := h.logs.set log (l ++ [{ handle := h.nextHandle, time := d.pwr.now, ev }]), nextHandle := h.nextHandle % 0xFFFF + 1 }
    else { h with lost := h.lost.set log (h.lost.getD log 0 + 1) }
  send { d with heads := tabPut {} d.heads p h' } (.event p log ev)

/-- To each of the heads given. -/
def logEvents (d : Dev) (ps : List Nat) (log : Nat) (ev : Ev) : Dev := ps.foldl (fun d p => logEvent d p log ev) d

/-! ## CONTEXT (R402) -/

/-- Place a value of some bytes at a byte offset of the 32-byte context. -/
def ctxField (c : BitVec 256) (at_ len v : Nat) : BitVec 256 := c ||| BitVec.ofNat 256 ((v % 2 ^ (8 * len)) <<< (8 * at_))

/-- A context with its KIND and page. -/
def ctxKind (kind : Nat) (b : Block) : BitVec 256 := ctxField (ctxField 0 0 1 kind) 1 1 b.page

/-- The code of a finder (R402). -/
def Finder.code : Finder → Nat
  | .host => 0 | .engine => 1 | .marwen => 2 | .sander => 3 | .dolly => 4 | .sweep => 5 | .partialWrite => 6
  | .flush => 7 | .debug => 8

/-- KIND 1: finder, host port, Slate, result, DPA and MPA (R402). -/
def ctxLine (b : Block) (f : Finder) (p slate result dpa mpa : Nat) : BitVec 256 :=
  ctxField (ctxField (ctxField (ctxField (ctxField (ctxField (ctxKind 1 b) 2 1 f.code) 3 1 p) 4 3 slate) 7 1 result) 8 8 dpa) 16 8 mpa

/-- KIND 2: stage, Slate and the time the stall began (R402). -/
def ctxStall (stage slate began : Nat) : BitVec 256 :=
  ctxField (ctxField (ctxField (ctxKind 2 .flt) 2 2 stage) 4 3 slate) 8 8 began

/-- KIND 3: cause, state, agent and DPA (R402). -/
def ctxCoh (b : Block) (cause st agent dpa : Nat) : BitVec 256 :=
  ctxField (ctxField (ctxField (ctxField (ctxKind 3 b) 2 1 cause) 3 1 st) 4 1 agent) 8 8 dpa

/-- KIND 4: port, peer, opcode, SRC, DST and the sequence number (R402). -/
def ctxLink (b : Block) (port peer opcode src dst seq : Nat) : BitVec 256 :=
  ctxField (ctxField (ctxField (ctxField (ctxField (ctxField (ctxKind 4 b) 2 1 port) 3 1 peer) 4 1 opcode) 5 1 src) 6 1 dst) 8 2 seq

/-- KIND 5: checker index and unit index (R402). -/
def ctxChecker (b : Block) (idx unit : Nat) : BitVec 256 := ctxField (ctxField (ctxKind 5 b) 2 2 idx) 4 1 unit

/-- KIND 6: the first seven block registers of the raising page (R402). -/
def ctxPower (b : Block) (regs : List Word) : BitVec 256 :=
  (regs.take 7).zipIdx.foldl (fun c e => ctxField c (4 + 4 * e.2) 4 e.1.toNat) (ctxKind 6 b)

/-! ## Records -/

/-- The severity in force of a source (R397, R398). -/
def sevOf (d : Dev) (id : Nat) : Nat :=
  if fixedHalt id then 3 else fld (rget d .flt .fltSev (id / 16)) (2 * (id % 16) + 1) (2 * (id % 16))

/-- CFG.FIRST_SEV (R400). -/
def firstSev (d : Dev) : Nat := rfld d .flt .fltCfg 3 2

/-- Write the event record and the first-error record (R400, R401). -/
def record (d : Dev) (id sev : Nat) (ctx : BitVec 256) (injected : Bool) : Dev :=
  let r : Rec := { time := d.pwr.now, source := id, sev, timeValid := d.pwr.valid, injected, seq := d.flt.seq, ctx }
  let d := rbump { d with flt := { d.flt with ring := (r :: d.flt.ring).take 64, seq := d.flt.seq + 1 } } .flt .fltEvtCount
  if sev < firstSev d then d
  else match d.flt.fe with
    | none => raiseEvent { d with flt := { d.flt with fe := some r } } .flt 0
    | some _ =>
      let d' := { d with flt := { d.flt with feOverflow := true, feCount := satInc d.flt.feCount } }
      if d.flt.feOverflow then d' else raiseEvent d' .flt 1

/-- What the heads are sent for an assertion (R397): the log of its severity, none for Log. -/
def sevLog (sev : Nat) : Option Nat := if sev = 0 then none else some sev

/-- A source asserts (R397): it is latched, recorded, reported to the heads, and owes its reaction. `u` is its unit, `cond`
whether it reports a condition that now holds (R396), `named` the heads that a record of R467 made by the same handling
went to. A source without a unit reacts to Fence as Notice, a stall without a unit as Halt (R398). While XB is off the always-on
latch takes the source and nothing records it (R371, R388). -/
def raise (d : Dev) (b : Block) (bit : Nat) (u : FUnit) (ctx : BitVec 256) (cond : Bool := false) (injected : Bool := false)
    (named : List Nat := []) : Dev :=
  let id := srcId b bit
  let sev := sevOf d id
  let m : BitVec 512 := BitVec.ofNat 512 (2 ^ id)
  let xb := d.pwr.dom.getLsbD 3
  let d := if xb then record d id sev ctx injected else d
  let d := { d with flt := { d.flt with latched := d.flt.latched ||| m, asserting := if cond then d.flt.asserting ||| m else d.flt.asserting } }
  let d := match sevLog sev with
    | some log => match xb, d.flt.ring with
      | true, r :: _ => logEvents d ((headsOf d).filter fun p => !named.contains p) log (.vendor r)
      | _, _ => d
    | none => d
  let d := if 2 ≤ sev ∧ u ≠ .none then { d with react := d.react ++ [.fence u id] } else d
  if sev = 3 ∨ (sev = 2 ∧ u = .none ∧ id = 0) then { d with react := d.react ++ [.halt] } else d

/-- A source with KIND 0 context. -/
def raise0 (d : Dev) (b : Block) (bit : Nat) : Dev := raise d b bit .none (ctxKind 0 b)

/-- A condition source stops asserting (R396). Its LATCHED bit stays until software clears it. -/
def deassert (d : Dev) (b : Block) (bit : Nat) : Dev :=
  { d with flt := { d.flt with asserting := d.flt.asserting &&& ~~~(BitVec.ofNat 512 (2 ^ srcId b bit)) } }

/-! ## Finding the device in its mode -/

/-- Whether the ports admit requests: Service or Degraded, no halt, no reset or mode entry that stops admission. -/
def admitting (d : Dev) : Bool :=
  (d.pwr.mode = .service || d.pwr.mode = .degraded) && d.pwr.req = none && !d.pwr.holdUp && d.pwr.warm = none
    && !d.flt.haltOn && !d.flt.haltRunning

/-! ## Fenced units -/

/-- Whether the quadrant is fenced. -/
def quadFenced (d : Dev) (q : Nat) : Bool := (pget d (.qctl q)).run = .fenced
/-- Whether a block takes work: one that is cutting, cut or resetting refuses it with back-pressure (R41); a fenced one handles it
as R406 says. -/
def pageOpen (d : Dev) (b : Block) : Bool := (pget d b).run = .rolling || (pget d b).run = .fenced
/-- Whether the blocks of a quadrant that every request passes take work. -/
def quadOpen (d : Dev) (q : Nat) : Bool :=
  [Block.qctl q, .map q, .stage q, .seal q, .coat q, .dir q].all (pageOpen d)
/-- Whether the crossbar and the page of a port (0 to 15 hosts, 16 to 23 Marwen) take work. -/
def portOpen (d : Dev) (p : Nat) : Bool :=
  pageOpen d .xbar && pageOpen d (if p < 16 then .hpt (p / 2) else .mwt (p - 16))
/-- Whether a sub-channel is fenced, by itself or with its channel (R196, R406). -/
def subFenced (d : Dev) (u : Nat) : Bool := (subc d u).fenced || (subc d u).swFence || (pget d (.dmc (u / 2))).run = .fenced
/-- Whether a pack engine is fenced. -/
def engFenced (d : Dev) (q e : Nat) : Bool :=
  ((quad d q).engines.getD e {}).fenced || (pget d (.pack q)).run = .fenced || (rget d (.pack q) .packEngFence).getLsbD e
/-- Whether a pack engine is available (R93): enabled and not fenced. -/
def engAvailable (d : Dev) (q e : Nat) : Bool := (rget d (.pack q) .packCfg).getLsbD (4 + e) && !engFenced d q e
/-- Whether a Seal pipeline is fenced. -/
def pipeFenced (d : Dev) (q k : Nat) : Bool :=
  (quad d q).pipeFenced.getLsbD k || (pget d (.seal q)).run = .fenced || (rget d (.seal q) .sealPipeFence).getLsbD k
/-- All four pipelines fenced (R149). -/
def sealDown (d : Dev) (q : Nat) : Bool := (List.range 4).all (pipeFenced d q)
/-- Whether an engine cluster is fenced. -/
def clusterFenced (d : Dev) (q : Nat) : Bool := (pget d (.nme q)).run = .fenced
/-- Whether a brick is fenced. -/
def brickFenced (d : Dev) (b : Nat) : Bool := (pget d (brickBlock d b)).run = .fenced

/-- Whether any unit is fenced (R43, R406). -/
def anyFenced (d : Dev) : Bool :=
  (List.range 4).any (fun q => quadFenced d q || clusterFenced d q || (List.range 2).any (engFenced d q)
    || (List.range 4).any (pipeFenced d q))
  || (List.range 32).any (subFenced d) || (List.range 8).any (brickFenced d)

/-! ## Poison list (R169 to R171) -/

/-- The heads with rights on a page (R146). -/
def headsWithRight (d : Dev) (page : Nat) : List Nat := (headsOf d).filter fun p => hostRight d p page

/-- Whether a record covers a line. -/
def PRec.covers (r : PRec) (line : Nat) : Bool :=
  decide (r.line ≤ line) && decide (line < r.line + r.lines) && !r.removed.contains line

/-- Whether some record without a location marks the line (R171). -/
def markedLine (d : Dev) (line : Nat) : Bool := d.poison.any fun r => !r.located && r.covers line

/-- The log of a General Media Event (R467). -/
def mediaLog (s : PSource) : Nat := match s with
  | .injected => 0
  | _ => 2

/-- The poison list is full or cannot hold a record: OVERFLOW is set and its source raised (R170). -/
def poisonFull (d : Dev) : Dev :=
  let d := { d with poisonOverflow := true, poisonLost := (match d.poisonLost with | some t => some t | none => some d.pwr.now) }
  raise0 d (.coat 0) 8

/-- Add a poison-list record and send its General Media Event (R169, R467); the heads it went to come back. With the list
full the record is not made, except one without a location, which replaces the oldest located record (R170, R171). -/
def addPoison (d : Dev) (line lines : Nat) (src : PSource) (located : Bool := true) : Dev × List Nat :=
  let r : PRec := { line, lines, src, time := d.pwr.now, located }
  let hs := headsWithRight d (pageOfLine line)
  if lines = 64 ∧ d.poison.any (fun x => x.line = line ∧ x.lines = 64) then (d, [])
  else if d.poison.length < 4096 then
    (logEvents { d with poison := d.poison ++ [r] } hs (mediaLog src) (.media r), hs)
  else if located then (poisonFull d, [])
  else match takeFirst (fun (x : PRec) => x.located) d.poison with
    | some (_, rest) => (logEvents (poisonFull { d with poison := rest ++ [r] }) hs (mediaLog src) (.media r), hs)
    | none => (d, [])

/-- A poison word is replaced: its record goes, a 64-line record loses the line (R170). -/
def dropPoison (d : Dev) (line : Nat) : Dev :=
  { d with poison := d.poison.filterMap fun r =>
      if ¬ r.covers line then some r
      else if r.lines = 1 then none
      else
        let r' := { r with removed := line :: r.removed }
        if r'.removed.length < r'.lines then some r' else none }

/-- Drop every record of a page (R138, R86). -/
def dropPagePoison (d : Dev) (page : Nat) : Dev :=
  { d with poison := d.poison.filter fun r => pageOfLine r.line ≠ page }

end Sys2Proof.Machine
end

