-- ==== Sys2Proof/Machine/Media.lean ====
section
/-! DEFINITION. Stored words: the write queue and the DRAM behind it (R186, R187), Seal's encryption and tag (R127 to R131),
the checks of a read (R157 to R160), the Patch table (R178, R179), Lining parity and rebuild (R163 to R167), poisoning (R168). -/

namespace Sys2Proof.Machine

/-! ## Words in DRAM and in the write queue -/

/-- What a place that is not listed holds: nothing was ever written there, or its sub-channel was filled with poison (R408). -/
def dramBase (d : Dev) (loc : Nat) : Stored := if d.subFill.getLsbD (locSub loc) then poisonWord false else 0
/-- The word DRAM holds at a place. -/
def dramGet (d : Dev) (loc : Nat) : Stored := tabGet (dramBase d loc) d.dram loc
/-- Put a word into DRAM. -/
def dramPut (d : Dev) (loc : Nat) (w : Stored) : Dev := { d with dram := tabPut (dramBase d loc) d.dram loc w }

/-- The word a place holds: its queued write where there is one, else what DRAM holds (R187). -/
def wordAt (d : Dev) (loc : Nat) : Stored :=
  match (subc d (locSub loc)).wq.find? fun e => e.loc = loc with
  | some e => e.word
  | none => dramGet d loc

/-- Whether the sub-channel of a place can take a write: room, or an entry for the same place (R186, R187). -/
def wqRoom (d : Dev) (loc : Nat) : Bool :=
  let s := subc d (locSub loc)
  (!s.ppr && pageOpen d (.dmc (locSub loc / 2)) && (decide (s.wq.length < 64) || s.wq.any (fun e => e.loc = loc))) || subFenced d (locSub loc)

/-- Write a word straight into DRAM: a fenced sub-channel discards it and records the first loss (R406, R408). -/
def dramWrite (d : Dev) (loc : Nat) (w : Stored) : Dev :=
  let u := locSub loc
  if subFenced d u then { d with flt := { d.flt with lossSub := d.flt.lossSub ||| BitVec.ofNat 32 (2 ^ u) } }
  else dramPut d loc w

/-- A write enters the write queue, or replaces its entry there (R187); a fenced sub-channel discards it (R406). Bulk
writes that find the queue full stand in DRAM: they have passed through the queue. -/
def pushWrite (d : Dev) (loc : Nat) (w : Stored) : Dev :=
  let u := locSub loc
  let s := subc d u
  if subFenced d u then dramWrite d loc w
  else if s.wq.any (fun e => e.loc = loc) then
    umod d u fun s => { s with wq := mapIf (fun e => e.loc = loc) (fun e => { e with word := w }) s.wq }
  else if s.wq.length < 64 then umod d u fun s => { s with wq := s.wq ++ [{ loc, word := w }] }
  else dramWrite d loc w

/-- Issue every queued write of a sub-channel (R468). -/
def drainSub (d : Dev) (u : Nat) : Dev :=
  let ws := (subc d u).wq
  ws.foldl (fun d e => dramWrite d e.loc e.word) (umod d u fun s => { s with wq := [] })

/-! ## Seal (R127 to R131, R155) -/

/-- The two XTS keys of a slot. -/
def xtsKey (d : Dev) (slot : Nat) : BitVec 512 := (tabGet {} d.slots slot).key.setWidth 512
/-- The MAC key of a slot. -/
def macKey (d : Dev) (slot : Nat) : BitVec 256 := ((tabGet {} d.slots slot).key >>> 512).setWidth 256

/-- ADDR of an Open line (R130). -/
def addrLine (line : Nat) : Nat := line % 2 ^ 39
/-- ADDR of a quarter of a Packed slot (R130). -/
def addrQuarter (page slot quarter : Nat) : Nat := page % 2 ^ 33 + slot % 16 * 2 ^ 33 + quarter % 4 * 2 ^ 37 + 2 ^ 63

/-- The tweak of an Open line (R128). -/
def tweakLine (line slot : Nat) : BitVec 128 := BitVec.ofNat 128 (line % 2 ^ 39 + slot % 128 * 2 ^ 39)
/-- The tweak of a Packed slot (R129). -/
def tweakSlot (page idx slot : Nat) : BitVec 128 :=
  BitVec.ofNat 128 (page % 2 ^ 33 + idx % 16 * 2 ^ 33 + slot % 128 * 2 ^ 37 + 2 ^ 127)

/-- The 7-byte tag of a stored unit (R130). -/
def tagOf (d : Dev) (slot addr : Nat) (cipher : Line) : Nat :=
  let iv := bytesOf addr 8 ++ bytesOf slot 1 ++ bytesOf 0 3
  (Config.gcmTag (macKey d slot) (BitVec.ofNat 96 (ofBytes iv)) (iv ++ bytesOf cipher.toNat 64)).toNat % 2 ^ 56

/-- S[8] to S[15] of a Skim unit (R155): the tag or the ADDR bits, and the metadata byte. -/
def sideOf (d : Dev) (slot : Option Nat) (tagged : Bool) (addr : Nat) (cipher : Line) : DWord :=
  let own := addr % 2 ^ 39 + (addr / 2 ^ 63 % 2) * 2 ^ 55
  match slot with
  | some k => BitVec.ofNat 64 ((if tagged then tagOf d k addr cipher else own) + (k % 128 + 128) * 2 ^ 56)
  | none => BitVec.ofNat 64 own

/-- The stored word of a unit's stored bytes (R154, R155). -/
def storeWord (d : Dev) (page addr : Nat) (slot : Option Nat) (cipher : Line) : Stored :=
  let skim := skimOf d page
  encodeWord skim cipher (if skim then sideOf d slot (taggedOf d page) addr cipher else 0)

/-- Encrypt a line for DRAM under the slot of R139 (R21, R128). -/
def sealLine (d : Dev) (line : Nat) (plain : Line) : Line :=
  match slotOf d (pageOfLine line) with
  | some k => Config.xtsEncLine (xtsKey d k) (tweakLine line k) plain
  | none => plain

/-- Decrypt a line (R157 step 5). -/
def unsealLine (d : Dev) (line : Nat) (cipher : Line) : Line :=
  match slotOf d (pageOfLine line) with
  | some k => Config.xtsDecLine (xtsKey d k) (tweakLine line k) cipher
  | none => cipher

/-- The stored word of a line of an Open page. -/
def lineWord (d : Dev) (line : Nat) (plain : Line) : Stored :=
  storeWord d (pageOfLine line) (addrLine line) (slotOf d (pageOfLine line)) (sealLine d line plain)

/-! ## Units of a page (R164) -/

/-- The ADDR of unit `i` of a page in its tier. -/
def unitAddr (page : Nat) (e : DWord) (i : Nat) : Nat :=
  if tierOf e = .packed then addrQuarter page (i / 4) (i % 4) else addrLine (page * 64 + i)

/-- The place of unit `i`: line `i` of an Open page, quarter i mod 4 of slot ⌊i ÷ 4⌋ of a Packed page. -/
def unitLoc (d : Dev) (page : Nat) (e : DWord) (i : Nat) : Nat :=
  let q := homeOf page
  if tierOf e = .packed then placeOf d q (mpnOf e) (4 * firstSlot e + i) else placeOf d q (mpnOf e) i

/-- How many units a page has. -/
def unitCount (e : DWord) : Nat := match tierOf e with
  | .open_ => 64
  | .packed => 4 * slotCount e
  | .unbacked | .span => 0

/-- The marked device of a place's DIMM and rank (R159, DEV_FAIL). -/
def markedDev (d : Dev) (loc : Nat) : Option Nat :=
  let q := locQuad loc
  let k := 2 * locChan loc + loc % 2
  let w := rget d (.coat q) (if k < 4 then .coatDevFail0 else .coatDevFail1)
  let j := k % 4
  let x := ddrAt d loc
  if w.getLsbD (8 * j + 7) && decide (fld w (8 * j + 5) (8 * j + 4) = x.rank) && decide (fld w (8 * j + 6) (8 * j + 6) = x.dimm)
    && !(dimmCfg d (4 * q + locChan loc)).getLsbD 2
  then some (fld w (8 * j + 3) (8 * j)) else none

/-- What the checks of R157 say of a stored word: poison, good stored bytes, or the step that failed. -/
inductive UnitRes where
  | poison (w : Stored) (corrected : Bool)
  | ok (w : Stored) (corrected : Bool)
  | fail (step : Nat) (w : Stored) (corrected : Bool)
deriving DecidableEq, Repr

/-- Steps 3 and 4 of R157 on a corrected word. -/
def skimSteps (d : Dev) (page addr : Nat) (slot : Option Nat) (w : Stored) : Nat :=
  if ¬ skimOf d page then 0
  else
    let side := wordSide w
    let want := sideOf d slot (taggedOf d page) addr (wordData w)
    if fld side 63 56 ≠ fld want 63 56 then 3
    else if taggedOf d page then (if fld side 55 0 = fld want 55 0 then 0 else 4)
    else if fld side 55 0 = fld want 55 0 then 0 else 3

/-- Steps 1 to 4 of R157. -/
def checkUnit (d : Dev) (page addr : Nat) (loc : Nat) (w : Stored) : UnitRes :=
  match decodeWord (skimOf d page) (markedDev d loc) w with
  | .poison w' c => .poison w' c
  | .bad => .fail 2 w false
  | .good w' c =>
    match skimSteps d page addr (slotOf d page) w' with
    | 0 => .ok w' c
    | n => .fail n w' c

/-! ## Corrections, the Patch table and device counts -/

/-- Nanoseconds in an hour. -/
def nsHour : Nat := 3600000000000

/-- Restart of the counts at the end of a lap, and one more count against a device (R159, R160). -/
def countDevice (d : Dev) (loc dev : Nat) : Dev :=
  let q := locQuad loc
  let k := 2 * locChan loc + loc % 2
  let x := ddrAt d loc
  let key := ((k * 2 + x.dimm) * 4 + x.rank) * 16 + dev
  let n := tabGet 0 (quad d q).devCounts key + 1
  let d := qmod d q fun s => { s with devCounts := tabPut 0 s.devCounts key n }
  if n < rfld d (.coat q) .coatEccCfg 7 0 then d
  else
    let r : RName := if k < 4 then .coatDevFail0 else .coatDevFail1
    let w := rget d (.coat q) r
    let j := k % 4
    if w.getLsbD (8 * j + 7) then
      if fld w (8 * j + 6) (8 * j) = dev + x.rank * 16 + x.dimm * 64 then d
      else raise0 d (.coat q) 4
    else
      let d := rput d (.coat q) r (setFld w (8 * j + 7) (8 * j) (dev + x.rank * 16 + x.dimm * 64 + 128))
      let d := logEvents d (headsOf d) 1 (.deviceFailed q k dev)
      raise d (.coat q) 3 .none (ctxKind 0 (.coat q)) true false (headsOf d)

/-- Queue a record for the calibration store: the queue keeps the newest of each key (R425, R427, R428). -/
def calPut (d : Dev) (kind key : Nat) (body : List Nat) : Dev :=
  let r : CalRec := { kind, key, units := max 2 ((body.length + 35) / 16), body }
  if d.cal.readOnly ∨ d.cal.stopped then d
  else { d with cal := { d.cal with queue := (d.cal.queue.filter fun x => x.kind ≠ kind ∨ x.key ≠ key) ++ [r] } }

/-- The repair record of a place's DIMM (R179, R425). Its body lists the repairs of that DIMM: a remapped place with its spare line,
or, from 2^62 on, a bank group whose row was repaired in place. -/
def repairRecord (d : Dev) (loc : Nat) : Dev :=
  let q := locQuad loc
  let c := locChan loc
  let slot := (ddrAt d loc).dimm
  let at_ (k : Nat) : Nat := q * 2 ^ 40 + k
  let remaps := (quad d q).remap.filterMap fun e => match e.2 with
    | some i => if locChan (at_ e.1) = c ∧ (ddrAt d (at_ e.1)).dimm = slot then some (e.1 + i * 2 ^ 38) else none
    | none => none
  let rows := ((quad d q).pprUsed.filter fun g => g / 2 ^ 13 % 4 = c ∧ g / 2 ^ 8 % 2 = slot).map (· + 2 ^ 62)
  calPut d 4 ((4 * q + c) * 2 + slot) (remaps ++ rows)

/-- Remap a hard line to the next free spare line of its channel, or raise "spare pool exhausted" (R179). Back comes
whether it was repaired. -/
def spareRemap (d : Dev) (loc : Nat) : Dev × Bool :=
  let q := locQuad loc
  let c := locChan loc
  let used := (quad d q).spareUsed.getD c 0
  if isSpare loc ∨ 16384 ≤ used then (raise d (.coat q) 6 .none (ctxKind 0 (.coat q)) true, false)
  else
    let w := wordAt d loc
    let d := qmod d q fun s =>
      { s with remap := tabPut none s.remap (loc % 2 ^ 38) (some used), spareUsed := s.spareUsed.set c (used + 1) }
    (repairRecord (pushWrite d (spareLoc q c used) w) loc, true)

/-- A line has become Hard (R179): source, DRAM Event, then soft repair where it may be used, else remapping. A soft repair
runs until SOFT_PPR_DONE. -/
def hardLine (d : Dev) (loc : Nat) : Dev :=
  let q := locQuad loc
  let d := logEvents d (headsOf d) 1 (.hardLine (mpaOf d loc))
  let d := raise d (.coat q) 5 .none (ctxLine (.coat q) .sander 0 0 0 0 (mpaOf d loc)) false false (headsOf d)
  let cfg := dimmCfg d (4 * q + locChan loc)
  let grp := locSub loc * 2 ^ 12 + bankIdx (ddrAt d loc) / 4
  if (rget d (.coat q) .coatPatchCfg).getLsbD 24 && cfg.getLsbD 18 && !(quad d q).pprUsed.contains grp && !(subc d (locSub loc)).ppr then
    umod d (locSub loc) fun s => { s with ppr := true }
  else
    let (d, ok) := spareRemap d loc
    if ok then qmod d q fun s => { s with patch := s.patch.filter fun p => p.loc ≠ loc } else d

/-- A correction updates the Patch table (R178): a new Counting entry, a count, a scrub-write, or Hard. `dirty` says that
Stage holds the line dirty, which skips the scrub-write; `w` is the corrected word. -/
def patchUpdate (d : Dev) (loc : Nat) (w : Stored) (dirty : Bool) : Dev :=
  let q := locQuad loc
  let now := d.pwr.now
  let cfg := rget d (.coat q) .coatPatchCfg
  let tbl := (quad d q).patch
  match tbl.find? fun p => p.loc = loc with
  | none =>
    let e : Patch := { loc, count := 1, time := now, state := .counting }
    if tbl.length < 256 then qmod d q fun s => { s with patch := s.patch ++ [e] }
    else match takeFirst (fun (p : Patch) => p.state = .counting) tbl with
      | some (_, rest) => qmod d q fun s => { s with patch := rest ++ [e] }
      | none => qmod d q fun s => { s with patchDropped := satInc s.patchDropped }
  | some p =>
    match p.state with
    | .hard => d
    | .watching =>
      if now.toNat - p.time.toNat ≤ fld cfg 23 16 * 24 * nsHour then
        hardLine (qmod d q fun s => { s with patch := mapIf (fun x => x.loc = loc) (fun x => { x with state := .hard }) s.patch }) loc
      else qmod d q fun s => { s with patch := s.patch.filter fun x => x.loc ≠ loc }
    | .counting =>
      let old := decide (fld cfg 15 8 * nsHour < now.toNat - p.time.toNat)
      let n := if old then 1 else p.count + 1
      let t := if old then now else p.time
      if n < fld cfg 2 0 then
        qmod d q fun s => { s with patch := mapIf (fun x => x.loc = loc) (fun x => { x with count := n, time := t }) s.patch }
      else
        let d := qmod d q fun s =>
          { s with patch := mapIf (fun x => x.loc = loc) (fun x => { x with count := 0, time := now, state := .watching }) s.patch }
        if dirty then d else pushWrite d loc w

/-- A correction that R157 made: counted, tallied against its device, and passed to the Patch table. -/
def corrected (d : Dev) (page loc : Nat) (old new : Stored) (dirty : Bool) : Dev :=
  let q := locQuad loc
  let d := rbump d (.coat q) .coatCorrCount
  let x8 := (dimmCfg d (4 * q + locChan loc)).getLsbD 2
  let ch := changedSyms old new
  let d :=
    if !skimOf d page && !x8 && decide (3 ≤ ch.length) && ch.all (fun s => s / 8 = (ch.headD 0) / 8) then countDevice d loc (ch.headD 0 / 8) else d
  patchUpdate d loc new dirty

/-- The trial decodes of an uncorrectable Skim word (R159). -/
def trialDevices (d : Dev) (page addr loc : Nat) (w : Stored) : Dev :=
  let x8 := (dimmCfg d (4 * locQuad loc + locChan loc)).getLsbD 2
  if ¬ skimOf d page ∨ x8 then d
  else
    let hits := (List.range 10).filter fun dev =>
      match rsCorrect 8 0 ((deviceSyms false dev).map (codePos true)) (toCode true (symsOf w)) with
      | some c => decide (skimSteps d page addr (slotOf d page) (ofSyms (ofCode true c)) = 0)
      | none => false
    match hits with
    | [dev] => countDevice d loc dev
    | _ => d

/-! ## Lining (R163 to R167) -/

/-- The base media page of an extent's Lining area in a quadrant. -/
def liningBase (d : Dev) (page : Nat) : Option Nat :=
  let k := extentOf page * 4 + homeOf page
  if d.linings.any fun e => e.1 = k then some (tabGet 0 d.linings k) else none

/-- The place of parity line 0 or 1 of a page (R163). -/
def parityLoc (d : Dev) (page base j : Nat) : Nat :=
  let n := page / 2 ^ 11 % 128 * 512 + page % 512
  placeOf d (homeOf page) (base + n / 32) (2 * (n % 32) + j)

/-- Multiply each byte of a line by α^i. -/
def lineScale (i : Nat) (x : Line) : Line :=
  let c := gfExp i
  BitVec.ofNat 512 (ofBytes ((bytesOf x.toNat 64).map fun b => BitVec.ofNat 8 (gfMul c b.toNat)))

/-- Multiply each byte of a line by a constant. -/
def lineMul (c : Nat) (x : Line) : Line :=
  BitVec.ofNat 512 (ofBytes ((bytesOf x.toNat 64).map fun b => BitVec.ofNat 8 (gfMul c b.toNat)))

/-- P0 and P1 of the unit data (R164). -/
def parityOf (units : List (Nat × Line)) : Line × Line :=
  units.foldl (fun p u => (p.1 ^^^ u.2, p.2 ^^^ lineScale u.1 u.2)) (0, 0)

/-- A parity line as stored: the Render code (R156). -/
def parityWord (x : Line) : Stored := encodeWord false x 0

/-- A parity line read back. -/
def parityRead (d : Dev) (loc : Nat) : Option Line :=
  match correctWord false (markedDev d loc) (wordAt d loc) with
  | some w => some (wordData w)
  | none => none

/-- The stored bytes of a unit for parity: zero where it is poisoned, none where it fails. -/
def unitBytes (d : Dev) (page : Nat) (e : DWord) (i : Nat) : Option Line :=
  let loc := unitLoc d page e i
  match checkUnit d page (unitAddr page e i) loc (wordAt d loc) with
  | .ok w _ => some (wordData w)
  | .poison _ _ => some 0
  | .fail _ _ _ => none

/-- Write the parity pair of a page fresh from its units (R165). -/
def parityFresh (d : Dev) (page : Nat) (e : DWord) : Dev :=
  match liningBase d page with
  | none => d
  | some base =>
    let (p0, p1) := parityOf ((List.range (unitCount e)).map fun i => (i, (unitBytes d page e i).getD 0))
    pushWrite (pushWrite d (parityLoc d page base 0) (parityWord p0)) (parityLoc d page base 1) (parityWord p1)

/-- Write one unit of a page, with the parity pair updated by the difference (R165). -/
def writeUnit (d : Dev) (page : Nat) (e : DWord) (i : Nat) (w : Stored) : Dev :=
  let loc := unitLoc d page e i
  match (if linedOf d page then liningBase d page else none) with
  | none => pushWrite d loc w
  | some base =>
    let new := if w = poisonWord (skimOf d page) then 0 else wordData w
    match unitBytes d page e i, parityRead d (parityLoc d page base 0), parityRead d (parityLoc d page base 1) with
    | some old, some p0, some p1 =>
      let df := old ^^^ new
      let d := pushWrite d loc w
      pushWrite (pushWrite d (parityLoc d page base 0) (parityWord (p0 ^^^ df))) (parityLoc d page base 1) (parityWord (p1 ^^^ lineScale i df))
    | _, _, _ => parityFresh (pushWrite d loc w) page e

/-- Rebuild the failed units of a Lined page (R166): the rebuilt stored words, none where the rebuild fails. -/
def rebuild (d : Dev) (page : Nat) (e : DWord) : Option (List (Nat × Stored)) :=
  match liningBase d page with
  | none => none
  | some base =>
    match parityRead d (parityLoc d page base 0), parityRead d (parityLoc d page base 1) with
    | some p0, some p1 =>
      let us := (List.range (unitCount e)).map fun i => (i, unitBytes d page e i)
      let good := us.filterMap fun u => u.2.map fun x => (u.1, x)
      let bad := (us.filter fun u => u.2 = none).map (·.1)
      let (g0, g1) := parityOf good
      let s0 := p0 ^^^ g0
      let s1 := p1 ^^^ g1
      let cand : List (Nat × Line) := match bad with
        | [j] => [(j, s0)]
        | [j, k] =>
          let dj := lineMul (gfInv (gfExp j ^^^ gfExp k)) (s1 ^^^ lineScale k s0)
          [(j, dj), (k, s0 ^^^ dj)]
        | _ => []
      let out := cand.map fun u =>
        let loc := unitLoc d page e u.1
        let w : Stored := (wordAt d loc &&& ~~~((BitVec.allOnes 512).setWidth 640)) ||| u.2.setWidth 640
        match checkUnit d page (unitAddr page e u.1) loc w with
        | .ok w' _ => if wordData w' = u.2 then some (u.1, w') else none
        | _ => none
      if out.isEmpty ∨ out.any (· = none) then none else some (out.filterMap id)
    | _, _ => none

/-! ## Poisoning a line in place (R168) -/

/-- Write the poison word of the page's profile to a unit. -/
def poisonUnit (d : Dev) (page : Nat) (e : DWord) (i : Nat) : Dev := writeUnit d page e i (poisonWord (skimOf d page))

/-- The first-error context of a failed unit (R174). -/
def failCtx (d : Dev) (b : Block) (f : Finder) (p slate result line loc : Nat) : BitVec 256 :=
  ctxLine b f p slate result (line * 64) (mpaOf d loc)

/-- A read of a unit, handled as R157 and R173 say: what the finder gets (none for poison), and the device after. `f` is
the finder; a rebuilt unit is written back; otherwise the poison word is written and a record added. With `dirty` (the
Sander met a line dirty in Stage) nothing is written. -/
def readUnit (d : Dev) (f : Finder) (p slate page : Nat) (e : DWord) (i : Nat) (w : Stored) (dirty : Bool := false) : Dev × Option Line :=
  let q := homeOf page
  let loc := unitLoc d page e i
  let addr := unitAddr page e i
  let line := page * 64 + (if tierOf e = .packed then 0 else i)
  match checkUnit d page addr loc w with
  | .poison w' c => ((if c then corrected d page loc w w' dirty else d), none)
  | .ok w' c => ((if c then corrected d page loc w w' dirty else d), some (wordData w'))
  | .fail step w' c =>
    let d := if c then corrected d page loc w w' dirty else d
    let d := if step = 2 then trialDevices d page addr loc w else d
    let d := rbump d (.coat q) .coatUncorrCount
    let d := if step = 4 then rbump d (.seal q) .sealTagFailCount else d
    let bit := if step = 2 then 0 else 1
    if linedOf d page then
      match rebuild d page e with
      | some ws =>
        let d := ws.foldl (fun d u => pushWrite d (unitLoc d page e u.1) u.2) d
        let d := raise d (.coat q) bit .none (failCtx d (.coat q) f p slate 1 line loc)
        (d, (ws.find? fun u => u.1 = i).map fun u => wordData u.2)
      | none =>
        if dirty then (raise d (.coat q) bit .none (failCtx d (.coat q) f p slate 2 line loc), none)
        else
          let d := poisonUnit d page e i
          let (d, hs) := addPoison d line (if tierOf e = .packed then 64 else 1) .internal
          (raise d (.coat q) bit .none (failCtx d (.coat q) f p slate 2 line loc) false false hs, none)
    else if dirty then (raise d (.coat q) bit .none (failCtx d (.coat q) f p slate 0 line loc), none)
    else
      let d := poisonUnit d page e i
      let (d, hs) := addPoison d line (if tierOf e = .packed then 64 else 1) .internal
      (raise d (.coat q) bit .none (failCtx d (.coat q) f p slate 0 line loc) false false hs, none)

end Sys2Proof.Machine
end

