-- ==== Sys2Proof/Machine/Sets.lean ====
section
/-! DEFINITION. Sixteen-way sets with a pseudo-LRU tree (R62, R65, R210): node 0 is the root, node `n` has the children
2n + 1 and 2n + 2, and a node's bit names the half that was used longer ago. -/

namespace Sys2Proof.Machine

/-- The entry of a key in a set. -/
def asFind {α : Type} (s : ASet α) (key : Nat) : Option (Nat × α) :=
  (s.ways.find? fun w => w.2.1 = key).map fun w => (w.1, w.2.2)

/-- The tree bits after way `w` was used: every node on its path points away from it. -/
def plruTouch (t : BitVec 15) (w : Nat) : BitVec 15 :=
  let step (a : BitVec 15 × Nat) (i : Nat) : BitVec 15 × Nat :=
    let b := w / 2 ^ (3 - i) % 2
    let m : BitVec 15 := BitVec.ofNat 15 (2 ^ a.2)
    (if b = 0 then a.1 ||| m else a.1 &&& ~~~m, 2 * a.2 + 1 + b)
  ((List.range 4).foldl step (t, 0)).1

/-- The least recently used way among the ways that `ok` admits: at each node the half the tree points to, or the other
where it holds no admitted way. -/
def plruVictim (t : BitVec 15) (ok : Nat → Bool) : Option Nat :=
  let has (base width : Nat) : Bool := (List.range width).any fun i => ok (base + i)
  let step (a : Option (Nat × Nat × Nat)) (_ : Nat) : Option (Nat × Nat × Nat) :=
    match a with
    | none => none
    | some (node, base, width) =>
      let h := width / 2
      let pref := b2n (t.getLsbD node)
      let go (b : Nat) : Nat × Nat × Nat := (2 * node + 1 + b, base + b * h, h)
      if has (base + pref * h) h then some (go pref)
      else if has (base + (1 - pref) * h) h then some (go (1 - pref))
      else none
  ((List.range 4).foldl step (some (0, 0, 16))).map (·.2.1)

/-- A free way that `en` admits, the lowest first. -/
def asFree {α : Type} (s : ASet α) (en : Nat → Bool) : Option Nat :=
  (List.range 16).find? fun w => en w && !(s.ways.any fun x => x.1 = w)

/-- Mark a way used. -/
def asTouch {α : Type} (s : ASet α) (w : Nat) : ASet α := { s with plru := plruTouch s.plru w }

/-- Put a key with its value into a way and mark it used. -/
def asPut {α : Type} (s : ASet α) (w key : Nat) (v : α) : ASet α :=
  { ways := (s.ways.filter fun x => x.1 ≠ w) ++ [(w, key, v)], plru := plruTouch s.plru w }

/-- Change the value of a key. -/
def asSet {α : Type} (s : ASet α) (key : Nat) (v : α) : ASet α :=
  { s with ways := mapIf (fun x => x.2.1 = key) (fun x => (x.1, key, v)) s.ways }

/-- Remove a key. -/
def asDel {α : Type} (s : ASet α) (key : Nat) : ASet α := { s with ways := s.ways.filter fun x => x.2.1 ≠ key }

/-- Remove every key that satisfies `p`. -/
def asDrop {α : Type} (p : Nat → Bool) (s : ASet α) : ASet α := { s with ways := s.ways.filter fun x => !p x.2.1 }

end Sys2Proof.Machine
end

