-- ==== Sys2Proof/Machine/Mem.lean ====
section
/-! DEFINITION. The map cache and the map share (R49, R57 to R62), media pages and their levels (R61, R84), Stage and its
write-back buffer (R63 to R68), binding (R58), decoding a Packed page (R94, R96), and the line access of the device's own
agents. -/

namespace Sys2Proof.Machine

/-! ## The map (R49, R57, R59 to R62) -/

/-- The key of a page's entry in the map shares. -/
def shareKey (q lp : Nat) : Nat := q * 2 ^ 32 + lp
/-- The key of a large entry in the map cache. -/
def largeKey (lp : Nat) : Nat := 2 ^ 40 + lp / 512
/-- The map-cache set of a local page number (R59). -/
def mapSet (lp : Nat) : Nat := lp % 2 ^ 14
/-- The set of a page's large entry: that of the frame's first page (R60). -/
def largeSet (lp : Nat) : Nat := mapSet (lp / 512 * 512)

/-- The entry as the map share in DRAM holds it. -/
def shareEntry (d : Dev) (q lp : Nat) : DWord := tabGet unbackedEntry d.mapShare (shareKey q lp)
/-- Write an entry of the map share. -/
def putShare (d : Dev) (q lp : Nat) (e : DWord) : Dev :=
  { d with mapShare := tabPut unbackedEntry d.mapShare (shareKey q lp) e }

/-- The cached small entry of a page. -/
def smallEntry (d : Dev) (q lp : Nat) : Option DWord :=
  match asFind (tabGet {} (quad d q).mapSets (mapSet lp)) lp with
  | some (_, .small e _) => some e
  | _ => none
/-- The cached large entry of a page's frame: base MPN and frame heat. -/
def largeEntry (d : Dev) (q lp : Nat) : Option (Nat × Nat) :=
  match asFind (tabGet {} (quad d q).mapSets (largeSet lp)) (largeKey lp) with
  | some (_, .large b h _) => some (b, h)
  | _ => none

/-- What a map-cache lookup hits (R60): the small entry where both hit. -/
def mapHit (d : Dev) (page : Nat) : Option DWord :=
  let q := homeOf page
  let lp := localPage page
  match smallEntry d q lp with
  | some e => some e
  | none => (largeEntry d q lp).map fun b => openEntry (b.1 + lp % 512) b.2 true

/-- The entry in force of a page, cached or not. -/
def entryNow (d : Dev) (page : Nat) : DWord := (mapHit d page).getD (shareEntry d (homeOf page) (localPage page))

/-- Change the entry in force of a page: the cached small entry where there is one, which becomes dirty, else the share. -/
def setEntry (d : Dev) (page : Nat) (e : DWord) : Dev :=
  let q := homeOf page
  let lp := localPage page
  match smallEntry d q lp with
  | some _ => qmod d q fun s => { s with mapSets := tabMod {} s.mapSets (mapSet lp) fun w => asSet w lp (.small e true) }
  | none => putShare d q lp e

/-- Write an entry and its map line to DRAM (R80 step 5): both copies hold it. -/
def setEntryThrough (d : Dev) (page : Nat) (e : DWord) : Dev := putShare (setEntry d page e) (homeOf page) (localPage page) e

/-- Whether an entry passes R57. -/
def entryGood (d : Dev) (page : Nat) (e : DWord) : Bool := entryOk e (rsvBase d (homeOf page))

/-- A failed map entry check (R57): recorded in MAP.CHK_ERR, raised with the quadrant as the unit. -/
def mapCheckFail (d : Dev) (page : Nat) : Dev :=
  let q := homeOf page
  let b := Block.map q
  let d := if (rget d b .mapChkErrHi).getLsbD 31 then d
    else rput (rput d b .mapChkErrLo (BitVec.ofNat 32 page)) b .mapChkErrHi (packW [(31, 1), (0, page / 2 ^ 32 % 2)])
  raise d b 0 (.quadrant (quadOf q)) (ctxLine b .host 0 0 0 (page * 4096) 0)

/-- The frame's pages. -/
def framePages (page : Nat) : List Nat := (List.range 512).map fun i => page / 512 * 512 + i

/-- Write the frame heat into all entries of the frame and drop the large entry (R60). -/
def removeLarge (d : Dev) (page : Nat) : Dev :=
  let q := homeOf page
  let lp := localPage page
  match largeEntry d q lp with
  | none => d
  | some (_, h) =>
    let d := (framePages page).foldl (fun d p => setEntry d p (withHeat (if (smallEntry d q (localPage p)).isSome then (smallEntry d q (localPage p)).getD 0 else shareEntry d q (localPage p)) h)) d
    qmod d q fun s => { s with mapSets := tabMod {} s.mapSets (largeSet lp) fun w => asDel w (largeKey lp) }

/-- A page of a whole frame leaves Open, or is about to be moved (R60, R61): the large entry goes, FRAME_WHOLE is cleared in
all entries. -/
def clearWhole (d : Dev) (page : Nat) : Dev :=
  let d := removeLarge d page
  if wholeOf (entryNow d page) then (framePages page).foldl (fun d p => setEntry d p (withWhole (entryNow d p) false)) d else d

/-- Evict a cached entry (R62): a small one is written back with its heat shifted (R75), a large one spreads its heat. -/
def mapEvict (d : Dev) (q : Nat) (set key : Nat) (v : MapEnt) : Dev :=
  let drop (d : Dev) : Dev := qmod d q fun s => { s with mapSets := tabMod {} s.mapSets set fun w => asDel w key }
  match v with
  | .small e _ => drop (putShare d q key (withHeat e (heatOf e >>> rfld d (.dolly 0) .dolly0HeatCfg 23 22)))
  | .large _ _ _ => removeLarge d (pageOfLocal q ((key - 2 ^ 40) * 512))

/-- Install a map-cache entry (R59, R62): a free way, else the least recently used way that is not excluded; none where every
way is excluded. `busy` says which keys have waiting requests. -/
def mapInstall (d : Dev) (q set key : Nat) (v : MapEnt) (busy : Nat → Bool) : Option Dev :=
  let s := tabGet {} (quad d q).mapSets set
  let put (d : Dev) (w : Nat) : Dev := qmod d q fun x => { x with mapSets := tabMod {} x.mapSets set fun a => asPut a w key v }
  match asFind s key with
  | some _ => some d
  | none =>
    match asFree s (fun _ => true) with
    | some w => some (put d w)
    | none =>
      let ok (w : Nat) : Bool := s.ways.any fun x => x.1 = w && !busy x.2.1 &&
        (match x.2.2 with
         | .small e _ => !movingOf e
         | .large _ _ _ => true)
      match plruVictim s.plru ok with
      | none => none
      | some w => match s.ways.find? fun x => x.1 = w with
        | some (_, k, old) => some (put (mapEvict d q set k old) w)
        | none => none

/-- A use of the cached entries of a page updates their trees. -/
def mapTouch (d : Dev) (page : Nat) : Dev :=
  let q := homeOf page
  let lp := localPage page
  let touch (set key : Nat) (s : Quad) : Quad :=
    match asFind (tabGet {} s.mapSets set) key with
    | some (w, _) => { s with mapSets := tabMod {} s.mapSets set fun a => asTouch a w }
    | none => s
  qmod d q fun s => touch (largeSet lp) (largeKey lp) (touch (mapSet lp) lp s)

/-- Add heat to a page where its lookup keeps it (R60, R74): the small entry, else the frame heat. -/
def addHeat (d : Dev) (page inc : Nat) : Dev :=
  let q := homeOf page
  let lp := localPage page
  match smallEntry d q lp, largeEntry d q lp with
  | some e, _ => setEntry d page (withHeat e (heatOf e + inc))
  | none, some (b, h) =>
    qmod d q fun s => { s with mapSets := tabMod {} s.mapSets (largeSet lp) fun w => asSet w (largeKey lp) (.large b (min 63 (h + inc)) true) }
  | none, none => setEntry d page (withHeat (entryNow d page) (heatOf (entryNow d page) + inc))

/-- The heat in force of a page. -/
def heatNow (d : Dev) (page : Nat) : Nat := heatOf (entryNow d page)

/-- Count an admitted request of the quadrant (R74) and, on a sample, add its weighted heat (R230) and list a page that
reaches PROMOTE_HEAT (R76). -/
def heatSample (d : Dev) (page : Nat) (hit : Bool) (heatW : Nat) : Dev :=
  let q := homeOf page
  let n := (quad d q).samples + 1
  let d := qmod d q fun s => { s with samples := n }
  if n % 2 ^ rfld d (.dolly 0) .dolly0HeatCfg 3 0 ≠ 0 then d
  else
    let inc := (if hit then 1 else 2) * [0, 1, 2, 4].getD heatW 1
    let d := addHeat d page inc
    let t := tierOf (entryNow d page)
    let s := quad d q
    if (t = .packed ∨ t = .span) ∧ rfld d (.dolly 0) .dolly0HeatCfg 15 10 ≤ heatNow d page
      ∧ ¬ s.promo.contains page ∧ ¬ s.demo.contains page ∧ s.promo.length < 512
    then qmod d q fun s => { s with promo := s.promo ++ [page] } else d

/-! ## Media pages (R61, R84) -/

/-- PHYS_PAGES (R84). -/
def physPages (d : Dev) (q : Nat) : Nat := rsvBase d q
/-- Free slots of the pool pages. -/
def freeSlots (s : Quad) : Nat :=
  (s.use.map fun e => match e.2 with
    | .pool m => 16 - ((List.range 16).filter fun i => m.getLsbD i).length
    | _ => 0).sum
/-- Media pages in use. -/
def usedPages (s : Quad) : List Nat := (s.use.map (·.1)) ++ s.badPages
/-- FREE_PAGES (R84). -/
def freePages (d : Dev) (q : Nat) : Nat :=
  physPages d q - (usedPages (quad d q)).length + freeSlots (quad d q) / 16

/-- The level of R84 that FREE_PAGES gives. -/
def levelNow (d : Dev) (q : Nat) : Nat :=
  let phys := physPages d q
  let free := 1000 * freePages d q
  if phys * 10 < free then (if phys * rfld d (.dolly 1) .dolly1Marks 9 0 < free then 0 else 1) else 2

/-- Insert into a rising list. -/
def insertNat (x : Nat) : List Nat → List Nat
  | [] => [x]
  | y :: l => if x < y then x :: y :: l else if x = y then y :: l else y :: insertNat x l
/-- The rising list of numbers. -/
def sortNat (l : List Nat) : List Nat := l.foldl (fun a x => insertNat x a) []

/-- The reserved run of a frame. -/
def runOf (s : Quad) (frame : Nat) : Option Nat := (s.runs.find? fun r => r.1 = frame).map (·.2)
/-- End the reservation of a frame. -/
def endRun (d : Dev) (q frame : Nat) : Dev := qmod d q fun s => { s with runs := s.runs.filter fun r => r.1 ≠ frame }
/-- The reserved pages that are not bound. -/
def reservedFree (s : Quad) : List Nat :=
  (s.runs.flatMap fun r => (List.range 512).map fun i => r.2 + i).filter fun m => tabGet MUse.free s.use m = .free && !s.badPages.contains m

/-- Take a free media page that no reservation holds: any one, as the free value chooses; else the lowest reserved one,
whose reservation ends (R61). -/
def takeAny (d : Dev) (q : Nat) : Option (Dev × Nat) :=
  let s := quad d q
  let res := reservedFree s
  let out := sortNat (usedPages s ++ res)
  let n := physPages d q - out.length
  if 0 < n then some (bumpFree d, kthFree out (Config.free (fresh d) % n))
  else match sortNat res with
    | m :: _ => match s.runs.find? fun r => r.2 ≤ m ∧ m < r.2 + 512 with
      | some r => some (endRun d q r.1, m)
      | none => none
    | [] => none

/-- Take the media page of a DPA page (R58, R61). `bind` marks a binding, which may reserve a run. -/
def takePage (d : Dev) (page : Nat) (bind : Bool) : Option (Dev × Nat) :=
  let q := homeOf page
  let s := quad d q
  let fr := frameOf page
  let own := page % 512
  if ¬ (rget d (.map q) .mapCfg).getLsbD 2 then takeAny d q
  else match runOf s fr with
    | some base =>
      if tabGet MUse.free s.use (base + own) = .free ∧ ¬ s.badPages.contains (base + own) then some (d, base + own) else takeAny d q
    | none =>
      if bind && ((framePages page).all fun p => p = page || tierOf (entryNow d p) = .unbacked) then
        let busy := sortNat ((usedPages s).map (· / 512) ++ s.runs.map (·.2 / 512))
        let n := physPages d q / 512 - (busy.filter (· < physPages d q / 512)).length
        if 0 < n then
          let base := 512 * kthFree busy (Config.free (fresh d) % n)
          some (qmod (bumpFree d) q fun s => { s with runs := s.runs ++ [(fr, base)] }, base + own)
        else takeAny d q
      else takeAny d q

/-- Whether a binding or an urgent promotion has room (R58, R86): a whole free page, and in Reserve FREE_PAGES after it
above 1 %. -/
def hasRoom (d : Dev) (q : Nat) : Bool :=
  decide ((usedPages (quad d q)).length < physPages d q) &&
  (decide (levelNow d q ≠ 2) || decide (physPages d q * 10 < 1000 * (freePages d q - 1)))

/-- Record a media page's use. -/
def setUse (d : Dev) (q mpn : Nat) (u : MUse) : Dev := qmod d q fun s => { s with use := tabPut .free s.use mpn u }

/-- Free the place an entry gives: an Open page's media page, a Packed page's slots; a pool page whose slots are all free
returns to the free pages (R84). -/
def freePlace (d : Dev) (page : Nat) (e : DWord) : Dev :=
  let q := homeOf page
  match tierOf e with
  | .open_ => setUse d q (mpnOf e) .free
  | .packed =>
    match tabGet MUse.free (quad d q).use (mpnOf e) with
    | .pool m =>
      let m' := m &&& ~~~(BitVec.ofNat 16 ((2 ^ slotCount e - 1) <<< firstSlot e))
      setUse d q (mpnOf e) (if m' = 0 then .free else .pool m')
    | _ => d
  | .unbacked | .span => d

/-- A page leaves Open: its frame's reservation ends (R61). -/
def leaveOpen (d : Dev) (page : Nat) : Dev := endRun d (homeOf page) (frameOf page)

/-! ## Stage (R63 to R68) -/

/-- The Stage set of a line (R63). -/
def stageSet (line : Nat) : Nat := qln line % 12288

/-- The line in a way. -/
def stageWay (d : Dev) (line : Nat) : Option (Nat × SLine) :=
  asFind (tabGet {} (quad d (homeOf (pageOfLine line))).stage (stageSet line)) line
/-- The line in the write-back buffer. -/
def wbEntry (d : Dev) (line : Nat) : Option WbEnt := (quad d (homeOf (pageOfLine line))).wb.find? fun w => w.line = line
/-- The line as Stage serves it: from a way, else from the buffer (R65). -/
def stageFind (d : Dev) (line : Nat) : Option Line :=
  match stageWay d line with
  | some (_, l) => some l.data
  | none => (wbEntry d line).map (·.data)
/-- Whether Stage holds the line dirty. -/
def stageDirty (d : Dev) (line : Nat) : Bool :=
  (match stageWay d line with
    | some (_, l) => l.dirty
    | none => false) || (wbEntry d line).isSome

/-- Change the Stage set of a line. -/
def stageMod (d : Dev) (line : Nat) (f : ASet SLine → ASet SLine) : Dev :=
  qmod d (homeOf (pageOfLine line)) fun s => { s with stage := tabMod {} s.stage (stageSet line) f }

/-- Discard a line of Stage and of the buffer. -/
def stageDrop (d : Dev) (line : Nat) : Dev :=
  qmod (stageMod d line fun w => asDel w line) (homeOf (pageOfLine line)) fun s => { s with wb := s.wb.filter fun w => w.line ≠ line }

/-- Whether a way of a quadrant takes new lines: WAY_EN, and not taken out by SRAM BIST (R410). -/
def wayEnabled (d : Dev) (q set w : Nat) : Bool :=
  (rget d (.stage q) .stageCfg).getLsbD (16 + w) && !(quad d q).waysOut.contains (set, w)

/-- Whether a line is locked (R65): the subject of an open transaction, or with a pending write-back. -/
def lineLocked (d : Dev) (line : Nat) : Bool :=
  let s := quad d (homeOf (pageOfLine line))
  s.trans.any (fun t => t.line = line) || s.wb.any (fun w => w.line = line)

/-- The place a line of an Open page has now (R469): none for other pages. -/
def openPlace (d : Dev) (line : Nat) : Option Nat :=
  let e := entryNow d (pageOfLine line)
  if tierOf e = .open_ then some (unitLoc d (pageOfLine line) e (line % 64)) else none

/-- Hand a dirty line to the write-back buffer. `keep` is a clean copy that stays valid in its way (R80). -/
def wbPush (d : Dev) (line : Nat) (data : Line) (cls : Option Nat) (keep : Bool := false) : Dev :=
  qmod d (homeOf (pageOfLine line)) fun s =>
    { s with wb := s.wb ++ [{ line, data, loc := openPlace d line, cls, keepValid := keep }] }

/-- Put a line into Stage (R64, R65): over a copy there is, or in a free way, or in the place of the least recently used
unlocked line of an enabled way, whose dirty data goes to the buffer; none where the request must wait. -/
def stagePut (d : Dev) (line : Nat) (data : Line) (dirty : Bool) (cls : Option Nat) : Option Dev :=
  let q := homeOf (pageOfLine line)
  let set := stageSet line
  let put (d : Dev) (w : Nat) (dy : Bool) : Dev := stageMod d line fun a => asPut a w line { data, dirty := dy }
  let s := tabGet {} (quad d q).stage set
  match asFind s line with
  | some (w, old) =>
    if dirty ∧ ¬ wayEnabled d q set w then
      if (quad d q).wb.length < 64 then some (wbPush (stageMod d line fun a => asDel a line) line data cls) else none
    else some (put d w (dirty || old.dirty))
  | none =>
    if (wbEntry d line).isSome then
      if dirty then some (qmod d q fun s => { s with wb := mapIf (fun w => w.line = line) (fun w => { w with data := data }) s.wb }) else some d
    else match asFree s (wayEnabled d q set) with
      | some w => some (put d w dirty)
      | none =>
        match plruVictim s.plru (fun w => wayEnabled d q set w && s.ways.any fun x => x.1 = w && !lineLocked d x.2.1) with
        | none => none
        | some w => match s.ways.find? fun x => x.1 = w with
          | none => none
          | some (_, vl, old) =>
            if ¬ old.dirty then some (put d w dirty)
            else if (quad d q).wb.length < 64 then some (put (wbPush (stageMod d line fun a => asDel a vl) vl old.data cls) w dirty)
            else none

/-- A Stage hit uses the line's way. -/
def stageTouch (d : Dev) (line : Nat) : Dev :=
  match stageWay d line with
  | some (w, _) => stageMod d line fun a => asTouch a w
  | none => d

/-- Whether a request's lines allocate in Stage (R64): its tier policy, ALLOC_OFF; lines of Span pages always do. -/
def allocates (d : Dev) (line : Nat) (noStage : Bool) : Bool :=
  let page := pageOfLine line
  tierOf (entryNow d page) = .span || !(noStage || (rget d (.stage (homeOf page)) .stageCfg).getLsbD 0)

/-! ## Writing lines to media -/

/-- FLIP_MASK (R180, R355): the next write of a host-data line of the armed sub-channel with the TEST rights is corrupted. -/
def flipApply (d : Dev) (page : Nat) (loc : Nat) (w : Stored) : Dev × Stored :=
  let q := homeOf page
  let b := Block.coat q
  let ctl := rget d b .coatFlipCtl
  let armed := (quad d q).flip.isSome
  let sub := 2 * fld ctl 1 0 + fld ctl 2 2
  if armed ∧ locSub loc = 8 * q + sub ∧ testRight d page then
    let bits := (rget d b .coatFlipMask0).toNat + (rget d b .coatFlipMask1).toNat * 2 ^ 32 + rfld d b .coatFlipMask2 15 0 * 2 ^ 64
    let pat := rfld d b .coatFlipMask2 23 16
    let x := ofSyms ((List.range 80).map fun i => if bits.testBit i then pat else 0)
    let mpa := mpaOf d loc
    let d := qmod d q fun s => { s with flip := none }
    let d := rput d b .coatFlipCtl (setFld ctl 31 30 1)
    let d := rput (rput d b .coatFlipMpaLo (BitVec.ofNat 32 mpa)) b .coatFlipMpaHi (BitVec.ofNat 32 (mpa / 2 ^ 32))
    (raiseEvent d b 1, w ^^^ x)
  else (d, w)

/-- Store a line of an Open page (R66 step 7 to 9): sealed, encoded, with the FLIP mask and the Lining update. -/
def storeOpenLine (d : Dev) (line : Nat) (e : DWord) (plain : Line) : Dev :=
  let page := pageOfLine line
  let (d, w) := flipApply d page (unitLoc d page e (line % 64)) (lineWord d line plain)
  writeUnit d page e (line % 64) w

/-- Whether the write queues can take a line of an Open page, with its parity pair where the page is Lined (R187). -/
def lineRoom (d : Dev) (line : Nat) (e : DWord) : Bool :=
  let page := pageOfLine line
  wqRoom d (unitLoc d page e (line % 64)) &&
  (match (if linedOf d page then liningBase d page else none) with
    | some b => wqRoom d (parityLoc d page b 0) && wqRoom d (parityLoc d page b 1)
    | none => true)

/-- Whether a page's lines need the Seal pipelines of their quadrant (R149). -/
def needsSeal (d : Dev) (page : Nat) : Bool := (slotOf d page).isSome

/-- Write a poison word for a line where its page is Open (R168), and a record of its cause (R169, R171). -/
def poisonLine (d : Dev) (line : Nat) (src : PSource) : Dev × List Nat :=
  let page := pageOfLine line
  let e := entryNow d page
  let d := stageDrop d line
  if tierOf e = .open_ then addPoison (poisonUnit d page e (line % 64)) line 1 src
  else addPoison d line 1 src false

/-- The records without a location of a page get their poison words (R171): the page has just become Open. -/
def settleMarks (d : Dev) (page : Nat) (e : DWord) : Dev :=
  let marks := (List.range 64).filter fun i => markedLine d (page * 64 + i)
  let d := marks.foldl (fun d i => poisonUnit d page e i) d
  { d with poison := d.poison.map fun r => if !r.located && pageOfLine r.line = page then { r with located := true } else r }

/-- Write a whole Open page of plaintext lines. -/
def storePage (d : Dev) (page : Nat) (e : DWord) (lines : Nat → Line) : Dev :=
  let d := (List.range 64).foldl (fun d i => pushWrite d (unitLoc d page e i) (lineWord d (page * 64 + i) (lines i))) d
  if linedOf d page then parityFresh d page e else d

/-- Set FRAME_WHOLE when the 512th page of a frame has become Open in its run (R61). -/
def frameWholeSet (d : Dev) (page : Nat) : Dev :=
  match runOf (quad d (homeOf page)) (frameOf page) with
  | none => d
  | some base =>
    if (framePages page).all fun p =>
      let e := entryNow d p
      tierOf e = .open_ && decide (mpnOf e = base + p % 512)
    then (framePages page).foldl (fun d p => setEntryThrough d p (withWhole (entryNow d p) true)) d
    else d

/-- Start a binding (R58): take the media page and write its zeros. The entry switches when the zeros are written. -/
def bindStart (d : Dev) (page : Nat) : Option Dev :=
  let q := homeOf page
  if ¬ hasRoom d q then none
  else match takePage d page true with
    | none => none
    | some (d, mpn) =>
      let d := setUse d q mpn (.open_ page)
      let d := storePage d page (openEntry mpn 0) fun _ => 0
      some (qmod d q fun s => { s with binds := s.binds ++ [(page, mpn)] })

/-- End a binding (R58): the entry becomes Open, marked lines get their poison words, a full frame becomes whole. -/
def bindDone (d : Dev) (page mpn : Nat) : Dev :=
  let q := homeOf page
  let e := openEntry mpn (heatNow d page)
  let d := qmod d q fun s => { s with binds := s.binds.filter fun b => b.1 ≠ page }
  frameWholeSet (settleMarks (setEntry d page e) page e) page

/-- Bind a page at once: for the device's own agents. -/
def bindNow (d : Dev) (page : Nat) : Option Dev :=
  match bindStart d page with
  | none => none
  | some d => match (quad d (homeOf page)).binds.find? fun b => b.1 = page with
    | some b => some (bindDone d page b.2)
    | none => none

/-! ## Packed pages (R94, R96) -/

/-- A Packed page that failed its check (R96): recorded and raised, `n` lines having gone out already. -/
def packedFail (d : Dev) (page n : Nat) : Dev :=
  let q := homeOf page
  let b := Block.pack q
  let d := if (rget d b .packPageErrHi).getLsbD 31 then d
    else rput (rput d b .packPageErrLo (BitVec.ofNat 32 page)) b .packPageErrHi (packW [(31, 1), (0, page / 2 ^ 32 % 2)])
  let d := rbump d b .packPageErrCount
  let d := qmod d q fun s => { s with failedPages := if s.failedPages.contains page then s.failedPages else s.failedPages ++ [page] }
  raise d b 0 .none (ctxLine b .host 0 0 n (page * 4096) 0)

/-- The stored bytes of a Packed page, unit by unit as R157 and R173 read them: none where a unit is lost. -/
def packedUnits (d : Dev) (f : Finder) (page : Nat) (e : DWord) : Dev × Option (List Line) :=
  (List.range (unitCount e)).foldl (fun (a : Dev × Option (List Line)) i =>
    let (d, r) := readUnit a.1 f 0 0 page e i (wordAt a.1 (unitLoc a.1 page e i))
    match a.2, r with
    | some l, some x => (d, some (l ++ [x]))
    | _, _ => (d, none)) (d, some [])

/-- The plaintext bytes of a Packed page's slots (R129). -/
def unsealSlots (d : Dev) (page : Nat) (units : List Line) : List Byte :=
  (List.range (units.length / 4)).flatMap fun i =>
    let raw : BitVec 2048 := BitVec.ofNat 2048 (ofBytes ((List.range 4).flatMap fun k => bytesOf (units.getD (4 * i + k) 0).toNat 64))
    let plain := match slotOf d page with
      | some k => Config.xtsDecSlot (xtsKey d k) (tweakSlot page i k) raw
      | none => raw
    bytesOf plain.toNat 256

/-- Decode a Packed page: its 64 lines, or how many came out before it failed. -/
def decodePacked (d : Dev) (f : Finder) (page : Nat) (e : DWord) : Dev × Option (List Line) × Nat :=
  if (quad d (homeOf page)).failedPages.contains page then (d, none, 0)
  else match packedUnits d f page e with
    | (d, none) => (d, none, 0)
    | (d, some us) =>
      let r := decodePageVariant (unsealSlots d page us)
      if r.ended then (d, some ((List.range 64).map fun i => lineOfBytes r.out (64 * i)), 64) else (d, none, r.out.length / 64)

/-! ## Access by the device's own agents -/

/-- Read the current value of a line at its home for an agent inside the device (engines, merges): none for poison. A line
held by a peer reads as a free value: its data comes over Marwen. -/
def loadLine (d : Dev) (f : Finder) (line : Nat) : Dev × Option Line :=
  let page := pageOfLine line
  let e := entryNow d page
  match zoneOf d page with
  | .above => (d, some 0)
  | .normal | .wait =>
    match stageFind d line with
    | some x => (stageTouch d line, some x)
    | none =>
      if ¬ entryGood d page e then (mapCheckFail d page, none)
      else if markedLine d line then (d, none)
      else match tierOf e with
        | .unbacked => (d, some 0)
        | .open_ =>
          let loc := unitLoc d page e (line % 64)
          if subFenced d (locSub loc) ∨ (needsSeal d page ∧ sealDown d (homeOf page)) then (d, none)
          else
            let (d, r) := readUnit d f 0 0 page e (line % 64) (wordAt d loc)
            (d, r.map (unsealLine d line))
        | .packed =>
          let (d, r, n) := decodePacked d f page e
          match r with
          | some ls => (d, some (ls.getD (line % 64) 0))
          | none => ((if (quad d (homeOf page)).failedPages.contains page then d else packedFail d page n), none)
        | .span => (bumpFree d, some (BitVec.ofNat 512 (Config.free (fresh d))))

/-- Write a line at its home for an agent inside the device: into Stage, or past it where Stage has no place. A Packed page
becomes Open first; where there is no room the write is lost and its line poisoned (R86). -/
def storeLine (d : Dev) (line : Nat) (data : Line) : Dev :=
  let page := pageOfLine line
  let toOpen (d : Dev) : Dev :=
    let d := dropPoison d line
    match stagePut d line data true none with
    | some d => d
    | none => storeOpenLine d line (entryNow d page) data
  match tierOf (entryNow d page) with
  | .open_ => toOpen d
  | .span => (stagePut d line data true none).getD d
  | .unbacked => match bindNow d page with
    | some d => toOpen d
    | none => (poisonLine d line .vendor).1
  | .packed =>
    let e := entryNow d page
    match (if hasRoom d (homeOf page) then takePage d page false else none) with
    | none => (poisonLine d line .vendor).1
    | some (d, mpn) =>
      let (d, r, n) := decodePacked d .dolly page e
      let d := if r.isNone ∧ ¬ (quad d (homeOf page)).failedPages.contains page then packedFail d page n else d
      let e' := openEntry mpn (heatOf e)
      let d := setUse d (homeOf page) mpn (.open_ page)
      let d := match r with
        | some ls => storePage d page e' fun i => ls.getD i 0
        | none => (addPoison ((List.range 64).foldl (fun d i => poisonUnit d page e' i) d) (page * 64) 64 .internal).1
      let d := settleMarks (freePlace (setEntry d page e') page e) page e'
      toOpen (qmod d (homeOf page) fun s => { s with failedPages := s.failedPages.filter (· ≠ page) })

/-- The bytes `[lo, lo + n)` of a line. -/
def lineBytes (x : Line) (lo n : Nat) : List Byte := bytesOf (x.toNat >>> (8 * lo)) n
/-- A line with the bytes enabled by a mask replaced. -/
def mergeLine (old new : Line) (mask : DWord) : Line :=
  BitVec.ofNat 512 (ofBytes ((List.range 64).map fun i =>
    BitVec.ofNat 8 ((if mask.getLsbD i then new else old).toNat >>> (8 * i))))

end Sys2Proof.Machine
end

