-- ==== Sys2Proof/Machine/Packet.lean ====
section
/-! DEFINITION. Marwen packets (R291, R314, R315): building and reading a header, routing (R318), the transmit queues, the
tags (R323), and the counters of Dailies (R433, R436, R437). -/

namespace Sys2Proof.Machine

/-! ## Dailies counters -/

/-- Add to a live counter (R433): it wraps. -/
def countUp (d : Dev) (key n : Nat) : Dev :=
  { d with daily := { d.daily with live := tabMod 0 d.daily.live key fun v => v + BitVec.ofNat 64 n } }
/-- Host-port event t of port p (R436): read bytes, write bytes, read requests, write requests, snoops sent, flits received. -/
def countHost (d : Dev) (p t n : Nat) : Dev := countUp d (6 * p + t) n
/-- Marwen-port event t of port b (R436): bytes out, bytes in, transit packets, replays, CC resends, bad flits. -/
def countMarwen (d : Dev) (b t n : Nat) : Dev := countUp d (96 + 6 * b + t) n
/-- Class counter t of a class (R437). -/
def countClass (d : Dev) (c t n : Nat) : Dev := countUp d (640 + 4 * c + t) n
/-- Counter-set counter t of the set that a Slate's context names (R437). -/
def countSet (d : Dev) (slate t n : Nat) : Dev :=
  if ctxValid d slate then countUp d (896 + 4 * fld (ctxOfSlate d slate) 124 117 + t) n else d
/-- Data bytes of a port in the bandwidth window (R439): ports 0 to 15 hosts, 16 to 23 Marwen. -/
def countBw (d : Dev) (port : Nat) (out : Bool) (n : Nat) : Dev :=
  if out then { d with daily := { d.daily with winOut := tabMod 0 d.daily.winOut port (· + n) } }
  else { d with daily := { d.daily with winIn := tabMod 0 d.daily.winIn port (· + n) } }

/-! ## Headers (R314) -/

/-- A field of a header. -/
def hdrFld (h : BitVec 128) (hi lo : Nat) : Nat := fld h hi lo
/-- The channel of an opcode (R315), coded as CRCH. -/
def opChannel (op : Nat) : Nat :=
  if op < 0x20 then 0 else if op < 0x30 then 1 else if op < 0x40 then 2 else if op < 0x70 then 3 else 4
/-- The slot counts an opcode allows (R315): none for an unlisted opcode. -/
def opSlots (op : Nat) : List Nat :=
  match op with
  | 0x01 => [1] | 0x02 => [5] | 0x03 => [6] | 0x04 => [2] | 0x05 => [1] | 0x06 => [1]
  | 0x20 => [1] | 0x21 => [1] | 0x30 => [5] | 0x31 => [2]
  | 0x40 => [1] | 0x41 => [1] | 0x42 => [1] | 0x43 => [1] | 0x44 => [5] | 0x45 => [6] | 0x46 => [5] | 0x47 => [1]
  | 0x48 => [2] | 0x50 => [1] | 0x51 => [1] | 0x52 => [1] | 0x53 => [1] | 0x58 => [1, 5] | 0x59 => [1, 5] | 0x5A => [1, 5]
  | 0x60 => [5] | 0x61 => [5] | 0x62 => [5, 1] | 0x63 => [5] | 0x64 => [1] | 0x65 => [2]
  | 0x70 => [1, 2, 3, 4, 5, 6, 7, 8, 9, 10, 11, 12, 13, 14]
  | _ => []
/-- Whether an opcode is a request or a snoop that is answered (R315, R316). -/
def isRequest (op : Nat) : Bool := (1 ≤ op && op ≤ 6) || (0x40 ≤ op && op ≤ 0x48)

/-- A packet (R314): header of opcode, destination, source, HOP, Slate, tag and the bits from 64 up, then its payload. -/
def mkPacket (op dst src hop slate tag high : Nat) (payload : List (BitVec 128)) : List (BitVec 128) :=
  let lead := opChannel op + payload.length % 16 * 8
  BitVec.ofNat 128 (lead + op * 2 ^ 8 + dst % 64 * 2 ^ 16 + src % 64 * 2 ^ 22 + hop % 8 * 2 ^ 28 + slate % 2 ^ 18 * 2 ^ 32
    + tag % 2 ^ 12 * 2 ^ 50 + high * 2 ^ 64) :: payload

/-- The four payload slots of a line (R314). -/
def lineSlots (x : Line) : List (BitVec 128) := (List.range 4).map fun i => (x >>> (128 * i)).setWidth 128
/-- The line of four payload slots. -/
def slotsLine (l : List (BitVec 128)) : Line :=
  BitVec.ofNat 512 ((List.range 4).map fun i => (l.getD i 0).toNat <<< (128 * i)).sum

/-- OPCODE, DST, SRC, HOP, SLATE, TAG, ADDR, STATUS and FLAG of a packet. -/
def pkOp (s : List (BitVec 128)) : Nat := hdrFld (s.headD 0) 15 8
def pkDst (s : List (BitVec 128)) : Nat := hdrFld (s.headD 0) 21 16
def pkSrc (s : List (BitVec 128)) : Nat := hdrFld (s.headD 0) 27 22
def pkHop (s : List (BitVec 128)) : Nat := hdrFld (s.headD 0) 30 28
def pkSlate (s : List (BitVec 128)) : Nat := hdrFld (s.headD 0) 49 32
def pkTag (s : List (BitVec 128)) : Nat := hdrFld (s.headD 0) 61 50
def pkAddr (s : List (BitVec 128)) : Nat := hdrFld (s.headD 0) 108 64
def pkStatus (s : List (BitVec 128)) : Nat := hdrFld (s.headD 0) 71 64
def pkFlag (s : List (BitVec 128)) : Bool := (s.headD 0).getLsbD 127

/-! ## Routing (R318, R319) -/

/-- A Marwen port's link. -/
def mport (d : Dev) (b : Nat) : MPort := tabGet {} d.mports b
/-- Change a Marwen port. -/
def mportMod (d : Dev) (b : Nat) (f : MPort → MPort) : Dev := { d with mports := tabMod {} d.mports b f }
/-- Whether a port is a Marwen port with its link Active. -/
def mwActive (d : Dev) (b : Nat) : Bool := d.marwen.getLsbD b && (mport d b).state = 3
/-- SELF_ID (R331). -/
def selfId (d : Dev) : Nat := rfld d (.mwt 0) .mwtCfg 5 0

/-- The route of a destination: the port and whether it is the alternate (R318). -/
def routeOf (d : Dev) (dst : Nat) : Option (Nat × Bool) :=
  let r := rget d (.mwt 0) .mwtRoute dst
  if r.getLsbD 3 && mwActive d (fld r 2 0) then some (fld r 2 0, false)
  else if r.getLsbD 7 && mwActive d (fld r 6 4) then some (fld r 6 4, true)
  else none

/-- Capture MWT.ERR of a page (R331). -/
def mwtErr (d : Dev) (b cause op src dst : Nat) : Dev :=
  if (rget d (.mwt b) .mwtErr).getLsbD 31 then d
  else rput d (.mwt b) .mwtErr (packW [(31, 1), (22, dst), (16, src), (8, op), (0, cause)])

/-- A Marwen source raised in a port's MWT page (R332) with the link context. -/
def mwtRaise (d : Dev) (b bit cause op src dst : Nat) : Dev :=
  raise (mwtErr d b cause op src dst) (.mwt b) bit .none (ctxLink (.mwt b) b (mport d b).peerId.toNat op src dst 0)

/-- A packet could not be forwarded (R318): counted and raised. -/
def noRoute (d : Dev) (b op src dst : Nat) : Dev :=
  mwtRaise (rbump d (.mwt 0) .mwtNoRouteCount) b 1 2 op src dst

/-- Put a packet into the transmit queue of its route's port; none without a route. -/
def queueTx (d : Dev) (slots : List (BitVec 128)) : Option Dev :=
  match routeOf d (pkDst slots) with
  | none => none
  | some (b, alt) =>
    let d := if alt then raiseEvent d (.mwt (rfld d (.mwt 0) .mwtRoute 2 0 (pkDst slots))) 0 else d
    some (send (mportMod d b fun m => { m with tx := m.tx ++ [slots] }) (.mwPacket b slots))

/-- Send a packet of this device with HOP 1; without a route it is reported and lost. -/
def mwSend (d : Dev) (dst op slate tag high : Nat) (payload : List (BitVec 128)) : Dev :=
  match queueTx d (mkPacket op dst (selfId d) 1 slate tag high payload) with
  | some d => d
  | none => noRoute d (rfld d (.mwt 0) .mwtRoute 2 0 dst) op (selfId d) dst

/-! ## Tags (R323) -/

/-- The lowest free tag. -/
def freeTag (d : Dev) : Option Nat :=
  let n := kthFree (d.tags.map (·.1)) 0
  if n < 4096 then some n else none

/-- Send a request under a tag of its own: none while every tag is in use. Without a route the tag times out at once. -/
def mwRequest (d : Dev) (dst op slate high : Nat) (payload : List (BitVec 128)) (use : TagFor) : Option Dev :=
  match freeTag d with
  | none => none
  | some t =>
    let port := match routeOf d dst with
      | some (b, _) => b
      | none => rfld d (.mwt 0) .mwtRoute 2 0 dst
    let d := { d with tags := tabPut none d.tags t (some { peer := dst, port, opcode := op, use, since := d.pwr.now }) }
    some (mwSend d dst op slate t high payload)

/-- SPAN_SLATE (R327). -/
def spanSlate (d : Dev) : Nat := rfld d (.mwt 0) .mwtSpanSlate 17 0

/-- The DPA of a Span line at its peer. -/
def peerAddr (d : Dev) (line : Nat) : Nat := peerPage (entryNow d (pageOfLine line)) * 4096 + line % 64 * 64

/-- A free line: what a poisoned answer carries in its data bits. -/
def freeLine (d : Dev) : Dev × Line := (bumpFree d, BitVec.ofNat 512 (Config.free (fresh d)))

end Sys2Proof.Machine
end

