-- ==== Sys2Proof/Machine/Home.lean ====
section
/-! DEFINITION. The home of a line: answering a requester (R147, R316), the read and write walks from the range lookup to
Stage, DRAM, a pack engine or the peer (R20, R58, R59, R64, R78, R81, R93 to R95, R145, R186, R187, R221, R236, R238), and
what a finished access does to its transaction. Where a request must wait it is parked on `Dev.waits`. -/

namespace Sys2Proof.Machine

/-! ## Answers -/

/-- The grant bits of a host completion: 0 Cmp, 1 Cmp-S, 2 Cmp-E. -/
def grantOf (r : Req) : Nat :=
  match r.kind with
  | .rs => 1
  | .re | .own => 2
  | .rc | .wr | .wb | .evc | .atm => 0

/-- The grant of a host completion: on untracked lines no state is granted (R203). -/
def hostGrant (d : Dev) (r : Req) : Nat := if tracked d r.line then grantOf r else 0

/-- Whether a host port's link is up. -/
def portUp (d : Dev) (p : Nat) : Bool := (port d p).up
/-- Whether an answer may still go to a host port: its link is up and has been since the request came (R275). -/
def owedTo (d : Dev) (p : Nat) (r : Req) : Bool := portUp d p && decide ((port d p).upId ≤ r.id)

/-- A line's part of a CXL.io read is at hand: a read of several lines is answered when its last part is (R273). -/
def ioPart (d : Dev) (p : Fin 16) (tag line : Nat) (bytes : List Byte) (poison : Bool) : Dev :=
  let mine (x : IoRead) : Bool := x.port = p.val && x.tag = tag && decide (x.first ≤ line) && decide (line < x.first + x.lines) && !(x.parts.any fun e => e.1 = line)
  match d.ioReads.find? mine with
  | none => send d (.ioData p tag bytes poison)
  | some x =>
    let x' := { x with parts := tabIns x.parts line (bytes, poison) }
    if x'.parts.length < x.lines then { d with ioReads := d.ioReads.map fun y => if y = x then x' else y }
    else send { d with ioReads := d.ioReads.filter (· ≠ x) } (.ioData p tag (x'.parts.flatMap (·.2.1)) (x'.parts.any (·.2.2)))

/-- Answer a Marwen request by its opcode (R315, R316). `data` is the line, `granted` whether an ATM was granted. -/
def mwAnswer (d : Dev) (b dev tag code slate status : Nat) (data : Option Line) (grant : Nat) (orig : BitVec 128) : Dev :=
  let line (op : Nat) (x : Line) : Dev := mwSend d dev op slate tag status (lineSlots x)
  let bare (op : Nat) : Dev := mwSend d dev op slate tag status []
  let x := data.getD 0
  match code with
  | 0x01 => line 0x30 x
  | 0x04 => mwSend d dev 0x31 slate tag status [orig.setWidth 64 |>.setWidth 128]
  | 0x40 => line (if grant = 2 then 0x62 else 0x61) x
  | 0x41 => line 0x62 x
  | 0x42 => line 0x60 x
  | 0x43 => bare 0x62
  | 0x48 => if grant = 2 then line 0x62 x else mwSend d dev 0x65 slate tag status [orig.setWidth 64 |>.setWidth 128]
  | 0x44 | 0x45 | 0x46 | 0x47 => bare 0x64
  | _ => if b < 8 then bare 0x20 else d

/-- The interrupt of a completion (R251). -/
def ringInterrupt (d : Dev) (q ring : Nat) : Dev :=
  let cfg := (tabGet {} (quad d q).cluster.rings ring).cfg
  if cfg.getLsbD 31 then (if portUp d (fld cfg 30 27) then send d (.msix (fld cfg 30 27) (fld cfg 26 16)) else d)
  else raiseEvent d (.nme q) 1

/-- Answer a read: `none` is poison (R168, R205). -/
def respondRead (d : Dev) (r : Req) (x : Option Line) : Dev :=
  let (d, v) := match x with
    | some v => (d, v)
    | none => freeLine d
  let d := countSet d r.slate 0 64
  match r.src with
  | .host p tag =>
    if owedTo d p r then countBw (countHost (send d (.memData p tag v x.isNone (hostGrant d r))) p 0 64) p true 64 else d
  | .io p tag lo n =>
    if owedTo d p r then countBw (countHost (ioPart d p tag r.line (lineBytes v lo n) x.isNone) p 0 n) p true n else d
  | .mw b dev tag code => mwAnswer d b dev.toNat tag.toNat code r.slate (if x.isNone then 2 else 0) (some v) (grantOf r) 0
  | .engine _ _ | .compl _ _ _ => d
  | .debug => send d (.debugData v false)

/-- Complete a write, an eviction notice or ownership without data. -/
def respondWrite (d : Dev) (r : Req) (status : Nat := 0) : Dev :=
  match r.src with
  | .host p tag => if owedTo d p r then send d (.memCmp p tag (hostGrant d r)) else d
  | .io _ _ _ _ => d
  | .mw b dev tag code => mwAnswer d b dev.toNat tag.toNat code r.slate status none (grantOf r) 0
  | .compl q ring int => if int ∧ status = 0 then ringInterrupt d q.val ring.toNat else d
  | .engine _ _ | .debug => d

/-- Complete an atomic with the original value. -/
def respondAtomic (d : Dev) (r : Req) (orig : BitVec 128) (poison : Bool) : Dev :=
  match r.src with
  | .host _ _ => d
  | .io p tag _ n => if owedTo d p r then send d (if poison then .ioData p tag (bytesOf orig.toNat n) true else .ioAtomic p tag orig) else d
  | .mw b dev tag code => mwAnswer d b dev.toNat tag.toNat code r.slate (if poison then 2 else 0) none 0 orig
  | .engine _ _ | .compl _ _ _ | .debug => d

/-- A request that is answered without reaching the directory is granted no state (R203). -/
def ungranted (r : Req) : Req :=
  match r.kind with
  | .rs | .re => { r with kind := .rc }
  | .own => { r with kind := .wr }
  | _ => r

/-- Answer a request without serving it: `poison` for a read, a completion for a write. -/
def respondLost (d : Dev) (r : Req) : Dev :=
  let r := ungranted r
  match r.op with
  | .read => respondRead d r none
  | .atomic _ _ _ _ _ => let (d, v) := freeLine d; respondAtomic d r (v.setWidth 128) true
  | .write _ | .writePtl _ _ | .poisonWrite | .none => match r.src with
    | .mw _ _ _ _ => respondWrite d r 2
    | _ => respondWrite d r

/-- A refused access (R147): all-ones with poison for a host, the access status for Marwen, nothing written. -/
def respondRefused (d : Dev) (r : Req) (status : Nat) : Dev :=
  let r := ungranted r
  let ones : Line := BitVec.allOnes 512
  match r.op with
  | .read => match r.src with
    | .host p tag => if owedTo d p r then send d (.memData p tag ones true (hostGrant d r)) else d
    | .io p tag lo n => if owedTo d p r then ioPart d p tag r.line (lineBytes ones lo n) true else d
    | .mw b dev tag code => mwAnswer d b dev.toNat tag.toNat code r.slate status (some ones) (grantOf r) 0
    | .engine _ _ | .compl _ _ _ => d
    | .debug => send d (.debugData ones true)
  | .atomic _ _ _ _ _ => match r.src with
    | .mw b dev tag code => mwAnswer d b dev.toNat tag.toNat code r.slate status (some ones) 0 (BitVec.allOnes 128)
    | _ => respondAtomic d r (BitVec.allOnes 128) true
  | .write _ | .writePtl _ _ | .poisonWrite | .none => respondWrite d r status

/-! ## Transactions -/

/-- The directory set of a line (R207). -/
def dirSet (line : Nat) : Nat := qln line % 65536
/-- The quadrant of a line. -/
def lineQuad (line : Nat) : Nat := homeOf (pageOfLine line)
/-- The entry of a line: I without holders where it has none. -/
def dirEnt (d : Dev) (line : Nat) : DEnt :=
  match asFind (tabGet {} (quad d (lineQuad line)).dir (dirSet line)) line with
  | some (_, e) => e
  | none => { state := .i, vector := 0 }
/-- Write the entry of a line that has one; an entry in I with no peer grant is freed. A line without one is left as it is,
unless a way is free. -/
def dirPut (d : Dev) (line : Nat) (e : DEnt) : Dev :=
  let place (s : Quad) (w : ASet DEnt) : ASet DEnt :=
    if e.state = .i ∧ e.pg = 0 then asDel w line
    else match asFind w line with
      | some (i, _) => asPut w i line e
      | none => match asFree w (fun i => !s.dirBroken.contains (dirSet line, i)) with
        | some i => asPut w i line e
        | none => w
  qmod d (lineQuad line) fun s => { s with dir := tabMod {} s.dir (dirSet line) (place s) }
/-- The open transaction of a line. -/
def transOf (d : Dev) (line : Nat) : Option Trans := (quad d (lineQuad line)).trans.find? fun t => t.line = line
/-- Change the open transaction of a line. -/
def transMod (d : Dev) (line : Nat) (f : Trans → Trans) : Dev :=
  qmod d (lineQuad line) fun s => { s with trans := mapIf (fun t => t.line = line) f s.trans }
/-- The transaction that a request opened. -/
def transById (d : Dev) (r : Req) : Option Trans := (quad d (lineQuad r.line)).trans.find? fun t => t.line = r.line ∧ t.req.id = r.id
/-- Close a transaction. -/
def transDel (d : Dev) (line : Nat) : Dev := qmod d (lineQuad line) fun s => { s with trans := s.trans.filter fun t => t.line ≠ line }

/-- The directory agent that a request's sender caches as; 24 for none. CXL.io requests come from no cache, so that every holder is
snooped for them, the port's own among them (DEDUCED, log entry 19). -/
def cacheAgent (r : Req) : Nat := match r.src with
  | .io _ _ _ _ => 24
  | _ => r.agent

/-- The agent bit of a vector. -/
def agentBit (a : Nat) : BitVec 24 := BitVec.ofNat 24 (2 ^ a)
/-- The agents of a vector. -/
def agentsOf (v : BitVec 24) : List Nat := (List.range 24).filter fun a => v.getLsbD a

/-- The entry in which a request's transaction ends (R212): `e` is the entry as the responses have left it. -/
def endEntry (d : Dev) (r : Req) (e : DEnt) : DEnt :=
  let me := agentBit (cacheAgent r)
  let owner := match r.src with
    | .mw _ dev _ _ => dev.toNat
    | _ => 0
  let span := tierOf (entryNow d (pageOfLine r.line)) = .span
  let track := tracked d r.line
  let plain : DEnt := if e.vector = 0 then { e with state := .i, ownerPeer := 0 } else { e with state := .s, ownerPeer := 0 }
  if span ∧ ¬ track then { e with state := .i, vector := 0, ownerPeer := 0 }
  else if 24 ≤ cacheAgent r then plain
  else match r.kind with
  | .rs => { e with state := .s, vector := e.vector ||| me, ownerPeer := 0 }
  | .re | .own => { e with state := .e, vector := me, ownerPeer := owner }
  | .rc => if e.state = .s then { e with ownerPeer := 0 } else plain
  | .wr => if r.keep = 1 then { e with state := .s, vector := me, ownerPeer := 0 } else { e with state := .i, vector := 0, ownerPeer := 0 }
  | .wb => match r.keep with
    | 0 => { e with state := .i, vector := 0, ownerPeer := 0 }
    | 1 => { e with state := .s, vector := me, ownerPeer := 0 }
    | _ => e
  | .atm => { e with state := .i, vector := 0, ownerPeer := 0 }
  | .evc => e

/-- Close a request's transaction, if it opened one, in its end state. -/
def closeFor (d : Dev) (r : Req) : Dev :=
  match transById d r with
  | none => d
  | some _ => transDel (dirPut d r.line (endEntry d r (dirEnt d r.line))) r.line

/-- A read's data is at hand (`none` poison): it is held for the request's transaction until "home data ready" (R213), or
answers the request. Debug reads are not counted for heat (R74). -/
def finishRead (d : Dev) (r : Req) (x : Option Line) (hit : Bool) : Dev :=
  let d := if r.src = .debug then d else heatSample d (pageOfLine r.line) hit r.heatW
  let d := if hit then countSet d r.slate 2 1 else d
  match transById d r with
  | some _ => transMod d r.line fun t =>
      { t with homeReady := true, peerPending := false, poison := t.poison || (t.data.isNone && x.isNone), data := (match t.data with | some y => some y | none => x) }
  | none => respondRead d r x

/-- A write has been accepted at home (R20): its transaction closes and it completes. -/
def finishWrite (d : Dev) (r : Req) (hit : Bool) : Dev :=
  let d := heatSample d (pageOfLine r.line) hit r.heatW
  let d := countSet (if hit then countSet d r.slate 2 1 else d) r.slate 1 64
  respondWrite (closeFor d r) r

/-- A home atomic is done. -/
def finishAtomic (d : Dev) (r : Req) (orig : BitVec 128) (poison hit : Bool) : Dev :=
  respondAtomic (closeFor (heatSample d (pageOfLine r.line) hit r.heatW) r) r orig poison

/-- A request ends without effect: poison for a read, a completion for a write. -/
def finishLost (d : Dev) (r : Req) : Dev :=
  match r.op with
  | .read => finishRead d r none false
  | .atomic _ _ _ _ _ => let (d, v) := freeLine d; finishAtomic d r (v.setWidth 128) true false
  | .write _ | .writePtl _ _ | .poisonWrite | .none => respondWrite (closeFor d r) r

/-- Park a request. -/
def park (d : Dev) (r : Req) (w : Wait) : Dev :=
  { d with waits := d.waits ++ [{ req := r, wait := w, q := quadOf (lineQuad r.line), since := d.pwr.now }] }

/-! ## Regulation gates (R236, R238) -/

/-- Charge `b` bytes of class `c` at a gate: tokens, pool, or used alone; none where the Oversubscribed state holds the request.
The flag says that the pool or the last branch admitted it. -/
def gateCharge (g : Gate) (tight : Bool) (weight c b : Nat) : Option (Gate × Bool) :=
  let t := tabGet 0 g.tokens c
  if 0 < t then some ({ g with tokens := tabPut 0 g.tokens c (t - b) }, false)
  else if tight then none
  else if 0 < g.pool ∧ 0 < weight then some ({ g with pool := g.pool - b, used := tabMod 0 g.used c (· + b) }, true)
  else some ({ g with used := tabMod 0 g.used c (· + b) }, true)

/-- WEIGHT of a class. -/
def classWeight (d : Dev) (c : Nat) : Nat := fld (slateCfg d .slateClassCfg c) 19 12

/-- Pass the DRAM gate of a quadrant. -/
def dramGate (d : Dev) (q c b : Nat) : Option Dev :=
  match gateCharge (quad d q).gate d.reg.oversub (classWeight d c) c b with
  | none => none
  | some (g, extra) =>
    let d := countClass (qmod d q fun s => { s with gate := g }) c 0 b
    some (if extra then countClass d c 2 b else d)

/-- Pass the port gate of a port (0 to 15 hosts, 16 to 23 Marwen). -/
def portGate (d : Dev) (p c b : Nat) : Option Dev :=
  match gateCharge (tabGet {} d.reg.ports p) d.reg.oversub (classWeight d c) c b with
  | none => none
  | some (g, extra) =>
    let d := countClass { d with reg := { d.reg with ports := tabPut {} d.reg.ports p g } } c 1 b
    some (if extra then countClass d c 2 b else d)

/-! ## Moves met by a request (R81) -/

/-- The move of a page. -/
def moveOn (d : Dev) (page : Nat) : Option Move :=
  match (quad d (homeOf page)).move with
  | some m => if m.page = page then some m else none
  | none => none

/-- Clear the journal's ACTIVE (R80, R81). -/
def journalIdle (d : Dev) (q : Nat) : Dev :=
  qmod d q fun s => { s with journal := s.journal.map fun j => { j with active := false } }

/-- The answers still owed to a quadrant's move concern nothing any more. -/
def forgetAsked (d : Dev) (q : Nat) : Dev :=
  { d with tags := d.tags.map fun e => match e.2 with
      | some u => (e.1, some (match u.use with
        | .dolly k _ => if k = q then { u with use := .note } else u
        | _ => u))
      | none => e }

/-- Abandon the move of a quadrant (R80, R81, R93): the destination is freed, MOVING returns to 0, the page stays as it was. With
`cool` its heat is set to DEMOTE_HEAT + 1. -/
def abandonMove (d : Dev) (q : Nat) (cool : Bool) : Dev :=
  match (quad d q).move with
  | none => d
  | some m =>
    let free (e : Engine) : Engine := if e.work = some (.dolly m.page) ∨ e.work = some (.promotion m.page) then { e with work := none } else if e.aside = some (.dolly m.page) ∨ e.aside = some (.promotion m.page) then { e with aside := none } else e
    let d := qmod (journalIdle (forgetAsked d q) q) q fun s => { s with move := none, engines := s.engines.map free }
    let d := if m.phase = .taken then
        (if tierOf m.newEntry = .span then
          (mwRequest d (peerId m.newEntry) 0x06 (spanSlate d) (peerPage m.newEntry * 4096) [] .note).getD d
        else freePlace d m.page m.newEntry)
      else d
    let d := setEntry d m.page (withMoving (entryNow d m.page) false)
    if cool then setEntry d m.page (withHeat (entryNow d m.page) (rfld d (.dolly 0) .dolly0HeatCfg 9 4 + 1)) else d

/-- Ask for an urgent promotion of a Packed page (R78), unless one runs or waits. -/
def urgentPromote (d : Dev) (page : Nat) : Dev :=
  let q := homeOf page
  match moveOn d page with
  | some _ => d
  | none => qmod d q fun s => if s.urgent.contains page then s else { s with urgent := s.urgent ++ [page] }

/-- Whether either pack engine of a quadrant is available (R93). -/
def packAvailable (d : Dev) (q : Nat) : Bool := engAvailable d q 0 || engAvailable d q 1

/-! ## The map lookup (R57, R59) -/

/-- Find the map entry of a request's page: the entry, or the parked request. -/
def mapLookup (d : Dev) (r : Req) : Dev × Option DWord :=
  let page := pageOfLine r.line
  let q := homeOf page
  match mapHit d page with
  | some e => (mapTouch d page, some e)
  | none =>
    let lp := localPage page
    let miss := (quad d q).miss
    let d := if miss.contains (lp / 8) ∨ 64 ≤ miss.length then d else qmod d q fun s => { s with miss := s.miss ++ [lp / 8] }
    (park d r .map, none)

/-! ## Reads (R59, R64, R93 to R95, R186, R187) -/

/-- What a finder of R402 calls this requester. -/
def finderOf (r : Req) : Finder :=
  match r.op, r.src with
  | .writePtl _ _, _ => .partialWrite
  | _, .host _ _ => .host
  | _, .io _ _ _ _ => .host
  | _, .mw _ _ _ _ => .marwen
  | _, .engine _ _ => .engine
  | _, .compl _ _ _ => .engine
  | _, .debug => .debug
/-- The host port of a requester, for a context. -/
def portOf (r : Req) : Nat := match r.src with
  | .host p _ => p
  | .io p _ _ _ => p
  | .mw b _ _ _ => b
  | .engine _ _ | .compl _ _ _ | .debug => 0

/-- Put a plaintext line that has been read or merged into Stage, where the request allocates. `none` makes it wait. -/
def fillStage (d : Dev) (r : Req) (x : Line) (dirty : Bool) : Option Dev :=
  if allocates d r.line r.noStage then
    if (stageFind d r.line).isSome ∧ ¬ dirty then some d else stagePut d r.line x dirty (some r.cls)
  else some d

/-- The atomic operation (R220, R256): on a value and operands of `bits` bits. -/
def atomApply (op : AtomOp) (bits : Nat) (old operand compare : BitVec 128) : BitVec 128 :=
  let m : Nat := 2 ^ bits
  let a := old.toNat % m
  let b := operand.toNat % m
  let sgn (x : Nat) : Int := if x < m / 2 then x else (x : Int) - m
  let v := match op with
    | .add => (a + b) % m
    | .swap => b
    | .cas => if a = compare.toNat % m then b else a
    | .and => a &&& b
    | .or => a ||| b
    | .xor => a ^^^ b
    | .smin => if sgn a ≤ sgn b then a else b
    | .smax => if sgn a ≤ sgn b then b else a
    | .umin => min a b
    | .umax => max a b
  BitVec.ofNat 128 v

/-- A line with `bits` bits at byte `off` replaced, and the value that stood there. -/
def lineAtomic (x : Line) (op : AtomOp) (bits off : Nat) (operand compare : BitVec 128) : Line × BitVec 128 :=
  let old : BitVec 128 := BitVec.ofNat 128 ((x.toNat >>> (8 * off)) % 2 ^ bits)
  let new := atomApply op bits old operand compare
  let mask : DWord := BitVec.ofNat 64 ((2 ^ (bits / 8) - 1) <<< off)
  (mergeLine x (BitVec.ofNat 512 (new.toNat <<< (8 * off))) mask, old)

/-- The line as DRAM, a decode or Stage gave it (`none` poison) reaches a request at its home: a read is filled and delivered, a
partial write or an atomic merges and is written (R145, R220). -/
def serveData (d : Dev) (r : Req) (x : Option Line) (hit : Bool) : Dev :=
  match r.op, x with
  | .read, none => finishRead d r none hit
  | .read, some v => match (if hit then some d else fillStage d r v false) with
    | some d => finishRead d r (some v) hit
    | none => park d r .stage
  | .writePtl data mask, some v =>
    let y := mergeLine v data mask
    if hit ∨ allocates d r.line r.noStage then
      match stagePut d r.line y true (some r.cls) with
      | some d => finishWrite d r hit
      | none => park d r .stage
    else
      let e := entryNow d (pageOfLine r.line)
      if lineRoom d r.line e then finishWrite (storeOpenLine d r.line e y) r hit else park d r .stage
  | .atomic op bits off operand compare, some v =>
    let (y, old) := lineAtomic v op bits off operand compare
    if hit ∨ allocates d r.line r.noStage then
      match stagePut d r.line y true (some r.cls) with
      | some d => finishAtomic d r old false hit
      | none => park d r .stage
    else
      let e := entryNow d (pageOfLine r.line)
      if lineRoom d r.line e then finishAtomic (storeOpenLine d r.line e y) r old false hit else park d r .stage
  | .writePtl _ _, none | .atomic _ _ _ _ _, none => finishLost d r
  | .write _, _ | .poisonWrite, _ | .none, _ => d

/-- The entry under which a word that was read for a page is checked: the old one after the switch of a KIND 0 move. -/
def wordEntry (d : Dev) (page : Nat) : DWord :=
  match moveOn d page with
  | some m => if m.kind = 0 ∧ m.phase = .switched then m.oldEntry else entryNow d page
  | none => entryNow d page

/-- A stored word is checked for a request, rebuilt where it can be (R157, R173). -/
def wordServe (d : Dev) (r : Req) (w : Stored) : Dev :=
  let page := pageOfLine r.line
  let (d, x) := readUnit d (finderOf r) (portOf r) r.slate page (wordEntry d page) (r.line % 64) w
  match x with
  | none => serveData d r none false
  | some c => if needsSeal d page ∧ sealDown d (homeOf page) then serveData d r none false else serveData d r (some (unsealLine d r.line c)) false

/-- Whether a word fails R157 on a Lined page, so that a rebuild begins (R166). -/
def rebuildDue (d : Dev) (page : Nat) (e : DWord) (i : Nat) (w : Stored) : Bool :=
  linedOf d page && match checkUnit d page (unitAddr page e i) (unitLoc d page e i) w with
  | .fail _ _ _ => true
  | .ok _ _ | .poison _ _ => false

/-- A stored word has come back from DRAM for a request: a failed word of a Lined page waits for its rebuild. -/
def wordArrived (d : Dev) (r : Req) (w : Stored) : Dev :=
  let page := pageOfLine r.line
  let e := wordEntry d page
  if rebuildDue d page e (r.line % 64) w then
    qmod d (homeOf page) fun s => { s with rebuilds := s.rebuilds ++ [{ loc := unitLoc d page e (r.line % 64), line := r.line, purpose := .req r, panic := false, word := some w }] }
  else wordServe d r w

/-- Whether a read comes from a port in panic (R190). -/
def panicRead (d : Dev) (x : RdEnt) : Bool :=
  match x.purpose with
  | .sander => false
  | .req r => match r.src with
    | .host p _ => (port d p).panic
    | .io p _ _ _ => (port d p).panic
    | .mw b _ _ _ => (mport d b).panic
    | .engine _ _ | .compl _ _ _ | .debug => false

/-- A sub-channel's panic follows its read queue (R190); where panic begins in a drain of few writes, the drain ends (R188). -/
def panicSettle (d : Dev) (u : Nat) : Dev :=
  let s := subc d u
  let now := s.rq.any (panicRead d)
  if now = s.panic then d
  else
    let stop := now && s.mode = .drain && decide (s.wq.length ≤ rfld d (.dmc (u / 2)) .dmcCfg 21 16)
    let d := umod d u fun s => { s with panic := now, mode := if stop then .read else s.mode }
    if now then raiseEvent d (.dmc (u / 2)) 0 else d

/-- Enter a read into the queue of its sub-channel (R186, R187, R190). -/
def dramRead (d : Dev) (r : Req) (e : DWord) : Dev :=
  let page := pageOfLine r.line
  let loc := unitLoc d page e (r.line % 64)
  let u := locSub loc
  let s := subc d u
  if subFenced d u then serveData d r none false
  else if s.ppr ∨ ¬ pageOpen d (.dmc (u / 2)) then park d r .readQueue
  else match s.wq.find? fun w => w.loc = loc with
    | some w => wordArrived d r w.word
    | none =>
      if s.rq.length < 128 then
        panicSettle (umod d u fun s => { s with rq := s.rq ++ [{ loc, line := r.line, purpose := .req r, panic := r.panic }] }) u
      else park d r .readQueue

/-- The decodes of a quadrant that wait for an engine, oldest first (R243): an engine with no work takes a decode at once, so the
first of them do not wait. -/
def waitingDecodes (d : Dev) (q : Nat) : List Decode :=
  let idle := ([0, 1].filter fun e => engAvailable d q e && ((quad d q).engines.getD e {}).work.isNone).length
  ((quad d q).decodes.filter fun x => !x.running).drop idle

/-- Mark the oldest waiting decode that may be marked as decode-and-promote (R243). -/
def markDecode (d : Dev) (q : Nat) : Dev :=
  let cfg := slateCfg d .slatePackrd
  let s := quad d q
  let waiting := waitingDecodes d q
  if cfg.getLsbD 8 ∧ fld cfg 7 0 ≤ waiting.length ∧ s.move = none ∧ hasRoom d q then
    match waiting.head? with
    | some x =>
      if ¬ x.promote ∧ ¬ movingOf (entryNow d x.page) ∧ ¬ underSweep d x.page ∧ ¬ s.failedPages.contains x.page then
        rbump (qmod d q fun s => { s with decodes := mapIf (fun y => y.page = x.page) (fun y => { y with promote := true }) s.decodes }) .slate .slateOverloadCount
      else d
    | none => d
  else d

/-- A read that needs a page decode (R93 to R95): it joins one under way, or starts to wait for an engine. -/
def packedRead (d : Dev) (r : Req) (e : DWord) (charged : Bool) : Dev :=
  let page := pageOfLine r.line
  let q := homeOf page
  if ¬ packAvailable d q then raise0 (serveData d r none false) (.pack q) 2
  else if (quad d q).failedPages.contains page ∨ (needsSeal d page ∧ sealDown d q) then serveData d r none false
  else if (quad d q).decodes.any fun x => x.page = page then park d r .decode
  else if ¬ pageOpen d (.pack q) then park d r .decode
  else match (if charged then some d else dramGate d q r.cls (256 * slotCount e)) with
    | none => park d r .dramGate
    | some d =>
      let d := qmod (park d r .decode) q fun s => { s with decodes := s.decodes ++ [{ page, promote := false, reader := r.id, running := false }] }
      markDecode d q

/-- Ask the peer for what a request needs on a Span line (R221), under a tag; the request waits for its grant. -/
def askPeer (d : Dev) (r : Req) (code : Nat) : Dev :=
  let e := entryNow d (pageOfLine r.line)
  match mwRequest d (peerId e) code (spanSlate d) (peerAddr d r.line) [] (.span r.line) with
  | some d => transMod (park d r .peer) r.line fun t => { t with peerPending := true }
  | none => park d r .peer

/-- The CC request that a request's outcome needs from the peer (R221): none where PG suffices and Stage holds what is read. -/
def peerNeed (r : Req) (pg : Nat) (held : Bool) : Option Nat :=
  match r.kind, r.op with
  | .rc, _ => if pg = 0 ∨ ¬ held then some 0x42 else none
  | .rs, _ => if pg = 0 ∨ ¬ held then some 0x40 else none
  | .re, _ => if pg < 2 ∨ ¬ held then some 0x41 else none
  | .atm, _ => if pg < 2 ∨ ¬ held then some 0x41 else none
  | .own, _ => if pg = 1 then some 0x43 else if pg = 0 then some 0x41 else none
  | .wr, .writePtl _ _ => if pg < 2 ∨ ¬ held then some 0x41 else none
  | .wr, _ => if pg = 1 then some 0x43 else if pg = 0 then some 0x41 else none
  | .wb, _ | .evc, _ => none

/-- A read at the home (R59, R64, R94): Stage, then the map entry and the tier it gives. `charged` marks a request that has passed
its DRAM gate. -/
def homeRead (d : Dev) (r : Req) (charged : Bool) : Dev :=
  let page := pageOfLine r.line
  let q := homeOf page
  if zoneOf d page = .above then finishRead d r (some 0) false
  else match stageFind d r.line with
  | some x =>
    if tierOf (entryNow d page) = .span ∧ (peerNeed r (dirEnt d r.line).pg true).isSome then
      askPeer d r ((peerNeed r (dirEnt d r.line).pg true).getD 0x42)
    else serveData (stageTouch d r.line) r (some x) true
  | none =>
    match mapLookup d r with
    | (d, none) => d
    | (d, some e) =>
      if ¬ entryGood d page e then finishLost (mapCheckFail d page) r
      else if markedLine d r.line then serveData d r none false
      else match tierOf e with
        | .unbacked => finishRead d r (some 0) false
        | .open_ =>
          if needsSeal d page ∧ sealDown d q then serveData d r none false
          else match (if charged then some d else dramGate d q r.cls 64) with
            | some d => dramRead d r e
            | none => park d r .dramGate
        | .packed => packedRead d r e charged
        | .span => askPeer d r ((peerNeed r (dirEnt d r.line).pg false).getD 0x42)

/-! ## Writes (R20, R58, R64, R78, R81, R145) -/

/-- A write to an Open page that no move holds: a full line into Stage or past it, a partial write or an atomic merged on the current value. -/
def writeOpen (d : Dev) (r : Req) (e : DWord) (charged : Bool) : Dev :=
  let page := pageOfLine r.line
  let q := homeOf page
  match r.op with
  | .poisonWrite =>
    let (d, _) := poisonLine d r.line .external
    finishWrite d r false
  | .write data =>
    let hit := (stageFind d r.line).isSome
    if hit ∨ allocates d r.line r.noStage then
      match stagePut d r.line data true (some r.cls) with
      | some d => finishWrite (dropPoison d r.line) r hit
      | none => park d r .stage
    else if needsSeal d page ∧ sealDown d q then park d r .seal
    else if ¬ lineRoom d r.line e then park d r .stage
    else match (if charged then some d else dramGate d q r.cls 64) with
      | some d => finishWrite (dropPoison (storeOpenLine d r.line e data) r.line) r false
      | none => park d r .dramGate
  | .writePtl _ _ | .atomic _ _ _ _ _ =>
    match stageFind d r.line with
    | some x => serveData (stageTouch d r.line) r (some x) true
    | none =>
      if markedLine d r.line then finishLost d r
      else if needsSeal d page ∧ sealDown d q then park d r .seal
      else match (if charged then some d else dramGate d q r.cls 64) with
        | some d => dramRead d r e
        | none => park d r .dramGate
  | .read | .none => d

/-- A write to a Packed page (R78, R81, R86, R93): it waits for an urgent promotion, aborting a demotion that is under way. -/
def writePacked (d : Dev) (r : Req) : Dev :=
  let page := pageOfLine r.line
  let q := homeOf page
  if ¬ packAvailable d q then park (raise0 d (.pack q) 2) r .promote
  else match moveOn d page with
    | some m => if m.kind = 2 then park d r .promote else park (urgentPromote (abandonMove d q false) page) r .promote
    | none =>
      if (quad d q).urgent.contains page then park d r .promote
      else if hasRoom d q then park (urgentPromote d page) r .promote
      else park d r .room

/-- A write to a Span line (R221): under PG E it is written into Stage; else the peer is asked first. -/
def writeSpan (d : Dev) (r : Req) : Dev :=
  match peerNeed r (dirEnt d r.line).pg (stageFind d r.line).isSome with
  | some code => askPeer d r code
  | none =>
    match r.op with
    | .write data => match stagePut d r.line data true (some r.cls) with
      | some d => finishWrite d r true
      | none => park d r .stage
    | .writePtl _ _ | .atomic _ _ _ _ _ => match stageFind d r.line with
      | some x => serveData d r (some x) true
      | none => park d r .peer
    | .poisonWrite => finishWrite (addPoison (stageDrop d r.line) r.line 1 .external false).1 r false
    | .read | .none => d

/-- A refused write above a fill edge (R137). -/
def aboveEdge (d : Dev) (r : Req) : Dev :=
  let d := raise d (.seal (lineQuad r.line)) 1 .none (ctxLine (.seal (lineQuad r.line)) (finderOf r) (portOf r) r.slate 0 (r.line * 64) 0)
  match r.src with
  | .mw _ _ _ _ | .engine _ _ | .compl _ _ _ => respondRefused (closeFor d r) r 1
  | .host _ _ | .io _ _ _ _ | .debug => finishLost d r

/-- A write at the home: the map entry and the tier it gives. -/
def homeWrite (d : Dev) (r : Req) (charged : Bool) : Dev :=
  let page := pageOfLine r.line
  let q := homeOf page
  if zoneOf d page = .above then aboveEdge d r
  else match mapLookup d r with
  | (d, none) => d
  | (d, some e) =>
    if ¬ entryGood d page e then finishLost (mapCheckFail d page) r
    else match tierOf e with
      | .unbacked =>
        if (quad d q).binds.any fun b => b.1 = page then park d r .bind
        else match bindStart d page with
          | some d => park d r .bind
          | none => park d r .room
      | .open_ =>
        let d := match moveOn d page with
          | some m => if m.kind = 0 ∧ m.first ≤ r.id then abandonMove d q false else d
          | none => d
        writeOpen d r e charged
      | .packed => writePacked d r
      | .span => writeSpan d r

/-- Whether a write of the line that is older than `r` has passed the quadrant queue and is not done yet. -/
def olderWriteOn (d : Dev) (r : Req) : Bool :=
  let wr (w : Req) : Bool := decide (w.line = r.line) && decide (w.id < r.id) && decide (w.op ≠ .read) && decide (w.op ≠ .none)
  let rd (x : RdEnt) : Bool := match x.purpose with
    | .req w => wr w
    | .sander => false
  let past (k : Wait) : Bool := match k with
    | .admission | .portGate | .intake | .range | .queue => false
    | .map | .dramGate | .bind | .promote | .room | .decode | .stage | .dram | .readQueue | .peer | .seal | .line => true
  d.waits.any (fun w => past w.wait && wr w.req) || d.subs.any (fun e => (e.2.flight ++ e.2.rq).any rd)
    || (quad d (lineQuad r.line)).rebuilds.any rd

/-- A request that may proceed at its home. On a tracked line it waits for the older writes of the line: the directory has counted
their data as home, and a later grant shows it (R206, R212). -/
def atHome (d : Dev) (r : Req) (charged : Bool := false) : Dev :=
  if decide (r.op ≠ .none) && tracked d r.line && olderWriteOn d r then park d r .line else
  match r.op with
  | .read => homeRead d r charged
  | .write _ | .writePtl _ _ | .poisonWrite | .atomic _ _ _ _ _ => homeWrite d r charged
  | .none => respondWrite (closeFor d r) r

end Sys2Proof.Machine
end

