-- ==== Sys2Proof/Machine/Coh.lean ====
section
/-! DEFINITION. The directory (R202 to R224): admission, opening a transaction, snoops and their answers, grants, evictions,
the atomic predictor, and the rights and range checks a request passes before it (R137, R146, R147, R406). -/

namespace Sys2Proof.Machine

/-- Whether the home tracks a request's line (R202, R203): in a DB window, or of a Span page. -/
def needsDir (d : Dev) (line : Nat) : Bool := tracked d line || tierOf (entryNow d (pageOfLine line)) = .span

/-- A coherence protocol error (R213): captured in DIR.PERR and raised. -/
def perr (d : Dev) (cause st agent line : Nat) : Dev :=
  let q := lineQuad line
  let b := Block.dir q
  let d := if (rget d b .dirPerr).getLsbD 31 then d
    else rput (rput (rput d b .dirPerr (packW [(31, 1), (11, agent), (8, st), (0, cause)])) b .dirPerrLineLo (BitVec.ofNat 32 line))
      b .dirPerrLineHi (BitVec.ofNat 32 (line / 2 ^ 32))
  raise d b 0 .none (ctxCoh b cause st agent (line * 64))

/-- Count a stale hit (R218). -/
def staleHit (d : Dev) (line : Nat) : Dev := rbump d (.dir (lineQuad line)) .dirStaleCount

/-- The state code of R211. -/
def TState.code : TState → Nat
  | .awaitData => 3 | .invalidating => 4 | .downgrading => 5 | .forwarding => 6 | .evicting => 7
/-- The state code of a stable entry. -/
def DState.code : DState → Nat
  | .i => 0 | .s => 1 | .e => 2

/-- Whether a request comes from the recorded owner of its line. -/
def isOwner (e : DEnt) (r : Req) : Bool :=
  e.state = .e && e.vector = agentBit (cacheAgent r) && cacheAgent r < 24 &&
  (match r.src with
   | .mw _ dev _ _ => decide (e.ownerPeer = dev.toNat)
   | _ => true)

/-- The peers that a snoop to a gate goes to (R204): those assigned to it that the route table reaches. -/
def gatePeers (d : Dev) (agent : Nat) (e : DEnt) : List Nat :=
  if e.state = .e then [e.ownerPeer]
  else (List.range 64).filter fun p => gateOf d p + 20 = agent && p ≠ selfId d && (routeOf d p).isSome

/-- Send a snoop to one agent: 0 invalidate, 1 downgrade, 2 forward keeping S, 3 forward keeping nothing. Back come the agents
and peers to await. A cluster answers at once: it holds nothing between jobs. -/
def snoopAgent (d : Dev) (line agent : Nat) (e : DEnt) (how fwdDst fwdTag : Nat) : Dev × List Nat × List (Nat × Nat) :=
  if agent < 16 then (if (port d agent).up then countHost (send d (.biSnp agent line (how ≠ 1))) agent 4 1 else d, [agent], [])
  else if agent < 20 then (qmod d (agent - 16) fun s => { s with cluster := { s.cluster with held := s.cluster.held.filter (· ≠ line) } }, [], [])
  else
    let ps := gatePeers d agent e
    let high := line * 64 + (if 2 ≤ how then fwdDst * 2 ^ 45 + fwdTag * 2 ^ 51 else 0)
    let d := ps.foldl (fun d p => (mwRequest d p (0x50 + how) 0 high [] (.span line)).getD d) d
    (d, if ps.isEmpty then [] else [agent], ps.map fun p => (agent, p))

/-- Send a snoop to several agents. -/
def snoopAll (d : Dev) (line : Nat) (agents : List Nat) (e : DEnt) (how fwdDst fwdTag : Nat) : Dev × List Nat × List (Nat × Nat) :=
  agents.foldl (fun (a : Dev × List Nat × List (Nat × Nat)) g =>
    let (d, w, p) := snoopAgent a.1 line g e how fwdDst fwdTag
    (d, a.2.1 ++ w, a.2.2 ++ p)) (d, [], [])

/-- Whether a request takes data with its grant. -/
def takesData (r : Req) : Bool := r.kind = .rs || r.kind = .re || r.kind = .rc

/-- Grant and close a read's transaction, or complete ownership without data (R212). -/
def grantClose (d : Dev) (t : Trans) : Dev :=
  let d := transDel (dirPut d t.line (endEntry d t.req (dirEnt d t.line))) t.line
  if takesData t.req then respondRead d t.req (if t.poison then none else t.data) else respondWrite d t.req

/-- Go on with a transaction whose awaited answers may all be in: grant, start the home access, or wait. -/
def transNext (d : Dev) (line : Nat) : Dev :=
  match transOf d line with
  | none => d
  | some t =>
    if ¬ t.await.isEmpty then d
    else match t.state with
      | .evicting => d
      | .awaitData => d
      | .invalidating | .downgrading | .forwarding =>
        if takesData t.req then
          if t.poison ∨ t.data.isSome then grantClose d t
          else if t.homeReady then grantClose d t
          else
            let mine (x : RdEnt) : Bool := match x.purpose with
              | .req r => r.id = t.req.id
              | .sander => false
            let busy := d.waits.any (fun w => w.req.id = t.req.id) || (quad d (lineQuad line)).rebuilds.any mine
              || (List.range 32).any fun u => ((subc d u).rq ++ (subc d u).flight).any mine
            let d := transMod d line fun t => { t with state := .awaitData }
            if busy then d else homeRead d t.req false
        else
          let d := transMod d line fun t => { t with state := .awaitData }
          atHome d t.req

/-- Open a request's transaction in the state that R212 gives. `e` is the line's entry. -/
def dirStart (d : Dev) (r : Req) (e : DEnt) : Dev :=
  let own := isOwner e r
  let d := if own ∧ r.kind ≠ .atm then dirPut (staleHit d r.line) r.line { e with vector := 0, state := .s, ownerPeer := 0, pg := e.pg } else d
  let others := if own ∧ r.kind ≠ .atm then [] else (agentsOf e.vector).filter fun a => a ≠ cacheAgent r || r.kind = .atm || (e.state = .e && !own)
  let openT (d : Dev) (st : TState) (w : List Nat) (ps : List (Nat × Nat)) : Dev :=
    qmod d (lineQuad r.line) fun s => { s with trans := (s.trans.filter fun t => t.line ≠ r.line) ++
      [{ line := r.line, req := r, state := st, await := w, peers := ps, opened := d.pwr.now.toNat }] }
  let owned := e.state = .e && !own
  let gate := others.any fun a => 20 ≤ a
  let (fwdDst, fwdTag) := match r.src with
    | .mw _ dev tag _ => (dev.toNat, tag.toNat)
    | _ => (selfId d, (freeTag d).getD 0)
  let local_ : Bool := match r.src with
    | .mw _ _ _ _ => false
    | _ => true
  let owner := others.headD 0
  let ownerPort := match routeOf d e.ownerPeer with
    | some (b, _) => b
    | none => 0
  if owned ∧ (r.kind = .rs ∨ r.kind = .rc) then
    let (d, w, ps) := snoopAgent d r.line owner e (if gate then 2 else 1) fwdDst fwdTag
    let d := if owner < 16 ∨ 20 ≤ owner then d else dirPut d r.line { dirEnt d r.line with vector := 0, state := .i, ownerPeer := 0 }
    let d := if gate ∧ local_ then { d with tags := tabPut none d.tags fwdTag (some { peer := e.ownerPeer, port := ownerPort, opcode := 0x63, use := .span r.line, since := d.pwr.now }) } else d
    transNext (openT d (if gate then .forwarding else .downgrading) w ps) r.line
  else if owned ∧ r.kind = .re ∧ gate then
    let (d, w, ps) := snoopAgent d r.line owner e 3 fwdDst fwdTag
    let d := if local_ then { d with tags := tabPut none d.tags fwdTag (some { peer := e.ownerPeer, port := ownerPort, opcode := 0x63, use := .span r.line, since := d.pwr.now }) } else d
    transNext (openT d .forwarding w ps) r.line
  else if ¬ others.isEmpty ∧ (r.kind = .re ∨ r.kind = .own ∨ r.kind = .wr ∨ r.kind = .atm) then
    let (d, w, ps) := snoopAll d r.line others e 0 0 0
    let d := (others.filter fun a => 16 ≤ a ∧ a < 20).foldl (fun d a => dirPut d r.line { dirEnt d r.line with vector := (dirEnt d r.line).vector &&& ~~~(agentBit a) }) d
    let d := openT d .invalidating w ps
    if w.isEmpty then transNext d r.line
    else if takesData r ∧ ¬ owned then homeRead d r false else d
  else if r.kind = .own ∧ tierOf (entryNow d (pageOfLine r.line)) ≠ .span then
    grantClose (openT d .awaitData [] []) { line := r.line, req := r, state := .awaitData }
  else if r.kind = .own then
    let d := openT d .awaitData [] []
    match peerNeed r e.pg true with
    | some code => askPeer d r code
    | none => grantClose d { line := r.line, req := r, state := .awaitData }
  else atHome (openT d .awaitData [] []) r

/-- Whether a request leaves an agent holding a line, or a peer grant, in an entry (R210, R221). -/
def wantsEntry (d : Dev) (r : Req) : Bool :=
  (cacheAgent r < 24 && (r.kind = .rs || r.kind = .re || r.kind = .own || (r.kind = .wr && r.keep = 1)))
  || tierOf (entryNow d (pageOfLine r.line)) = .span

/-- The victim of an eviction has lost its holders: a peer grant goes back, its way passes to the request (R210, R221). -/
def evictDone (d : Dev) (r : Req) (victim : Nat) : Dev :=
  let e := dirEnt d victim
  let d :=
    if e.pg = 0 then d
    else
      let ent := entryNow d (pageOfLine victim)
      let dirty := stageDirty d victim
      let pay := match stageFind d victim with
        | some x => if dirty then lineSlots x else []
        | none => []
      let d := (mwRequest d (peerId ent) (if dirty then 0x46 else 0x47) (spanSlate d) (peerAddr d victim) pay .note).getD d
      stageDrop d victim
  let swap (w : ASet DEnt) : ASet DEnt :=
    match asFind w victim with
    | some (i, _) => asPut w i r.line { state := .i, vector := 0 }
    | none => w
  let d := qmod d (lineQuad r.line) fun s => { s with dir := tabMod {} s.dir (dirSet r.line) swap }
  dirStart d r (dirEnt d r.line)

/-- Open a request's transaction, making room for its entry first (R209, R210). -/
def dirOpen (d : Dev) (r : Req) : Dev :=
  let q := lineQuad r.line
  let set := dirSet r.line
  let w := tabGet {} (quad d q).dir set
  if ¬ wantsEntry d r ∨ (asFind w r.line).isSome then dirStart d r (dirEnt d r.line)
  else match asFree w (fun i => !(quad d q).dirBroken.contains (set, i)) with
    | some i =>
      let place (a : ASet DEnt) : ASet DEnt := asPut a i r.line { state := .i, vector := 0 }
      let d := qmod d q (fun (s : Quad) => { s with dir := tabMod {} s.dir set place })
      dirStart d r (dirEnt d r.line)
    | none =>
      let busy (k : Nat) : Bool := (quad d q).trans.any fun t => t.line = k || t.victim = some k
      match plruVictim w.plru (fun i => w.ways.any fun x => x.1 = i && !busy x.2.1) with
      | none => park d r .queue
      | some i => match w.ways.find? fun x => x.1 = i with
        | none => park d r .queue
        | some (_, victim, e) =>
          let (d, aw, ps) := snoopAll d victim (agentsOf e.vector) e 0 0 0
          let d := qmod d q fun s => { s with trans := s.trans ++
            [{ line := r.line, req := r, state := .evicting, await := aw, peers := ps, victim := some victim, opened := d.pwr.now.toNat }] }
          if aw.isEmpty then evictDone d r victim else d

/-- The open transaction that a message for a line concerns: the line's own, or one that evicts the line. -/
def transFor (d : Dev) (line : Nat) : Option Trans :=
  (quad d (lineQuad line)).trans.find? fun t => (t.line = line ∧ t.state ≠ .evicting) ∨ t.victim = some line

/-- Whether a request may open its transaction now (R209): nothing open on its line, fewer than 8 in its set, a free entry, and no
older request for the line in the queue. -/
def admissible (d : Dev) (r : Req) : Bool :=
  let s := quad d (lineQuad r.line)
  (!s.trans.any fun t => t.line = r.line || t.victim = some r.line)
  && decide ((s.trans.filter fun t => dirSet t.line = dirSet r.line).length < 8)
  && decide (s.trans.length < 2048)
  && !d.waits.any fun w => w.wait = .queue && w.req.line = r.line && w.req.id < r.id

/-- Score a line's conflict counter against the remembered ATMs (R219). -/
def predHash (line : Nat) : Nat :=
  let x := qln line
  (x % 4096) ^^^ (x / 2 ^ 12 % 4096) ^^^ (x / 2 ^ 24 % 4096) ^^^ (x / 2 ^ 36 % 2)
def conflictScore (d : Dev) (r : Req) : Dev :=
  let q := lineQuad r.line
  let win := rfld d (.dir q) .dirCfg 15 8 * 100
  let hits := ((quad d q).atms.filter fun a => a.line = r.line ∧ a.agent ≠ r.agent ∧ d.pwr.now.toNat ≤ a.time.toNat + win).length
  qmod d q fun s => { s with
    pred := tabMod 1 s.pred (predHash r.line) (fun c => min 3 (c + hits))
    atms := mapIf (fun a => a.line = r.line ∧ a.agent ≠ r.agent ∧ d.pwr.now.toNat ≤ a.time.toNat + win) (fun a => { a with hit := true }) s.atms }

/-- Remember an admitted ATM: the last 64 lines (R219). -/
def atmRemember (d : Dev) (r : Req) : Dev :=
  qmod d (lineQuad r.line) fun s =>
    { s with atms := (s.atms ++ [({ line := r.line, agent := r.agent, time := d.pwr.now, hit := false } : AtmMem)]).drop (s.atms.length + 1 - 64) }

/-- Whether the predictor executes an ATM at home (R219). -/
def atmHome (d : Dev) (line : Nat) : Bool :=
  match rfld d (.dir (lineQuad line)) .dirCfg 1 0 with
  | 1 => true
  | 2 => false
  | _ => decide (2 ≤ tabGet 1 (quad d (lineQuad line)).pred (predHash line))

/-- A write-back from a recorded holder, or an eviction notice (R212, R213, R215): never held in the queue. -/
def dirNotice (d : Dev) (r : Req) : Dev :=
  let e := dirEnt d r.line
  match transFor d r.line with
  | some t =>
    let here := t.await.contains r.agent
    if r.kind = .evc then
      let d :=
        if here then qmod d (lineQuad r.line) fun s => { s with trans := mapIf (fun x => x.line = t.line) (fun x => { x with marked := x.marked ++ [r.agent] }) s.trans }
        else if e.vector.getLsbD r.agent then dirPut d r.line { e with vector := e.vector &&& ~~~(agentBit r.agent) }
        else staleHit d r.line
      respondWrite d r
    else if here then
      let kept := match r.op with
        | .write x => if takesData t.req ∧ t.state ≠ .evicting then some x else t.data
        | _ => t.data
      let d := qmod d (lineQuad r.line) fun s => { s with trans := mapIf (fun x => x.line = t.line) (fun x => { x with marked := x.marked ++ [r.agent], data := kept, poison := x.poison || r.op = .poisonWrite }) s.trans }
      homeWrite d r false
    else park (perr d 1 t.state.code r.agent r.line) { r with kind := .wr } .queue
  | none =>
    if r.kind = .evc then
      let d :=
        if isOwner e r then dirPut d r.line { e with state := .i, vector := 0, ownerPeer := 0 }
        else if e.state = .s ∧ e.vector.getLsbD r.agent then
          let v := e.vector &&& ~~~(agentBit r.agent)
          dirPut d r.line { e with vector := v, state := if v = 0 then .i else .s }
        else staleHit d r.line
      respondWrite d r
    else homeWrite (dirPut d r.line (endEntry d { r with kind := .wb } e)) { r with kind := .wb } false

/-- A request for a tracked line reaches the directory (R209, R212, R213). -/
def dirAdmit (d : Dev) (r : Req) : Dev :=
  let e := dirEnt d r.line
  let d := conflictScore d r
  let inP : Bool := match transFor d r.line with
    | some t => t.await.contains (cacheAgent r)
    | none => false
  let isWrite := r.kind = .wr || r.kind = .wb
  if r.kind = .evc then dirNotice d r
  else if isWrite ∧ (inP ∨ (isOwner e r ∧ (transFor d r.line).isNone)) then dirNotice d { r with kind := .wb }
  else if r.kind = .wb ∧ (transFor d r.line).isSome then dirNotice d r
  else
    let d := if r.kind = .wb then perr d 1 e.state.code r.agent r.line else d
    let r := if r.kind = .wb then { r with kind := .wr, keep := 0 } else r
    if admissible d r then
      let atm : Bool := match r.src with
        | .mw _ _ _ code => code = 0x48
        | _ => r.kind = .atm
      let d := if atm then atmRemember d r else d
      dirOpen d r
    else park d r .queue

/-- An answer to a snoop (R213): the agent keeps S or nothing, with its data if it sent any; `fwd` marks RspFwd. `peer` is the
answering device of a gate. -/
def snoopAnswer (d : Dev) (line agent peer : Nat) (keepS miss fwd : Bool) (data : Option Line) : Dev :=
  match transFor d line with
  | none => perr d 2 (dirEnt d line).state.code agent line
  | some t =>
    if ¬ t.await.contains agent ∨ (20 ≤ agent ∧ ¬ t.peers.contains (agent, peer)) then perr d 2 t.state.code agent line
    else
      let inv := t.state = .invalidating || t.state = .evicting
      let fwdE := t.state = .forwarding && t.req.kind = .re
      if (inv ∧ fwd) ∨ (t.state = .downgrading ∧ fwd) then perr d 3 t.state.code agent line
      else if (inv ∨ fwdE) ∧ keepS then (snoopAgent (perr d 3 t.state.code agent line) line agent (dirEnt d line) 0 0 0).1
      else
        let e := dirEnt d line
        let d := if (agent < 16 ∨ miss) ∧ data.isNone ∧ ¬ t.marked.contains agent ∧ ¬ keepS ∧ ¬ fwd then staleHit d line else d
        let d := match data with
          | some x => storeLine d line x
          | none => d
        let ps := t.peers.filter fun p => p ≠ (agent, peer)
        let rest := ps.any fun p => p.1 = agent
        let gone := !rest && !keepS && !(fwd && !fwdE)
        let d := if gone then dirPut d line { e with vector := e.vector &&& ~~~(agentBit agent) } else d
        let upd (x : Trans) : Trans := { x with
          peers := ps
          await := if rest then x.await else x.await.filter (· ≠ agent)
          data := (match data with
            | some y => if takesData x.req ∧ x.state ≠ .evicting then some y else x.data
            | none => x.data) }
        let d := qmod d (lineQuad line) fun s => { s with trans := mapIf (fun x => x.line = t.line) upd s.trans }
        if rest ∨ 1 < t.await.length then d
        else match t.state, t.victim with
          | .evicting, some v => evictDone d t.req v
          | .forwarding, _ =>
            if fwd then
              match t.req.src with
              | .mw _ _ _ _ => transDel (dirPut d t.line (endEntry d t.req (dirEnt d t.line))) t.line
              | _ => if (match transOf d t.line with | some x => x.data.isSome || x.poison | none => false) then transNext d t.line else d
            else transNext d t.line
          | _, _ => transNext d t.line

/-- An agent is treated as having answered BIRspI (R217): an owner that sent no data costs the line, which is poisoned. -/
def unanswered (d : Dev) (line agent : Nat) : Dev :=
  match transFor d line with
  | none => d
  | some t =>
    if ¬ t.await.contains agent then d
    else
      let e := dirEnt d line
      let lost := e.state = .e && e.vector.getLsbD agent && !t.marked.contains agent
      let d := if lost then (poisonLine d line .internal).1 else d
      let upd (x : Trans) : Trans := { x with
        peers := x.peers.filter fun p => p.1 ≠ agent
        marked := x.marked ++ [agent]
        poison := x.poison || (lost && x.state ≠ .evicting) }
      let d := qmod d (lineQuad line) fun s => { s with trans := mapIf (fun x => x.line = t.line) upd s.trans }
      let d := if 20 ≤ agent then qmod d (lineQuad line) fun s => { s with trans := mapIf (fun x => x.line = t.line) (fun x => { x with peers := x.peers ++ [(agent, 64)] }) s.trans } else d
      snoopAnswer d line agent 64 false false false none

/-- Every line a port's agent is awaited on. -/
def awaitedLines (d : Dev) (agent : Nat) : List Nat :=
  (List.range 4).flatMap fun q => ((quad d q).trans.filter fun t => t.await.contains agent).map fun t => t.victim.getD t.line

/-- All snoops outstanding to an agent are unanswered at once (R217, R274, R275). -/
def unansweredAll (d : Dev) (agent : Nat) : Dev := (awaitedLines d agent).foldl (fun d l => unanswered d l agent) d

/-! ## The checks before the directory -/

/-- Whether a requester has the right on a page (R146). -/
def reqRight (d : Dev) (r : Req) : Bool :=
  let page := pageOfLine r.line
  match r.src with
  | .host p _ => hostRight d p page
  | .io p _ _ _ => hostRight d p page
  | .mw _ _ _ _ => slateRight d r.slate page
  | .engine _ _ => slateRight d r.slate page
  | .compl _ _ _ => slateRight d r.slate page
  | .debug => debugRight d page

/-- Capture and raise a refused access (R147, R151). `master`: 0 host, 1 engine, 2 Marwen, 3 debug, 4 test. -/
def accessRefused (d : Dev) (page master port slate : Nat) : Dev :=
  let q := homeOf page
  let b := Block.seal q
  let d := if (rget d b .sealAccErrHi).getLsbD 31 then d
    else rput (rput d b .sealAccErrLo (BitVec.ofNat 32 page)) b .sealAccErrHi
      (packW [(31, 1), (8, slate), (4, port), (1, master), (0, page / 2 ^ 32 % 2)])
  let d := rbump d b .sealAccErrCount
  let d := raise d b 0 .none (ctxLine b (if master = 1 then .engine else if master = 2 then .marwen else if master = 3 then .debug else .host) port slate 0 (page * 4096) 0)
  if (master = 1 ∨ master = 2) ∧ ¬ ctxValid d slate then raise d .slate 0 .none (ctxLine .slate (if master = 1 then .engine else .marwen) port slate 0 (page * 4096) 0) else d

/-- The master code of a requester. -/
def masterOf (r : Req) : Nat := match r.src with
  | .host _ _ | .io _ _ _ _ => 0
  | .mw _ _ _ _ => 2
  | .engine _ _ | .compl _ _ _ => 1
  | .debug => 3

/-- Whether a line is locked by a partial write or atomic that waits for its data, or by a rebuild (R145, R172). -/
def lineBusy (d : Dev) (line : Nat) : Bool :=
  let merges (o : Op) : Bool := match o with
    | .writePtl _ _ | .atomic _ _ _ _ _ => true
    | _ => false
  (d.waits.any fun w => w.req.line = line && merges w.req.op && w.wait ≠ .queue) || (quad d (lineQuad line)).rebuilds.any (fun x => x.line = line)
  || (List.range 32).any fun u => ((subc d u).rq ++ (subc d u).flight).any fun x => x.line = line && (match x.purpose with
      | .req r => merges r.op
      | .sander => false)

/-- A request at its home quadrant: fenced quadrant (R406), rights (R146, R147), sweep zone (R136, R137), then the directory or
the home access (R203). -/
def enterHome (d : Dev) (r : Req) : Dev :=
  let page := pageOfLine r.line
  let q := homeOf page
  if quadFenced d q then
    let d := if r.op = .read ∨ r.kind = .evc then d else { d with flt := { d.flt with lossQ := d.flt.lossQ ||| BitVec.ofNat 4 (2 ^ q) } }
    respondLost d r
  else if ¬ quadOpen d q then park d r .intake
  else if ¬ reqRight d r then respondRefused (accessRefused d page (masterOf r) (portOf r) r.slate) r 1
  else if needsDir d r.line ∧ (r.kind = .evc ∨ (r.kind = .wb ∧ zoneOf d page ≠ .above)) then dirAdmit d r
  else match zoneOf d page with
    | .wait => park d r .range
    | .above => if r.op = .read ∨ r.op = .none then finishRead d { r with kind := .rc } (some 0) false else aboveEdge d r
    | .normal =>
      if needsDir d r.line then dirAdmit d r
      else if r.kind = .evc ∨ r.op = .none then respondWrite d r
      else if lineBusy d r.line ∨ d.waits.any (fun w => w.wait = .queue && w.req.line = r.line && w.req.id < r.id) then park d r .queue
      else atHome d r

/-! ## Retrying what waits -/

/-- The credits of a Marwen request that waited for admission go back to its sender as it goes in (R292, R361). -/
def oweAdmitted (d : Dev) (r : Req) : Dev :=
  match r.src with
  | .mw b _ _ code => mportMod d b fun m =>
      let ch := opChannel code
      { m with owed := m.owed.set ch (m.owed.getD ch 0 + (opSlots code).headD 1) }
  | _ => d

/-- The port a request came in by, numbered as the port gates are. -/
def reqPort (r : Req) : Nat :=
  match r.src with
  | .host p _ => p.val
  | .io p _ _ _ => p.val
  | .mw b _ _ _ => 16 + b.val
  | .engine _ _ | .compl _ _ _ | .debug => 0

/-- Bring a parked request back to the stage it waited at. -/
def resume (d : Dev) (w : Waiting) : Dev :=
  match w.wait with
  | .range | .queue | .intake => enterHome d w.req
  | .admission | .portGate =>
    let p := reqPort w.req
    if w.wait = .admission ∧ (¬ admitting d ∨ ¬ portOpen d p) then { d with waits := d.waits ++ [w] }
    else
      let d := if w.wait = .admission then oweAdmitted d w.req else d
      match portGate d p w.req.cls 64 with
      | some d => enterHome d w.req
      | none => { d with waits := d.waits ++ [{ w with wait := .portGate }] }
  | .dramGate | .readQueue | .map | .bind | .promote | .room | .decode | .stage | .dram | .peer | .seal | .line =>
    atHome d w.req (w.wait = .readQueue)

/-- Bring back every parked request that satisfies `p`, oldest first; those that must wait again keep their first time. -/
def retry (d : Dev) (p : Waiting → Bool) : Dev :=
  let sel := d.waits.filter p
  let d := { d with waits := d.waits.filter fun w => !p w }
  sel.foldl (fun d w =>
    let d' := resume d w
    { d' with waits := mapIf (fun x => x.req.id = w.req.id) (fun x => { x with since := w.since }) d'.waits }) d

/-- The waiting requests of a quadrant at a stage. -/
def atWait (q : Nat) (k : Wait) (w : Waiting) : Bool := decide (w.q.val = q) && decide (w.wait = k)

/-! ## Arrival -/

/-- A request enters the device: its Slate (R231 to R233), its port gate (R236), its home. -/
def arrive (d : Dev) (r : Req) (gatePort : Nat) : Dev :=
  let (cls, noStage, heatW) := slatePolicy d r.slate
  let d := if ctxValid d r.slate then d else rbump d .slate .slateInvalidCount
  let r := { r with id := d.nextId, cls, noStage, heatW }
  let d := { d with nextId := d.nextId + 1 }
  if ¬ admitting d ∨ ¬ portOpen d gatePort then park d r .admission
  else match portGate d gatePort cls 64 with
    | none => park d r .portGate
    | some d => enterHome d r

end Sys2Proof.Machine
end

