-- ==== Sys2Proof/Machine/Jobs.lean ====
section
/-! DEFINITION. How a lane of an engine cluster reads and writes memory (R146, R147, R203, R236, R258), and how a job
completes (R250, R251, R261). A job is one step: where one of its lines must wait, the whole step is taken back but for the
request that the line waits for, and the job's row runs it again. -/

namespace Sys2Proof.Machine

/-! ## Job fields (R252) -/

/-- `n` bytes of the descriptor from byte `lo`. -/
def Job.bytes (j : Job) (lo n : Nat) : Nat := ofBytes ((j.desc.drop lo).take n)
def Job.op (j : Job) : Nat := j.bytes 0 1
def Job.fence (j : Job) : Bool := (j.bytes 1 1).testBit 0
def Job.int (j : Job) : Bool := (j.bytes 1 1).testBit 1
def Job.defer (j : Job) : Bool := (j.bytes 1 1).testBit 2
def Job.opf (j : Job) : Nat := j.bytes 2 2
def Job.len (j : Job) : Nat := j.bytes 4 4
def Job.src (j : Job) : Nat := j.bytes 8 8
def Job.dst (j : Job) : Nat := j.bytes 16 8
def Job.aux1 (j : Job) : Nat := j.bytes 24 8
def Job.aux2 (j : Job) : Nat := j.bytes 32 8
def Job.aux3 (j : Job) : Nat := j.bytes 40 8

/-- Who reads and writes: the cluster, the lane, the Slate, and whether a wait for room has lasted too long. -/
structure Agent where
  q : Nat
  lane : Nat
  slate : Nat
  late : Bool
deriving DecidableEq, Repr

/-- What a step of a job gives: it went on, it stopped with a status of R262 after the accumulated result, or it must wait: for
room in a quadrant, or for a line to be granted in a kind of request. -/
inductive EngRun (β : Type) where
  | ok (d : Dev) (b : β)
  | stop (d : Dev) (b : β) (status : Nat)
  | wait (room : Option Nat) (need : Option (Nat × Kind))

/-- One step after another over a list; a stop keeps what was accumulated before it. -/
def runList {α β : Type} (f : Dev → β → α → EngRun β) : List α → Dev → β → EngRun β
  | [], d, b => .ok d b
  | a :: l, d, b => match f d b a with
    | .ok d b => runList f l d b
    | .stop d b st => .stop d b st
    | .wait r n => .wait r n

/-! ## Line access -/

/-- The request with which a lane asks for a line. -/
def engReq (d : Dev) (a : Agent) (line : Nat) (k : Kind) : Req :=
  { id := d.nextId, src := .engine (Fin.ofNat 4 a.q) (Fin.ofNat 8 a.lane), kind := k, op := if k = .own then .none else .read,
    line, agent := 24, slate := 2 ^ 18 }

/-- Open the request a job waits for, unless it stands already. -/
def engOpen (d : Dev) (a : Agent) (line : Nat) (k : Kind) : Dev :=
  let mine (r : Req) : Bool := r.src = .engine (Fin.ofNat 4 a.q) (Fin.ofNat 8 a.lane)
  if d.waits.any (fun w => mine w.req) ∨ (quad d (lineQuad line)).trans.any (fun t => t.line = line || mine t.req) then d
  else dirAdmit { d with nextId := d.nextId + 1 } (engReq d a line k)

/-- The peer of a wait for a line (R203, R221): none where the line may be read. -/
def engReadNeed (d : Dev) (line : Nat) : Option Kind :=
  let e := dirEnt d line
  let span := tierOf (entryNow d (pageOfLine line)) = .span
  if span ∧ (e.pg = 0 ∨ (stageFind d line).isNone) then some .rs
  else if tracked d line ∧ e.state = .e then some .rc
  else none

/-- The same for a write. -/
def engWriteNeed (d : Dev) (line : Nat) : Option Kind :=
  let e := dirEnt d line
  let span := tierOf (entryNow d (pageOfLine line)) = .span
  if span ∧ e.pg < 2 then some .own
  else if tracked d line ∧ e.state ≠ .i then some .own
  else none

/-- A line that others wait on or that a request has locked (R145, R209), or whose quadrant takes no work (R41). -/
def engLocked (d : Dev) (line : Nat) : Bool := !quadOpen d (lineQuad line) || (needsDir d line && (transFor d line).isSome) || lineBusy d line

/-- Fill the lines that a decode of a Packed page gave (R95): all of them, or the one asked for. -/
def fillDecoded (d : Dev) (page : Nat) (lines : List Line) (want : Nat) : Dev :=
  let all := (rget d (.pack (homeOf page)) .packCfg).getLsbD 1
  (List.range 64).foldl (fun d i =>
    let line := page * 64 + i
    if (all ∨ line = want) ∧ ¬ (stageFind d line).isSome then (stagePut d line (lines.getD i 0) false none).getD d else d) d

/-- A lane reads a line (R146, R147, R258). -/
def engLoad (d : Dev) (a : Agent) (line : Nat) : EngRun Line :=
  let page := pageOfLine line
  let q := homeOf page
  if limitPages d q ≤ page then .stop d (BitVec.allOnes 512) 8
  else if quadFenced d q then .stop d 0 9
  else if ¬ slateRight d a.slate page then .stop (accessRefused d page 1 0 a.slate) (BitVec.allOnes 512) 8
  else match zoneOf d page with
    | .wait => .wait none none
    | .above => .ok d 0
    | .normal =>
      if engLocked d line then .wait none none
      else match engReadNeed d line with
        | some k => .wait none (some (line, k))
        | none =>
          let pol := slatePolicy d a.slate
          let e := entryNow d page
          let hit := (stageFind d line).isSome
          let packed := tierOf e = .packed && !hit && !markedLine d line
          let gate := if hit ∨ tierOf e = .unbacked then some d else dramGate d q pol.1 (if packed then 256 * slotCount e else 64)
          match gate with
          | none => .wait none none
          | some d =>
            if packed ∧ ¬ packAvailable d q then .stop (raise0 d (.pack q) 2) 0 9
            else
              let (d, r) := loadLine d .engine line
              let d := heatSample d page hit pol.2.2
              let d := if hit then countSet d a.slate 2 1 else d
              match r with
              | none => .stop d 0 9
              | some x =>
                let d := if ¬ hit ∧ tierOf e ≠ .unbacked ∧ allocates d line pol.2.1 then (stagePut d line x false (some pol.1)).getD d else d
                .ok (countSet d a.slate 0 64) x

/-- A lane writes a line (`mask` none) or the masked bytes of one (R145, R146, R147, R258). A partial write to a poisoned line
changes nothing (R168). -/
def engStore (d : Dev) (a : Agent) (line : Nat) (data : Line) (mask : Option DWord) : EngRun Unit :=
  let page := pageOfLine line
  let q := homeOf page
  if limitPages d q ≤ page then .stop d () 8
  else if quadFenced d q then .stop d () 9
  else if ¬ slateRight d a.slate page then .stop (accessRefused d page 1 0 a.slate) () 8
  else match zoneOf d page with
    | .wait => .wait none none
    | .above => .stop (raise d (.seal q) 1 .none (ctxLine (.seal q) .engine 0 a.slate 0 (line * 64) 0)) () 8
    | .normal =>
      let urgent : Bool := (match moveOn d page with
          | some m => decide (m.kind = 2)
          | none => false)
      if engLocked d line ∨ urgent then .wait none none
      else match engWriteNeed d line with
        | some k => .wait none (some (line, k))
        | none =>
          let e := entryNow d page
          let moving := tierOf e = .packed || tierOf e = .unbacked
          let noPack := tierOf e = .packed && !packAvailable d q
          if moving ∧ (noPack ∨ ¬ hasRoom d q) ∧ ¬ a.late then .wait (some q) none
          else if moving ∧ (noPack ∨ ¬ hasRoom d q) then
            let d := rbump d (.dolly 1) .dolly1Timeouts
            let d := if noPack then raise0 d (.pack q) 2 else raise d (.dolly 1) 0 .none (ctxLine (.dolly 1) .engine 0 a.slate 0 (line * 64) 0)
            .ok (poisonLine d line .vendor).1 ()
          else
            let pol := slatePolicy d a.slate
            let d := match moveOn d page with
              | some m => if m.kind < 2 then abandonMove d q false else d
              | none => d
            let d := heatSample d page (stageFind d line).isSome pol.2.2
            let d := countSet d a.slate 1 64
            match mask with
            | none => .ok (storeLine d line data) ()
            | some m =>
              let (d, r) := loadLine d .partialWrite line
              match r with
              | none => .ok d ()
              | some old => .ok (storeLine d line (mergeLine old data m)) ()

/-! ## Byte access -/

/-- The lines of `n` bytes at `dpa`, with each line's first byte and count. -/
def spanLines (dpa n : Nat) : List (Nat × Nat × Nat) :=
  if n = 0 then []
  else (List.range ((dpa + n - 1) / 64 - dpa / 64 + 1)).map fun i =>
    let line := dpa / 64 + i
    let lo := if i = 0 then dpa % 64 else 0
    let hi := min 64 (dpa + n - line * 64)
    (line, lo, hi - lo)

/-- Read `n` bytes: at a stop, the bytes before the line that stopped it. -/
def engRead (d : Dev) (a : Agent) (dpa n : Nat) : EngRun (List Byte) :=
  runList (fun d (b : List Byte) (s : Nat × Nat × Nat) => match engLoad d a s.1 with
    | .ok d x => .ok d (b ++ lineBytes x s.2.1 s.2.2)
    | .stop d _ st => .stop d b st
    | .wait r k => .wait r k) (spanLines dpa n) d []

/-- Write bytes line by line in ascending order: how many bytes were written. -/
def engWrite (d : Dev) (a : Agent) (dpa : Nat) (bytes : List Byte) : EngRun Nat :=
  runList (fun d (n : Nat) (s : Nat × Nat × Nat) =>
    let seg := (bytes.drop n).take s.2.2
    let x : Line := BitVec.ofNat 512 (ofBytes seg <<< (8 * s.2.1))
    let m : Option DWord := if s.2.2 = 64 then none else some (BitVec.ofNat 64 ((2 ^ s.2.2 - 1) <<< s.2.1))
    match engStore d a s.1 x m with
    | .ok d _ => .ok d (n + s.2.2)
    | .stop d _ st => .stop d n st
    | .wait r k => .wait r k) (spanLines dpa bytes.length) d 0

/-! ## Completion (R250, R251, R261) -/

/-- How many descriptors a ring has. -/
def ringSize (r : Ring) : Nat := 2 ^ fld r.cfg 4 0
/-- A ring of a cluster. -/
def ringOf (d : Dev) (q i : Nat) : Ring := tabGet {} (quad d q).cluster.rings i
/-- Change a cluster. -/
def cmod (d : Dev) (q : Nat) (f : Cluster → Cluster) : Dev := qmod d q fun s => { s with cluster := f s.cluster }
/-- Change a ring. -/
def ringMod (d : Dev) (q i : Nat) (f : Ring → Ring) : Dev := cmod d q fun c => { c with rings := tabMod {} c.rings i f }

/-- A job is over: its completion is counted and written as a partial write of the ring's Slate, after every write of the job. -/
def completeJob (d : Dev) (q : Nat) (j : Job) (status flags done result : Nat) : Dev :=
  let d := rbump d (.nme q) .nmeJobCount
  let d := countSet d j.slate 3 done
  let dpa := (ringOf d q j.ring).compPage * 4096 + 16 * j.index
  let rec16 := j.index % 2 ^ 16 + status % 256 * 2 ^ 16 + b2n j.phase * 2 ^ 24 + flags % 8 * 2 ^ 25 + done % 2 ^ 32 * 2 ^ 32
    + result % 2 ^ 64 * 2 ^ 64
  let off := dpa % 64
  let pol := slatePolicy d j.slate
  let op : Op := .writePtl (BitVec.ofNat 512 (rec16 <<< (8 * off))) (BitVec.ofNat 64 (0xFFFF <<< off))
  let src : Src := .compl (Fin.ofNat 4 q) (BitVec.ofNat 8 j.ring) j.int
  let r : Req := { id := d.nextId, src, kind := .wr, op, line := dpa / 64, agent := 24, slate := j.slate, cls := pol.1, noStage := pol.2.1, heatW := pol.2.2 }
  enterHome { d with nextId := d.nextId + 1 } r

/-- The lane's running job. -/
def laneJob (d : Dev) (q l : Nat) : Option Job := tabGet none (quad d q).cluster.lanes l
/-- Put a job on a lane, or free the lane. -/
def setLane (d : Dev) (q l : Nat) (j : Option Job) : Dev := cmod d q fun c => { c with lanes := tabPut none c.lanes l j }

/-- The running jobs of a cluster with their lanes. -/
def runningJobs (d : Dev) (q : Nat) : List (Nat × Job) :=
  (quad d q).cluster.lanes.filterMap fun e => e.2.map fun j => (e.1, j)

/-- A fenced cluster completes its jobs ENGINE_FENCED (R264). -/
def fenceCluster (d : Dev) (q : Nat) : Dev :=
  let run := runningJobs d q
  let queue := (quad d q).cluster.queue
  let d := cmod d q fun c => { c with lanes := [], queue := [], held := [] }
  (run.map (·.2) ++ queue).foldl (fun d j => completeJob d q j 7 0 0 0) d

end Sys2Proof.Machine
end

