-- ==== Sys2Proof/Machine/Down.lean ====
section
/-! DEFINITION. Links that go down: a host port (R275), a Marwen port (R304), the requests that time out with it (R323), and a
peer that is lost (R324). -/

namespace Sys2Proof.Machine

/-! ## Host ports (R275) -/

/-- A host link goes down: owed answers are dropped, snoops count as unanswered, source and event. -/
def hostDown (d : Dev) (p : Nat) : Dev :=
  if ¬ (port d p).up then d
  else
    let d := portMod d p fun x => { x with up := false, rate := 0, width := 0, trained := 0, panic := false, occ := 0, ideMem := false, ideIo := false, wasReset := true, upId := d.nextId }
    let from_ (r : Req) : Bool := match r.src with
      | .host k _ | .io k _ _ _ => k.val = p
      | _ => false
    let d := { d with
      waits := d.waits.filter fun w => !((w.wait = .admission || w.wait = .portGate) && from_ w.req)
      ioReads := d.ioReads.filter (·.port ≠ p) }
    let d := unansweredAll (send d (.hostLinkDown p)) p
    let b := Block.hpt (p / 2)
    raise (raiseEvent d b (p % 2)) b 0 .none (ctxLink b p 0 0 0 0 0)

/-! ## Tags (R323) -/

/-- Requests that wait for the peer's answer on a line end without it: poison for a read. -/
def spanLost (d : Dev) (line : Nat) : Dev :=
  let mine (w : Waiting) : Bool := w.wait = .peer && w.req.line = line
  let sel := d.waits.filter mine
  sel.foldl (fun d w => finishLost d w.req) (transMod { d with waits := d.waits.filter fun w => !mine w } line fun t => { t with peerPending := false })

/-- A snooped peer counts as having answered (R217). The last one of a gate, or the owner, ends the gate's part. -/
def peerUnanswered (d : Dev) (line peer : Nat) : Dev :=
  match transFor d line with
  | none => d
  | some t => match t.peers.find? fun p => p.2 = peer with
    | none => d
    | some (agent, _) =>
      if (t.peers.filter fun p => p.1 = agent).length ≤ 1 ∨ (dirEnt d line).state = .e then unanswered d line agent
      else snoopAnswer d line agent peer false false false none

/-- The data an owner was to forward does not come (R214, R323): the requester gets poison. -/
def forwardLost (d : Dev) (line : Nat) : Dev :=
  match transOf d line with
  | none => d
  | some t =>
    if t.state ≠ .forwarding ∨ t.data.isSome then d
    else transNext (transMod d line fun t => { t with poison := true }) line

/-- The XFER job of a lane meets a bad answer: `status` of R262. -/
def xferFail (d : Dev) (q lane status : Nat) : Dev :=
  match laneJob d q lane with
  | none => d
  | some j => setLane d q lane (some { j with xfer := { j.xfer with open_ := j.xfer.open_ - 1, bad := if j.xfer.bad = 0 then status else j.xfer.bad } })

/-- A tag ends as timed out (R323): it is held back, counted and raised, and what waits for it completes at its source. -/
def tagTimeout (d : Dev) (t : Nat) : Dev :=
  match tabGet none d.tags t with
  | none => d
  | some u =>
    if u.held then d
    else
      let d := { d with tags := tabPut none d.tags t (some { u with held := true, since := d.pwr.now }) }
      let d := mwtRaise (rbump d (.mwt 0) .mwtTimeoutCount) u.port 0 1 u.opcode (selfId d) u.peer
      match u.use with
      | .span line => if u.opcode = 0x63 then forwardLost d line else if 0x50 ≤ u.opcode then peerUnanswered d line u.peer else spanLost d line
      | .dolly q _ => abandonMove d q false
      | .xfer q lane _ => xferFail d q lane 0x0C
      | .note | .release _ => d

/-! ## Lost peers (R324) -/

/-- Every directory entry of the device. -/
def dirLines (d : Dev) : List (Nat × DEnt) :=
  (List.range 4).flatMap fun q => (quad d q).dir.flatMap fun s => s.2.ways.map fun w => (w.2.1, w.2.2)

/-- The peer's lines that this device is home of: those it owns are poisoned and freed. -/
def lostAsHome (d : Dev) (peer : Nat) : Dev :=
  ((dirLines d).filter fun e => e.2.state = .e && e.2.vector.toNat / 2 ^ 20 ≠ 0 && e.2.ownerPeer = peer).foldl (fun d e =>
    match transFor d e.1 with
    | some t => if t.peers.any (fun p => p.2 = peer) then peerUnanswered d e.1 peer else dirPut (poisonLine d e.1 .internal).1 e.1 { e.2 with state := .i, vector := 0, ownerPeer := 0 }
    | none => dirPut (poisonLine d e.1 .internal).1 e.1 { e.2 with state := .i, vector := 0, ownerPeer := 0 }) d

/-- The peer's lines that this device holds: PG none, dirty data dropped, local holders invalidated. -/
def lostAsHolder (d : Dev) (peer : Nat) : Dev :=
  ((dirLines d).filter fun e => e.2.pg ≠ 0 && tierOf (entryNow d (pageOfLine e.1)) = .span && peerId (entryNow d (pageOfLine e.1)) = peer).foldl (fun d e =>
    let d := dirPut (stageDrop d e.1) e.1 { e.2 with pg := 0 }
    if e.2.vector = 0 ∨ (transFor d e.1).isSome then d
    else
      let r : Req := { id := d.nextId, src := .engine 0 0, kind := .own, op := .none, line := e.1, agent := 24, slate := 2 ^ 18 }
      dirStart { d with nextId := d.nextId + 1 } r (dirEnt d e.1)) d

/-- A peer without any route left (R324). -/
def peerLost (d : Dev) (b peer : Nat) : Dev :=
  let blk := Block.mwt b
  let d := raise (raiseEvent d blk 1) blk 4 .none (ctxLink blk b peer 0 0 0 0)
  let d := ((d.tags.filter fun e => match e.2 with
    | some u => u.peer = peer && !u.held
    | none => false).map (·.1)).foldl tagTimeout d
  lostAsHolder (lostAsHome d peer) peer

/-- The peers that a route reaches. -/
def reachable (d : Dev) : List Nat := (List.range 64).filter fun p => p ≠ selfId d && (routeOf d p).isSome

/-! ## Marwen ports (R285, R304) -/

/-- Whether Boot lets links train: from step 8 on, and never once it has stopped (R446, R451). -/
def bootTrains (d : Dev) : Bool :=
  d.pwr.mode ≠ .boot || (decide (8 ≤ rfld d .sbi .sbiBootStat 3 0) && !(rget d .sbi .sbiBootStat).getLsbD 4)

/-- A port in Down goes to Training once its block is Rolling, not fenced, and no lane test holds it (R285). -/
def linkTry (d : Dev) (b : Nat) : Dev :=
  if d.marwen.getLsbD b ∧ (mport d b).state = 0 ∧ (pget d (.mwl b)).run = .rolling ∧ clocked d (12 + b) ∧ ¬ (tabGet {} d.bricks b).testing ∧ ¬ (mport d b).initRetry ∧ bootTrains d
  then mportMod d b fun m => { m with state := 1 } else d

/-- A Marwen link goes down (R304): buffers, credits and keys are cleared, snoops over it are unanswered, peers without another
route are lost, and the port trains again as soon as it may. `down` sends DOWN first. -/
def mwDown (d : Dev) (b : Nat) (down : Bool) : Dev :=
  let m := mport d b
  if m.state = 0 then d
  else
    let d := if down ∧ 2 ≤ m.state then send d (.mwDown (Fin.ofNat 8 b)) else d
    let before := reachable d
    let d := mportMod d b fun m => { ({} : MPort) with lock := m.lock, lockLost := m.lockLost, ingress := m.ingress, since := d.pwr.now }
    let d := { d with mwKeys := d.mwKeys.filter fun e => e.1 % 8 ≠ b }
    let d := if 2 ≤ m.state then raise d (.mwl b) 0 .none (ctxLink (.mwl b) b m.peerId.toNat 0 0 0 m.rxE.toNat) else d
    let snoops := (d.tags.filterMap fun e => match e.2 with
      | some u => if u.port = b && 0x50 ≤ u.opcode && !u.held then some (e.1, u) else none
      | none => none)
    let d := snoops.foldl (fun d e => match e.2.use with
      | .span line =>
        let d := { d with tags := tabPut none d.tags e.1 none }
        if e.2.opcode = 0x63 then forwardLost d line else peerUnanswered d line e.2.peer
      | _ => d) d
    let after := reachable d
    let d := (before.filter fun p => !after.contains p).foldl (fun d p => peerLost d b p) d
    linkTry d b

end Sys2Proof.Machine
end

