-- ==== Sys2Proof/Machine/Flush.lean ====
section
/-! DEFINITION. Writing dirty lines back (R66, R413) and the flushes that cover a whole quadrant (R69 OP 3, R399, R407, R412, R367, R388). -/

namespace Sys2Proof.Machine

/-- How a whole flush treats the lines. `orderly` sends Span lines to the peer, `dead` runs after the links are down, `poison`
writes poison words in place of data (R407). -/
inductive FlushHow where
  | orderly | dead | poison
deriving DecidableEq, Repr

/-- The stored word of a line under a key slot of its range. -/
def lineWordSlot (d : Dev) (line : Nat) (plain : Line) (slot : Option Nat) : Stored :=
  let c := match slot with
    | some k => Config.xtsEncLine (xtsKey d k) (tweakLine line k) plain
    | none => plain
  storeWord d (pageOfLine line) (addrLine line) slot c

/-- The Repaint journal step of a page that is the Wet edge page of its quadrant (R143, R413): none where the page is not. -/
def edgeStep (d : Dev) (page : Nat) : Option Nat :=
  match rangeOf d (frameOf page) with
  | none => none
  | some r =>
    if (range d r).state = .repainting ∧ zoneOf d page = .wait then
      match (quad d (homeOf page)).repaintJ with
      | some j => some (if j.page = page && j.repaint then j.step else 0)
      | none => some 0
    else none

/-- Write a dirty line of an Open page where it belongs, a Wet edge page by R413. -/
def writeBackOpen (d : Dev) (line : Nat) (data : Line) : Dev :=
  let page := pageOfLine line
  let q := homeOf page
  let e := entryNow d page
  let next := (rangeOf d (frameOf page)).map fun r => (range d r).nextSlot
  match edgeStep d page with
  | some 1 => qmod d q fun s => { s with sweepPage := s.sweepPage.map fun x =>
      { x with words := mapIf (fun w => w.1 = line % 64) (fun _ => (line % 64, lineWordSlot d line data next)) x.words } }
  | some 2 => writeUnit d page e (line % 64) (lineWordSlot d line data next)
  | _ => storeOpenLine d line e data

/-- One dirty line of a whole flush. The flag says that it reached its place. -/
def flushLine (d : Dev) (how : FlushHow) (line : Nat) (data : Line) : Dev × Bool :=
  let page := pageOfLine line
  let e := entryNow d page
  match tierOf e with
  | .open_ =>
    if how = .poison then ((poisonLine d line .internal).1, true)
    else if needsSeal d page ∧ sealDown d (homeOf page) then (d, false)
    else (writeBackOpen d line data, true)
  | .span =>
    if how = .orderly then
      match mwRequest d (peerId e) 0x46 (spanSlate d) (peerAddr d line + 2 ^ 63) (lineSlots data) .note with
      | some d => (d, true)
      | none => (d, false)
    else (d, how ≠ .poison)
  | .packed | .unbacked => (d, true)

/-- The dirty lines of a quadrant: those in ways, then the write-back buffer. -/
def dirtyLines (s : Quad) : List (Nat × Line) :=
  (s.stage.flatMap fun e => e.2.ways.filterMap fun w => if w.2.2.dirty then some (w.2.1, w.2.2.data) else none)
    ++ s.wb.map fun w => (w.line, w.data)

/-- Flush and invalidate every Stage line of a quadrant. The flag says that it completed. -/
def flushStage (d : Dev) (q : Nat) (how : FlushHow) : Dev × Bool :=
  let r := (dirtyLines (quad d q)).foldl (fun (a : Dev × Bool) l =>
    let (d, ok) := flushLine a.1 how l.1 l.2
    (d, a.2 && ok)) (d, true)
  (qmod r.1 q fun s => { s with stage := [], wb := [], flush := none, flushQ := [], lockedFlush := [] }, r.2)

/-- Write the dirty map-cache entries of a quadrant to the map share. A large entry's heat goes into all entries of its frame. -/
def flushMap (d : Dev) (q : Nat) : Dev :=
  let ents := (quad d q).mapSets.flatMap fun e => e.2.ways.map fun w => (w.2.1, w.2.2)
  ents.foldl (fun d e => match e.2 with
    | .small v dirty => if dirty then putShare d q e.1 v else d
    | .large _ h dirty =>
      if dirty then (List.range 512).foldl (fun d i =>
        let lp := (e.1 - 2 ^ 40) * 512 + i
        if (smallEntry d q lp).isSome then d else putShare d q lp (withHeat (shareEntry d q lp) h)) d
      else d) d

/-- The flush of a quadrant with its map entries, its journals and the poison list (R169). A quadrant that cannot complete it
sets its LOSS_Q bit. -/
def flushQuad (d : Dev) (q : Nat) (how : FlushHow) : Dev × Bool :=
  let (d, ok) := flushStage d q how
  let d := flushMap d q
  let d := qmod d q fun s => { s with poisonCopy := some d.poison }
  (if ok then d else { d with flt := { d.flt with lossQ := d.flt.lossQ ||| BitVec.ofNat 4 (2 ^ q) } }, ok)

/-- Precharge every bank of a sub-channel: the row counts as closed. -/
def closeBanks (d : Dev) (u : Nat) : Dev :=
  let shut (b : Bank) : Bank := if b.openRow.isSome then { b with openRow := none, lastRow := b.openRow, leftOpen := false } else b
  { d with banks := (d.banks.map fun e => if e.1 / 2 ^ 12 = u then (e.1, shut e.2) else e).filter fun e => e.2 ≠ {} }

/-- Every unfenced sub-channel drains, precharges and enters self-refresh; a fenced one only enters it (R468). -/
def subsToSleep (d : Dev) : Dev :=
  (List.range 32).foldl (fun d u =>
    let d := if subFenced d u then d else drainSub d u
    let d := closeBanks d u
    umod d u fun s => { s with selfRefresh := true, powerDown := false }) d

end Sys2Proof.Machine
end

