-- ==== Sys2Proof/Machine/React.lean ====
section
/-! DEFINITION. The reactions that assertions owe (R397): fencing a unit (R406, R407, R93, R149, R264, R408) and halting (R399);
and what a step settles at its end: the reactions, the mode (R359) and the capacity levels (R84, R86). -/

namespace Sys2Proof.Machine

/-! ## Fencing units -/

/-- Mark a page Fenced by a source (R39, R40); while it resets, the fence comes at the end of the reset. -/
def fencePage (d : Dev) (b : Block) (src : Nat) : Dev :=
  pmod d b fun p =>
    if p.run = .resetting then { p with fenceAtEnd := some src }
    else if p.run = .fenced then p
    else { p with run := .fenced, fencedBy := some src }

/-- The requests in the read queues and rebuilds that satisfy `f`. -/
def readQueued (d : Dev) (f : Req → Bool) : List Req :=
  let pick (x : RdEnt) : Option Req := match x.purpose with
    | .req r => if f r then some r else none
    | .sander => none
  ((List.range 32).flatMap fun u => ((subc d u).flight ++ (subc d u).rq).filterMap pick)
    ++ (List.range 4).flatMap fun q => (quad d q).rebuilds.filterMap pick

/-- Take the reads whose request satisfies `f` out of the queues. -/
def dropQueued (d : Dev) (f : Req → Bool) : Dev :=
  let keep (x : RdEnt) : Bool := match x.purpose with
    | .req r => !f r
    | .sander => true
  let d := (List.range 32).foldl (fun d u => umod d u fun s => { s with rq := s.rq.filter keep, flight := s.flight.filter keep }) d
  (List.range 4).foldl (fun d q => qmod d q fun s => { s with rebuilds := s.rebuilds.filter keep }) d

/-- A quadrant is fenced (R406, R407): its admitted requests end, its transactions are abandoned, Stage is flushed. `soft` keeps the
data (FENCE_REQ, thermal). -/
def fenceQuad (d : Dev) (q src : Nat) (soft : Bool) : Dev :=
  if quadFenced d q then d
  else
    let home (r : Req) : Bool := lineQuad r.line = q
    let mine (w : Waiting) : Bool := home w.req && w.wait ≠ .admission && w.wait ≠ .portGate
    let reqs := (d.waits.filter mine).map (·.req) ++ readQueued d home
    let ids := reqs.map (·.id)
    let open_ := ((quad d q).trans.map (·.req)).filter fun r => !ids.contains r.id
    let d := dropQueued { d with waits := d.waits.filter fun w => !mine w } home
    let d := qmod d q fun s => { s with trans := [], peerSnoops := [], decodes := [], urgent := [] }
    let d := fencePage d (.qctl q) src
    let d := (reqs ++ open_).foldl respondLost d
    let (d, ok) := flushStage d q (if soft then .orderly else .poison)
    let d := if ok then d else { d with flt := { d.flt with lossQ := d.flt.lossQ ||| BitVec.ofNat 4 (2 ^ q) } }
    if (List.range 4).all (quadFenced d) ∧ d.gaffer.allFenced.isNone then { d with gaffer := { d.gaffer with allFenced := some d.pwr.now } } else d

/-- A sub-channel fenced or put to sleep drops its queues (R406): reads complete with poison, writes are discarded. -/
def dropSub (d : Dev) (u : Nat) : Dev :=
  let s := subc d u
  let lost := !s.wq.isEmpty
  let d := umod d u fun s => { s with rq := [], flight := [], wq := [], retry := [], replays := [], inRetry := false, mode := .read, panic := false }
  let d := if lost then { d with flt := { d.flt with lossSub := d.flt.lossSub ||| BitVec.ofNat 32 (2 ^ u) } } else d
  (s.flight ++ s.rq).foldl (fun d x => match x.purpose with
    | .req r => serveData d r none false
    | .sander => d) d

/-- Fence a sub-channel (R406). -/
def fenceSub (d : Dev) (u : Nat) : Dev := dropSub (umod d u fun s => { s with fenced := true }) u

/-- The reads that wait for decodes of a quadrant when no pack engine is left (R93). -/
def decodesLost (d : Dev) (q : Nat) : Dev :=
  if packAvailable d q ∨ (quad d q).decodes.isEmpty then d
  else
    let mine (w : Waiting) : Bool := atWait q .decode w
    let sel := d.waits.filter mine
    let d := qmod { d with waits := d.waits.filter fun w => !mine w } q fun s => { s with decodes := [] }
    sel.foldl (fun d w => serveData d w.req none false) (raise0 d (.pack q) 2)

/-- A KIND 2 move that an engine fence abandons (R93): it starts again while it was urgent or a write waits for it. -/
def abandonByFence (d : Dev) (q : Nat) : Dev :=
  match (quad d q).move with
  | none => d
  | some m =>
    let again := m.kind = 2 && (m.urgent || d.waits.any fun w => atWait q .promote w && pageOfLine w.req.line = m.page)
    let d := abandonMove d q false
    if again then qmod d q fun s => { s with urgent := if s.urgent.contains m.page then s.urgent else m.page :: s.urgent } else d

/-- One piece of work of an engine that is fenced (R93). -/
def workFenced (d : Dev) (q : Nat) (w : PackWork) : Dev :=
  match w with
  | .decode page => qmod d q fun s => { s with decodes := mapIf (fun x => x.page = page) (fun x => { x with running := false }) s.decodes }
  | .promotion _ | .dolly _ => abandonByFence d q
  | .job lane => match laneJob d q lane with
    | some j => completeJob (setLane d q lane none) q j 7 0 0 0
    | none => d

/-- Fence pack engine e (R93). -/
def fenceEngine (d : Dev) (q e : Nat) : Dev :=
  let x := (quad d q).engines.getD e {}
  let d := qmod d q fun s => { s with engines := s.engines.set e { fenced := true } }
  let d := (match x.work with
    | some w => [w]
    | none => []).foldl (fun d w => workFenced d q w) d
  let d := (match x.aside with
    | some w => [w]
    | none => []).foldl (fun d w => workFenced d q w) d
  decodesLost d q

/-- The port of a brick as an x16 port's leading or trailing brick (R269). -/
def brickPorts (d : Dev) (b : Nat) : List Nat :=
  if rfld d (.hpt b) .hptCfg 1 0 = 3 then [2 * (b - 1)] else [2 * b, 2 * b + 1]

/-- Take the links of a brick down (R406). -/
def brickDown (d : Dev) (b : Nat) : Dev :=
  if d.marwen.getLsbD b then mwDown d b true else (brickPorts d b).foldl hostDown d

/-- Fence a unit (R406). -/
def fenceUnit (d : Dev) (u : FUnit) (src : Nat) (soft : Bool) : Dev :=
  match u with
  | .none => d
  | .quadrant q => fenceQuad d q src soft
  | .packEngine q e => fenceEngine d q e
  | .sealPipe q k => qmod d q fun s => { s with pipeFenced := s.pipeFenced ||| BitVec.ofNat 4 (2 ^ k.val) }
  | .cluster q => fenceCluster (fencePage d (.nme q) src) q
  | .channel c => dropSub (dropSub (fencePage d (.dmc c) src) (2 * c)) (2 * c + 1)
  | .sub u => fenceSub d u
  | .brick b => brickDown (fencePage d (brickBlock d b) src) b

/-! ## Halt (R399) -/

/-- The first-error record and the ring go to the hold-up area of the flash. -/
def flashRecords (d : Dev) (prev : Nat) : Dev :=
  { d with flash := d.flash ++ [({ prev, records := d.flt.ring, fe := d.flt.fe, time := d.pwr.now } : HoldRec)] }

/-- Every host link goes down and every Marwen port sends DOWN. -/
def allLinksDown (d : Dev) : Dev :=
  (List.range 8).foldl (fun d b => mwDown d b true) ((List.range 16).foldl hostDown d)

/-- Steps 1 and 2 of a halt; in Retain only step 2, which ends it. A hold-up flush does the work of a halt (R460). -/
def haltStart (d : Dev) : Dev :=
  if d.flt.haltOn ∨ d.flt.haltRunning ∨ d.pwr.holdUp then d
  else if d.pwr.mode = .retain then let d := flashRecords d 3; { d with flt := { d.flt with halted := true, haltOn := true } }
  else flashRecords (allLinksDown { d with flt := { d.flt with haltRunning := true } }) 3

/-! ## The end of a step -/

/-- The thermal quadrant fence (R366) flushes normally. -/
def thermalSource : Nat := 6

/-- One owed reaction. -/
def reactOne (d : Dev) (r : React) : Dev :=
  match r with
  | .fence u src => fenceUnit d u src (src = thermalSource)
  | .softFence u => fenceUnit d u 1 true
  | .halt => haltStart d

/-- Run the owed reactions, those that they raise included. -/
def runReacts : Nat → Dev → Dev
  | 0, d => d
  | n + 1, d => match d.react with
    | [] => d
    | r :: rest => runReacts n (reactOne { d with react := rest } r)

/-- Service and Degraded follow the fences (R359). -/
def settleMode (d : Dev) : Dev :=
  let want := if anyFenced d then Mode.degraded else Mode.service
  if (d.pwr.mode = .service ∨ d.pwr.mode = .degraded) ∧ d.pwr.mode ≠ want then
    raiseEvent { d with pwr := { d.pwr with mode := want } } .pwr 0
  else d

/-- The capacity levels follow the free pages (R84, R86). -/
def settleLevels (d : Dev) : Dev :=
  let b := Block.dolly 1
  let was := (List.range 4).map fun q => (quad d q).level
  let now := (List.range 4).map (levelNow d)
  if was = now ∨ d.pwr.mode = .boot ∨ d.pwr.mode = .retain then d
  else
    let d := (List.range 4).foldl (fun d q =>
      qmod d q fun s => { s with level := now.getD q 0, runs := if now.getD q 0 = 0 then s.runs else [] }) d
    let moved (f : Nat → Nat → Bool) : Bool := (List.range 4).any fun q => f (was.getD q 0) (now.getD q 0)
    let d := if moved (fun a b => a = 0 && b ≠ 0) then raiseEvent d b 2 else d
    let d := if moved (fun a b => a ≠ 2 && b = 2) then raiseEvent d b 3 else d
    if now.all (· = 0) then raiseEvent d b 5 else d

/-- Requests that waited for an older write of their line go on once it is done, oldest first. -/
def settleLines : Nat → Dev → Dev
  | 0, d => d
  | n + 1, d => match d.waits.find? fun w => w.wait = .line && !olderWriteOn d w.req with
    | some w => settleLines n (retry d fun x => x.req.id = w.req.id && x.wait = .line)
    | none => d

/-- The end of a step in which something may have asserted. -/
def finish (d : Dev) : Dev :=
  let d := if d.waits.any fun w => w.wait = .line then settleLines d.waits.length d else d
  settleLevels (settleMode (runReacts 64 d))

/-- The next state of a command that changes only the device, and settles. -/
def done (s : State) (d : Dev) : Host.Outcome State Fault Refusal := .next { s with dev := finish d }
/-- The next state of a command that changes nothing. -/
def still (s : State) : Host.Outcome State Fault Refusal := .next s
/-- A command that changes the device only while a condition holds. -/
def doneIf (s : State) (c : Bool) (f : Dev → Dev) : Host.Outcome State Fault Refusal := if c then done s (f s.dev) else still s

end Sys2Proof.Machine
end

