-- ==== Sys2Proof/Machine/MapStage.lean ====
section
/-! DEFINITION. The commands of the map cache and of Stage (03): a map line arrives (R59, R60), a binding ends (R58), a dirty line is
written back (R65, R66), and the flush engine (R69). -/

namespace Sys2Proof.Machine

/-! ## The map cache -/

/-- Pages that a waiting request keeps in the map cache (R62). -/
def mapBusy (d : Dev) (q : Nat) (key : Nat) : Bool :=
  d.waits.any fun w =>
    let page := pageOfLine w.req.line
    homeOf page = q && (localPage page = key || largeKey (localPage page) = key)

/-- The map share's copy of some entries of a map line comes back damaged: their CHECK fails from now on. -/
def damageEntries (d : Dev) (q line8 : Nat) (bad : BitVec 8) : Dev :=
  (List.range 8).foldl (fun d i =>
    let lp := line8 * 8 + i
    if bad.getLsbD i ∧ entryGood d (pageOfLocal q lp) (shareEntry d q lp) then putShare d q lp (shareEntry d q lp ^^^ BitVec.ofNat 64 (2 ^ 56)) else d) d

/-- Install the large entry of a whole frame (R60). Its frame heat starts as the arriving entry's HEAT. -/
def installLarge (d : Dev) (q lp : Nat) (e : DWord) : Dev :=
  if (rget d (.map q) .mapCfg).getLsbD 0 ∧ wholeOf e ∧ tierOf e = .open_ then
    (mapInstall d q (largeSet lp) (largeKey lp) (.large (mpnOf e - lp % 512) (heatOf e) false) (mapBusy d q)).getD d
  else d

/-- Install one entry of an arriving map line. -/
def installSmall (d : Dev) (q lp : Nat) : Option Dev :=
  let e := shareEntry d q lp
  match mapInstall d q (mapSet lp) lp (.small e false) (mapBusy d q) with
  | some d => some (installLarge d q lp e)
  | none => none

/-- The map line that was asked for first arrives (R59): its requested entries are installed, the others where PREFETCH asks for
them. Where a requested entry finds every way excluded, the fill waits. -/
def mapFill (d : Dev) (q : Nat) (bad : BitVec 8) : Dev :=
  match (quad d q).miss with
  | [] => d
  | l :: rest =>
    let here (w : Waiting) : Bool := atWait q .map w && localPage (pageOfLine w.req.line) / 8 = l
    let wanted (i : Nat) : Bool := d.waits.any fun w => here w && localPage (pageOfLine w.req.line) % 8 = i
    let d1 := damageEntries d q l bad
    let r := (List.range 8).foldl (fun (a : Option Dev) i =>
      match a with
      | none => none
      | some d =>
        if wanted i then installSmall d q (l * 8 + i)
        else if (rget d (.map q) .mapCfg).getLsbD 1 then some ((installSmall d q (l * 8 + i)).getD d)
        else some d) (some d1)
    match r with
    | none => d1
    | some d => retry (qmod d q fun s => { s with miss := rest }) here

def execMapLineFill (q : Fin 4) (bad : BitVec 8) (s : State) : Host.Outcome State Fault Refusal :=
  doneIf s (!(quad s.dev q).miss.isEmpty) fun d => mapFill d q bad

/-- The oldest binding of the quadrant ends (R58). -/
def bindComplete (d : Dev) (q : Nat) : Dev :=
  match (quad d q).binds with
  | [] => d
  | (page, mpn) :: _ => retry (bindDone d page mpn) fun w => atWait q .bind w && pageOfLine w.req.line = page

def execPageBindComplete (q : Fin 4) (s : State) : Host.Outcome State Fault Refusal :=
  doneIf s (!(quad s.dev q).binds.isEmpty) fun d => bindComplete d q

/-! ## Write-back (R65, R66) -/

/-- Charge a write-back of an allocation at the DRAM gate: never held (R238). -/
def wbCharge (d : Dev) (q : Nat) (cls : Option Nat) : Dev :=
  match cls with
  | none => d
  | some c =>
    let g := (quad d q).gate
    let t := tabGet 0 g.tokens c
    let used := { g with used := tabMod 0 g.used c (· + 64) }
    let g' := if 0 < t then { g with tokens := tabPut 0 g.tokens c (t - 64) }
      else if ¬ d.reg.oversub ∧ 0 < g.pool then { used with pool := g.pool - 64 } else used
    countClass (qmod d q fun s => { s with gate := g' }) c 0 64

/-- Write one line back to where its page is (R66): none while it must wait for the Wet edge, the Seal pipelines, the write queue or a tag. -/
def writeBack (d : Dev) (line : Nat) (data : Line) : Option Dev :=
  let page := pageOfLine line
  let q := homeOf page
  let e := entryNow d page
  match tierOf e with
  | .open_ =>
    if zoneOf d page = .wait ∨ (needsSeal d page ∧ sealDown d q) ∨ ¬ lineRoom d line e then none
    else some (storeOpenLine d line e data)
  | .span =>
    match mwRequest d (peerId e) 0x46 (spanSlate d) (peerAddr d line + 2 ^ 63) (lineSlots data) .note with
    | none => none
    | some d => some (match moveOn d page with
      | some m => if m.kind = 3 then qmod d q fun s => { s with move := some { m with recopy := m.recopy ||| BitVec.ofNat 64 (2 ^ (line % 64)) } } else d
      | none => d)
  | .packed | .unbacked => some d

/-- The oldest entry of the write-back buffer that can go is written back. -/
def writeBackNext (d : Dev) (q : Nat) : Dev :=
  let r := (quad d q).wb.findSome? fun w => (writeBack d w.line w.data).map fun d' => (w, d')
  match r with
  | none => d
  | some (w, d) =>
    let d := wbCharge (qmod d q fun s => { s with wb := s.wb.filter fun x => x.line ≠ w.line }) q w.cls
    retry d fun x => atWait q .stage x

def execStageWriteBack (q : Fin 4) (s : State) : Host.Outcome State Fault Refusal :=
  doneIf s (!(quad s.dev q).wb.isEmpty) fun d => writeBackNext d q

/-! ## The flush engine (R69) -/

/-- The lines of Stage that a flush covers, with their data and whether they are dirty. -/
def coveredLines (s : Quad) (f : Flush) : List (Nat × Line × Bool) :=
  let inR (line : Nat) : Bool := f.op = 3 || (decide (f.lo ≤ frameOf (pageOfLine line)) && decide (frameOf (pageOfLine line) < f.hi))
  ((s.stage.flatMap fun e => e.2.ways.map fun w => (w.2.1, w.2.2.data, w.2.2.dirty))
    ++ s.wb.map fun w => (w.line, w.data, true)).filter fun x => inR x.1

/-- A line after its write-back by a flush: kept clean for OP 2 in an enabled way, else invalid. -/
def flushedLine (d : Dev) (op line : Nat) : Dev :=
  let q := homeOf (pageOfLine line)
  let d := qmod d q fun s => { s with wb := s.wb.filter fun w => w.line ≠ line }
  match stageWay d line with
  | some (w, x) =>
    if op = 2 ∧ wayEnabled d q (stageSet line) w then stageMod d line fun a => asSet a line { x with dirty := false }
    else stageMod d line fun a => asDel a line
  | none => d

/-- Whether a flush discards what it finds: that of a range in Flushing (R136). -/
def Flush.discards (f : Flush) : Bool :=
  match f.by_ with
  | .range _ => true
  | .software | .hardware => false

/-- A flush reaches a covered line: a locked line, and a dirty line that cannot be written now, is left for later. -/
def flushCovered (d : Dev) (f : Flush) (x : Nat × Line × Bool) : Dev :=
  let q := homeOf (pageOfLine x.1)
  let later (d : Dev) : Dev := qmod d q fun s => { s with lockedFlush := s.lockedFlush ++ [x.1] }
  if (quad d q).trans.any (fun t => t.line = x.1) then later d
  else if f.discards then stageDrop d x.1
  else if ¬ x.2.2 then flushedLine d f.op x.1
  else if (edgeStep d (pageOfLine x.1)).isSome ∧ ¬ sealDown d q then flushedLine (writeBackOpen d x.1 x.2.1) f.op x.1
  else match writeBack d x.1 x.2.1 with
    | some d => flushedLine d f.op x.1
    | none => later d

/-- Run a flush over the lines present now. -/
def flushRun (d : Dev) (q : Nat) (f : Flush) : Dev :=
  (coveredLines (quad d q) f).foldl (fun d x => flushCovered d f x) (qmod d q fun s => { s with flush := some f, lockedFlush := [] })

/-- A START of software: ignored while a flush runs; OP 0 changes nothing. -/
def flushStart (d : Dev) (q op : Nat) : Dev :=
  let b := Block.stage q
  if (quad d q).flush.isSome then rput d b .stageFlushStat (rget d b .stageFlushStat ||| 4)
  else if op = 0 then d
  else
    let lo := rfld d b .stageFlushBase 23 0
    flushRun d q { op, lo, hi := lo + rfld d b .stageFlushLen 24 0, by_ := .software }

/-- A line that a flush left locked is written back once its lock clears. -/
def lockedFlushed (d : Dev) (q line : Nat) : Dev :=
  match (quad d q).flush with
  | none => d
  | some f =>
    let drop (d : Dev) : Dev := qmod d q fun s => { s with lockedFlush := s.lockedFlush.filter fun l => l ≠ line }
    if ¬ (quad d q).lockedFlush.contains line ∨ (quad d q).trans.any (fun t => t.line = line) then d
    else match stageFind d line with
      | none => drop d
      | some x =>
        if f.discards then stageDrop (drop d) line
        else if ¬ stageDirty d line then flushedLine (drop d) f.op line
        else match writeBack d line x with
          | some d => flushedLine (drop d) f.op line
          | none => d

def execLockedLineFlush (q : Fin 4) (line : LineNo) (s : State) : Host.Outcome State Fault Refusal :=
  doneIf s ((quad s.dev q).lockedFlush.contains line.toNat) fun d => retry (lockedFlushed d q line.toNat) fun w => atWait q .stage w

/-- A flush has no line left: BUSY returns to 0, a software flush sets DONE, a range's flush is noted, and a waiting hardware flush starts. -/
def flushEnd (d : Dev) (q : Nat) : Dev :=
  match (quad d q).flush with
  | none => d
  | some f =>
    if ¬ (quad d q).lockedFlush.isEmpty then d
    else
      let b := Block.stage q
      let d := if f.by_ = .software then rput d b .stageFlushStat (rget d b .stageFlushStat ||| 2) else d
      let d := match f.by_ with
        | .range r => { d with ranges := tabMod {} d.ranges r fun x => { x with flushed := x.flushed ||| BitVec.ofNat 4 (2 ^ q) } }
        | .software | .hardware => d
      let d := qmod d q fun s => { s with flush := none }
      match (quad d q).flushQ with
      | [] => d
      | g :: rest => flushRun (qmod d q fun s => { s with flushQ := rest }) q g

def execFlushDone (q : Fin 4) (s : State) : Host.Outcome State Fault Refusal :=
  doneIf s ((quad s.dev q).flush.isSome && (quad s.dev q).lockedFlush.isEmpty) fun d => retry (flushEnd d q) fun w => atWait q .stage w

end Sys2Proof.Machine
end

