-- ==== Sys2Proof/Machine/Tiering.lean ====
section
/-! DEFINITION. Tiering and elastic capacity (04): heat epochs and the demotion scan (R75, R76), the choice and the steps of Dolly
moves (R77 to R82), offers and release requests (R85, R86), and writes that wait for room (R86). -/

namespace Sys2Proof.Machine

/-! ## Heat (R75, R76) -/

/-- Halve the heat a map-cache entry holds. -/
def halveEnt (v : MapEnt) : MapEnt :=
  match v with
  | .small e _ => if heatOf e = 0 then v else .small (withHeat e (heatOf e / 2)) true
  | .large b h dirty => .large b (h / 2) (dirty || h ≠ 0)

/-- Every quadrant halves its cached heats (R75). -/
def epochBoundary (d : Dev) : Dev :=
  let halve (w : ASet MapEnt) : ASet MapEnt := { w with ways := w.ways.map fun x => (x.1, x.2.1, halveEnt x.2.2) }
  (List.range 4).foldl (fun d q => qmod d q fun s => { s with mapSets := s.mapSets.map fun e => (e.1, halve e.2) }) d

def execEpochBoundary (s : State) : Host.Outcome State Fault Refusal := done s (epochBoundary s.dev)

/-- The listing condition of the demotion list for an entry with a heat (R76, R96). -/
def demotable (d : Dev) (page : Nat) (e : DWord) (h : Nat) : Bool :=
  match tierOf e with
  | .open_ => decide (h ≤ rfld d (.dolly 0) .dolly0HeatCfg 9 4)
  | .packed => (rget d (.dolly 0) .dolly0Cfg).getLsbD 1 && decide (h ≤ rfld d (.dolly 0) .dolly0HeatCfg 21 16)
      && !(quad d (homeOf page)).failedPages.contains page
  | .unbacked | .span => false

/-- One entry that the demotion scan passes (R75, R76). -/
def scanEntry (d : Dev) (q lp : Nat) : Dev :=
  let page := pageOfLocal q lp
  let list (d : Dev) (e : DWord) (h : Nat) : Dev :=
    let s := quad d q
    if demotable d page e h ∧ ¬ s.demo.contains page ∧ ¬ s.promo.contains page ∧ s.demo.length < 512 then
      qmod d q fun s => { s with demo := s.demo ++ [page] }
    else d
  match mapHit d page with
  | some e => list d e (heatOf e)
  | none =>
    let e := shareEntry d q lp
    let h := heatOf e / 2
    list (if heatOf e = 0 then d else putShare d q lp (withHeat e h)) e h

/-- Local pages of a quadrant's map share. -/
def localPages (d : Dev) (q : Nat) : Nat := limitPages d q / 4

/-- The scan passes one map line of the quadrant (R75). -/
def demotionScan (d : Dev) (q : Nat) : Dev :=
  let at_ := (quad d q).scanPos
  let d := (List.range 8).foldl (fun d i => scanEntry d q (at_ * 8 + i)) d
  qmod d q fun s => { s with scanPos := if (at_ + 1) * 8 < localPages d q then at_ + 1 else 0 }

/-- Whether Dolly starts anything: its page Rolling, the quadrant up, requests admitted (R39, R361, R406). -/
def dollyRuns (d : Dev) (q : Nat) : Bool := (pget d (.dolly 0)).run = .rolling && quadOpen d q && !quadFenced d q && admitting d

/-- Whether the Gaffer has granted item `k` of R364. -/
def granted (d : Dev) (k : Nat) : Bool := d.gaffer.grants.getLsbD (k - 1)

def execDemotionScan (q : Fin 4) (s : State) : Host.Outcome State Fault Refusal :=
  doneIf s (dollyRuns s.dev q && granted s.dev 4 && decide (0 < localPages s.dev q)) fun d => demotionScan d q

/-! ## Starting a move (R77, R80 step 1) -/

/-- Write back a page's dirty Stage lines, keeping them valid; lines that cannot go now stay dirty. -/
def cleanPage (d : Dev) (page : Nat) : Dev :=
  (List.range 64).foldl (fun d i =>
    let line := page * 64 + i
    match stageFind d line with
    | none => d
    | some x => if stageDirty d line then match writeBack d line x with
        | some d => flushedLine d 2 line
        | none => d
      else d) d

/-- Whether a page has a dirty line in Stage. -/
def pageDirty (d : Dev) (page : Nat) : Bool := (List.range 64).any fun i => stageDirty d (page * 64 + i)

/-- Send for the lines of a mask of a Span page with RDCUR, as far as tags go; the rest stays to be sent (R327). -/
def askLines (d : Dev) (q peer ppage : Nat) (mask : DWord) : Dev :=
  let d := qmod d q fun s => { s with move := s.move.map fun m => { m with todo := 0 } }
  (List.range 64).foldl (fun d i =>
    if ¬ mask.getLsbD i then d
    else match mwRequest d peer 0x42 (spanSlate d) (ppage * 4096 + i * 64) [] (.dolly q i) with
      | some d => d
      | none => qmod d q fun s => { s with move := s.move.map fun m => { m with todo := m.todo ||| BitVec.ofNat 64 (2 ^ i) } }) d

/-- Send the lines of a mask of a page to its peer with WRC, as far as tags go (R327). -/
def sendLines (d : Dev) (q peer ppage : Nat) (lines : List Line) (mask : DWord) : Dev :=
  let d := qmod d q fun s => { s with move := s.move.map fun m => { m with todo := 0 } }
  (List.range 64).foldl (fun d i =>
    if ¬ mask.getLsbD i then d
    else match mwRequest d peer 0x44 (spanSlate d) (ppage * 4096 + i * 64) (lineSlots (lines.getD i 0)) (.dolly q i) with
      | some d => d
      | none => qmod d q fun s => { s with move := s.move.map fun m => { m with todo := m.todo ||| BitVec.ofNat 64 (2 ^ i) } }) d

/-- Step 1 of R80: MOVING is set in the cached entry. -/
def startMove (d : Dev) (q kind : Nat) (urgent : Bool) (page : Nat) : Dev :=
  let lp := localPage page
  let d := clearWhole d page
  let e := entryNow d page
  let d := match smallEntry d q lp with
    | some _ => d
    | none => (mapInstall d q (mapSet lp) lp (.small e false) (mapBusy d q)).getD d
  let d := setEntry d page (withMoving e true)
  let m : Move := { kind, urgent, page, oldEntry := e, newEntry := unbackedEntry, phase := .started, recopy := 0, data := List.replicate 64 0, bad := [], first := d.nextId }
  let d := qmod d q fun s => { s with move := some m, moveSeq := s.moveSeq + 1 }
  match kind with
  | 0 => cleanPage d page
  | 3 => askLines d q (peerId e) (peerPage e) (BitVec.allOnes 64)
  | _ => d

/-- Whether an urgent promotion of a page may start now (R78, R86, R93, R141). -/
def urgentReady (d : Dev) (q page : Nat) : Bool :=
  tierOf (entryNow d page) = .packed && zoneOf d page ≠ .wait && hasRoom d q && packAvailable d q

/-- The oldest promotion that may be moved now: pages whose state has changed are dropped, pages under a sweep go to the tail, and
pages that need an engine are passed over while none is available (R76, R77, R93). -/
def nextPromotion (d : Dev) (q : Nat) : Dev × Option Nat :=
  let live := (quad d q).promo.filter fun p => let t := tierOf (entryNow d p); t = .packed || t = .span
  let (swept, free) := live.partition (underSweep d)
  let pick := free.find? fun p => tierOf (entryNow d p) = .span || packAvailable d q
  (qmod d q fun s => { s with promo := (free.filter fun p => some p ≠ pick) ++ swept }, pick)

/-- The oldest demotion that may be moved now (R76, R77, R93). -/
def nextDemotion (d : Dev) (q : Nat) : Dev × Option Nat :=
  let live := (quad d q).demo.filter fun p => demotable d p (entryNow d p) (heatNow d p)
  let (swept, free) := live.partition (underSweep d)
  let pick := if packAvailable d q then free.head? else none
  (qmod d q fun s => { s with demo := (free.filter fun p => some p ≠ pick) ++ swept }, pick)

/-- The KIND of a promotion or demotion of an entry (R79). -/
def moveKind (e : DWord) (promote : Bool) : Nat :=
  match tierOf e with
  | .open_ => 0
  | .packed => if promote then 2 else 1
  | .span => 3
  | .unbacked => 0

/-- The local rule of R77 on a quadrant without a move. -/
def chooseMove (d : Dev) (q : Nat) : Dev :=
  let d := qmod d q fun s => { s with urgent := s.urgent.filter fun p => tierOf (entryNow d p) = .packed }
  match (quad d q).urgent.find? (urgentReady d q) with
  | some page =>
    startMove (qmod d q fun s => { s with urgent := s.urgent.filter (· ≠ page), promo := s.promo.filter (· ≠ page) }) q 2 true page
  | none =>
    if ¬ granted d 4 ∨ ¬ (rget d (.dolly 0) .dolly0Cfg).getLsbD 0 then d
    else
      let (d, p) := if levelNow d q = 0 then nextPromotion d q else (d, none)
      match p with
      | some page => startMove d q (moveKind (entryNow d page) true) false page
      | none =>
        let (d, p) := if levelNow d q ≠ 2 then nextDemotion d q else (d, none)
        match p with
        | some page => startMove d q (moveKind (entryNow d page) false) false page
        | none => d

def execDollyMoveStart (q : Fin 4) (s : State) : Host.Outcome State Fault Refusal :=
  doneIf s (dollyRuns s.dev q && (quad s.dev q).move.isNone) fun d => chooseMove d q

/-! ## The source is read, the destination taken (R80 steps 2 and 3) -/

/-- The journal entry of a move (R82). -/
def journalPut (d : Dev) (q : Nat) (m : Move) (phase : Nat) : Dev :=
  qmod d q fun s =>
    let j : DollyJ := { active := true, kind := m.kind, urgent := m.urgent, phase, seq := s.moveSeq, page := m.page, oldEntry := m.oldEntry, newEntry := m.newEntry }
    { s with journal := some j }

/-- Release the engine that worked on a page's move. -/
def releaseEngine (d : Dev) (q page : Nat) : Dev :=
  let free (e : Engine) : Engine :=
    if e.work = some (.dolly page) ∨ e.work = some (.promotion page) then { e with work := none, lastJob := false } else e
  qmod d q fun s => { s with engines := s.engines.map free }

/-- The destination is taken: the move stands in the journal with PHASE 1. -/
def moveTaken (d : Dev) (q : Nat) (m : Move) (new : DWord) (data : List Line) : Dev :=
  let m := { m with newEntry := new, phase := MPhase.taken, data, ready := true }
  journalPut (qmod (releaseEngine d q m.page) q fun s => { s with move := some m }) q m 1

/-- Whether an engine of the quadrant works on the page's move. -/
def engineOn (d : Dev) (q page : Nat) : Bool :=
  (quad d q).engines.any fun e => e.work = some (.dolly page) || e.work = some (.promotion page)

/-- Whether a write of the page that arrived before MOVING was set is still on its way (R80, R469). -/
def olderWrites (d : Dev) (m : Move) : Bool :=
  let wr (r : Req) : Bool := pageOfLine r.line = m.page && r.id < m.first && r.op ≠ .read && r.op ≠ .none
  d.waits.any (fun w => wr w.req) || !(readQueued d wr).isEmpty

/-- The plaintext lines of an Open page as its move reads them: none where one is poisoned. -/
def openLines (d : Dev) (page : Nat) (e : DWord) : Dev × Option (List Line) :=
  (List.range 64).foldl (fun (a : Dev × Option (List Line)) i =>
    let (d, r) := readUnit a.1 .dolly 0 0 page e i (wordAt a.1 (unitLoc a.1 page e i))
    match a.2, r with
    | some l, some x => (d, some (l ++ [unsealLine d (page * 64 + i) x]))
    | _, _ => (d, none)) (d, some [])

/-- Whether the page has a record without a location (R171, R80). -/
def pageMarked (d : Dev) (page : Nat) : Bool := d.poison.any fun r => !r.located && pageOfLine r.line = page

/-- The places of `n` contiguous free slots in the pool pages. -/
def slotPlaces (s : Quad) (n : Nat) : List (Nat × Nat) :=
  s.use.flatMap fun e => match e.2 with
    | .pool m => ((List.range (17 - n)).filter fun f => (List.range n).all fun i => !m.getLsbD (f + i)).map fun f => (e.1, f)
    | _ => []

/-- Take `n` contiguous slots of a pool page, or of a new pool page; any one that fits. -/
def takeSlots (d : Dev) (q n : Nat) : Option (Dev × Nat × Nat) :=
  let use (d : Dev) (mpn f : Nat) : Dev :=
    let old : BitVec 16 := match tabGet MUse.free (quad d q).use mpn with
      | .pool m => m
      | _ => 0
    setUse d q mpn (.pool (old ||| BitVec.ofNat 16 ((2 ^ n - 1) <<< f)))
  match slotPlaces (quad d q) n with
  | [] => match takeAny d q with
    | none => none
    | some (d, mpn) =>
      let f := Config.free (fresh d) % (17 - n)
      some (use (bumpFree d) mpn f, mpn, f)
  | l =>
    let (mpn, f) := l.getD (Config.free (fresh d) % l.length) (0, 0)
    some (use (bumpFree d) mpn f, mpn, f)

/-- The slots' bytes as lines, four to a slot, filled up with zeros. -/
def slotLines (bytes : List Byte) (n : Nat) : List Line := (List.range (4 * n)).map fun i => lineOfBytes bytes (64 * i)

/-- KIND 0: compress the page and take its slots (R80, R105, R107). -/
def packSource (d : Dev) (q : Nat) (m : Move) : Dev :=
  let (d, r) := openLines d m.page m.oldEntry
  match (if pageMarked d m.page then none else r) with
  | none => abandonMove d q true
  | some ls =>
    let bytes := encodePage (rfld d (.pack q) .packCfg 2 2) (ls.flatMap fun x => bytesOf x.toNat 64)
    let n := (bytes.length + 255) / 256
    if 3584 < bytes.length ∨ n = 0 then abandonMove d q true
    else match takeSlots d q n with
      | none => abandonMove d q true
      | some (d, mpn, f) => moveTaken d q m (packedEntry mpn f n (heatOf m.oldEntry)) (slotLines bytes n)

/-- Decode the Packed source of a move: none where it failed its check or a unit is lost (R96). -/
def unpackSource (d : Dev) (q : Nat) (m : Move) : Dev × Option (List Line) :=
  let (d, r, n) := decodePacked d .dolly m.page m.oldEntry
  if r.isNone ∧ ¬ (quad d q).failedPages.contains m.page then (packedFail d m.page n, none) else (d, r)

/-- KIND 1: decompress, then ask a peer for a page (R79, R325). Which peer is asked is open. -/
def spanSource (d : Dev) (q : Nat) (m : Move) : Dev :=
  let bad (i : Nat) : Bool :=
    let loc := unitLoc d m.page m.oldEntry i
    match checkUnit d m.page (unitAddr m.page m.oldEntry i) loc (wordAt d loc) with
    | .poison _ _ => true
    | .ok _ _ | .fail _ _ _ => false
  let poisoned := (List.range (unitCount m.oldEntry)).any bad
  if poisoned ∨ pageMarked d m.page then abandonMove d q true
  else
    let (d, r) := unpackSource d q m
    match r, reachable d with
    | none, _ => abandonMove d q true
    | some _, [] => abandonMove d q false
    | some ls, ps =>
      let peer := ps.getD (Config.free (fresh d) % ps.length) 0
      let d := qmod (releaseEngine (bumpFree d) q m.page) q fun s => { s with move := some { m with data := ls, ready := true } }
      match mwRequest d peer 0x05 (spanSlate d) 0 [] (.dolly q 64) with
      | some d => d
      | none => qmod d q fun s => { s with move := some { m with ready := false } }

/-- KIND 2: decompress and take a media page (R80, R96). A failed decode leaves no line. -/
def openSource (d : Dev) (q : Nat) (m : Move) : Dev :=
  if ¬ hasRoom d q then d
  else match takePage d m.page false with
    | none => d
    | some (d, mpn) =>
      let (d, r) := if m.ready then (d, some m.data) else unpackSource d q m
      moveTaken (setUse d q mpn (.open_ m.page)) q m (openEntry mpn (heatOf m.oldEntry)) (r.getD [])

/-- Lines of a move that a peer has not answered for yet. -/
def moveAsking (d : Dev) (q : Nat) : Bool :=
  d.tags.any fun e => match e.2 with
    | some u => !u.held && (match u.use with
      | .dolly k _ => decide (k = q)
      | _ => false)
    | none => false

/-- KIND 3: the peer's lines are in; take a media page (R80). -/
def spanTaken (d : Dev) (q : Nat) (m : Move) : Dev :=
  if m.todo ≠ 0 then askLines d q (peerId m.oldEntry) (peerPage m.oldEntry) m.todo
  else if moveAsking d q then d
  else match takePage d m.page false with
    | none => d
    | some (d, mpn) => moveTaken (setUse d q mpn (.open_ m.page)) q m (openEntry mpn (heatOf m.oldEntry)) m.data

/-- Steps 2 and 3 of R80, once their conditions hold. -/
def moveSource (d : Dev) (q : Nat) (m : Move) : Dev :=
  match m.kind with
  | 0 =>
    let d := cleanPage d m.page
    if pageDirty d m.page ∨ olderWrites d m ∨ ¬ engineOn d q m.page ∨ (needsSeal d m.page ∧ sealDown d q) then d else packSource d q m
  | 1 => if m.ready ∨ ¬ engineOn d q m.page ∨ (needsSeal d m.page ∧ sealDown d q) then d else spanSource d q m
  | 2 => if (¬ m.ready ∧ ¬ engineOn d q m.page) ∨ (needsSeal d m.page ∧ sealDown d q) then d else openSource d q m
  | _ => spanTaken d q m

def execMoveSourceReady (q : Fin 4) (s : State) : Host.Outcome State Fault Refusal :=
  match (quad s.dev q).move with
  | some m => if m.phase = .started then done s (moveSource s.dev q m) else still s
  | none => still s

/-! ## The destination is written, the switch (R80 steps 4 and 5) -/

/-- Write the slots of a Packed destination (R129, R130). -/
def storePacked (d : Dev) (page : Nat) (e : DWord) (lines : List Line) : Dev :=
  let d := (List.range (slotCount e)).foldl (fun d i =>
    let plain : BitVec 2048 := BitVec.ofNat 2048 (ofBytes ((List.range 4).flatMap fun k => bytesOf (lines.getD (4 * i + k) 0).toNat 64))
    let c : BitVec 2048 := match slotOf d page with
      | some k => Config.xtsEncSlot (xtsKey d k) (tweakSlot page i k) plain
      | none => plain
    (List.range 4).foldl (fun d k =>
      let u := 4 * i + k
      pushWrite d (unitLoc d page e u) (storeWord d page (unitAddr page e u) (slotOf d page) ((c >>> (512 * k)).setWidth 512))) d) d
  if linedOf d page then parityFresh d page e else d

/-- Step 5 of R80: the entry switches, the map line and then the journal are written. -/
def moveSwitch (d : Dev) (q : Nat) (m : Move) : Dev :=
  let d := setEntryThrough d m.page m.newEntry
  let m := { m with phase := MPhase.switched }
  journalPut (qmod d q fun s => { s with move := some m }) q m 2

/-- A page that a move made Open: failed and poisoned lines get poison words and records, marks are settled (R80, R96, R171). -/
def storeOpened (d : Dev) (m : Move) : Dev :=
  let e := m.newEntry
  if m.data.isEmpty then
    (addPoison ((List.range 64).foldl (fun d i => poisonUnit d m.page e i) d) (m.page * 64) 64 .internal).1
  else
    let d := storePage d m.page e fun i => m.data.getD i 0
    m.bad.foldl (fun d i => (addPoison (poisonUnit d m.page e i) (m.page * 64 + i) 1 .internal).1) d

/-- A page has become Open: its decodes end, and what waited for it goes on. -/
def openedRetry (d : Dev) (q page : Nat) : Dev :=
  let d := qmod d q fun s => { s with
    decodes := s.decodes.filter fun x => x.page ≠ page
    failedPages := s.failedPages.filter (· ≠ page)
    engines := s.engines.map fun e => if e.work = some (.decode page) then { e with work := none } else e }
  retry d fun w => w.q.val = q && pageOfLine w.req.line = page && (w.wait = .decode || w.wait = .promote || w.wait = .room)

/-- Steps 4 and 5 of R80. -/
def moveWrite (d : Dev) (q : Nat) (m : Move) : Dev :=
  match m.kind with
  | 0 => leaveOpen (moveSwitch (storePacked d m.page m.newEntry m.data) q m) m.page
  | 1 =>
    if m.todo ≠ 0 then sendLines d q (peerId m.newEntry) (peerPage m.newEntry) m.data m.todo
    else if moveAsking d q then d else moveSwitch d q m
  | 2 => openedRetry (frameWholeSet (settleMarks (moveSwitch (storeOpened d m) q m) m.page m.newEntry) m.page) q m.page
  | _ =>
    if m.recopy ≠ 0 ∨ m.todo ≠ 0 then
      let d := qmod d q fun s => { s with move := some { m with recopy := 0, bad := m.bad.filter fun i => !m.recopy.getLsbD i } }
      askLines d q (peerId m.oldEntry) (peerPage m.oldEntry) (m.recopy ||| m.todo)
    else if moveAsking d q then d
    else openedRetry (frameWholeSet (settleMarks (moveSwitch (storeOpened d m) q m) m.page m.newEntry) m.page) q m.page

def execMoveDestinationWritten (q : Fin 4) (s : State) : Host.Outcome State Fault Refusal :=
  match (quad s.dev q).move with
  | some m => if m.phase = .taken then done s (moveWrite s.dev q m) else still s
  | none => still s

/-! ## Freeing the old location (R80 step 6) -/

/-- Whether a read that was admitted before the switch is still on its way (R80). -/
def oldReads (d : Dev) (m : Move) : Bool :=
  match tierOf m.oldEntry with
  | .open_ => (List.range 32).any fun u => ((subc d u).rq ++ (subc d u).flight).any fun x =>
      pageOfLine x.line = m.page && !isSpare x.loc && locMpn x.loc = mpnOf m.oldEntry
  | .span => d.waits.any fun w => w.wait = .peer && pageOfLine w.req.line = m.page
  | .packed | .unbacked => false

/-- Give a Span page back to its peer: EVC for every line with a peer grant, then PREL (R326). -/
def releaseSpan (d : Dev) (page : Nat) (e : DWord) : Dev :=
  let d := (List.range 64).foldl (fun d i =>
    let line := page * 64 + i
    let x := dirEnt d line
    if x.pg = 0 then d
    else (mwRequest (dirPut d line { x with pg := 0 }) (peerId e) 0x47 (spanSlate d) (peerPage e * 4096 + i * 64) [] .note).getD d) d
  (mwRequest d (peerId e) 0x06 (spanSlate d) (peerPage e * 4096) [] (.release page)).getD d

/-- Step 6 of R80. -/
def moveFree (d : Dev) (q : Nat) (m : Move) : Dev :=
  let d := match tierOf m.oldEntry with
    | .span => releaseSpan d m.page m.oldEntry
    | .open_ | .packed | .unbacked => freePlace d m.page m.oldEntry
  qmod (journalIdle d q) q fun s => { s with move := none }

def execMoveFreeOld (q : Fin 4) (s : State) : Host.Outcome State Fault Refusal :=
  match (quad s.dev q).move with
  | some m => if m.phase = .switched ∧ ¬ oldReads s.dev m then done s (markDecode (moveFree s.dev q m) q) else still s
  | none => still s

/-! ## Elastic capacity (R85, R86) -/

/-- Whether Dolly's capacity page works. -/
def capRuns (d : Dev) : Bool := (pget d (.dolly 1)).run = .rolling && admitting d

/-- The lowest extent of the Dynamic Capacity region that is neither granted nor on offer. -/
def lowestUnoffered (d : Dev) : Option Nat :=
  let busy := sortNat ((d.cap.granted.map (·.1) ++ d.cap.offers.map (·.1)).filter (Config.staticExtents ≤ ·))
  let x := busy.foldl (fun m y => if y ≤ m then m + 1 else m) Config.staticExtents
  if x < rfld d (.map 0) .mapLimit 15 0 then some x else none

/-- The next host in HP order after the last recipient that may receive offers. -/
def nextHost (d : Dev) : Option Nat :=
  ((List.range 16).map fun i => (d.cap.lastHost + 1 + i) % 16).find? fun p =>
    (rget d (.dolly 1) .dolly1CapCfg).getLsbD (16 + p) && (headsOf d).contains p

/-- Whether every quadrant has FREE_PAGES at or above OFFER_PM (R85). -/
def offerRoom (d : Dev) : Bool :=
  (List.range 4).all fun q => decide (physPages d q * rfld d (.dolly 1) .dolly1Marks 29 20 ≤ 1000 * freePages d q) && levelNow d q = 0

/-- Offer the lowest unoffered extent (R85). -/
def extentOffer (d : Dev) : Dev :=
  match (if (rget d (.dolly 1) .dolly1CapCfg).getLsbD 0 ∧ capRuns d ∧ offerRoom d then lowestUnoffered d else none), nextHost d with
  | some x, some p =>
    let c := { d.cap with offers := d.cap.offers ++ [(x, p)], lastHost := p, lastOffer := some d.pwr.now }
    raiseEvent (logEvent { d with cap := c } p 4 (.addCapacity x)) (.dolly 1) 0
  | _, _ => d

def execExtentOffer (s : State) : Host.Outcome State Fault Refusal := done s (extentOffer s.dev)

def execOfferLapse (s : State) : Host.Outcome State Fault Refusal :=
  done s { s.dev with cap := { s.dev.cap with offers := s.dev.cap.offers.drop 1 } }

/-- The most recently granted extent of a host. -/
def newestExtent (d : Dev) (p : Nat) : Option Nat := (d.cap.granted.reverse.find? fun e => e.2 = p).map (·.1)

/-- Ask a host to release its newest extent (R86). -/
def releaseRequest (d : Dev) (p : Nat) : Dev :=
  if ¬ capRuns d ∨ (List.range 4).all (fun q => levelNow d q = 0) ∨ d.cap.release.any (fun r => r.1 = p) then d
  else match newestExtent d p with
    | none => d
    | some x => logEvent { d with cap := { d.cap with release := d.cap.release ++ [(p, x)] } } p 4 (.releaseCapacity x)

def execReleaseCapacityRequest (p : Fin 16) (s : State) : Host.Outcome State Fault Refusal := done s (releaseRequest s.dev p)

/-- A release request ends, answered or lapsed. -/
def releaseEnded (d : Dev) (p : Nat) : Dev :=
  if d.cap.release.any fun r => r.1 = p then
    { d with cap := { d.cap with release := d.cap.release.filter fun r => r.1 ≠ p, lastRelease := (d.cap.lastRelease.filter fun r => r.1 ≠ p) ++ [(p, d.pwr.now)] } }
  else d

def execReleaseRequestLapse (p : Fin 16) (s : State) : Host.Outcome State Fault Refusal := done s (releaseEnded s.dev p)

/-- Make a page Unbacked (R86, R138, R326): its move ends, its Stage lines and records go, its place is freed. -/
def unbindPage (d : Dev) (page : Nat) : Dev :=
  let q := homeOf page
  let d := match moveOn d page with
    | some m => if m.phase = .switched then moveFree d q m else abandonMove d q false
    | none => d
  let d := match (quad d q).binds.find? fun b => b.1 = page with
    | some b => qmod (setUse d q b.2 .free) q fun s => { s with binds := s.binds.filter fun x => x.1 ≠ page }
    | none => d
  let d := clearWhole d page
  let e := entryNow d page
  let d := (List.range 64).foldl (fun d i => stageDrop d (page * 64 + i)) d
  let d := match tierOf e with
    | .span => releaseSpan d page e
    | .open_ => leaveOpen (freePlace d page e) page
    | .packed => freePlace d page e
    | .unbacked => d
  let d := dropPagePoison (setEntry d page unbackedEntry) page
  let d := qmod d q fun s => { s with
    promo := s.promo.filter (· ≠ page), demo := s.demo.filter (· ≠ page), urgent := s.urgent.filter (· ≠ page)
    failedPages := s.failedPages.filter (· ≠ page), decodes := s.decodes.filter fun x => x.page ≠ page
    engines := s.engines.map fun e => if e.work = some (.decode page) then { e with work := none } else e }
  retry d fun w => w.q.val = q && pageOfLine w.req.line = page && (w.wait = .decode || w.wait = .promote || w.wait = .bind)

/-- The pages that hold something, among those that satisfy `p`. -/
def livePages (d : Dev) (p : Nat → Bool) : List Nat :=
  let share := d.mapShare.map fun e => pageOfLocal (e.1 / 2 ^ 32) (e.1 % 2 ^ 32)
  let cached := (List.range 4).flatMap fun q => (quad d q).mapSets.flatMap fun s => s.2.ways.flatMap fun w => match w.2.2 with
    | .small _ _ => [pageOfLocal q w.2.1]
    | .large _ _ _ => framePages (pageOfLocal q ((w.2.1 - 2 ^ 40) * 512))
  let lines := (List.range 4).flatMap fun q => (quad d q).stage.flatMap fun s => s.2.ways.map fun w => pageOfLine w.2.1
  let marks := d.poison.map fun r => pageOfLine r.line
  let binds := (List.range 4).flatMap fun q => (quad d q).binds.map (·.1)
  ((share ++ cached ++ lines ++ marks ++ binds).filter p).foldl (fun l x => if l.contains x then l else l ++ [x]) []

/-- A host has released an extent (R86). -/
def releaseExtent (d : Dev) (extent : Nat) : Dev :=
  let d := (livePages d fun p => extentOf p = extent).foldl unbindPage d
  raiseEvent { d with cap := { d.cap with granted := d.cap.granted.filter fun e => e.1 ≠ extent } } (.dolly 1) 4

/-! ## Writes that wait (R86, R93, R149) -/

/-- Room appears: the writes that wait for it are admitted in arrival order, each while its own room exists. -/
def admitWaiting (d : Dev) (q : Nat) : Dev := retry d fun w => atWait q .room w

def execWriteWaitAdmit (q : Fin 4) (s : State) : Host.Outcome State Fault Refusal :=
  doneIf s (hasRoom s.dev q) fun d => admitWaiting d q

/-- Whether a parked write is under the WAIT_LIMIT timer (R86, R93, R149). -/
def timedWait (d : Dev) (q : Nat) (w : Waiting) : Bool :=
  decide (w.q.val = q) && w.req.op ≠ .read &&
  match w.wait with
  | .room => true
  | .promote => !packAvailable d q || !hasRoom d q
  | .seal | .stage => sealDown d q
  | _ => false

/-- The oldest of some waiting requests. -/
def oldestWait (l : List Waiting) : Option Waiting :=
  l.foldl (fun a w => match a with
    | none => some w
    | some x => if w.req.id < x.req.id then some w else a) none

/-- The oldest write that has waited WAIT_LIMIT ends: it completes, its data is discarded and its line poisoned. Where R171 finds no
place for the record it goes on waiting. -/
def writeTimeout (d : Dev) (q : Nat) : Dev :=
  let b := Block.dolly 1
  match oldestWait (d.waits.filter (timedWait d q)) with
  | some w =>
    let page := pageOfLine w.req.line
    if tierOf (entryNow d page) ≠ .open_ ∧ 4096 ≤ d.poison.length ∧ d.poison.all (fun r => !r.located) then d
    else
      let d := { d with waits := d.waits.filter fun x => x.req.id ≠ w.req.id }
      let (d, hs) := poisonLine d w.req.line .vendor
      let f := finderOf w.req
      let d := raise (rbump d b .dolly1Timeouts) b 0 .none (ctxLine b f (portOf w.req) w.req.slate 0 (w.req.line * 64) 0) false false hs
      finishLost d w.req
  | none =>
    let lanes := (List.range 4).flatMap fun k => ((runningJobs d k).filter fun l => l.2.roomQ = some q).map fun l => (k, l.1, l.2)
    lanes.foldl (fun d l => setLane d l.1 l.2.1 (some { l.2.2 with late := true })) d

def execCapacityWriteTimeout (q : Fin 4) (s : State) : Host.Outcome State Fault Refusal := done s (writeTimeout s.dev q)

end Sys2Proof.Machine
end

