-- ==== Sys2Proof/Machine/PackEngine.lean ====
section
/-! DEFINITION. The pack engines' own choice of work (R92, R243) and the decode of a Packed page (R94 to R96). -/

namespace Sys2Proof.Machine

/-! ## Choosing work (R92) -/

/-- Change an engine of a quadrant. -/
def engMod (d : Dev) (q e : Nat) (f : Engine → Engine) : Dev :=
  qmod d q fun s => { s with engines := s.engines.set e (f (s.engines.getD e {})) }

/-- The Dolly move that waits for an engine: its page, and whether it is urgent. -/
def moveWaiting (d : Dev) (q : Nat) : Option (Nat × Bool) :=
  match (quad d q).move with
  | some m =>
    let held := (quad d q).engines.any fun e =>
      e.work = some (.dolly m.page) || e.work = some (.promotion m.page) || e.aside = some (.dolly m.page) || e.aside = some (.promotion m.page)
    if m.phase = .started ∧ ¬ m.ready ∧ m.kind < 3 ∧ ¬ held then some (m.page, m.urgent) else none
  | none => none

/-- The lowest lane with a PACK or UNPACK job that no engine holds. -/
def jobWaiting (d : Dev) (q : Nat) : Option Nat :=
  ((runningJobs d q).find? fun l =>
    (l.2.op = 7 || l.2.op = 8) && !(quad d q).engines.any fun e => e.work = some (.job l.1) || e.aside = some (.job l.1)).map (·.1)

/-- The start of a waiting page decode; one marked decode-and-promote starts its urgent promotion, if none other runs (R243). -/
def takeDecode (d : Dev) (q e : Nat) (x : Decode) : Dev :=
  let d := engMod d q e fun g => { g with work := some (.decode x.page), aside := g.work }
  let d := qmod d q fun s => { s with decodes := mapIf (fun y => y.page = x.page) (fun y => { y with running := true }) s.decodes }
  if x.promote ∧ (quad d q).move.isNone ∧ tierOf (entryNow d x.page) = .packed then startMove d q 2 true x.page else d

/-- The local rule of R92 for engine `e`. -/
def engineChoose (d : Dev) (q e : Nat) : Dev :=
  let g := (quad d q).engines.getD e {}
  let decoding : Bool := match g.work with
    | some (.decode _) => true
    | _ => false
  match (if decoding then none else (quad d q).decodes.find? fun x => !x.running) with
  | some x => takeDecode d q e x
  | none =>
    if g.work.isSome then d
    else match g.aside with
      | some w => engMod d q e fun g => { g with work := some w, aside := none }
      | none =>
        let take (w : PackWork) (job : Bool) : Dev := engMod d q e fun g => { g with work := some w, lastJob := job }
        match moveWaiting d q, jobWaiting d q with
        | some (page, true), _ => take (.promotion page) false
        | some (page, false), none => take (.dolly page) false
        | some (page, false), some lane => if g.lastJob then take (.dolly page) false else take (.job lane) true
        | none, some lane => take (.job lane) true
        | none, none => d

def execPackEngineSchedule (q : Fin 4) (e : Fin 2) (s : State) : Host.Outcome State Fault Refusal :=
  doneIf s (engAvailable s.dev q e && ((pget s.dev (.pack q)).run = .rolling || (pget s.dev (.pack q)).run = .cutting)) fun d => markDecode (engineChoose d q e) q

/-! ## A page decode ends (R94 to R96) -/

/-- Serve one read that waited for a decode. `n` lines came out good, or all of them. -/
def serveDecoded (d : Dev) (r : Req) (out : Option (List Line)) : Dev :=
  match out with
  | some ls => serveData d r (some (ls.getD (r.line % 64) 0)) false
  | none => serveData d r none false

/-- The decode that engine `e` holds comes to its end. -/
def decodeDone (d : Dev) (q e page : Nat) : Dev :=
  let ent := entryNow d page
  let mine (w : Waiting) : Bool := atWait q .decode w && pageOfLine w.req.line = page
  let readers := (d.waits.filter mine).map (·.req)
  let promote := (quad d q).decodes.any fun x => x.page = page && x.promote
  let known := (quad d q).failedPages.contains page
  let (d, r, n) := decodePacked d .host page ent
  let d := engMod d q e fun g => { g with work := none, lastJob := false }
  let d := qmod { d with waits := d.waits.filter fun w => !mine w } q fun s => { s with decodes := s.decodes.filter fun x => x.page ≠ page }
  let early := (rget d (.pack q) .packCfg).getLsbD 0
  let out (q : Req) : Bool := early && decide (q.line % 64 < n)
  let d := match r with
    | some ls => if (rget d (.pack q) .packCfg).getLsbD 1 then fillDecoded d page ls (page * 64 + 64) else d
    | none => if known then d else packedFail d page ((List.range 64).filter fun i => readers.any fun x => out x && x.line % 64 = i).length
  let d := match moveOn d page with
    | some m => if promote ∧ m.kind = 2 ∧ m.phase = .started then qmod d q fun s => { s with move := some { m with data := r.getD [], ready := true } } else d
    | none => d
  let bytes := (packedUnits d .host page ent).2
  let part : List Line := match r, bytes with
    | some ls, _ => ls
    | none, some us => let o := (decodePageVariant (unsealSlots d page us)).out; (List.range 64).map fun i => lineOfBytes o (64 * i)
    | none, none => []
  readers.foldl (fun d x => serveDecoded d x (if r.isSome ∨ out x then some part else none)) d

def execPackedPageDecode (q : Fin 4) (e : Fin 2) (s : State) : Host.Outcome State Fault Refusal :=
  match ((quad s.dev q).engines.getD e {}).work with
  | some (.decode page) => done s (decodeDone s.dev q e page)
  | _ => still s

end Sys2Proof.Machine
end

