-- ==== Sys2Proof/Machine/Seal.lean ====
section
/-! DEFINITION. Range commands and sweeps (06): accepting and applying a command (R133 to R136), fill sweeps (R137, R138), Repaint
(R139, R140, R143), and the end of a sweep (R142). -/

namespace Sys2Proof.Machine

/-! ## Range commands (R132 to R135) -/

/-- Change a range. -/
def rangeMod (d : Dev) (r : Nat) (f : Range → Range) : Dev := { d with ranges := tabMod {} d.ranges r f }
/-- Change a sweep slot. -/
def sweepMod (d : Dev) (s : Nat) (f : Sweep → Sweep) : Dev := { d with sweeps := tabMod {} d.sweeps s f }
/-- A key slot. -/
def keySlot (d : Dev) (k : Nat) : KeySlot := tabGet {} d.slots k

/-- Whether a range puts a slot in use (R132). -/
def usesSlot (x : Range) (k : Nat) : Bool :=
  (x.state ≠ .unused && x.enc && decide (x.keySlot = k))
  || ((x.state = .flushing || x.state = .filling || x.state = .repainting) && (decide (x.cmd = 3) || decide (x.cmd = 4)) && decide (x.nextSlot = k))
/-- Whether a slot is in use by any range but `but` (R132). -/
def slotInUse (d : Dev) (k : Nat) (but : Nat := 64) : Bool := (List.range 64).any fun r => r ≠ but && usesSlot (range d r) k

/-- The settings staged for a command (R133). -/
def stagedRange (d : Dev) : Range :=
  let b := Block.seal 0
  let cfg := rget d b .sealRangeCfg
  { base := rfld d b .sealRangeBase 23 0, len := rfld d b .sealRangeLen 24 0, keySlot := fld cfg 6 0, nextSlot := fld cfg 14 8, enc := cfg.getLsbD 16,
    tag := cfg.getLsbD 17, debugRd := cfg.getLsbD 18, test := cfg.getLsbD 19, hosts := BitVec.ofNat 16 (rfld d b .sealRangeHosts 15 0) }

/-- A RANGE_CMD is written: it begins, or is refused at once while another runs (R133). -/
def rangeIssue (d : Dev) (op : Nat) : Dev :=
  if d.rangeBusy.isSome then { d with rangeResult := 6 }
  else
    let r := rfld d (.seal 0) .sealRangeSel 5 0
    { d with rangeBusy := some { op, r, new := stagedRange d }, rangeLast := r }

/-- The lowest free sweep slot. -/
def freeSweep (d : Dev) : Option Nat := (List.range 4).find? fun s => !(sweep d s).active

/-- Whether settings lie outside MAP.LIMIT or over another range (R134). -/
def badBounds (d : Dev) (r : Nat) (n : Range) : Bool :=
  n.len = 0 || decide (limitPages d 0 < (n.base + n.len) * 512) || (List.range 64).any fun k =>
    k ≠ r && (range d k).state ≠ .unused && decide (n.base < (range d k).base + (range d k).len) && decide ((range d k).base < n.base + n.len)

/-- The RESULT with which a command is refused, 0 where it is accepted (R134). -/
def rangeRefusal (d : Dev) (c : RangeCmd) : Nat :=
  let x := range d c.r
  let n := c.new
  let nextBad := !(keySlot d n.nextSlot).bound || decide (n.nextSlot = x.keySlot)
  let noSweep := (freeSweep d).isNone
  match c.op with
  | 1 => if x.state ≠ .unused then 1 else if badBounds d c.r n then 2 else if n.enc ∧ ¬ (keySlot d n.keySlot).bound then 3
    else if noSweep then 5 else if n.tag ∧ ¬ n.enc then 7 else 0
  | 2 => if x.state ≠ .active then 1 else if noSweep then 5 else 0
  | 3 => if x.state ≠ .active ∨ ¬ x.enc then 1 else if nextBad then 3 else if slotInUse d x.keySlot c.r then 4 else if noSweep then 5 else 0
  | 4 => if x.state ≠ .active ∨ ¬ x.enc then 1 else if nextBad then 3 else if noSweep then 5 else 0
  | 5 => if x.state = .active ∨ x.state = .filling ∨ x.state = .repainting then 0 else 1
  | _ => 7

/-- The next page of a range homed in a quadrant, from page `p` on; the first page beyond the range where there is none (R140). -/
def nextHomed (x : Range) (q p : Nat) : Nat :=
  let top := (x.base + x.len) * 512
  if top ≤ p then top
  else if homeOf p = q then p
  else match (List.range 8).find? fun i => homeOfFrame (frameOf p + 1 + i) = q with
    | some i => min top ((frameOf p + 1 + i) * 512)
    | none => top

/-- The edges at the start of a sweep, with the quadrants that have nothing to do. -/
def edgesFrom (x : Range) : List Nat := (List.range 4).map fun q => nextHomed x q (x.base * 512)
def doneFrom (x : Range) : BitVec 4 :=
  packN ((List.range 4).filter fun q => nextHomed x q (x.base * 512) = (x.base + x.len) * 512)
where
  packN (l : List Nat) : BitVec 4 := l.foldl (fun a q => a ||| BitVec.ofNat 4 (2 ^ q)) 0

/-- Put the discarding flush of a range on every quadrant's flush engine (R69, R136). -/
def rangeFlush (d : Dev) (r : Nat) : Dev :=
  let x := range d r
  (List.range 4).foldl (fun d q =>
    let f : Flush := { op := 1, lo := x.base, hi := x.base + x.len, by_ := .range r }
    if (quad d q).flush.isSome then qmod d q fun s => { s with flushQ := s.flushQ ++ [f] } else flushRun d q f) d

/-- What waits for a range goes on, where its pages no longer wait. -/
def rangeRetry (d : Dev) (r : Nat) : Dev :=
  retry d fun w => w.wait = .range && rangeOf d (frameOf (pageOfLine w.req.line)) = some r && zoneOf d (pageOfLine w.req.line) ≠ .wait

/-- A sweep that all four quadrants have finished ends (R135, R142). -/
def sweepEnd (d : Dev) (s : Nat) : Dev :=
  let w := sweep d s
  if ¬ w.active ∨ w.qdone ≠ 0xF then d
  else
    let fin (x : Range) : Range :=
      if x.state = .repainting then { x with keySlot := x.nextSlot, state := .active, cmd := 0 }
      else if x.state = .filling then { x with state := if x.cmd = 2 then .unused else .active, cmd := 0 }
      else x
    if (range d w.range).state = .flushing then d
    else rangeRetry (raiseEvent (sweepMod (rangeMod d w.range fin) s fun x => { x with active := false }) (.seal 0) 1) w.range

/-- Drop the directory entries of a range's lines, without snoops (R223). -/
def dirDrop (d : Dev) (x : Range) : Dev :=
  let out (line : Nat) : Bool := decide (x.base ≤ frameOf (pageOfLine line)) && decide (frameOf (pageOfLine line) < x.base + x.len)
  (List.range 4).foldl (fun d q => qmod d q fun s => { s with
    dir := (s.dir.map fun e => (e.1, asDrop out e.2)).filter fun e => e.2 ≠ {} }) d

/-- Apply an accepted command in all quadrants (R134). -/
def rangeApply (d : Dev) (c : RangeCmd) : Dev :=
  let x := range d c.r
  let s := (freeSweep d).getD 0
  let flush (n : Range) : Dev :=
    let n := { n with sweep := s, state := RState.flushing, cmd := c.op, flushed := 0 }
    let d := rangeMod d c.r fun _ => n
    rangeFlush (dirDrop (sweepMod d s fun _ => { range := c.r, active := true }) n) c.r
  match c.op with
  | 1 => flush c.new
  | 2 => flush x
  | 3 => flush { x with nextSlot := c.new.nextSlot }
  | 4 =>
    let n := { x with nextSlot := c.new.nextSlot, sweep := s, state := RState.repainting, cmd := 4 }
    let d := rangeMod d c.r fun _ => n
    sweepEnd (sweepMod d s fun _ => { range := c.r, active := true, repaint := true, qdone := doneFrom n, edge := edgesFrom n }) s
  | _ => rangeMod d c.r fun x => { x with hosts := c.new.hosts, debugRd := c.new.debugRd, test := c.new.test }

/-- The running command completes (R133). -/
def rangeComplete (d : Dev) (c : RangeCmd) : Dev :=
  let res := rangeRefusal d c
  let d := { d with rangeBusy := none, rangeResult := res }
  raiseEvent (if res = 0 then rangeApply d c else d) (.seal 0) 0

def execRangeCmdComplete (s : State) : Host.Outcome State Fault Refusal :=
  match s.dev.rangeBusy with
  | some c => done s (rangeComplete s.dev c)
  | none => still s

/-- Overwrite a slot's key and set it Empty (R132). -/
def zeroise (d : Dev) (k : Nat) : Dev :=
  { d with slots := tabMod {} d.slots k fun x => { x with bound := false, derived := false, key := 0 } }

/-- Flushing ends (R135, R136): RETIRE zeroises the old slot and takes the new one, CLEAR makes the range plaintext, and the fill
sweep begins. -/
def rangeFlushDone (d : Dev) (r : Nat) : Dev :=
  let x := range d r
  let d := if x.cmd = 3 then zeroise d x.keySlot else d
  let n := { x with
    state := RState.filling, keySlot := (if x.cmd = 3 then x.nextSlot else x.keySlot), enc := x.enc && decide (x.cmd ≠ 2), tag := x.tag && decide (x.cmd ≠ 2) }
  let d := rangeMod d r fun _ => n
  let d := sweepMod d x.sweep fun w => { w with edge := edgesFrom n, qdone := doneFrom n, repaint := false }
  sweepEnd (rangeRetry d r) x.sweep

def execRangeFlushDone (r : Fin 64) (s : State) : Host.Outcome State Fault Refusal :=
  doneIf s ((range s.dev r).state = .flushing && (range s.dev r).flushed = 0xF) fun d => rangeFlushDone d r

/-! ## The pages of a sweep -/

/-- The edge page that a sweep slot works on in a quadrant, where there is one. -/
def sweepTarget (d : Dev) (q s : Nat) (repaint : Bool) : Option Nat :=
  let w := sweep d s
  let x := range d w.range
  if w.active ∧ w.repaint = repaint ∧ ¬ w.qdone.getLsbD q ∧ x.state = (if repaint then .repainting else .filling) ∧ ¬ quadFenced d q
  then some (w.edge.getD q 0) else none

/-- Whether a sweep may do a page now: it has the budget, and no move holds the page (R140, R141, R142). -/
def sweepFree (d : Dev) (page : Nat) : Bool :=
  granted d 3 && admitting d && (moveOn d page).isNone && !movingOf (entryNow d page) && !((quad d (homeOf page)).binds.any fun b => b.1 = page)

/-- The edge moves on to the next page of the range (R140 step 5 and 6). -/
def advanceEdge (d : Dev) (q s page : Nat) : Dev :=
  let x := range d (sweep d s).range
  let next := nextHomed x q (page + 1)
  let last := next = (x.base + x.len) * 512
  let d := sweepMod d s fun w => { w with
    edge := w.edge.set q next, qdone := if last then w.qdone ||| BitVec.ofNat 4 (2 ^ q) else w.qdone }
  let d := retry d fun w => w.wait = .range && pageOfLine w.req.line = page
  sweepEnd d s

/-- Write the Repaint journal (R143). -/
def sweepJournal (d : Dev) (q s step page : Nat) (repaint : Bool) : Dev :=
  let r := (sweep d s).range
  let next := nextHomed (range d r) q (page + 1)
  qmod d q fun x => { x with repaintJ := some { step, slot := s, repaint, range := r, seq := x.sweepSeq, page, nextEdge := next } }

/-- A fill sweep does one page (R138). -/
def fillPage (d : Dev) (q s page : Nat) : Dev :=
  let e := entryNow d page
  let d := match tierOf e with
    | .unbacked => d
    | .open_ => storePage d page e fun _ => 0
    | .packed | .span => unbindPage d page
  let d := qmod (dropPagePoison d page) q fun x => { x with sweepSeq := x.sweepSeq + 1 }
  advanceEdge (sweepJournal d q s 2 page false) q s page

/-- Writes of a page that were admitted before and are not yet accepted (R469). -/
def pageWrites (d : Dev) (page : Nat) : Bool :=
  let wr (r : Req) : Bool := pageOfLine r.line = page && r.op ≠ .read && r.op ≠ .none
  d.waits.any (fun w => wr w.req && (w.wait = .stage || w.wait = .seal || w.wait = .dramGate || w.wait = .readQueue)) || !(readQueued d wr).isEmpty

def execFillSweepPage (q s : Fin 4) (st : State) : Host.Outcome State Fault Refusal :=
  match sweepTarget st.dev q s false with
  | some page => doneIf st (sweepFree st.dev page && !pageWrites st.dev page && !(needsSeal st.dev page && sealDown st.dev q)) fun d => fillPage d q s page
  | none => still st

/-- The stored words of a page re-encrypted under the next slot: poison stays poison (R140 step 3). -/
def repaintWords (d : Dev) (page : Nat) (e : DWord) (old next : Nat) : Dev × List (Nat × Stored) :=
  let skim := skimOf d page
  let r := (List.range (unitCount e)).foldl (fun (a : Dev × List (Option Line)) i =>
    let (d, x) := readUnit a.1 .sweep 0 0 page e i (wordAt a.1 (unitLoc a.1 page e i))
    (d, a.2 ++ [x])) (d, [])
  let d := r.1
  let us := r.2
  let slotBits (i : Nat) : BitVec 2048 :=
    let raw : BitVec 2048 := BitVec.ofNat 2048 (ofBytes ((List.range 4).flatMap fun k => bytesOf (((us.getD (4 * i + k) none).getD 0).toNat) 64))
    Config.xtsEncSlot (xtsKey d next) (tweakSlot page i next) (Config.xtsDecSlot (xtsKey d old) (tweakSlot page i old) raw)
  let cipher (i : Nat) (x : Line) : Line :=
    if tierOf e = .packed then (slotBits (i / 4) >>> (512 * (i % 4))).setWidth 512
    else Config.xtsEncLine (xtsKey d next) (tweakLine (page * 64 + i) next) (Config.xtsDecLine (xtsKey d old) (tweakLine (page * 64 + i) old) x)
  (d, us.zipIdx.map fun u => match u.1 with
    | none => (u.2, poisonWord skim)
    | some x => (u.2, storeWord d page (unitAddr page e u.2) (some next) (cipher u.2 x)))

/-- A Repaint takes a page: a page without words in DRAM is passed, another goes to the scratch page (R140 steps 1 to 3). -/
def repaintStart (d : Dev) (q s page : Nat) : Dev :=
  let e := entryNow d page
  let x := range d (sweep d s).range
  match tierOf e with
  | .unbacked | .span => advanceEdge d q s page
  | .open_ | .packed =>
    let (d, ws) := repaintWords d page e x.keySlot x.nextSlot
    qmod d q fun a => { a with sweepSeq := a.sweepSeq + 1, sweepPage := some { slot := s, page, scratch := false, words := ws } }

def execRepaintPageStart (q s : Fin 4) (st : State) : Host.Outcome State Fault Refusal :=
  match sweepTarget st.dev q s true with
  | some page => doneIf st ((quad st.dev q).sweepPage.isNone && sweepFree st.dev page && !pageWrites st.dev page && !sealDown st.dev q) fun d => repaintStart d q s page
  | none => still st

/-- The scratch page is in DRAM: the journal gets STEP 1 (R140 step 3). -/
def scratchDone (d : Dev) (q : Nat) (p : SweepPage) : Dev :=
  let d := qmod d q fun s => { s with sweepPage := some { p with scratch := true } }
  sweepJournal d q p.slot 1 p.page true

def execRepaintScratchWritten (q : Fin 4) (s : State) : Host.Outcome State Fault Refusal :=
  match (quad s.dev q).sweepPage with
  | some p => if p.scratch then still s else done s (scratchDone s.dev q p)
  | none => still s

/-- The words of the scratch page go to the page's place, the journal gets STEP 2, and the edge moves on (R140 steps 4 to 6). -/
def repaintDone (d : Dev) (q : Nat) (p : SweepPage) : Dev :=
  let e := entryNow d p.page
  let d := p.words.foldl (fun d w => pushWrite d (unitLoc d p.page e w.1) w.2) d
  let d := sweepJournal d q p.slot 2 p.page true
  let d := advanceEdge (qmod d q fun s => { s with sweepPage := none }) q p.slot p.page
  if linedOf d p.page then parityFresh d p.page e else d

def execRepaintPageDone (q : Fin 4) (s : State) : Host.Outcome State Fault Refusal :=
  match (quad s.dev q).sweepPage with
  | some p => if p.scratch then done s (repaintDone s.dev q p) else still s
  | none => still s

end Sys2Proof.Machine
end

