-- ==== Sys2Proof/Machine/Dram.lean ====
section
/-! DEFINITION. The DRAM controllers (08) and the upkeep of stored data (07): the scheduler and its page policy (R186 to R191), refresh
and row disturbance (R192 to R194), command retry (R195), self-refresh and power-down (R468, R360), reads coming back, the
Sander (R175 to R177), the Patch table's timers (R178, R179) and region commands (R162). -/

namespace Sys2Proof.Machine

/-! ## Banks (R191, R193, R194) -/

/-- A bank of a sub-channel. -/
def bank (d : Dev) (u i : Nat) : Bank := tabGet {} d.banks (bankKey u i)
/-- Change a bank. -/
def bankMod (d : Dev) (u i : Nat) (f : Bank → Bank) : Dev := { d with banks := tabMod {} d.banks (bankKey u i) f }
/-- Keep an issued command in the retry buffer: the last 64 (R195). -/
def issued (d : Dev) (u : Nat) (c : DCmd) : Dev := umod d u fun s => { s with retry := (s.retry ++ [c]).drop (s.retry.length + 1 - 64) }

/-- The counter of R191 learns from the next activate or hit after a row was left or closed. -/
def bankLearn (b : Bank) (row : Nat) : Bank :=
  if b.settled then b
  else { b with settled := true, ctr := if b.lastRow = some row then min 3 (b.ctr + 1) else b.ctr - 1 }

/-- The smallest count of a tally table, at its lowest entry. -/
def tallyMin (t : List (Nat × Nat)) : Option (Nat × Nat) :=
  t.foldl (fun a e => match a with
    | none => some e
    | some m => if e.2 < m.2 then some e else a) none

/-- Tally an activate of a row (R193). -/
def tallyAdd (t : List (Nat × Nat)) (row : Nat) : List (Nat × Nat) :=
  if t.any fun e => e.1 = row then mapIf (fun e => e.1 = row) (fun e => (e.1, e.2 + 1)) t
  else if t.length < 16 then t ++ [(row, 1)]
  else match tallyMin t with
    | some (r, n) => mapIf (fun e => e.1 = r) (fun _ => (row, n + 1)) t
    | none => t

/-- One activate of a row, tallied and counted for refresh management. -/
def activateOnce (d : Dev) (u i row : Nat) : Dev :=
  bankMod d u i fun b => { b with tally := tallyAdd b.tally row, raa := b.raa + 1 }

/-- The rows whose count has reached TALLY.LIMIT. -/
def tallyFull (d : Dev) (u i : Nat) : Option Nat :=
  ((bank d u i).tally.find? fun e => rfld d (.dmc (u / 2)) .dmcTally 15 0 ≤ e.2).map (·.1)

/-- Refresh the neighbours of a row whose count has reached the limit, before any further activate to the bank (R193). -/
def targetedRefresh (d : Dev) (u i row : Nat) : Dev :=
  let c := u / 2
  let cfg := dimmCfg d c
  let radius := rfld d (.dmc c) .dmcTally 17 16
  let rows := 2 ^ fld cfg 23 19
  let zero (d : Dev) : Dev := bankMod d u i fun b => { b with tally := mapIf (fun e => e.1 = row) (fun e => (e.1, 0)) b.tally }
  let d := if cfg.getLsbD 16 then zero (issued d u (.drfm i row radius))
    else
      let near := ((List.range radius).flatMap fun k => (if k + 1 ≤ row then [row - (k + 1)] else []) ++ [row + (k + 1)]).filter (· < rows)
      near.foldl (fun d r => issued (issued (activateOnce d u i r) u (.activate i r)) u (.precharge i)) (zero d)
  rbump d (.dmc c) .dmcTrefCount

/-- Targeted refreshes as long as some count has reached the limit: each one may bring a neighbour there. -/
def targetedAll : Nat → Dev → Nat → Nat → Dev
  | 0, d, _, _ => d
  | n + 1, d, u, i => match tallyFull d u i with
    | some row => targetedAll n (targetedRefresh d u i row) u i
    | none => d

/-- Activate a row of a closed bank (R191, R193, R194). -/
def activate (d : Dev) (u i row : Nat) : Dev :=
  let d := bankMod (activateOnce d u i row) u i fun b => { bankLearn b row with openRow := some row }
  targetedAll 64 (issued d u (.activate i row)) u i

/-- Precharge a bank. -/
def precharge (d : Dev) (u i : Nat) : Dev :=
  issued (bankMod d u i fun b => { b with openRow := none, lastRow := b.openRow, leftOpen := false }) u (.precharge i)

/-- Whether a bank may take an activate (R194). -/
def mayActivate (d : Dev) (u i : Nat) : Bool := !(dimmCfg d (u / 2)).getLsbD 17 || decide ((bank d u i).raa < Config.raammt)

/-! ## The scheduler (R188, R189, R191) -/

/-- The mode that R188 gives next. -/
def nextMode (d : Dev) (u : Nat) : SMode :=
  let s := subc d u
  let b := Block.dmc (u / 2)
  let w := s.wq.length
  let full := if s.panic then decide (rfld d b .dmcCfg 21 16 < w) else decide (rfld d b .dmcWqHi 6 0 ≤ w)
  match s.mode with
  | .read => if full then .drain else if s.rq.isEmpty ∧ 0 < w then .idleWrite else .read
  | .idleWrite => if full then .drain else if ¬ s.rq.isEmpty ∨ w = 0 then .read else .idleWrite
  | .drain => if w ≤ (if s.panic then rfld d b .dmcWqHi 6 0 else rfld d b .dmcWqLo 6 0) then .read else .drain

/-- Apply R188. -/
def settleSub (d : Dev) (u : Nat) : Dev :=
  let d := panicSettle d u
  umod d u fun s => { s with mode := nextMode d u }

/-- The bank number and row of a place. -/
def bankOf (d : Dev) (loc : Nat) : Nat × Nat := let x := ddrAt d loc; (bankIdx x, x.row)

/-- The choice of R189 among candidates in arrival order, each with its place and how often it was passed. -/
def chooseEnt (d : Dev) (u : Nat) (l : List (Nat × Nat)) : Option Nat :=
  let starve := rfld d (.dmc (u / 2)) .dmcCfg 11 4
  let hit (loc : Nat) : Bool := let b := bankOf d loc; decide ((bank d u b.1).openRow = some b.2)
  match l.find? fun e => starve ≤ e.2 with
  | some e => some e.1
  | none => match l.find? fun e => hit e.1 with
    | some e => some e.1
    | none => l.head?.map (·.1)

/-- Whether a place's bank can take its next command: it is ready under the DIMM's timing, and an activate is allowed. -/
def entReady (d : Dev) (u : Nat) (ready : List Nat) (loc : Nat) : Bool :=
  let b := bankOf d loc
  ready.contains b.1 && ((bank d u b.1).openRow.isSome || mayActivate d u b.1)

/-- The read that read mode issues next, by its place. -/
def chooseRead (d : Dev) (u : Nat) (ready : List Nat) : Option Nat :=
  let s := subc d u
  let cand := s.rq.filter fun x => entReady d u ready x.loc
  let pan := cand.filter (panicRead d)
  chooseEnt d u ((if s.panic ∧ ¬ pan.isEmpty then pan else cand).map fun x => (x.loc, x.passed))

/-- The write that drain or idle writing issues next: not before an earlier read of its line (R187). -/
def chooseWrite (d : Dev) (u : Nat) (ready : List Nat) : Option Nat :=
  let s := subc d u
  chooseEnt d u ((s.wq.filter fun x => entReady d u ready x.loc && !s.rq.any fun r => r.loc = x.loc).map fun x => (x.loc, x.passed))

/-- The policy of R191 once the last request for the open row has issued. -/
def closePolicy (d : Dev) (u i : Nat) : Dev :=
  let s := subc d u
  let b := bank d u i
  let more := (s.rq.map (·.loc) ++ s.wq.map (·.loc)).any fun loc => bankOf d loc = (i, b.openRow.getD 0)
  let policy := rfld d (.dmc (u / 2)) .dmcCfg 1 0
  if more then d
  else if policy = 1 ∨ (policy = 0 ∧ b.ctr < 2) then precharge (bankMod d u i fun b => { b with settled := false }) u i
  else bankMod d u i fun b => { b with settled := false, lastRow := b.openRow, leftOpen := true }

/-- Issue the read of a place: it takes its word from DRAM and goes on its way (R187, R189). -/
def issueRead (d : Dev) (u loc : Nat) : Dev :=
  let i := (bankOf d loc).1
  let s := subc d u
  match s.rq.findIdx? fun x => x.loc = loc with
  | none => d
  | some k =>
    let x := s.rq.getD k { loc, line := 0, purpose := .sander, panic := false }
    let older := (s.rq.take k).map fun y => if (bankOf d y.loc).1 = i then { y with passed := y.passed + 1 } else y
    let d := umod d u fun s => { s with rq := older ++ s.rq.drop (k + 1), flight := s.flight ++ [{ x with word := some (dramGet d loc) }] }
    closePolicy (issued d u (.read loc)) u i

/-- Issue the write of a place. -/
def issueWrite (d : Dev) (u loc : Nat) : Dev :=
  let i := (bankOf d loc).1
  let s := subc d u
  match s.wq.findIdx? fun x => x.loc = loc with
  | none => d
  | some k =>
    let x := s.wq.getD k { loc, word := 0 }
    let older := (s.wq.take k).map fun y => if (bankOf d y.loc).1 = i then { y with passed := y.passed + 1 } else y
    let d := dramWrite (umod d u fun s => { s with wq := older ++ s.wq.drop (k + 1) }) loc x.word
    closePolicy (issued d u (.write loc x.word)) u i

/-- The next command for a request: precharge, activate, or the column command itself. -/
def commandFor (d : Dev) (u loc : Nat) (col : Dev → Dev) : Dev :=
  let (i, row) := bankOf d loc
  match (bank d u i).openRow with
  | some r => if r = row then col (bankMod d u i fun b => bankLearn b row) else precharge d u i
  | none => activate d u i row

/-- One command of the scheduler, then R188 again. -/
def commandIssue (d : Dev) (u : Nat) (ready : List Nat) : Dev :=
  let d := umod (settleSub d u) u fun s => { s with powerDown := s.powerDown && s.rq.isEmpty && s.wq.isEmpty }
  let pick := match (subc d u).mode with
    | .read => (chooseRead d u ready).map fun loc => commandFor d u loc fun d => issueRead d u loc
    | .drain | .idleWrite => (chooseWrite d u ready).map fun loc => commandFor d u loc fun d => issueWrite d u loc
  let d := settleSub (pick.getD d) u
  retry d fun w => w.q.val = u / 8 && (w.wait = .readQueue || w.wait = .stage)

/-- Whether a sub-channel issues commands: not fenced, not in retry, self-refresh or repair, its PHY clocked, its page not Cut. -/
def subRuns (d : Dev) (u : Nat) : Bool :=
  let s := subc d u
  let run := (pget d (.dmc (u / 2))).run
  !subFenced d u && !s.inRetry && !s.selfRefresh && !s.ppr && clocked d (8 + u / 8) && (run = .rolling || run = .cutting)

def execDramCommandIssue (u : Fin 32) (ready : List Nat) (s : State) : Host.Outcome State Fault Refusal :=
  doneIf s (subRuns s.dev u) fun d => commandIssue d u ready

/-! ## Reads come back (R157, R173) -/

/-- A Sander read is checked (R175): never decrypted; a page that has moved or gone on moving meanwhile is passed. -/
def sanderArrived (d : Dev) (x : RdEnt) (w : Stored) (again : Bool := false) : Dev :=
  let page := pageOfLine x.line
  let e := entryNow d page
  let i := x.line % 64
  if unitCount e ≤ i ∨ movingOf e ∨ unitLoc d page e i ≠ x.loc then d
  else if rebuildDue d page e i w ∧ ¬ again then qmod d (homeOf page) fun s => { s with rebuilds := s.rebuilds ++ [{ x with word := some w }] }
  else (readUnit d .sander 0 0 page e i w (tierOf e = .open_ && stageDirty d x.line)).1

/-- The oldest read on its way returns: its word with the errors of DRAM and the channel. -/
def readComplete (d : Dev) (u : Nat) (err : Stored) : Dev :=
  match (subc d u).flight with
  | [] => d
  | x :: rest =>
    let d := umod d u fun s => { s with flight := rest }
    let w := x.word.getD 0 ^^^ err
    let d := match x.purpose with
      | .req r => wordArrived d r w
      | .sander => sanderArrived d x w
    retry d fun a => a.wait = .queue && a.req.line = x.line

def execDramReadComplete (u : Fin 32) (err : Stored) (s : State) : Host.Outcome State Fault Refusal :=
  doneIf s (!(subc s.dev u).flight.isEmpty && !(subc s.dev u).alert) fun d => readComplete d u err

/-! ## Refresh (R192, R194) -/

/-- Refresh some banks of a rank: each counts it, its tally table is cleared after 8,192, and its row closes. -/
def refreshBanks (d : Dev) (u rank : Nat) (sel : Nat → Bool) : Dev :=
  let one (b : Bank) : Bank :=
    let full := decide (8192 ≤ b.refs + 1)
    { b with openRow := none, lastRow := (if b.openRow.isSome then b.openRow else b.lastRow), leftOpen := b.leftOpen && b.openRow.isNone,
             refs := if full then 0 else b.refs + 1, tally := if full then [] else b.tally, raa := b.raa - Config.raaimt }
  (List.range 256).foldl (fun d i => if sel i then bankMod d u (rank * 256 + i) one else d) d

/-- One refresh of a rank: the next bank of each group where the DIMM supports REFsb, else all banks. -/
def refreshOne (d : Dev) (u rank : Nat) : Dev :=
  let n := (subc d u).nextBank.getD rank 0
  let d := issued d u (.refresh rank)
  if Config.dimmRefSb then
    umod (refreshBanks d u rank fun i => i % 4 = n) u fun s => { s with nextBank := s.nextBank.set rank ((n + 1) % 4) }
  else refreshBanks d u rank fun _ => true

/-- A refresh interval of a rank ends: it is postponed while reads wait, within the limits, else it is made up for. -/
def refreshTick (d : Dev) (u rank : Nat) : Dev :=
  let s := subc d u
  let p := s.postponed.getD rank 0
  if ¬ s.rq.isEmpty ∧ p < min (rfld d (.dmc (u / 2)) .dmcCfg 14 12) Config.dimmPostpone then
    umod d u fun s => { s with postponed := s.postponed.set rank (p + 1) }
  else
    let d := (List.range (p + 1)).foldl (fun d _ => refreshOne d u rank) d
    umod d u fun s => { s with postponed := s.postponed.set rank 0 }

def execRefreshDue (u : Fin 32) (rank : Fin 8) (s : State) : Host.Outcome State Fault Refusal :=
  doneIf s (!subFenced s.dev u && !(subc s.dev u).selfRefresh && !(subc s.dev u).alert) fun d => refreshTick d u rank

/-- What MR4 of a rank says (R192). -/
def mr4Read (d : Dev) (u rank : Nat) (twice hot : Bool) : Dev :=
  let b := Block.dmc (u / 2)
  let was := subc d u
  let bit := BitVec.ofNat 8 (2 ^ rank)
  let d := umod d u fun s => { s with
    twice := if twice then s.twice ||| bit else s.twice &&& ~~~bit
    hot := if hot then s.hot ||| bit else s.hot &&& ~~~bit }
  let d := if twice ∧ ¬ was.twice.getLsbD rank then raiseEvent d b 1 else d
  if hot ∧ ¬ was.hot.getLsbD rank then raise d b 2 .none (ctxKind 0 b) true
  else if (subc d (u / 2 * 2)).hot = 0 ∧ (subc d (u / 2 * 2 + 1)).hot = 0 then deassert d b 2
  else d

def execMr4Poll (u : Fin 32) (rank : Fin 8) (twice hot : Bool) (s : State) : Host.Outcome State Fault Refusal :=
  doneIf s (!subFenced s.dev u && !(subc s.dev u).selfRefresh) fun d => mr4Read d u rank twice hot

/-- ZQ calibration changes nothing that the block's registers or its data show (R192). -/
def execZqCalibration (_c : Fin 16) (s : State) : Host.Outcome State Fault Refusal := still s

/-- DQS oscillator tracking changes nothing that the block's registers or its data show (R192). -/
def execDqsOscTracking (_c : Fin 16) (s : State) : Host.Outcome State Fault Refusal := still s

/-- An RFM command to an idle bank that has reached RAAIMT (R194). -/
def rfmIssue (d : Dev) (u i : Nat) : Dev :=
  bankMod (issued d u (.rfm i)) u i fun b => { b with raa := b.raa - Config.raaimt }

def execRfmIssue (u : Fin 32) (bank : Nat) (s : State) : Host.Outcome State Fault Refusal :=
  let b := Sys2Proof.Machine.bank s.dev u bank
  doneIf s (subRuns s.dev u && (dimmCfg s.dev (u / 2)).getLsbD 17 && decide (Config.raaimt ≤ b.raa) && b.openRow.isNone) fun d => rfmIssue d u bank

/-! ## Command retry (R195, R196) -/

/-- Fence a sub-channel that failed three replays in a row. Writes of the replay that DRAM never took are lost. -/
def replayFence (d : Dev) (u : Nat) : Dev :=
  let lost := (subc d u).replays.any fun c => match c with
    | .write _ _ => true
    | _ => false
  let d := if lost then { d with flt := { d.flt with lossSub := d.flt.lossSub ||| BitVec.ofNat 32 (2 ^ u) } } else d
  let b := Block.dmc (u / 2)
  raise (umod d u fun s => { s with alert := false, inRetry := false, failedReplays := 0 }) b 1 (.sub (Fin.ofNat 32 u)) (ctxKind 0 b)

/-- ALERT_N asserts: a replay under way has failed; else the commands of the span before it are to be replayed. -/
def alertAssert (d : Dev) (u span : Nat) : Dev :=
  let s := subc d u
  if s.alert then d
  else if s.inRetry then
    if 3 ≤ s.failedReplays + 1 then replayFence d u
    else umod d u fun s => { s with alert := true, failedReplays := s.failedReplays + 1 }
  else umod d u fun s => { s with alert := true, inRetry := true, failedReplays := 0, replays := s.retry.drop (s.retry.length - span) }

def execAlertNAssert (u : Fin 32) (span : Nat) (s : State) : Host.Outcome State Fault Refusal :=
  doneIf s (!subFenced s.dev u) fun d => alertAssert d u span

def execAlertNDeassert (u : Fin 32) (s : State) : Host.Outcome State Fault Refusal :=
  doneIf s ((subc s.dev u).alert) fun d => closeBanks (umod d u fun s => { s with alert := false }) u

/-- One replayed command: rows are activated again where it needs them. -/
def replayOne (d : Dev) (u : Nat) (c : DCmd) : Dev :=
  let row (loc : Nat) : Dev :=
    let (i, r) := bankOf d loc
    match (bank d u i).openRow with
    | some x => if x = r then d else activate (precharge d u i) u i r
    | none => activate d u i r
  match c with
  | .activate i r => if (bank d u i).openRow = some r then d else activate d u i r
  | .precharge i => precharge d u i
  | .read loc | .write loc _ => row loc
  | .refresh rank => refreshOne d u rank
  | .rfm i => rfmIssue d u i
  | .drfm _ _ _ | .selfRefresh | .powerDown => d

/-- A replay completes without ALERT_N. -/
def replayDone (d : Dev) (u : Nat) : Dev :=
  let b := Block.dmc (u / 2)
  let cs := (subc d u).replays
  let d := cs.foldl (fun d c => replayOne d u c) (umod d u fun s => { s with inRetry := false, failedReplays := 0, replays := [] })
  raise0 (rbump d b .dmcCaparCount) b 0

def execCommandReplayDone (u : Fin 32) (s : State) : Host.Outcome State Fault Refusal :=
  doneIf s ((subc s.dev u).inRetry && !(subc s.dev u).alert) fun d => replayDone d u

/-! ## Self-refresh and power-down (R468, R360) -/

/-- Whether the sub-channels are to enter self-refresh: Retain entry, a halt, a warm reset or a hold-up flush (R468). -/
def sleepDue (s : State) : Bool :=
  s.dev.flt.haltRunning || s.dev.pwr.warm.isSome || s.dev.pwr.req = some .retain || s.dev.pwr.holdUp

/-- Precharge every bank and enter self-refresh. -/
def sleepSub (d : Dev) (u : Nat) : Dev :=
  issued (umod (closeBanks d u) u fun s => { s with selfRefresh := true, powerDown := false }) u .selfRefresh

def execSelfRefreshEntry (u : Fin 32) (s : State) : Host.Outcome State Fault Refusal :=
  doneIf s (sleepDue s && !(subc s.dev u).selfRefresh && ((subc s.dev u).wq.isEmpty || subFenced s.dev u)) fun d => sleepSub d u

def execPrechargePowerDown (u : Fin 32) (s : State) : Host.Outcome State Fault Refusal :=
  let x := subc s.dev u
  doneIf s (s.dev.pwr.sub = 2 && x.rq.isEmpty && x.wq.isEmpty && x.flight.isEmpty && subRuns s.dev u)
    fun d => issued (umod (closeBanks d u) u fun s => { s with powerDown := true }) u .powerDown

/-! ## The Sander (R175 to R177) -/

/-- Whether the Sander reads a page on this lap: Open or Packed, not moving, not a Wet edge page. -/
def sanderPage (d : Dev) (page : Nat) : Bool :=
  let e := entryNow d page
  (tierOf e = .open_ || tierOf e = .packed) && !movingOf e && zoneOf d page ≠ .wait

/-- The pages of a quadrant that hold something, in ascending local page number, from `lp` on. -/
def sanderPages (d : Dev) (q lp : Nat) : List Nat :=
  sortNat (((livePages d fun p => homeOf p = q && sanderPage d p).map localPage).filter (lp ≤ ·))

/-- The next read of part 1 of the lap: local page and unit. -/
def sanderNext (d : Dev) (q : Nat) : Option (Nat × Nat) :=
  let s := (quad d q).sander
  match sanderPages d q s.pos with
  | lp :: rest =>
    if lp = s.pos ∧ unitCount (entryNow d (pageOfLocal q lp)) ≤ s.line then rest.head?.map fun l => (l, 0)
    else some (lp, if lp = s.pos then s.line else 0)
  | [] => none

/-- Change the Sander of a quadrant. -/
def sanderMod (d : Dev) (q : Nat) (f : Sander → Sander) : Dev := qmod d q fun s => { s with sander := f s.sander }

/-- The Sander's read of a unit enters the read queue, or takes the word of a queued write (R187). -/
def sanderRead (d : Dev) (q lp i : Nat) : Dev :=
  let page := pageOfLocal q lp
  let e := entryNow d page
  let loc := unitLoc d page e i
  let x : RdEnt := { loc, line := page * 64 + i, purpose := .sander, panic := false }
  let d := sanderMod d q fun s => { s with part := 0, pos := lp, line := i + 1 }
  match (subc d (locSub loc)).wq.find? fun w => w.loc = loc with
  | some w => sanderArrived d x w.word
  | none => umod d (locSub loc) fun s => { s with rq := s.rq ++ [x] }

/-- The parity pair of a Lined page on the lap (R167): rewritten where every unit decodes and it disagrees or cannot be read. -/
def parityScrub (d : Dev) (page : Nat) : Dev :=
  let e := entryNow d page
  match liningBase d page with
  | none => d
  | some base =>
    let us := (List.range (unitCount e)).map fun i => (i, unitBytes d page e i)
    let good := us.filterMap fun u => u.2.map fun x => (u.1, x)
    match parityRead d (parityLoc d page base 0), parityRead d (parityLoc d page base 1) with
    | some p0, some p1 =>
      if good.length = us.length ∧ parityOf good ≠ (p0, p1) then raise0 (parityFresh d page e) (.coat (homeOf page)) 7 else d
    | _, _ => if good.length = us.length then parityFresh d page e else d

/-- The Lined pages still to be checked on this lap. -/
def sanderLined (d : Dev) (q lp : Nat) : List Nat :=
  (sanderPages d q lp).filter fun l => linedOf d (pageOfLocal q l) && !movingOf (entryNow d (pageOfLocal q l))

/-- The end of a lap (R176, R177, R159). -/
def lapEnd (d : Dev) (q : Nat) : Dev :=
  let b := Block.coat q
  let s := (quad d q).sander
  let secs := (d.pwr.now.toNat - s.lapStart.toNat) / 1000000000
  let d := rput d b .coatLapTime (BitVec.ofNat 32 secs)
  let d := qmod d q fun x => { x with devCounts := [], sander := { lapStart := d.pwr.now, laps := s.laps + 1 } }
  raiseEvent (if s.overdue then deassert d b 2 else d) b 0

/-- One read of the Sander: part 1 unit by unit, then the parity of each Lined page, then the end of the lap. The sub-channel's queue
must be empty and not draining, unless the read is forced. -/
def sanderStep (d : Dev) (q : Nat) : Dev :=
  let s := (quad d q).sander
  if s.part = 0 then
    match sanderNext d q with
    | some (lp, i) =>
      let page := pageOfLocal q lp
      let u := locSub (unitLoc d page (entryNow d page) i)
      let x := subc d u
      if x.rq.isEmpty ∧ x.mode ≠ .drain ∧ subRuns d u then sanderRead d q lp i
      else if subFenced d u then sanderMod d q fun s => { s with pos := lp, line := i + 1 }
      else d
    | none => sanderMod d q fun s => { s with part := 1, pos := 0, line := 0 }
  else if s.part = 1 then
    match (if (rget d (.coat q) .coatEccCfg).getLsbD 8 then sanderLined d q s.pos else []) with
    | lp :: _ => parityScrub (sanderMod d q fun s => { s with pos := lp + 1 }) (pageOfLocal q lp)
    | [] => sanderMod d q fun s => { s with part := 2, pos := 0 }
  else lapEnd d q

/-- Whether the Sander of a quadrant works: enabled, granted, its page running (R176, R364). -/
def sanderRuns (d : Dev) (q : Nat) : Bool :=
  (rget d (.coat q) .coatSandCfg).getLsbD 0 && (granted d 5 || ((quad d q).sander.overdue && granted d 2))
    && (pget d (.coat q)).run = .rolling && !quadFenced d q

def execSanderRead (q : Fin 4) (s : State) : Host.Outcome State Fault Refusal :=
  doneIf s (sanderRuns s.dev q) fun d => sanderStep d q

/-- A forced read (R177): the next read of the lap, where it lies on this sub-channel, whatever the queue holds. -/
def forcedRead (d : Dev) (u : Nat) : Dev :=
  let q := u / 8
  if (quad d q).sander.part ≠ 0 then d
  else match sanderNext d q with
    | some (lp, i) =>
      let page := pageOfLocal q lp
      if locSub (unitLoc d page (entryNow d page) i) = u ∧ (subc d u).rq.length < 128 then sanderRead d q lp i else d
    | none => d

def execForcedSanderRead (u : Fin 32) (s : State) : Host.Outcome State Fault Refusal :=
  doneIf s ((quad s.dev (u / 8)).sander.overdue && (rget s.dev (.coat (u / 8)) .coatSandCfg).getLsbD 0 && subRuns s.dev u) fun d => forcedRead d u

/-- The lap has run for LAP_LIMIT.HOURS (R177). -/
def lapOverdue (d : Dev) (q : Nat) : Dev :=
  let b := Block.coat q
  raise (sanderMod d q fun s => { s with overdue := true }) b 2 .none (ctxKind 0 b) true

def execScrubLapOverdue (q : Fin 4) (s : State) : Host.Outcome State Fault Refusal :=
  doneIf s (!(quad s.dev q).sander.overdue && (rget s.dev (.coat q) .coatSandCfg).getLsbD 0) fun d => lapOverdue d q

/-! ## Patch table timers and repair (R178, R179) -/

def execWatchingExpiry (q : Fin 4) (mpa : DWord) (s : State) : Host.Outcome State Fault Refusal :=
  done s (qmod s.dev q fun x => { x with patch := x.patch.filter fun p => !(p.state = .watching && decide (mpaOf s.dev p.loc = mpa.toNat)) })

/-- The soft repair of a sub-channel's hard line ends: recorded, the bank group's resource used, the entry freed, and the
sub-channel takes requests again. -/
def pprDone (d : Dev) (u : Nat) : Dev :=
  let q := u / 8
  let d := umod d u fun s => { s with ppr := false }
  let d := match (quad d q).patch.find? fun p => p.state = .hard && locSub p.loc = u with
    | none => d
    | some p =>
      let grp := u * 2 ^ 12 + bankIdx (ddrAt d p.loc) / 4
      repairRecord (qmod d q fun s => { s with patch := s.patch.filter (fun x => x.loc ≠ p.loc), pprUsed := s.pprUsed ++ [grp] }) p.loc
  retry d fun w => w.q.val = q && (w.wait = .readQueue || w.wait = .stage)

def execSoftPprDone (u : Fin 32) (s : State) : Host.Outcome State Fault Refusal :=
  doneIf s ((subc s.dev u).ppr) fun d => pprDone d u

/-! ## Region commands (R156, R161 to R163) -/

/-- Whether some page of an extent is backed. -/
def extentBacked (d : Dev) (x : Nat) : Bool :=
  !(livePages d fun p => extentOf p = x && (tierOf (entryNow d p) ≠ .unbacked || (quad d (homeOf p)).binds.any fun b => b.1 = p)).isEmpty

/-- The lowest run of `n` contiguous free media pages of a quadrant. -/
def freeRun (d : Dev) (q n : Nat) : Option Nat :=
  let used := sortNat (usedPages (quad d q))
  let start := used.foldl (fun a m => if m < a then a else if m < a + n then m + 1 else a) 0
  if start + n ≤ physPages d q then some start else none

/-- Whether the profile is allowed (R156): x8 devices need Skim. -/
def profileOk (d : Dev) (skim : Bool) : Bool := skim || !(dimmCfg d 0).getLsbD 2

/-- The RESULT of a SET on an extent. -/
def regionRefusal (d : Dev) (x : Nat) (cfg : Word) : Nat :=
  if rfld d (.map 0) .mapLimit 15 0 ≤ x then 5
  else if extentBacked d x then 1
  else if ¬ profileOk d (cfg.getLsbD 0) then 2
  else if cfg.getLsbD 1 ∧ ¬ (tabGet (false, false) d.regions x).2 ∧ ¬ (List.range 4).all (fun q => (freeRun d q 2048).isSome) then 3
  else 0

/-- Give an extent its Lining areas, or take them back (R162, R163). -/
def liningSet (d : Dev) (x : Nat) (lined : Bool) : Dev :=
  let was := (tabGet (false, false) d.regions x).2
  if lined = was then d
  else (List.range 4).foldl (fun d q =>
    let k := x * 4 + q
    if lined then match freeRun d q 2048 with
      | some base =>
        let d := { d with linings := tabIns d.linings k base }
        (List.range 2048).foldl (fun d i => setUse d q (base + i) (.lining x)) d
      | none => d
    else
      let base := tabGet 0 d.linings k
      let d := { d with linings := tabDel d.linings k }
      (List.range 2048).foldl (fun d i => setUse d q (base + i) .free) d) d

/-- The running region command completes. -/
def regionComplete (d : Dev) (x : Nat) (cfg : Word) : Dev :=
  let res := regionRefusal d x cfg
  let d := { d with regionBusy := none, regionResult := res }
  let d := if res = 0 then
      let d := liningSet d x (cfg.getLsbD 1)
      { d with regions := tabPut (false, false) d.regions x (cfg.getLsbD 0, cfg.getLsbD 1) }
    else d
  raiseEvent d (.coat 0) 2

def execRegionCmdComplete (s : State) : Host.Outcome State Fault Refusal :=
  match s.dev.regionBusy with
  | some (x, cfg) => done s (regionComplete s.dev x cfg)
  | none => still s

/-- The oldest rebuild of the quadrant ends (R166, R173): the rebuilt words are decoded again and written back, or it fails. -/
def rebuildDone (d : Dev) (q : Nat) : Dev :=
  match (quad d q).rebuilds with
  | [] => d
  | x :: rest =>
    let d := qmod d q fun s => { s with rebuilds := rest }
    let w := x.word.getD 0
    let d := match x.purpose with
      | .req r => wordServe d r w
      | .sander => sanderArrived d x w true
    retry d fun a => a.wait = .queue && a.req.line = x.line

def execLiningRebuildDone (q : Fin 4) (s : State) : Host.Outcome State Fault Refusal :=
  doneIf s (!(quad s.dev q).rebuilds.isEmpty) fun d => rebuildDone d q

end Sys2Proof.Machine
end

