-- ==== Sys2Proof/Machine/Cxl.lean ====
section
/-! DEFINITION. Requests of the hosts over CXL.mem and CXL.io (R45, R46, R205, R212, R220, R231, R273, R274, R278, R409), and the
events of the home's transaction table (R209, R213, R217, R219). -/

namespace Sys2Proof.Machine

/-! ## At the port -/

/-- The ingress buffer of a host port in flits: 128 at x4, 256 at x8, 512 at x16 (R278). -/
def ingressCap (d : Dev) (p : Nat) : Nat :=
  match rfld d (.hpt (p / 2)) .hptCfg 1 0 with
  | 1 => 128
  | 2 => 512
  | _ => 256

/-- The port's ingress occupancy and panic after an arrival (R278); the sub-channels follow a change of panic (R190). -/
def hostOcc (d : Dev) (p occ : Nat) : Dev :=
  let cfg := rget d (.hpt (p / 2)) .hptPanic (p % 2)
  let cap := ingressCap d p
  let was := (port d p).panic
  let now := cfg.getLsbD 16 && (if was then !decide (occ * 64 < fld cfg 5 0 * cap) else decide (fld cfg 13 8 * cap < occ * 64))
  let d := portMod d p fun x => { x with occ, panic := now }
  if now = was then d else (List.range 32).foldl panicSettle d

/-- An IDE check fails (R274): the stream is insecure from then on and its traffic dropped, snoops to the port are unanswered. -/
def ideFail (d : Dev) (p : Nat) (mem : Bool) : Dev :=
  let b := Block.hpt (p / 2)
  let d := portMod d p fun x => if mem then { x with ideMem := false, memBroken := true, wasReset := false } else { x with ideIo := false, ioBroken := true, wasReset := false }
  let d := raise d b 1 .none (ctxLink b p 0 0 0 0 0)
  if mem then unansweredAll d p else d

/-- A message of a host reaches its port: none where the link is down or the stream dropped it. -/
def hostGate (d : Dev) (p : Nat) (env : Env) (mem : Bool) : Dev × Bool :=
  let x := port d p
  if ¬ x.up then (d, false)
  else
    let d := countHost (hostOcc d p env.occ) p 5 1
    if (if mem then x.memBroken else x.ioBroken) then (d, false)
    else if ¬ env.ideOk ∧ (if mem then x.ideMem else x.ideIo) then (ideFail d p mem, false)
    else (d, true)

/-- An SRAM error met on a lookup for a line (R62, R68, R224, R233). -/
def sramMet (d : Dev) (line slate : Nat) (e : SramErr) : Dev :=
  let page := pageOfLine line
  let q := homeOf page
  let u := FUnit.quadrant (quadOf q)
  match e with
  | .none => d
  | .stage => match stageWay d line with
    | none => d
    | some (_, x) =>
      if x.dirty then
        let (d, hs) := poisonLine d line .internal
        raise d (.stage q) 0 .none (ctxLine (.stage q) .host 0 slate 0 (line * 64) 0) false false hs
      else stageMod d line fun a => asDel a line
  | .map => match asFind (tabGet {} (quad d q).mapSets (mapSet (localPage page))) (localPage page) with
    | some (_, .small _ true) => raise d (.map q) 1 u (ctxLine (.map q) .host 0 slate 0 (page * 4096) 0)
    | some (_, .small _ false) => qmod d q fun s => { s with mapSets := tabMod {} s.mapSets (mapSet (localPage page)) fun w => asDel w (localPage page) }
    | some (_, .large _ _ _) | none => d
  | .dir => match asFind (tabGet {} (quad d q).dir (dirSet line)) line with
    | none => d
    | some (w, _) =>
      let d := qmod d q fun s => { s with dirBroken := s.dirBroken ++ [(dirSet line, w)], dir := tabMod {} s.dir (dirSet line) fun a => asDel a line }
      raise d (.dir q) 2 u (ctxLine (.dir q) .host 0 slate 0 (line * 64) 0)
  | .slate => if d.ctxBad.contains slate then d
    else raise0 { d with ctxBad := d.ctxBad ++ [slate] } .slate 1

/-- An access outside granted capacity (R46): poison for a read, a completion for a write, nothing done. -/
def outsideAccess (d : Dev) (r : Req) (p : Nat) : Dev :=
  respondLost (raise d .xbar 0 .none (ctxLine .xbar .host p r.slate 0 (r.line * 64) 0)) r

/-- A request whose datapath check or home check failed (R409): poison for a read, the write discarded, the checker raised. -/
def caughtError (d : Dev) (r : Req) (p : Nat) (env : Env) : Dev :=
  let q := lineQuad r.line
  let d := respondLost d r
  if env.misrouted then raise d (.qctl q) 0 .none (ctxLine (.qctl q) .host p r.slate 0 (r.line * 64) 0)
  else raise d (.hpt (p / 2)) 2 (.brick (Fin.ofNat 8 (p / 2))) (ctxChecker (.hpt (p / 2)) 0 (p / 2))

/-- A host request with its line known goes into the device. -/
def hostEnter (d : Dev) (p : Nat) (r : Req) (env : Env) : Dev :=
  let r := { r with id := d.nextId }
  let page := pageOfLine r.line
  if outsideCapacity d p page then outsideAccess d r p
  else if env.misrouted ∨ (env.datapath ∧ r.op = .read) then caughtError d r p env
  else
    let d := sramMet d r.line r.slate env.sram
    let r := if env.datapath then { r with op := .poisonWrite } else r
    let d := arrive d r p
    if env.datapath then raise d (.hpt (p / 2)) 2 (.brick (Fin.ofNat 8 (p / 2))) (ctxChecker (.hpt (p / 2)) 0 (p / 2)) else d

/-! ## CXL.mem -/

/-- A CXL.mem request of a host: decoded (R45), its Slate looked up (R231, R232), sent home. An address that no committed decoder
covers has no DPA: the request ends without effect. -/
def memReq (d : Dev) (p : Fin 16) (tag hpa : Nat) (k : Kind) (op : Op) (keep : Nat) (env : Env) : Dev :=
  match hostGate d p env true with
  | (d, false) => d
  | (d, true) =>
    let d := match op with
      | .read => countHost d p 2 1
      | .write _ | .writePtl _ _ | .poisonWrite => countBw (countHost (countHost d p 3 1) p 1 64) p false 64
      | .atomic _ _ _ _ _ | .none => d
    match hpaToDpa d p hpa with
    | none => respondLost d { id := 0, src := .host p tag, kind := k, op, line := 0, agent := p, keep }
    | some (dpa, _) =>
      let line := dpa / 64
      let r : Req := { id := 0, src := .host p tag, kind := k, op, line, agent := p, keep, slate := fallbackSlate d p (frameOf (pageOfLine line)), panic := (port d p).panic }
      hostEnter d p r env

/-- The kind and the state kept that a MetaValue asks for. -/
def metaKind (m : MetaVal) : Kind := match m with
  | .i => .rc
  | .s => .rs
  | .a => .re
def metaKeep (m : MetaVal) : Nat := match m with
  | .s => 1
  | .i | .a => 0

def execMemRd (p : Fin 16) (tag : Nat) (hpa : BitVec 64) (m : MetaVal) (env : Env) (s : State) : Host.Outcome State Fault Refusal :=
  done s (memReq s.dev p tag hpa.toNat (metaKind m) .read 0 env)

def execMemRdData (p : Fin 16) (tag : Nat) (hpa : BitVec 64) (env : Env) (s : State) : Host.Outcome State Fault Refusal :=
  done s (memReq s.dev p tag hpa.toNat .rs .read 0 env)

def execMemWr (p : Fin 16) (tag : Nat) (hpa : BitVec 64) (m : MetaVal) (data : Line) (poison : Bool) (env : Env) (s : State) :
    Host.Outcome State Fault Refusal :=
  done s (memReq s.dev p tag hpa.toNat .wr (if poison then .poisonWrite else .write data) (metaKeep m) env)

def execMemWrPtl (p : Fin 16) (tag : Nat) (hpa : BitVec 64) (m : MetaVal) (data : Line) (mask : DWord) (env : Env) (s : State) :
    Host.Outcome State Fault Refusal :=
  done s (memReq s.dev p tag hpa.toNat .wr (.writePtl data mask) (metaKeep m) env)

def execMemInv (p : Fin 16) (tag : Nat) (hpa : BitVec 64) (env : Env) (s : State) : Host.Outcome State Fault Refusal :=
  done s (memReq s.dev p tag hpa.toNat .own .none 0 env)

def execMemInvNt (p : Fin 16) (tag : Nat) (hpa : BitVec 64) (env : Env) (s : State) : Host.Outcome State Fault Refusal :=
  done s (memReq s.dev p tag hpa.toNat .own .none 0 env)

def execMemClnEvct (p : Fin 16) (tag : Nat) (hpa : BitVec 64) (env : Env) (s : State) : Host.Outcome State Fault Refusal :=
  done s (memReq s.dev p tag hpa.toNat .evc .none 0 env)

/-- MemSpecRd is a hint (R205): it starts a Stage lookup and is not answered. -/
def specRead (d : Dev) (p : Fin 16) (hpa : Nat) (env : Env) : Dev :=
  match hostGate d p env true with
  | (d, false) => d
  | (d, true) => match hpaToDpa d p hpa with
    | some (dpa, _) => sramMet d (dpa / 64) 0 (if env.sram = .stage then .stage else .none)
    | none => d

def execMemSpecRd (p : Fin 16) (hpa : BitVec 64) (env : Env) (s : State) : Host.Outcome State Fault Refusal :=
  done s (specRead s.dev p hpa.toNat env)

/-! ## CXL.io to the DPA window (R273) -/

/-- The Slate of a CXL.io request (R231). -/
def ioSlate (d : Dev) (p : Nat) (pasid : Option (BitVec 20)) (page : Nat) : Nat :=
  match pasid.bind (pasidSlate d p) with
  | some s => s
  | none => fallbackSlate d p (frameOf page)

/-- One line's part of a CXL.io request. -/
def ioLine (d : Dev) (p : Fin 16) (tag : Nat) (pasid : Option (BitVec 20)) (env : Env) (k : Kind) (op : Op) (line lo n : Nat) : Dev :=
  let r : Req := { id := 0, src := .io p tag lo n, kind := k, op, line, agent := p, slate := ioSlate d p pasid (pageOfLine line), panic := (port d p).panic }
  hostEnter d p r env

/-- A memory read of at most 4 KiB (R273). -/
def ioRead (d : Dev) (p : Fin 16) (tag dpa len : Nat) (pasid : Option (BitVec 20)) (env : Env) : Dev :=
  match hostGate d p env false with
  | (d, false) => d
  | (d, true) =>
    if 4096 < len ∨ 2 ^ 45 < dpa + len then send d (.ioUr p tag)
    else
      let parts := spanLines dpa len
      let d := countHost d p 2 1
      let d := if parts.length < 2 then d else { d with ioReads := d.ioReads ++ [{ port := p, tag, first := dpa / 64, lines := parts.length }] }
      parts.foldl (fun d s => ioLine d p tag pasid env .rc .read s.1 s.2.1 s.2.2) d

def execIoMemRead (p : Fin 16) (tag : Nat) (dpa : Dpa) (len : Nat) (pasid : Option (BitVec 20)) (env : Env) (s : State) :
    Host.Outcome State Fault Refusal := done s (ioRead s.dev p tag dpa.toNat len pasid env)

/-- A memory write of at most 512 bytes: a part of a line is a partial write (R273, R145). A longer one is no accepted payload. -/
def ioWrite (d : Dev) (p : Fin 16) (tag dpa : Nat) (bytes : List Byte) (pasid : Option (BitVec 20)) (env : Env) : Dev :=
  match hostGate d p env false with
  | (d, false) => d
  | (d, true) =>
    if 512 < bytes.length ∨ 2 ^ 45 < dpa + bytes.length then d
    else
      let d := countBw (countHost (countHost d p 3 1) p 1 bytes.length) p false bytes.length
      (spanLines dpa bytes.length).foldl (fun d s =>
        let at_ := s.1 * 64 + s.2.1 - dpa
        let x : Line := BitVec.ofNat 512 (ofBytes ((bytes.drop at_).take s.2.2) <<< (8 * s.2.1))
        let op : Op := if s.2.2 = 64 then .write x else .writePtl x (BitVec.ofNat 64 ((2 ^ s.2.2 - 1) <<< s.2.1))
        ioLine d p tag pasid env .wr op s.1 s.2.1 s.2.2) d

def execIoMemWrite (p : Fin 16) (tag : Nat) (dpa : Dpa) (bytes : List Byte) (pasid : Option (BitVec 20)) (env : Env) (s : State) :
    Host.Outcome State Fault Refusal := done s (ioWrite s.dev p tag dpa.toNat bytes pasid env)

/-- Whether a host may ask for an atomic (R220): FetchAdd and Swap of 32 and 64 bits, CAS of 32, 64 and 128, naturally aligned. -/
def hostAtomicOk (op : AtomOp) (bits dpa : Nat) : Bool :=
  (match op with
    | .add | .swap => decide (bits = 32) || decide (bits = 64)
    | .cas => decide (bits = 32) || decide (bits = 64) || decide (bits = 128)
    | .and | .or | .xor | .smin | .smax | .umin | .umax => false) && decide (dpa % (bits / 8) = 0)

/-- A host AtomicOp: kind ATM, executed at home (R220, R273). -/
def hostAtomic (d : Dev) (p : Fin 16) (tag dpa : Nat) (op : AtomOp) (bits : Nat) (operand compare : BitVec 128)
    (pasid : Option (BitVec 20)) (env : Env) : Dev :=
  match hostGate d p env false with
  | (d, false) => d
  | (d, true) =>
    if ¬ hostAtomicOk op bits dpa then send d (.ioUr p tag)
    else ioLine d p tag pasid env .atm (.atomic op bits (dpa % 64) operand compare) (dpa / 64) (dpa % 64) (bits / 8)

def execAtomicOp (p : Fin 16) (tag : Nat) (dpa : Dpa) (op : AtomOp) (bits : Nat) (operand compare : BitVec 128)
    (pasid : Option (BitVec 20)) (env : Env) (s : State) : Host.Outcome State Fault Refusal :=
  done s (hostAtomic s.dev p tag dpa.toNat op bits operand compare pasid env)

/-! ## The transaction table (R209, R213, R219) -/

/-- Whether a request in the quadrant queue may leave it. -/
def queueReady (d : Dev) (w : Waiting) : Bool :=
  let r := w.req
  if needsDir d r.line then admissible d r
  else !lineBusy d r.line && !d.waits.any fun x => x.wait = .queue && x.req.line = r.line && x.req.id < r.id

/-- The oldest request of the quadrant queue that may leave it is admitted (R209). -/
def queueAdmit (d : Dev) (q : Nat) (dirErr : Bool) : Dev :=
  match oldestWait (d.waits.filter fun w => atWait q .queue w && queueReady d w) with
  | none => d
  | some w =>
    let d := { d with waits := d.waits.filter fun x => x.req.id ≠ w.req.id }
    let d := if dirErr then sramMet d w.req.line w.req.slate .dir else d
    let d' := enterHome d w.req
    { d' with waits := mapIf (fun x => x.req.id = w.req.id) (fun x => { x with since := w.since }) d'.waits }

def execQueueAdmit (q : Fin 4) (dirErr : Bool) (s : State) : Host.Outcome State Fault Refusal := done s (queueAdmit s.dev q dirErr)

/-- The home's data meets its transaction: granted and closed, unless answers are still awaited (R213). -/
def homeReady (d : Dev) (line : Nat) : Dev :=
  match transOf d line with
  | some t => if t.homeReady ∧ t.await.isEmpty ∧ t.state ≠ .evicting then grantClose d t else d
  | none => d

def execHomeDataReady (q : Fin 4) (line : LineNo) (s : State) : Host.Outcome State Fault Refusal :=
  doneIf s (lineQuad line.toNat = q) fun d => homeReady d line.toNat

/-- The oldest remembered ATM's window ends: without a conflicting request its line's counter falls (R219). -/
def atomWindowEnd (d : Dev) (q : Nat) : Dev :=
  qmod d q fun s => match s.atms with
    | [] => s
    | a :: rest => { s with atms := rest, pred := if a.hit then s.pred else tabMod 1 s.pred (predHash a.line) fun c => c - 1 }

def execAtomWindowEnd (q : Fin 4) (s : State) : Host.Outcome State Fault Refusal := done s (atomWindowEnd s.dev q)

end Sys2Proof.Machine
end

