-- ==== Sys2Proof/Machine/Regulate.lean ====
section
/-! DEFINITION. Bandwidth regulation at a window start (R236 to R241) and the commands of the SLATE page (R234). -/

namespace Sys2Proof.Machine

/-! ## The deliverable floor (R240) -/

/-- The core cycle time of a block's PACE register in ps: 403 while VALID is 0 (R15). -/
def pacePs (d : Dev) (b : Block) : Nat :=
  let p := rget d b .pace
  if p.getLsbD 31 then fld p 15 0 else 403

/-- The rate of a sub-channel in B/s; `nominal` leaves out fences and twice-rate refresh. -/
def subRate (d : Dev) (nominal : Bool) (u : Nat) : Nat :=
  if ¬ nominal ∧ subFenced d u then 0
  else fld (dimmCfg d (u / 2)) 15 8 * 400 * fld (slateCfg d .slateFloorCfg) 9 0
    * (1000 - Config.refreshShare (!nominal && (subc d u).twice ≠ 0))

/-- F_q in B/s; `nominal` takes no fence, the normal refresh rate and 250 ps. -/
def quadFloor (d : Dev) (nominal : Bool) (q : Nat) : Nat :=
  if ¬ nominal ∧ quadFenced d q then 0
  else
    min (((List.range 8).map fun i => subRate d nominal (8 * q + i)).sum)
      (fld (slateCfg d .slateFloorCfg) 25 16 * 250 * 10 ^ 9 / (if nominal then 250 else pacePs d (.qctl q)))

/-- The floor in 1/16 GB/s. -/
def floorOf (d : Dev) (nominal : Bool) : Nat := ((List.range 4).map (quadFloor d nominal)).sum / 62500000

/-! ## Allowances (R241) -/

/-- GUAR of a class, in 0.5 GB/s. -/
def guarOf (d : Dev) (k : Nat) : Nat := fld (slateCfg d .slateClassCfg k) 10 0
/-- FIRM of a class. -/
def firmOf (d : Dev) (k : Nat) : Bool := (slateCfg d .slateClassCfg k).getLsbD 11
/-- COMMITTED, in 0.5 GB/s. -/
def committed (d : Dev) : Nat := ((List.range 64).map (guarOf d)).sum

/-- The allowances of the 64 classes in 1/65536 of 0.5 GB/s, and the ratio in 1/65536; `f` is the floor in 1/16 GB/s. -/
def allowances (d : Dev) (tight : Bool) (f : Nat) : List Nat × Nat :=
  if ¬ tight then ((List.range 64).map fun k => guarOf d k * 65536, 65536)
  else
    let firm := (List.range 64).foldl (fun (a : List Nat × Nat) k =>
      let x := if firmOf d k then min (guarOf d k * 8) a.2 else 0
      (a.1 ++ [x], a.2 - x)) ([], f)
    let total := ((List.range 64).map fun k => if firmOf d k then 0 else guarOf d k).sum
    let ratio := if total = 0 then 0 else firm.2 * 65536 / (total * 8)
    ((List.range 64).map fun k => if firmOf d k then firm.1.getD k 0 * 8192 else guarOf d k * ratio, ratio)

/-! ## Gates (R236 to R238) -/

/-- The payload rate of a port in MB/s (R236): ports 0 to 15 hosts, 16 to 23 Marwen with 224 of 256 bytes of a flit. -/
def payloadRate (d : Dev) (p : Nat) : Nat :=
  if p < 16 then Config.hostPayload (port d p).rate (port d p).trained
  else
    let b := p - 16
    (mport d b).width * (if (rget d (.mwl b) .mwlCfg).getLsbD 1 then 64000 else 128000) / 8 * 224 / 256

/-- Whether a port gate is in use: the port's link is up. -/
def portActive (d : Dev) (p : Nat) : Bool := if p < 16 then (port d p).up else mwActive d (p - 16)

/-- A gate at a window start, with allowances `a`, window `units` of 100 ns, divisor `dv` and capacity `cap`. -/
def gateRefill (g : Gate) (a : List Nat) (units dv cap : Nat) : Gate :=
  let gs := a.map fun x => x * 50 * units / 65536 / dv / 64 * 64
  { tokens := gs.zipIdx.foldl (fun t e => tabPut 0 t e.2 ((e.1 : Int) + min 0 (tabGet 0 g.tokens e.2))) []
    used := []
    pool := cap - gs.sum }

/-- The gate a waiting request stands at: a DRAM gate (quadrant), a port gate (16 and up the Marwen ports). -/
def gatePort (r : Req) : Nat := match r.src with
  | .host p _ => p.val
  | .io p _ _ _ => p.val
  | .mw b _ _ _ => 16 + b.val
  | .engine _ _ | .compl _ _ _ | .debug => 0

/-- The class that R238 takes next among those with waiting requests, none where nothing is admitted. -/
def gateNext (g : Gate) (tight : Bool) (weight : Nat → Nat) (classes : List Nat) : Option Nat → Option Nat
  | some k => some k
  | none =>
    if tight then none
    else
      let heavy := classes.filter fun k => 0 < weight k
      let pick := if 0 < g.pool ∧ ¬ heavy.isEmpty then heavy else classes
      let less (a b : Nat) : Bool :=
        if weight a = 0 then false
        else if weight b = 0 then true
        else decide (tabGet 0 g.used a * weight b < tabGet 0 g.used b * weight a)
      (sortNat pick).foldl (fun best k => match best with
        | none => some k
        | some x => if less k x then some k else some x) none

/-- Admit what a gate may admit, one request at a time; `mine` picks its waiting requests. -/
def gateRun (g : Dev → Gate) (mine : Waiting → Bool) : Nat → Dev → Dev
  | 0, d => d
  | n + 1, d =>
    let ws := d.waits.filter mine
    let withTokens := ws.find? fun w => 0 < tabGet 0 (g d).tokens w.req.cls
    match gateNext (g d) d.reg.oversub (classWeight d) (ws.map (·.req.cls)) (withTokens.map (·.req.cls)) with
    | none => d
    | some k => match ws.find? fun w => w.req.cls = k with
      | none => d
      | some w => gateRun g mine n (retry d fun x => x.req.id = w.req.id)

/-- Let the waiting requests of every gate go on. -/
def gatesRun (d : Dev) : Dev :=
  let d := (List.range 24).foldl (fun d p =>
    let mine (w : Waiting) : Bool := w.wait = .portGate && gatePort w.req = p
    gateRun (fun d => tabGet {} d.reg.ports p) mine (d.waits.filter mine).length d) d
  (List.range 4).foldl (fun d q =>
    gateRun (fun d => (quad d q).gate) (atWait q .dramGate) (d.waits.filter (atWait q .dramGate)).length d) d

/-- The SLATE settings that a window start takes into force (R239). -/
def slateSettings (d : Dev) : Tab Word :=
  let take (n : RName) (t : Tab Word) : Tab Word :=
    (List.range n.row.count).foldl (fun t i => tabPut (resetAt n i) t (regKey .slate n i) (rget d .slate n i)) t
  [RName.slateWindow, .slateFloorCfg, .slatePackrd, .slatePasidTag, .slatePortDef, .slateClassCfg].foldl (fun t n => take n t) []

/-- A window starts at every gate. -/
def windowStart (d : Dev) : Dev :=
  let d := d.waits.foldl (fun d w => if w.wait = .portGate || w.wait = .dramGate then countClass d w.req.cls 3 1 else d) d
  let d := { d with reg := { d.reg with cfg := slateSettings d } }
  let f := floorOf d false
  let c := committed d
  let was := d.reg.oversub
  let tight := if was then !decide (c * 8 * 32 ≤ f * 31) else decide (f < c * 8)
  let al := allowances d tight f
  let d := { d with reg := { d.reg with oversub := tight, scale := al.2, floor := f, nominal := floorOf d true } }
  let d := if tight && !was then raiseEvent d .slate 0 else if was && !tight then raiseEvent d .slate 1 else d
  let units := fld (slateCfg d .slateWindow) 9 0
  let d := (List.range 4).foldl (fun d q =>
    let cap := quadFloor d false q * units / 10 ^ 7
    qmod d q fun s => { s with gate := gateRefill s.gate al.1 units 4 cap }) d
  let d := (List.range 24).foldl (fun d p =>
    if portActive d p then
      let ps := pacePs d .xbar
      let cap := payloadRate d p * min 250 ps * units / (10 * ps)
      let g := gateRefill (tabGet {} d.reg.ports p) al.1 units 1 cap
      { d with reg := { d.reg with ports := tabPut {} d.reg.ports p g } }
    else d) d
  gatesRun d

def execRegulationWindowStart (s : State) : Host.Outcome State Fault Refusal :=
  doneIf s (s.dev.pwr.dom.getLsbD 3) windowStart

/-! ## SLATE commands (R234) -/

/-- The bits of CTX_W3 that carry ENG_OPS and VIEW. -/
def rightsMask : Word := maskW 20 10
/-- Bits [127:125] of a context are zero. -/
def word3Mask : Word := maskW 28 0

/-- A command on a context: the device and RESULT. -/
def ctxCommand (d : Dev) (op : Nat) (secure : Bool) : Dev × Nat :=
  let k := rfld d .slate .slateCtxSel 17 0
  let c := ctxOfSlate d k
  let w (i : Nat) : Word := (c >>> (32 * i)).setWidth 32
  let w3 := rget d .slate .slateCtxW3
  let put (a b x y : Word) : Dev :=
    let v : BitVec 128 := a.setWidth 128 ||| (b.setWidth 128 <<< 32) ||| ((x &&& 1).setWidth 128 <<< 64) ||| ((y &&& word3Mask).setWidth 128 <<< 96)
    { d with ctxs := tabPut 0 d.ctxs k v, ctxBad := d.ctxBad.filter (· ≠ k) }
  match op with
  | 1 => ((List.range 3).foldl (fun d i => rput d .slate .slateCtxW (w i) i) (rput d .slate .slateCtxW3 (w 3)), 0)
  | 2 => (put (w 0) (w 1) (w 2) ((w3 &&& ~~~rightsMask) ||| (w 3 &&& rightsMask)), 0)
  | 3 =>
    if secure then
      let s (i : Nat) : Word := rget d .slate .slateCtxW i
      (put (s 0) (s 1) (s 2) ((w 3 &&& ~~~rightsMask) ||| (w3 &&& rightsMask)), 0)
    else (d, 2)
  | _ => (d, 3)

/-- A command on a fall-back entry: the device and RESULT. -/
def fbCommand (d : Dev) (op : Nat) : Dev × Nat :=
  let k := rfld d .slate .slateFbSel 11 0
  let e := tabGet 0 d.fbs k
  match op with
  | 1 =>
    let d := rput d .slate .slateFbBase (e.setWidth 32)
    let d := rput d .slate .slateFbLen ((e >>> 32).setWidth 32)
    (rput d .slate .slateFbSlate ((e >>> 64).setWidth 32), 0)
  | 2 =>
    let base := rget d .slate .slateFbBase
    let len := rget d .slate .slateFbLen
    if base.getLsbD 31 ∧ (fld len 24 0 = 0 ∨ limitPages d 0 / 512 < fld base 23 0 + fld len 24 0) then (d, 3)
    else
      let v : BitVec 96 := base.setWidth 96 ||| (len.setWidth 96 <<< 32) ||| ((rget d .slate .slateFbSlate).setWidth 96 <<< 64)
      ({ d with fbs := tabPut 0 d.fbs k v }, 0)
  | _ => (d, 3)

/-- A command written to CTX_CMD or FB_CMD: refused while one runs. -/
def slateIssue (d : Dev) (c : SlateCmd) : Dev :=
  if d.slateBusy.isSome then { d with slateResult := 1 } else { d with slateBusy := some c }

/-- The running command completes: its result and event. -/
def slateComplete (d : Dev) (c : SlateCmd) : Dev :=
  let (d, res) := match c with
    | .ctx op secure => ctxCommand d op secure
    | .fb op => fbCommand d op
  raiseEvent { d with slateBusy := none, slateResult := res } .slate 2

def execSlateCmdComplete (s : State) : Host.Outcome State Fault Refusal :=
  match s.dev.slateBusy with
  | some c => done s (slateComplete s.dev c)
  | none => still s

end Sys2Proof.Machine
end

