-- ==== Sys2Proof/Machine/PackJob.lean ====
section
/-! DEFINITION. PACK and UNPACK jobs (R110 to R122): the context, the history ring, and one encode or decode job. -/

namespace Sys2Proof.Machine

/-! ## The context (R111) -/

/-- What a job leaves in its context. -/
structure PackCtx where
  format : Nat := 0
  dir : Nat := 0
  effort : Nat := 0
  wlog : Nat := 0
  phase : Nat := 0
  unit : Nat := 0
  btype : Nat := 0
  pend : Nat := 0
  inTotal : Nat := 0
  outTotal : Nat := 0
  validOut : Nat := 0
  blockStart : Nat := 0
  blockDone : Nat := 0
  sumStream : Nat := 0
  sumBlock : Nat := 0
  runLeft : Nat := 0
  matchLeft : Nat := 0
  matchOff : Nat := 0
  errOffset : Nat := 0
  errBit : Nat := 0
  derr : Nat := 0
  status : Nat := 0
  partialLen : Nat := 0
  partial_ : Nat := 0
  bitbuf : Nat := 0
  bitcnt : Nat := 0
  dstate : Nat := 0
  ringHead : Nat := 0
  ringFill : Nat := 0
  ringAddr : Nat := 0
  litLen : Nat := 0
  deflLen : Nat := 0
deriving DecidableEq, Repr

/-- Values placed at byte offsets: (offset, bytes, value). -/
def placeBytes (l : List (Nat × Nat × Nat)) : Nat := (l.map fun e => (e.2.2 % 2 ^ (8 * e.2.1)) <<< (8 * e.1)).sum

/-- The 512 bytes of a context with its check and LOCK 0. -/
def PackCtx.bytes (c : PackCtx) : List Byte :=
  let body := bytesOf (placeBytes [(0, 1, c.format), (1, 1, c.dir), (2, 1, c.effort), (3, 1, c.wlog), (4, 1, c.phase), (5, 1, c.unit), (6, 1, c.btype),
    (7, 1, c.pend), (8, 8, c.inTotal), (16, 8, c.outTotal), (24, 8, c.validOut), (32, 8, c.blockStart), (40, 4, c.blockDone), (44, 4, c.sumStream),
    (48, 4, c.sumBlock), (52, 4, c.runLeft), (56, 4, c.matchLeft), (60, 4, c.matchOff), (64, 8, c.errOffset), (72, 1, c.errBit), (73, 1, c.derr),
    (74, 1, c.status), (75, 1, c.partialLen), (76, 16, c.partial_), (92, 8, c.bitbuf), (100, 1, c.bitcnt), (101, 1, c.dstate), (104, 4, c.ringHead),
    (108, 4, c.ringFill), (112, 8, c.ringAddr), (128, 128, c.litLen), (256, 168, c.deflLen)]) 504
  body ++ bytesOf (crc32c body) 4 ++ bytesOf 0 4

/-- The fields of a stored context that a following job looks at. -/
structure OldCtx where
  ok : Bool
  lock : Nat
  format : Nat
  dir : Nat
  effort : Nat
  wlog : Nat
  phase : Nat
  pend : Nat
  outTotal : Nat
  ringAddr : Nat
deriving DecidableEq, Repr

/-- Read them out of 512 bytes. -/
def oldCtx (b : List Byte) : OldCtx :=
  let f (lo n : Nat) : Nat := ofBytes ((b.drop lo).take n)
  { ok := f 504 4 = crc32c (b.take 504), lock := f 508 4, format := f 0 1, dir := f 1 1, effort := f 2 1, wlog := f 3 1, phase := f 4 1, pend := f 7 1,
    outTotal := f 16 8, ringAddr := f 112 8 }

/-! ## Descriptor fields (R110, R253) -/

def Job.format (j : Job) : Nat := j.opf % 8
def Job.effort (j : Job) : Nat := j.opf / 8 % 2
def Job.wlog (j : Job) : Nat := j.opf / 16 % 32
def Job.start (j : Job) : Bool := j.opf.testBit 9
def Job.fin (j : Job) : Bool := j.opf.testBit 10
def Job.cut (j : Job) : Bool := j.opf.testBit 11
def Job.oneShot (j : Job) : Bool := j.opf.testBit 12

/-- Whether two byte ranges (base, length) share a byte. -/
def overlaps (a b : Nat × Nat) : Bool := decide (0 < a.2) && decide (0 < b.2) && decide (a.1 < b.1 + b.2) && decide (b.1 < a.1 + a.2)

/-- Whether any two of some ranges overlap. -/
def anyOverlap : List (Nat × Nat) → Bool
  | [] => false
  | a :: l => l.any (overlaps a) || anyOverlap l

/-- The running check of a format over bytes (R111). -/
def streamSum (format : Nat) (all : List Byte) : Nat :=
  match format with
  | 0 | 1 => crc32c all
  | 3 => adler32 all
  | 4 => crc32 all
  | _ => 0

/-! ## One run over bytes -/

/-- What an encode or decode of some input gives: output, bytes consumed, status of R120, FLAG0, the context to leave and the
stream's state. -/
structure PackRes where
  out : List Byte
  used : Nat
  status : Nat
  flag : Bool := false
  ctx : PackCtx := {}
  st : EncSt := {}
deriving DecidableEq, Repr

/-- An encode from a stream's state. `outBefore` is OUT_TOTAL before it, `pend` what an earlier job left pending. -/
def encodeJob (format effort wlog pend outBefore cap : Nat) (cut fin : Bool) (s : EncSt) (x : List Byte) : PackRes :=
  let (s, out, used, full) := encodeRun format effort wlog cut fin s x cap
  let all := full && used = x.length
  let kind := match s.units with
    | [] => 0
    | u :: _ => u.1
  let start := if s.units.isEmpty then s.blockStart else s.curStart
  { out, used, status := b2n full, st := s
    ctx := { format, dir := 0, effort, wlog
             phase := if kind = 0 then (if s.final then 4 else 1) else if kind = 1 then 0 else if kind = 7 then 3 else 2
             unit := kind, btype := s.btype
             pend := if all then b2n (cut || pend.testBit 0) + 2 * b2n (fin || pend.testBit 1) else 0
             inTotal := s.input.length, outTotal := outBefore + out.length, validOut := outBefore + out.length
             blockStart := start, blockDone := if s.units.isEmpty then 0 else s.blockDone
             sumStream := streamSum format s.input, sumBlock := if format = 0 then crc32c (s.input.drop start) else 0
             bitbuf := ofBits s.bits, bitcnt := s.bits.length, litLen := if format = 0 then s.table else 0 } }

/-- A FORMAT 1 encode (R107, R110). -/
def encodePageJob (effort cap : Nat) (x : List Byte) : PackRes :=
  let (type, us) := upfPayload effort 4096 true [] x
  let units := (2, byteBits (upfHeader type true false 4096)) :: us ++ [(6, byteBits (bytesOf (crc32c x) 4))]
  if 3584 * 8 < unitBits units then { out := [], used := 4096, status := 0, flag := true }
  else
    let (_, out, ok) := flushUnits units {} cap []
    { out, used := 4096, status := b2n !ok }

/-- How a decode ends: its status, DERR, and the failing element's bit position. -/
def decodeEnd (r : DStop) (pos : Nat) (fin : Bool) (moreErr : Nat) : Nat × Nat × Nat :=
  match r with
  | .more => if fin then (3, moreErr, pos) else (0, 0, 0)
  | .full => (1, 0, 0)
  | .ended => (0, 0, 0)
  | .check => (2, 0, 0)
  | .err c p => (3, c, p)

/-- A decode of the stream's whole input, of which `outBefore` bytes have been given already. `fr` is a free value for the saved position
within an element, whose coding is open. -/
def decodeJob (format pend outBefore cap : Nat) (fin : Bool) (s : EncSt) (x : List Byte) (fr : Nat) : PackRes :=
  let all := s.input ++ x
  let (c, r) := decodeStream format all (outBefore + cap)
  let total := if r = .more then all.length else min all.length ((c.pos + 7) / 8)
  let used := total - s.input.length
  let fin' := fin || pend.testBit 1
  let (status, derr, at_) := decodeEnd r c.pos fin' 9
  let inBlock := c.phase = 2
  let outAll := c.out.reverse
  { out := outAll.drop outBefore, used, status, st := { s with input := all.take total }
    ctx := { format, dir := 1, wlog := c.wlog
             phase := if status = 2 ∨ status = 3 then 5 else c.phase
             btype := c.btype, pend := if r = .full ∧ used = x.length then 2 * b2n fin' else 0
             inTotal := total, outTotal := c.n
             validOut := if format = 2 then c.n else c.good
             blockStart := c.bstart, blockDone := if inBlock then c.n - c.bstart else 0
             sumStream := streamSum format outAll, sumBlock := if format = 0 ∧ inBlock then crc32c (outAll.drop c.bstart) else 0
             runLeft := c.runLeft, matchLeft := c.matchLeft, matchOff := c.matchOff
             errOffset := at_ / 8, errBit := if status = 3 then at_ % 8 else 0, derr
             partialLen := fr % 17, partial_ := fr / 32, bitbuf := fr / 2 ^ 160, bitcnt := fr / 2 ^ 224 % 64, dstate := fr / 2 ^ 232
             litLen := if format = 0 ∧ c.btype = 2 ∧ inBlock then ofBits (litTable c.lens) else 0
             deflLen := if format = 0 then 0 else fr / 2 ^ 240 } }

/-- A FORMAT 1 decode: one block of 4,096 bytes with its page check (R107). -/
def pageStep (s : BitSrc) (lim : Nat) (c : Dc) : DStep :=
  if c.phase = 0 then
    match s.get 0 32 with
    | none => (c, some .more)
    | some h =>
      if h % 4 = 0 ∨ h % 4 = 3 ∨ h / 2 ^ 21 ≠ 0 ∨ h / 16 % 2 ^ 17 ≠ 4096 then ({ c with pos := 32 }, some (.err 2 0))
      else ({ c with pos := 32, phase := 2, btype := h % 4, last := true, goal := 4096, win := 4096 }, none)
  else match upfStep s lim c with
    | (c, none) => if c.phase = 3 then ({ c with phase := 4 }, some .ended) else (c, none)
    | r => r
def decodePageJob (cap : Nat) (x : List Byte) : PackRes :=
  let bytes := x.take 3584
  let (c, r) := dcLoop (pageStep (bitSrc bytes) cap) (2 * (8 * bytes.length + 4096) + 64) {}
  let total := if r = .more then bytes.length else min bytes.length ((c.pos + 7) / 8)
  let e := decodeEnd r c.pos true (if 3584 ≤ x.length then 10 else 9)
  { out := c.out.reverse, used := total, status := e.1 }

/-! ## The job -/

/-- One step of a job that leads on to the next. -/
def EngRun.bind {α β : Type} (x : EngRun α) (f : Dev → α → EngRun β) (g : Dev → α → Nat → EngRun β) : EngRun β :=
  match x with
  | .ok d a => f d a
  | .stop d a st => g d a st
  | .wait r n => .wait r n

/-- What a job reports: flags, DONE_BYTES and RESULT. -/
abbrev JobRes := Nat × Nat × Nat

/-- The bytes of a history ring that `n` bytes at stream offset `at_` fall on: (ring offset, bytes). -/
def ringParts (at_ : Nat) (x : List Byte) : List (Nat × List Byte) :=
  let n := x.length
  let skip := n - 131072
  let x := x.drop skip
  let p := (at_ + skip) % 131072
  [(p, x.take (131072 - p)), (0, x.drop (131072 - p))]

/-- Finish a job: status 0 is DONE. -/
def jobEnd (d : Dev) (r : JobRes) (status : Nat) : EngRun JobRes := if status = 0 then .ok d r else .stop d r status

/-- Write a job's output: the first bad status wins. -/
def putOut (d : Dev) (a : Agent) (dst : Nat) (r : PackRes) (inStatus : Nat) (k : Dev → Nat → Nat → EngRun JobRes) : EngRun JobRes :=
  let st := if r.status ≠ 0 then r.status else inStatus
  (engWrite d a dst r.out).bind (fun d n => k d n st) (fun d n st2 => k d n (if st ≠ 0 then st else st2))

/-- A ONE_SHOT job: START and END are implied, nothing is kept (R110, R119). -/
def oneShotRun (d : Dev) (a : Agent) (j : Job) (enc : Bool) : EngRun JobRes :=
  let cap := j.aux1
  if anyOverlap [(j.src, j.len), (j.dst, cap)] then .stop d (0, 0, 0) 6
  else
    let go (d : Dev) (x : List Byte) (st : Nat) : EngRun JobRes :=
      let fin := st = 0
      let r := if j.format = 1 then (if enc then (if fin then encodePageJob j.effort cap x else { out := [], used := x.length, status := 0 }) else decodePageJob cap x)
        else if enc then encodeJob j.format j.effort j.wlog 0 0 cap j.cut fin (encodeStart j.format j.effort j.wlog) x
        else decodeJob j.format 0 0 cap fin {} x 0
      putOut d a j.dst r st fun d n st => jobEnd d (b2n r.flag, r.used, n) st
    (engRead d a j.src j.len).bind (fun d x => go d x 0) go

/-- A job on a context (R111 to R118). -/
def streamRun (d : Dev) (a : Agent) (j : Job) (enc : Bool) : EngRun JobRes :=
  let cap := j.aux1
  let at_ := j.aux2
  (engRead d a at_ 512).bind (fun d cb =>
    let o := oldCtx cb
    let ring := if j.start then j.aux3 else o.ringAddr
    let stored := tabGet none d.streams at_
    if o.lock ≠ 0 then .stop d (0, 0, 0) 5
    else if anyOverlap [(j.src, j.len), (j.dst, cap), (at_, 512), (ring, 131072)] then .stop d (0, 0, 0) 6
    else if ¬ j.start ∧ (¬ o.ok ∨ o.format ≠ j.format ∨ o.dir ≠ b2n !enc ∨ o.phase = 4 ∨ o.phase = 5 ∨ (o.pend.testBit 1 ∧ 0 < j.len) ∨ stored = none)
    then .stop d (0, 0, 0) 4
    else
      let effort := if j.start then j.effort else o.effort
      let wlog := if j.start then j.wlog else o.wlog
      let outBefore := if j.start then 0 else o.outTotal
      let pend := if j.start then 0 else o.pend
      let s : EncSt := if j.start then (if enc then encodeStart j.format effort wlog else {}) else stored.getD {}
      let go (d : Dev) (x : List Byte) (st : Nat) : EngRun JobRes :=
        let r := if enc then encodeJob j.format effort wlog pend outBefore cap (j.cut && st = 0) (j.fin && st = 0) s x
          else decodeJob j.format pend outBefore cap (j.fin && st = 0) s x (Config.free (fresh d))
        let d := if enc then d else bumpFree d
        putOut d a j.dst r st fun d n st =>
          let hist := if enc then r.st.input.drop s.input.length else r.out
          let histAt := if enc then s.input.length else outBefore
          let upto := histAt + hist.length
          let c : PackCtx := { r.ctx with effort, wlog := if enc then wlog else r.ctx.wlog, status := st, ringHead := upto % 131072, ringFill := min upto 131072, ringAddr := ring }
          let puts := ((ringParts histAt hist).filter fun p => ¬ p.2.isEmpty).map (fun p => (ring + p.1, p.2)) ++ [(at_, c.bytes)]
          (runList (fun d (_ : Unit) (p : Nat × List Byte) => match engWrite d a p.1 p.2 with
            | .ok d _ => .ok d ()
            | .stop d _ st => .stop d () st
            | .wait rm nd => .wait rm nd) puts d ()).bind
            (fun d _ =>
              let keep : Option EncSt := if r.ctx.phase = 4 ∨ r.ctx.phase = 5 then none else some r.st
              jobEnd ({ d with streams := tabPut none d.streams at_ keep }) (0, r.used, n) st)
            (fun d _ st2 => .stop d (0, r.used, n) (if st ≠ 0 then st else st2))
      (engRead d a j.src j.len).bind (fun d x => go d x 0) go)
    (fun d _ st => .stop d (0, 0, 0) st)

/-- A PACK or UNPACK job (R93, R113). -/
def packRun (enc : Bool) (d : Dev) (a : Agent) (j : Job) : EngRun JobRes :=
  if ¬ packAvailable d a.q then .stop d (0, 0, 0) 7
  else if j.oneShot then oneShotRun d a j enc
  else streamRun d a j enc

/-- Whether a PACK or UNPACK descriptor is well formed (R110, R112, R253). -/
def packBad (j : Job) (enc : Bool) : Bool :=
  decide (4 < j.format) || (j.format = 1 && !j.oneShot) || (enc && j.format = 1 && j.len ≠ 4096)
  || (enc && j.format = 0 && (j.start || j.oneShot) && !(decide (12 ≤ j.wlog) && decide (j.wlog ≤ 16)))
  || (!j.oneShot && j.aux3 % 4096 ≠ 0)

end Sys2Proof.Machine
end

