-- ==== Sys2Proof/Machine/Engines.lean ====
section
/-! DEFINITION. The near-memory engine clusters (R247 to R264): fetching descriptors, giving jobs to lanes, and the operations. -/

namespace Sys2Proof.Machine

/-! ## Fetching (R248, R259, R260) -/

/-- Whether a cluster goes on with its jobs: Rolling or Cutting (R264). -/
def clusterRuns (d : Dev) (q : Nat) : Bool := (pget d (.nme q)).run = .rolling || (pget d (.nme q)).run = .cutting

/-- The Running ring with pending descriptors that is served next: ascending, starting after the last one served. -/
def nextRing (d : Dev) (q : Nat) : Option Nat :=
  let c := (quad d q).cluster
  ((List.range 256).map fun i => (c.lastRing + 1 + i) % 256).find? fun i =>
    let r := tabGet {} c.rings i
    r.state = .running && r.head ≠ r.tail

/-- A lookup of an invalid context by an engine (R233). -/
def slateRefused (d : Dev) (slate : Nat) : Dev :=
  raise (rbump d .slate .slateInvalidCount) .slate 0 .none (ctxLine .slate .engine 0 slate 0 0 0)

/-- A descriptor that cannot be read: its completion, and the ring in Error. -/
def fetchFailed (d : Dev) (q i : Nat) (j : Job) (dpa : Nat) : Dev :=
  let d := raiseEvent (ringMod d q i fun r => { r with state := .error }) (.nme q) 0
  let d := raise d (.nme q) 0 .none (ctxLine (.nme q) .engine 0 j.slate 0 dpa 0)
  completeJob d q j 0x0E 0 0 0

/-- Fetch descriptor HEAD of a ring into the job queue. -/
def fetchOne (d : Dev) (q i : Nat) : Dev :=
  let r := ringOf d q i
  let dpa := r.descPage * 4096 + 64 * r.head
  let wrap := r.head + 1 = ringSize r
  let adv (d : Dev) : Dev := ringMod (cmod d q fun c => { c with lastRing := i }) q i fun r =>
    { r with head := if wrap then 0 else r.head + 1, pass := if wrap then r.pass + 1 else r.pass }
  let j : Job := { ring := i, index := r.head, phase := r.pass % 2 = 1, desc := [], slate := r.owner }
  let a : Agent := { q, lane := 0, slate := r.owner, late := false }
  let d0 := if ctxValid d r.owner then d else rbump d .slate .slateInvalidCount
  match engRead d0 a dpa 64 with
  | .ok d b => cmod (adv d) q fun c => { c with queue := c.queue ++ [{ j with desc := b }] }
  | .stop d _ _ => fetchFailed (adv d) q i j dpa
  | .wait _ need => match need with
    | some (line, k) => engOpen d a line k
    | none => d

def execDescriptorFetch (q : Fin 4) (s : State) : Host.Outcome State Fault Refusal :=
  match nextRing s.dev q with
  | some i => doneIf s ((pget s.dev (.nme q)).run = .rolling && decide ((quad s.dev q).cluster.queue.length < 64)) fun d => fetchOne d q i
  | none => still s

/-! ## Taking jobs (R259, R260) -/

/-- Whether an earlier job of a ring has not completed: one runs on a lane, or its completion waits. -/
def ringOpen (d : Dev) (q i : Nat) : Bool :=
  (runningJobs d q).any (fun l => l.2.ring = i)
  || d.waits.any fun w => match w.req.src with
    | .compl k r _ => k.val = q && r.toNat = i
    | _ => false

/-- The queued jobs that may start: the oldest of each ring, with its fence condition held. -/
def readyJobs (d : Dev) (q : Nat) : List Job :=
  let queue := (quad d q).cluster.queue
  let first := queue.zipIdx.filter fun e => !(queue.take e.2).any fun x => x.ring = e.1.ring
  (first.map (·.1)).filter fun j => !(j.fence && ringOpen d q j.ring)

/-- The job the local rule takes. -/
def pickJob (d : Dev) (q : Nat) : Option Job :=
  let r := readyJobs d q
  match r.find? fun j => !j.defer with
  | some j => some j
  | none => if granted d 6 then r.head? else none

/-- Whether a DPA field is good. -/
def dpaField (v : Nat) : Bool := decide (v < 2 ^ 45)

/-- Bytes of a REDUCE element. -/
def elemBytes (type : Nat) : Nat := [1, 2, 4, 8, 4, 8].getD type 1

/-- Whether a descriptor fails step 3 of R260 (R252, R253, R254, R257). -/
def badDescriptor (d : Dev) (j : Job) : Bool :=
  let noAux (a b c : Bool) : Bool := (a || j.aux1 = 0) && (b || j.aux2 = 0) && (c || j.aux3 = 0)
  let src := dpaField j.src
  let dst := dpaField j.dst
  decide (8 ≤ j.bytes 1 1) || j.bytes 48 16 ≠ 0 ||
  !(match j.op with
    | 1 => j.opf = 0 && noAux false false false && src && dst
    | 2 => j.opf = 0 && noAux true false false && dst
    | 3 => j.opf = 0 && noAux true false false && src && dpaField j.aux1
    | 4 => j.opf = 0 && noAux true false false && src && decide (j.aux1 < 2 ^ 32)
    | 5 =>
      let rs := j.opf % 64
      decide (j.opf < 1024) && decide (1 ≤ rs) && decide (rs ≤ 32) && noAux true true false && src && dst && dpaField j.aux1
        && decide (j.aux2 < 2 ^ 32) && j.len % (8 * rs) = 0
    | 6 =>
      let ty := j.opf % 8
      decide (j.opf < 64) && decide (ty ≤ 5) && decide (j.opf / 16 ≤ 2) && noAux false false false && src
        && j.len % elemBytes ty = 0 && decide (1 ≤ j.len)
    | 7 | 8 => decide (j.opf < 2 ^ 13) && src && dst && decide (j.aux1 < 2 ^ 32) && dpaField j.aux2 && dpaField j.aux3 && !packBad j (j.op = 7)
    | 9 => j.opf = 0 && noAux false false false && src && dst && j.len % 32 = 0
    | 10 => decide (j.opf < 128) && noAux false false false && src && dst && j.opf % 64 ≠ selfId d
    | _ => false)

/-- The checks before a job starts, in order: 0 where they pass. -/
def jobCheck (d : Dev) (j : Job) : Nat :=
  if ¬ ctxValid d j.slate then 8
  else if 1 ≤ j.op ∧ j.op ≤ 10 ∧ ¬ (ctxOfSlate d j.slate).getLsbD (105 + j.op) then 0x0B
  else if badDescriptor d j then 0x0A
  else 0

/-- A free lane takes the next job, or the job fails its checks and completes. -/
def takeJob (d : Dev) (q l : Nat) : Dev :=
  match pickJob d q with
  | none => d
  | some j =>
    let d := cmod d q fun c => { c with queue := c.queue.erase j }
    match jobCheck d j with
    | 0 => setLane d q l (some j)
    | 8 => completeJob (slateRefused d j.slate) q j 8 0 0 0
    | st => completeJob d q j st 0 0 0

def execLaneTakeJob (q : Fin 4) (l : Fin 8) (s : State) : Host.Outcome State Fault Refusal :=
  doneIf s (clusterRuns s.dev q && (rget s.dev (.nme q) .nmeCfg).getLsbD l && (laneJob s.dev q l).isNone) fun d => takeJob d q l

/-! ## Running a job -/

/-- A lane's job is over: its lines go back (R258), its lane and its pack engine are free, its completion is written. -/
def finishJob (d : Dev) (q l : Nat) (j : Job) (status : Nat) (r : JobRes) : Dev :=
  let d := setLane d q l none
  let freeEng (e : Engine) : Engine := if e.work = some (.job l) then { e with work := none, lastJob := true } else if e.aside = some (.job l) then { e with aside := none } else e
  let d := qmod d q fun s => { s with engines := s.engines.map freeEng, cluster := { s.cluster with held := [] } }
  completeJob d q j status r.1 r.2.1 r.2.2

/-- Run the job of a lane with operation code `op`; where it must wait nothing of it has happened but the request it waits for. -/
def jobRow (d : Dev) (q l op : Nat) (run : Dev → Agent → Job → EngRun JobRes) : Dev :=
  match laneJob d q l with
  | none => d
  | some j =>
    if j.op ≠ op then d
    else
      let a : Agent := { q, lane := l, slate := j.slate, late := j.late }
      match run d a j with
      | .ok d r => finishJob d q l j 0 r
      | .stop d r st => finishJob d q l j st r
      | .wait room need =>
        let d := setLane d q l (some { j with roomQ := room })
        match need with
        | some (line, k) => engOpen d a line k
        | none => d

/-- Bytes that were read, and the status of the reading: 0 where it was whole. -/
def readBytes {β : Type} (d : Dev) (a : Agent) (dpa n : Nat) (k : Dev → List Byte → Nat → EngRun β) : EngRun β :=
  (engRead d a dpa n).bind (fun d b => k d b 0) k

/-! ## COPY, FILL, CMP, CRC (R254) -/

def copyRun (d : Dev) (a : Agent) (j : Job) : EngRun JobRes :=
  if overlaps (j.src, j.len) (j.dst, j.len) then .stop d (0, 0, 0) 6
  else readBytes d a j.src j.len fun d b st =>
    (engWrite d a j.dst b).bind (fun d n => jobEnd d (0, n, 0) st) (fun d n st2 => .stop d (0, n, 0) st2)

def fillRun (d : Dev) (a : Agent) (j : Job) : EngRun JobRes :=
  let p := bytesOf j.aux1 8
  (engWrite d a j.dst ((List.range j.len).map fun i => p.getD (i % 8) 0)).bind (fun d n => .ok d (0, n, 0)) (fun d n st => .stop d (0, n, 0) st)

def cmpRun (d : Dev) (a : Agent) (j : Job) : EngRun JobRes :=
  readBytes d a j.src j.len fun d x st1 => readBytes d a j.aux1 j.len fun d y st2 =>
    if st1 ≠ 0 ∨ st2 ≠ 0 then .stop d (0, min x.length y.length, 0) (if st1 ≠ 0 ∧ (st2 = 0 ∨ x.length ≤ y.length) then st1 else st2)
    else
      let k := ((x.zip y).findIdx? fun e => e.1 ≠ e.2).getD j.len
      .ok d (b2n (k < j.len), j.len, k)

def crcRun (d : Dev) (a : Agent) (j : Job) : EngRun JobRes :=
  readBytes d a j.src j.len fun d b st =>
    if st ≠ 0 then .stop d (0, b.length, 0) st
    else .ok d (0, j.len, b.foldl (crcRByte 0x82F63B78) (j.aux1 ^^^ 0xFFFFFFFF) ^^^ 0xFFFFFFFF)

/-! ## SCAN (R255) -/

/-- One predicate of a block. -/
structure Pred where
  off : Nat
  width : Nat
  cmp : Nat
  signed : Bool
  value : Nat
deriving DecidableEq, Repr

/-- The predicates of a block. -/
def predsOf (b : List Byte) (n : Nat) : List Pred :=
  (List.range n).map fun i =>
    let e := b.drop (16 * i)
    let w := ofBytes ((e.drop 2).take 1)
    { off := ofBytes (e.take 2), width := 2 ^ (w % 4), cmp := w / 4 % 8, signed := w.testBit 5, value := ofBytes ((e.drop 8).take 8) }

/-- Whether a record meets a predicate. -/
def Pred.test (p : Pred) (r : List Byte) : Bool :=
  let m := 2 ^ (8 * p.width)
  let num (x : Nat) : Int := if p.signed ∧ m / 2 ≤ x % m then ((x % m : Nat) : Int) - m else ((x % m : Nat) : Int)
  let x := num (ofBytes ((r.drop p.off).take p.width))
  let y := num p.value
  match p.cmp with
  | 0 => decide (x = y)
  | 1 => decide (x ≠ y)
  | 2 => decide (x < y)
  | 3 => decide (x ≤ y)
  | 4 => decide (y < x)
  | _ => decide (y ≤ x)

/-- Test records one by one: output (bytes, or bitmap bits), records tested and matched, and whether the output was full. -/
def scanRecords (ps : List Pred) (any bitmap : Bool) (cap : Nat) : List (List Byte) → List Byte → List Bool → Nat → Nat → List Byte × List Bool × Nat × Nat × Bool
  | [], out, bits, t, m => (out, bits, t, m, false)
  | r :: rest, out, bits, t, m =>
    let hit := if any then ps.any (·.test r) else ps.all (·.test r)
    if bitmap then
      if cap ≤ t / 8 then (out, bits, t, m, true)
      else scanRecords ps any bitmap cap rest out (bits ++ [hit]) (t + 1) (m + b2n hit)
    else if hit ∧ cap < out.length + r.length then (out, bits, t, m, true)
    else scanRecords ps any bitmap cap rest (if hit then out ++ r else out) bits (t + 1) (m + b2n hit)

def scanRun (d : Dev) (a : Agent) (j : Job) : EngRun JobRes :=
  let rs := j.opf % 64 * 8
  let np := j.opf / 64 % 4 + 1
  if overlaps (j.src, j.len) (j.dst, j.aux2) then .stop d (0, 0, 0) 6
  else (engRead d a j.aux1 (16 * np)).bind
    (fun d pb =>
      let ps := predsOf pb np
      if ps.any fun p => decide (rs < p.off + p.width) || decide (5 < p.cmp) then .stop d (0, 0, 0) 0x0A
      else readBytes d a j.src j.len fun d b st =>
        let recs := (List.range (b.length / rs)).map fun i => (b.drop (rs * i)).take rs
        let (out, bits, t, m, full) := scanRecords ps (j.opf.testBit 8) (j.opf.testBit 9) j.aux2 recs [] [] 0 0
        let out := if j.opf.testBit 9 then bitBytes (bits ++ padBits bits.length) else out
        (engWrite d a j.dst out).bind (fun d _ => jobEnd d (0, t * rs, m) (if full then 1 else st)) (fun d _ st2 => .stop d (0, 0, 0) st2))
    (fun d _ st => .stop d (0, 0, 0) st)

/-! ## REDUCE (R254) -/

/-- One step of a reduction: the value, FLAG0 to FLAG2 so far, and the next element. -/
def reduceStep (type func : Nat) (signed : Bool) (s : Nat × Nat) (x : Nat) : Nat × Nat :=
  let sgn (v : Nat) : Int := if v < 2 ^ 63 then v else (v : Int) - 2 ^ 64
  if type < 4 then
    match func with
    | 0 =>
      let tight := if signed then decide (sgn s.1 + sgn x < -(2 ^ 63) ∨ 2 ^ 63 ≤ sgn s.1 + sgn x) else decide (2 ^ 64 ≤ s.1 + x)
      ((s.1 + x) % 2 ^ 64, s.2 ||| b2n tight)
    | 1 => (if (if signed then decide (sgn s.1 ≤ sgn x) else decide (s.1 ≤ x)) then s.1 else x, s.2)
    | _ => (if (if signed then decide (sgn x ≤ sgn s.1) else decide (x ≤ s.1)) then s.1 else x, s.2)
  else if func = 0 then
    let r := fpAdd fp64 s.1 x
    (r.1, s.2 ||| 2 * b2n (fpIsNan fp64 x || fpIsNan fp64 r.1) ||| 4 * b2n r.2)
  else
    let f := if type = 4 then fp32 else fp64
    (fpPick f (func = 1) s.1 x, s.2 ||| 2 * b2n (fpIsNan f x))

/-- The value of an element as the reduction takes it: an integer extended to 64 bits, fp32 widened for a sum. -/
def reduceElem (type func : Nat) (signed : Bool) (v : Nat) : Nat :=
  if type < 4 then
    let w := 8 * 2 ^ type
    if signed ∧ v.testBit (w - 1) then v + (2 ^ 64 - 2 ^ w) else v
  else if type = 4 ∧ func = 0 then fpWiden v
  else v

/-- Whether an element is a NaN as it stands in memory. -/
def elemNan (type v : Nat) : Bool := if type = 4 then fpIsNan fp32 v else if type = 5 then fpIsNan fp64 v else false

def reduceRun (d : Dev) (a : Agent) (j : Job) : EngRun JobRes :=
  let ty := j.opf % 8
  let signed := j.opf.testBit 3
  let func := j.opf / 16 % 4
  let n := elemBytes ty
  readBytes d a j.src j.len fun d b st =>
    if st ≠ 0 then .stop d (0, b.length / n * n, 0) st
    else
      let raw := (List.range (j.len / n)).map fun i => ofBytes ((b.drop (n * i)).take n)
      let es := raw.map (reduceElem ty func signed)
      let r := (es.drop 1).foldl (reduceStep ty func signed) (es.headD 0, 2 * b2n (raw.any (elemNan ty)))
      .ok d (r.2, j.len, r.1)

/-! ## ATOM (R256) -/

/-- An entry's operation. -/
def aopOf (code : Nat) : Option AtomOp :=
  [AtomOp.add, .swap, .cas, .and, .or, .xor, .smin, .smax, .umin, .umax][code]?

/-- One atomic of an engine, at the home of its line (R219, R220): the original value. -/
def engAtomic (d : Dev) (a : Agent) (addr : Nat) (op : AtomOp) (bits : Nat) (operand compare : Nat) : EngRun Nat :=
  let line := addr / 64
  let page := pageOfLine line
  let may := slateRight d a.slate page && decide (page < limitPages d (homeOf page)) && !quadFenced d (homeOf page) && zoneOf d page = .normal
  match (if may then engWriteNeed d line else none) with
  | some k => .wait none (some (line, k))
  | none =>
    let r : Req := { id := d.nextId, src := .engine (Fin.ofNat 4 a.q) (Fin.ofNat 8 a.lane), kind := .atm, op := .none, line, agent := 16 + a.q, slate := a.slate }
    let d := if tracked d line then atmRemember (conflictScore d r) r else d
    (engLoad d a line).bind
      (fun d x =>
        let (y, old) := lineAtomic x op bits (addr % 64) (BitVec.ofNat 128 operand) (BitVec.ofNat 128 compare)
        if y = x then .ok d old.toNat
        else (engStore d a line y none).bind (fun d _ => .ok d old.toNat) (fun d _ st => .stop d 0 st))
      (fun d _ st => .stop d 0 st)

/-- The entries of an ATOM job in order: how many are done and how many CAS failed. -/
def atomRun (d : Dev) (a : Agent) (j : Job) : EngRun JobRes :=
  readBytes d a j.src j.len fun d b st =>
    let step (d : Dev) (s : Nat × Nat) (e : Nat) : EngRun (Nat × Nat) :=
      let f (lo n : Nat) : Nat := ofBytes ((b.drop (32 * e + lo)).take n)
      let w := f 0 8
      let bits := if w.testBit 52 then 64 else 32
      let addr := w % 2 ^ 45
      match aopOf (w / 2 ^ 48 % 16) with
      | none => .stop d s 0x0A
      | some op =>
        if w / 2 ^ 45 % 8 ≠ 0 ∨ w / 2 ^ 53 ≠ 0 ∨ f 24 8 ≠ 0 ∨ addr % (bits / 8) ≠ 0 then .stop d s 0x0A
        else (engAtomic d a addr op bits (f 8 8) (f 16 8)).bind
          (fun d old =>
            let miss := op = .cas && old ≠ f 16 8 % 2 ^ bits
            (engWrite d a (j.dst + 8 * e) (bytesOf old 8)).bind (fun d _ => .ok d (s.1 + 1, s.2 + b2n miss)) (fun d _ st => .stop d s st))
          (fun d _ st => .stop d s st)
    let res (s : Nat × Nat) : JobRes := (b2n (0 < s.2), 32 * s.1, s.2)
    (runList step (List.range (b.length / 32)) d (0, 0)).bind (fun d s => jobEnd d (res s) st) (fun d s st2 => .stop d (res s) st2)

/-! ## XFER (R257) -/

/-- The next segment of a transfer: its source and destination DPA and its length, within one line of the peer. -/
def xferSeg (j : Job) : Nat × Nat × Nat :=
  let src := j.src + j.xfer.pos
  let dst := j.dst + j.xfer.pos
  let remote := if j.opf.testBit 6 then src else dst
  (src, dst, min (j.len - j.xfer.pos) (64 - remote % 64))

/-- Send the next segment of a transfer: an RD, a WR or a WRP under a tag of its own. -/
def xferSend (d : Dev) (a : Agent) (q l : Nat) (j : Job) : EngRun Dev :=
  let (src, dst, n) := xferSeg j
  let peer := j.opf % 64
  let busy (d : Dev) : Dev := setLane d q l (some { j with xfer := { j.xfer with open_ := 1 } })
  if j.opf.testBit 6 then
    match mwRequest d peer 0x01 j.slate (src / 64 * 64) [] (.xfer q l j.xfer.pos) with
    | some d => .ok d (busy d)
    | none => .wait none none
  else (engRead d a src n).bind
    (fun d b =>
      let off := dst % 64
      let x : Line := BitVec.ofNat 512 (ofBytes b <<< (8 * off))
      let r := if n = 64 then mwRequest d peer 0x02 j.slate dst (lineSlots x) (.xfer q l j.xfer.pos)
        else mwRequest d peer 0x03 j.slate (dst / 64 * 64) (BitVec.ofNat 128 ((2 ^ n - 1) <<< off) :: lineSlots x) (.xfer q l j.xfer.pos)
      match r with
      | some d => .ok d (busy d)
      | none => .wait none none)
    (fun d _ st => .stop d d st)

/-- One step of an XFER job: it completes, or sends its next segment once the last one is answered. -/
def xferRow (d : Dev) (q l : Nat) : Dev :=
  match laneJob d q l with
  | none => d
  | some j =>
    let a : Agent := { q, lane := l, slate := j.slate, late := j.late }
    let peer := j.opf % 64
    if j.op ≠ 10 ∨ j.xfer.open_ ≠ 0 then d
    else if j.xfer.bad ≠ 0 then finishJob d q l j j.xfer.bad (0, j.xfer.pos, 0)
    else if j.len ≤ j.xfer.pos then finishJob d q l j 0 (0, j.len, 0)
    else if (routeOf d peer).isNone then
      finishJob (noRoute d (rfld d (.mwt 0) .mwtRoute 2 0 peer) (if j.opf.testBit 6 then 0x01 else 0x02) (selfId d) peer) q l j 0x0C (0, j.xfer.pos, 0)
    else match xferSend d a q l j with
      | .ok _ d => d
      | .stop d _ st => finishJob d q l j st (0, j.xfer.pos, 0)
      | .wait room need =>
        let d := setLane d q l (some { j with roomQ := room })
        match need with
        | some (line, k) => engOpen d a line k
        | none => d

/-- The peer's answer to a segment: a bad status of R316 ends the job, else the segment is done; data read from the peer is written
here first. -/
def xferAnswer (d : Dev) (q l status : Nat) (data : Option Line) : Dev :=
  match laneJob d q l with
  | none => d
  | some j =>
    let (src, dst, n) := xferSeg j
    let bad (d : Dev) (st : Nat) : Dev := setLane d q l (some { j with xfer := { j.xfer with open_ := 0, bad := st } })
    let good (d : Dev) : Dev := setLane d q l (some { j with xfer := { j.xfer with open_ := 0, pos := j.xfer.pos + n } })
    let a : Agent := { q, lane := l, slate := j.slate, late := j.late }
    if status ≠ 0 then bad d (if status = 1 then 8 else if status = 2 then 9 else 0x0C)
    else match data with
      | none => good d
      | some x => match engWrite d a dst (lineBytes x (src % 64) n) with
        | .ok d _ => good d
        | .stop d _ st => bad d st
        | .wait _ need =>
          let d := setLane d q l (some { j with xfer := { j.xfer with open_ := 0 } })
          match need with
          | some (line, k) => engOpen d a line k
          | none => d

/-! ## The rows -/

def execCopy (q : Fin 4) (l : Fin 8) (s : State) : Host.Outcome State Fault Refusal :=
  doneIf s (clusterRuns s.dev q) fun d => jobRow d q l 1 copyRun
def execFill (q : Fin 4) (l : Fin 8) (s : State) : Host.Outcome State Fault Refusal :=
  doneIf s (clusterRuns s.dev q) fun d => jobRow d q l 2 fillRun
def execCmp (q : Fin 4) (l : Fin 8) (s : State) : Host.Outcome State Fault Refusal :=
  doneIf s (clusterRuns s.dev q) fun d => jobRow d q l 3 cmpRun
def execCrc (q : Fin 4) (l : Fin 8) (s : State) : Host.Outcome State Fault Refusal :=
  doneIf s (clusterRuns s.dev q) fun d => jobRow d q l 4 crcRun
def execScan (q : Fin 4) (l : Fin 8) (s : State) : Host.Outcome State Fault Refusal :=
  doneIf s (clusterRuns s.dev q) fun d => jobRow d q l 5 scanRun
def execReduce (q : Fin 4) (l : Fin 8) (s : State) : Host.Outcome State Fault Refusal :=
  doneIf s (clusterRuns s.dev q) fun d => jobRow d q l 6 reduceRun

/-- Whether a pack engine works on a lane's job, or none is left to (R92, R93). -/
def packTurn (d : Dev) (q l : Nat) : Bool := !packAvailable d q || (quad d q).engines.any fun e => e.work = some (.job l)

def execPack (q : Fin 4) (l : Fin 8) (s : State) : Host.Outcome State Fault Refusal :=
  doneIf s (clusterRuns s.dev q && packTurn s.dev q l) fun d => jobRow d q l 7 (packRun true)
def execUnpack (q : Fin 4) (l : Fin 8) (s : State) : Host.Outcome State Fault Refusal :=
  doneIf s (clusterRuns s.dev q && packTurn s.dev q l) fun d => jobRow d q l 8 (packRun false)
def execAtom (q : Fin 4) (l : Fin 8) (s : State) : Host.Outcome State Fault Refusal :=
  doneIf s (clusterRuns s.dev q) fun d => jobRow d q l 9 atomRun
def execXfer (q : Fin 4) (l : Fin 8) (s : State) : Host.Outcome State Fault Refusal :=
  doneIf s (clusterRuns s.dev q) fun d => xferRow d q l

/-! ## Ring commands (R263) -/

/-- The staged settings of RING_DESC, RING_COMP and RING_CFG. -/
def stagedPage (d : Dev) (q : Nat) (lo hi : RName) : Nat := (rget d (.nme q) lo).toNat + rfld d (.nme q) hi 0 0 * 2 ^ 32

/-- The selected ring. -/
def ringSel (d : Dev) (q : Nat) : Nat := rfld d (.nme q) .nmeRingSel 7 0

/-- Set RESULT. -/
def ringResult (d : Dev) (q n : Nat) : Dev := cmod d q fun c => { c with ringResult := n }

/-- Disable a ring: its fetched jobs that have not started complete ABORTED. -/
def ringAbort (d : Dev) (q i : Nat) : Dev :=
  let d := ringMod d q i fun r => { r with state := .stopping }
  let mine := (quad d q).cluster.queue.filter fun j => j.ring = i
  let d := cmod d q fun c => { c with queue := c.queue.filter fun j => j.ring ≠ i }
  mine.foldl (fun d j => completeJob d q j 0x0D 0 0 0) d

/-- A ring command. While the selected ring is Stopping its DISABLE is still being applied (BUSY). -/
def ringCommand (d : Dev) (q op : Nat) (secure : Bool) : Dev :=
  let i := ringSel d q
  let r := ringOf d q i
  let b := Block.nme q
  if r.state = .stopping then ringResult d q 1
  else match op with
  | 1 =>
    let put (d : Dev) (lo hi : RName) (p : Nat) : Dev := rput (rput d b lo (BitVec.ofNat 32 p)) b hi (BitVec.ofNat 32 (p / 2 ^ 32))
    let d := put (put d .nmeRingDescLo .nmeRingDescHi r.descPage) .nmeRingCompLo .nmeRingCompHi r.compPage
    let d := rput (rput (rput d b .nmeRingCfg r.cfg) b .nmeRingOwner (BitVec.ofNat 32 r.owner)) b .nmeRingHosts (r.hosts.setWidth 32)
    ringResult d q 0
  | 2 =>
    let cfg := rget d b .nmeRingCfg
    let dp := stagedPage d q .nmeRingDescLo .nmeRingDescHi
    let cp := stagedPage d q .nmeRingCompLo .nmeRingCompHi
    if r.state ≠ .off then ringResult d q 2
    else if fld cfg 4 0 < 4 ∨ 16 < fld cfg 4 0 ∨ limitPages d 0 ≤ dp ∨ limitPages d 0 ≤ cp then ringResult d q 3
    else ringResult (ringMod d q i fun r => { r with descPage := dp, compPage := cp, cfg, head := 0, tail := 0, pass := 1, state := .running }) q 0
  | 3 => if r.state = .running ∨ r.state = .error then ringAbort d q i else ringResult d q 2
  | 4 => if r.state = .error then ringResult (ringMod d q i fun r => { r with state := .running }) q 0 else ringResult d q 2
  | 5 =>
    if ¬ secure then ringResult d q 4
    else if r.state ≠ .off then ringResult d q 2
    else ringResult (ringMod d q i fun r => { r with owner := rfld d b .nmeRingOwner 17 0, hosts := (rget d b .nmeRingHosts).setWidth 16 }) q 0
  | _ => ringResult d q 2

/-- The last running job of a Stopping ring has finished: the ring is Off. -/
def ringStopped (d : Dev) (q i : Nat) : Dev :=
  if (ringOf d q i).state = .stopping ∧ ¬ (runningJobs d q).any (fun l => l.2.ring = i) then
    ringResult (ringMod d q i fun r => { r with state := .off }) q 0
  else d

def execRingStopped (q : Fin 4) (i : BitVec 8) (s : State) : Host.Outcome State Fault Refusal := done s (ringStopped s.dev q i.toNat)

end Sys2Proof.Machine
end

