-- ==== Sys2Proof/Machine/Calibration.lean ====
section
/-! DEFINITION. Calibration (19): slicer selection (R419, R420), matched delays (R421 to R423), the calibration store (R424 to
R429) and the training record of a channel (R197). -/

namespace Sys2Proof.Machine

/-! ## The store -/

/-- Units of 16 bytes that a sector has after its header (R424). -/
def sectorUnits : Nat := 255
/-- Erases after which a sector is retired (R427). -/
def eraseLimit : Nat := 100000

/-- A sector of the store. -/
def calSector (c : Cal) (i : Nat) : Sector := c.sectors.getD i {}
/-- Change a sector. -/
def sectorMod (c : Cal) (i : Nat) (f : Sector → Sector) : Cal := { c with sectors := c.sectors.set i (f (calSector c i)) }
/-- The units a sector holds. -/
def unitsUsed (s : Sector) : Nat := (s.recs.map fun r => r.1.units).sum

/-- The newest copy of a key in the Working sectors (R426). -/
def newestCopy (c : Cal) (kind key : Nat) : Option (CalRec × Nat) :=
  (((c.sectors.filter fun s => s.st = 1).flatMap (·.recs)).filter fun r => r.1.kind = kind && r.1.key = key).foldl
    (fun a r => match a with
      | none => some r
      | some x => if x.2 < r.2 then some r else some x) none

/-- The write counter of the newest copy of a key, 0 for none. -/
def newestCount (c : Cal) (kind key : Nat) : Nat := match newestCopy c kind key with
  | some r => r.2
  | none => 0

/-- The copies of a sector that are the newest of their keys. -/
def newestIn (c : Cal) (i : Nat) : List (CalRec × Nat) := (calSector c i).recs.filter fun r => newestCount c r.1.kind r.1.key = r.2

/-- The Working sectors that are erased and not being written. -/
def erasedAhead (c : Cal) : List Nat :=
  (List.range c.sectors.length).filter fun i => (calSector c i).st = 1 && (calSector c i).recs.isEmpty && i ≠ c.writeAt && c.erasing ≠ some i

/-- The oldest Working sector is emptied: its newest copies go to the write point, and it is erased, or retired for the
lowest-numbered Spare (R427), or the store ends (R428). -/
def compact (d : Dev) : Dev :=
  match d.cal.order with
  | [] => d
  | old :: rest =>
    let keep := newestIn d.cal old
    let c := sectorMod d.cal d.cal.writeAt fun s => { s with recs := s.recs ++ keep }
    if (calSector c old).erases < eraseLimit then { d with cal := { c with order := rest, erasing := some old } }
    else match (List.range c.sectors.length).find? fun i => (calSector c i).st = 0 with
      | some spare =>
        let c := sectorMod (sectorMod { c with order := rest } old fun s => { s with st := 2 }) spare fun s => { s with st := 1 }
        raise0 (raiseEvent { d with cal := c } .cal 1) .cal 1
      | none => raise0 { d with cal := { d.cal with readOnly := true, queue := [] } } .cal 2

/-- The write point moves to the next erased sector, and one more is erased ahead of it (R427). -/
def nextSector (d : Dev) : Dev :=
  match erasedAhead d.cal with
  | [] => d
  | i :: more =>
    let d := { d with cal := { d.cal with writeAt := i, order := d.cal.order ++ [i] } }
    if more.isEmpty then compact d else d

/-- Append the record at the head of the queue (R425, R427). -/
def appendRecord (d : Dev) (r : CalRec) (rest : List CalRec) : Dev :=
  let add (s : Sector) : Sector := { s with recs := s.recs ++ [(r, newestCount d.cal r.kind r.key + 1)] }
  raiseEvent { d with cal := { sectorMod d.cal d.cal.writeAt add with queue := rest } } .cal 0

/-- Whether the store may start a programme: Rolling, not stopped, nothing being erased (R429). -/
def calWrites (d : Dev) : Bool :=
  (pget d .cal).run = .rolling && !d.cal.sectors.isEmpty && !d.cal.readOnly && d.cal.erasing.isNone

/-- The record at the head of the queue is programmed (R427, R428). -/
def calProgram (d : Dev) : Dev :=
  match d.cal.queue with
  | [] => d
  | r :: rest =>
    if 0xFFFFFFFF ≤ newestCount d.cal r.kind r.key then
      let d := { d with cal := { d.cal with queue := rest } }
      if d.cal.ended.contains (r.kind, r.key) then d
      else raise0 { d with cal := { d.cal with ended := (r.kind, r.key) :: d.cal.ended } } .cal 3
    else if unitsUsed (calSector d.cal d.cal.writeAt) + r.units ≤ sectorUnits then appendRecord d r rest
    else
      let d := nextSector d
      if d.cal.readOnly ∨ sectorUnits < unitsUsed (calSector d.cal d.cal.writeAt) + r.units then d else appendRecord d r rest

/-- A hold-up flush or a halt: the programme that runs may finish, the pending records are lost (R429). -/
def calStop (d : Dev) : Dev := { d with cal := { d.cal with stopped := true, queue := if calWrites d then d.cal.queue.take 1 else [] } }

/-! ## Slicers -/

/-- CFG.SLICER_AUTO and CFG.DELAY_TRIM (R431). -/
def slicerAuto (d : Dev) : Bool := (rget d .cal .calCfg).getLsbD 0
def delayTrim (d : Dev) : Bool := (rget d .cal .calCfg).getLsbD 1

/-- The best eligible set: the lowest score, the lower index on a tie (R419). -/
def bestSet (scores : List (Option Nat)) : Option Nat :=
  (scores.zipIdx.foldl (fun (a : Option (Nat × Nat)) e => match e.1, a with
    | some v, some x => if v < x.1 then some (v, e.2) else a
    | some v, none => some (v, e.2)
    | none, _ => a) none).map (·.2)

/-- A lane's slicers. -/
def slicer (d : Dev) (lane : Nat) : Slicer := tabGet {} d.cal.lanes lane
/-- Change a lane's slicers. -/
def slicerMod (d : Dev) (lane : Nat) (f : Slicer → Slicer) : Dev := { d with cal := { d.cal with lanes := tabMod {} d.cal.lanes lane f } }

/-- The slicer record of a brick (R425). -/
def slicerRecord (d : Dev) (b : Nat) : Dev := calPut d 1 b ((List.range 8).map fun i => (slicer d (8 * b + i)).set)

/-- A lane without an eligible set counts as out of block lock (R420). -/
def slicerFails (d : Dev) (lane : Nat) : Dev :=
  let b := lane / 8
  let d := if d.marwen.getLsbD b then mportMod d b fun m => { m with lock := m.lock &&& ~~~(BitVec.ofNat 8 (2 ^ (lane % 8))) } else d
  raise d .cal 4 .none (ctxChecker .cal 0 lane)

/-- The scores of a lane are kept as SLICER_SCORE shows them: a set that is not eligible shows the top of its field. -/
def slicerScored (s : Slicer) (best : Nat) (scores : List (Option Nat)) : Slicer :=
  { s with valid := true, best, scores := (scores.map fun x => min (x.getD 0x3FF) 0x3FF) }

/-- During training the lane takes the best set (R420). -/
def slicerTrain (d : Dev) (lane : Nat) (scores : List (Option Nat)) : Dev :=
  match bestSet scores with
  | none => slicerFails d lane
  | some k =>
    let was := (slicer d lane).set
    let d := slicerMod d lane fun s => { slicerScored s k scores with set := k, pending := false }
    if was = k then d else slicerRecord d (lane / 8)

/-- The lanes of a training: list element i is lane i from `lane0` on; a lane with no scores was not trained. -/
def slicersTrain (d : Dev) (lane0 : Nat) (sets : List (List (Option Nat))) : Dev :=
  (sets.zipIdx.filter fun e => !e.1.isEmpty).foldl (fun d e => slicerTrain d (lane0 + e.2) e.1) d

/-- In service a set that scores lower by at least 8 waits for the next retrain (R420). -/
def slicerService (d : Dev) (lane : Nat) (scores : List (Option Nat)) : Dev :=
  match bestSet scores with
  | none => slicerFails d lane
  | some k =>
    let s := slicer d lane
    let gains : Bool := match scores.getD k none, scores.getD s.set none with
      | some v, some cur => decide (v + 8 ≤ cur)
      | some _, none => true
      | none, _ => false
    let d := slicerMod d lane fun s => slicerScored s k scores
    if k ≠ s.set ∧ gains then raiseEvent (slicerMod d lane fun s => { s with pending := true }) .cal 2 else d

/-- Whether the lane's link trains: a Marwen port before Active or recovering, a host port that is down. -/
def laneTrains (d : Dev) (lane : Nat) : Bool :=
  let b := lane / 8
  if d.marwen.getLsbD b then (mport d b).state ≠ 3 || (mport d b).recovering
  else (brickPorts d b).all fun p => !(port d p).up

/-! ## Matched delays -/

/-- A stage number: the page of its block, its stage group and its place in the group, eight bits each below the page. -/
def stageNo (page grp i : Nat) : Nat := page * 2 ^ 16 + grp * 2 ^ 8 + i
/-- The page and group of a stage: the key of its record (R425). -/
def stageGroup (stage : Nat) : Nat := stage / 2 ^ 8

/-- The fencing unit that holds a stage (R432). -/
def stageUnit (d : Dev) (stage : Nat) : FUnit :=
  let grp := stage / 2 ^ 8 % 2 ^ 8
  match blockAt d.marwen (stage / 2 ^ 16) with
  | some (.qctl q) | some (.map q) | some (.stage q) | some (.coat q) | some (.dir q) => .quadrant (Fin.ofNat 4 q)
  | some (.pack q) => .packEngine (Fin.ofNat 4 q) (Fin.ofNat 2 grp)
  | some (.seal q) => .sealPipe (Fin.ofNat 4 q) (Fin.ofNat 4 grp)
  | some (.nme q) => .cluster (Fin.ofNat 4 q)
  | some (.dmc c) | some (.dphy c) => .channel (Fin.ofNat 16 c)
  | some (.hpt b) | some (.mwl b) | some (.mwt b) => .brick (Fin.ofNat 8 b)
  | _ => .none

/-- A stage's delay line. -/
def delay (d : Dev) (stage : Nat) : Delay := tabGet {} d.cal.stages stage
/-- Change a stage's delay line. -/
def delayPut (d : Dev) (stage : Nat) (x : Delay) : Dev := { d with cal := { d.cal with stages := tabPut {} d.cal.stages stage x } }

/-- The number of set bits of an 8-bit mask. -/
def bits8 (m : Nat) : Nat := ((List.range 8).filter fun i => m.testBit i).length
/-- The masks a search tries, in order: n from 1 to 7 bits, ascending within each n (R421). -/
def searchOrder : List Nat := (List.range 7).flatMap fun n => (List.range 256).filter fun m => bits8 m = n + 1
/-- The mask tried after `m`. -/
def nextMask (m : Nat) : Option Nat := (searchOrder.dropWhile (· ≠ m)).drop 1 |>.head?
/-- The lowest-numbered unused segment of a mask. -/
def unusedSeg (m : Nat) : Option Nat := (List.range 8).find? fun i => !m.testBit i

/-- The body of a delay record: a MASK byte for each stage, then the guard numbers, two in a byte, 15 for none (R425). -/
def delayBody (l : List (Nat × Option Nat)) : List Nat :=
  let g (i : Nat) : Nat := match l[i]? with
    | some x => x.2.getD 15
    | none => 15
  l.map (·.1) ++ (List.range ((l.length + 1) / 2)).map fun i => g (2 * i) + 16 * g (2 * i + 1)
/-- The stages a body of that form describes. -/
def bodyDelays (body : List Nat) : List (Nat × Option Nat) :=
  let n := 2 * body.length / 3
  (List.range n).map fun i =>
    let g := body.getD (n + i / 2) 0xFF / (if i % 2 = 0 then 1 else 16) % 16
    (body.getD i 0xFF, if g < 8 then some g else none)

/-- The stored setting of a stage: a record that waits in the queue is the newest. -/
def storedDelays (d : Dev) (grp : Nat) : List (Nat × Option Nat) :=
  match d.cal.queue.find? fun r => r.kind = 2 && r.key = grp with
  | some r => bodyDelays r.body
  | none => match newestCopy d.cal 2 grp with
    | some r => bodyDelays r.1.body
    | none => []

/-- Write the delay record of a stage's group: a stage not yet calibrated keeps what is stored. -/
def delayRecord (d : Dev) (stage : Nat) : Dev :=
  let grp := stageGroup stage
  let old := storedDelays d grp
  let mine := (d.cal.stages.filter fun e => stageGroup e.1 = grp && e.2.done).map fun e => e.1 % 2 ^ 8
  let n := mine.foldl (fun a i => max a (i + 1)) old.length
  calPut d 2 grp (delayBody ((List.range n).map fun i =>
    let x := delay d (grp * 2 ^ 8 + i)
    if x.done then (x.mask, x.guard) else old.getD i (0xFF, none)))

/-- The stage takes a mask: its search or check is over. -/
def delayTake (d : Dev) (stage mask : Nat) (guard : Option Nat) (rec : Bool) : Dev :=
  let d := delayPut d stage { mask, guard, done := true }
  if rec then delayRecord d stage else d

/-- The first trial of a stage: the stored mask without its guard, else the first mask of the search (R421, R422). -/
def firstTrial (d : Dev) (stage : Nat) : Delay :=
  match (storedDelays d (stageGroup stage))[stage % 2 ^ 8]? with
  | some (m, some g) => { mask := m, guard := some g, trying := some (m &&& (255 ^^^ 2 ^ g)), checking := true }
  | some (m, none) => { mask := m, trying := some m, checking := true }
  | none => { trying := some 1 }

/-- A trial ends (R421, R422). -/
def delayTrial (d : Dev) (stage misses : Nat) : Dev :=
  let x := if (delay d stage).trying.isSome then delay d stage else firstTrial d stage
  match x.trying with
  | none => d
  | some m =>
    if misses = 0 then
      if x.checking then delayTake d stage x.mask x.guard false
      else match unusedSeg m with
        | some g => delayTake d stage (m ||| 2 ^ g) (some g) true
        | none => delayTake d stage m none true
    else if x.checking then delayPut d stage { trying := some 1 }
    else match nextMask m with
      | some m' => delayPut d stage { trying := some m' }
      | none => raise (delayTake d stage 0xFF none true) .cal 5 (stageUnit d stage) (ctxChecker .cal stage 0)

/-! ## The commands -/

/-- Meaning of SLICER_RESCORE (R419, R420). -/
def execSlicerRescore (lane : Fin 64) (scores : List (Option Nat)) (s : State) : Host.Outcome State Fault Refusal :=
  if laneTrains s.dev lane then done s (slicerTrain s.dev lane scores)
  else doneIf s (slicerAuto s.dev) fun d => slicerService d lane scores

/-- Meaning of DELAY_TRIAL_DONE (R421, R422). -/
def execDelayTrialDone (stage nearMisses : Nat) (s : State) : Host.Outcome State Fault Refusal :=
  doneIf s (!(delay s.dev stage).done) fun d => delayTrial d stage nearMisses

/-- Meaning of NEAR_MISS (R423). -/
def execNearMiss (stage : Nat) (s : State) : Host.Outcome State Fault Refusal :=
  let d := rbump s.dev .cal .calNearMiss
  let x := delay d stage
  done s (if ¬ delayTrim d ∨ ¬ x.done then d
    else if x.mask = 0xFF then raise d .cal 5 (stageUnit d stage) (ctxChecker .cal stage 0)
    else delayPut d stage { x with trim := true })

/-- Meaning of MATCHED_DELAY_TRIM (R423). -/
def execMatchedDelayTrim (stage : Nat) (s : State) : Host.Outcome State Fault Refusal :=
  doneIf s (delay s.dev stage).trim fun d =>
    let x := delay d stage
    match unusedSeg x.mask with
    | some g => delayRecord (rbump (delayPut d stage { x with mask := x.mask ||| 2 ^ g, trim := false }) .cal .calTrimCount) stage
    | none => delayPut d stage { x with trim := false }

/-- Meaning of CAL_RECORD_PROGRAMMED (R427 to R429). -/
def execCalRecordProgrammed (s : State) : Host.Outcome State Fault Refusal := doneIf s (calWrites s.dev) calProgram

/-- Meaning of CAL_SECTOR_ERASE_DONE (R427). -/
def execCalSectorEraseDone (s : State) : Host.Outcome State Fault Refusal :=
  match s.dev.cal.erasing with
  | none => still s
  | some i => done s { s.dev with cal := { sectorMod s.dev.cal i fun x => { x with recs := [], erases := x.erases + 1 } with erasing := none } }

/-- The training record of a channel (R197, R425): channel, slot 0 and the rate code; its values are not modelled, so the body
is its layout version. -/
def trainingRecord (d : Dev) (c : Nat) : Dev := calPut d 3 (c * 2 ^ 16) [1]

/-- Meaning of DDR_TRAINING_DONE (R197, R201): TRAIN_STAT says which path was taken; a failure in Boot is met by step 7. -/
def execDdrTrainingDone (c : Fin 16) (r : TrainResult) (s : State) : Host.Outcome State Fault Refusal :=
  doneIf s (s.dev.pwr.dom.getLsbD (Block.dphy c).domain && !s.dev.pwr.pads.getLsbD (c / 4)) fun d => match r with
    | .stored => rput d (.dphy c) .dphyTrainStat (packW [(0, 1), (2, 1)])
    | .full => trainingRecord (rput d (.dphy c) .dphyTrainStat (packW [(0, 2), (2, 1)])) c
    | .fail step rank => rput d (.dphy c) .dphyTrainStat (packW [(3, 1), (4, step.toNat), (8, rank.toNat)])

end Sys2Proof.Machine
end

