-- ==== Sys2Proof/Machine/Ports.lean ====
section
/-! DEFINITION. The host ports (12): training and its end (R268 to R271, R275), decoder commit (R202), L0p (R277), the lane test and
histogram hardware of a brick (R279, R280), and SPDM (R148, R272). -/

namespace Sys2Proof.Machine

/-! ## Training (R270, R271, R447) -/

/-- Whether a domain is on. -/
def domOn (d : Dev) (i : Nat) : Bool := d.pwr.dom.getLsbD i

/-- The lanes of a port's layout (R268). -/
def portLanes (d : Dev) (p : Nat) : Nat :=
  match rfld d (.hpt (p / 2)) .hptCfg 1 0 with
  | 1 => 4
  | 2 => 16
  | _ => 8
/-- The first lane of a port. -/
def portLane0 (p : Nat) : Nat := 4 * p
/-- The bricks of a port: two for an x16 port (R269). -/
def portBricks (d : Dev) (p : Nat) : List Nat := if portLanes d p = 16 then [p / 2, p / 2 + 1] else [p / 2]

/-- Whether a port may train: it exists, PERST_N is deasserted, its bricks are powered, Rolling and not under test. -/
def mayTrain (d : Dev) (p : Nat) : Bool :=
  portPresent d p && !(port d p).perst && bootTrains d && d.pwr.mode ≠ .retain && !d.flt.haltOn && !d.flt.haltRunning && d.pwr.warm.isNone
    && (portBricks d p).all fun b =>
      clocked d (12 + b) && !(tabGet {} d.bricks b).testing && ((pget d (.hpt b)).run = .rolling)

/-- The rate a port trains to (R270, R271). -/
def trainRate (d : Dev) (p partner : Nat) : Nat :=
  let cfg := rget d (.hpt (p / 2)) .hptCfg
  let top := min partner (fld cfg 4 2)
  if cfg.getLsbD 5 then min top 5 else top

/-- A port's training ends (R270); its lanes take their slicer sets (R420). -/
def hostUp (d : Dev) (p partner width : Nat) (sets : List (List (Option Nat))) : Dev :=
  let d := slicersTrain d (portLane0 p) sets
  let w := min width (portLanes d p)
  let d := portMod d p fun x =>
    { x with up := true, rate := trainRate d p partner, width := if d.pwr.sub = 2 then 1 else w, trained := w, memActive := d.pwr.mode ≠ .boot }
  send (raiseEvent d (.hpt (p / 2)) (p % 2)) (.hostLinkUp p)

/-- Meaning of HOST_LINK_UP (R270, R447). -/
def execHostLinkUp (p : Fin 16) (partnerRate : Fin 7) (width : Fin 17) (sets : List (List (Option Nat))) (s : State) :
    Host.Outcome State Fault Refusal :=
  doneIf s (mayTrain s.dev p && !(port s.dev p).up && decide (0 < width.val)) fun d => hostUp d p partnerRate width sets

/-- Meaning of HOST_LINK_DOWN (R275). -/
def execHostLinkDown (p : Fin 16) (s : State) : Host.Outcome State Fault Refusal := done s (hostDown s.dev p)

/-- Meaning of PERST_N_ASSERT (R275, R447). -/
def execPerstNAssert (p : Fin 16) (s : State) : Host.Outcome State Fault Refusal :=
  done s (portMod (hostDown s.dev p) p fun x => { x with perst := true, wasReset := true })

/-! ## Decoders (R45, R202) -/

/-- The end of the DB window that a frame lies in. -/
def dbEnd (d : Dev) (frame : Nat) : Option Nat :=
  (List.range 16).findSome? fun w =>
    let b := rget d (.dir 0) .dirDbWinBase w
    let e := fld b 23 0 + rfld d (.dir 0) .dirDbWinLen 24 0 w
    if b.getLsbD 31 ∧ fld b 23 0 ≤ frame ∧ frame < e then some e else none

/-- Whether every frame of [lo, hi) is tracked. -/
def allTracked (d : Dev) : Nat → Nat → Nat → Bool
  | 0, lo, hi => decide (hi ≤ lo)
  | n + 1, lo, hi => decide (hi ≤ lo) || match dbEnd d lo with
    | some e => allTracked d n e hi
    | none => false

/-- Whether no frame of [lo, hi) is tracked. -/
def noneTracked (d : Dev) (lo hi : Nat) : Bool :=
  (List.range 16).all fun w =>
    let b := rget d (.dir 0) .dirDbWinBase w
    let e := fld b 23 0 + rfld d (.dir 0) .dirDbWinLen 24 0 w
    !b.getLsbD 31 || decide (hi ≤ fld b 23 0) || decide (e ≤ lo)

/-- The frames a decoder decodes into: its share of the range, from its first DPA on. -/
def hdmFrames (h : Hdm) : Nat × Nat := (h.dpaBase / 2 ^ 21, (h.dpaBase + h.size / h.ways + 2 ^ 21 - 1) / 2 ^ 21)

/-- Whether a decoder may commit: ways and granularity as R45 lists them, an extent of addresses, and the tracked rule of R202. -/
def hdmOk (d : Dev) (h : Hdm) : Bool :=
  let (lo, hi) := hdmFrames h
  [1, 2, 3, 4, 6, 8, 12, 16].contains h.ways && [256, 512, 1024, 2048, 4096, 8192, 16384].contains h.gran && decide (0 < h.size)
    && (if h.db then allTracked d 17 lo hi else noneTracked d lo hi)

/-- Meaning of HDM_DECODER_COMMIT (R45, R202): a decoder that breaks the rule shows Error Not Committed. -/
def execHdmDecoderCommit (p : Fin 16) (i : Fin 4) (base size : BitVec 64) (ways gran pos : Nat) (dpaBase : Dpa) (db : Bool) (s : State) :
    Host.Outcome State Fault Refusal :=
  doneIf s (port s.dev p).up fun d =>
    let h : Hdm := { base := base.toNat, size := size.toNat, ways, gran, pos, dpaBase := dpaBase.toNat, db }
    let ok := hdmOk d h
    portMod d p fun x => { x with hdm := tabPut {} x.hdm i { h with committed := ok, error := !ok } }

/-- Meaning of L0P_WIDTH_CHANGE (R277): accepted up to the trained width. -/
def execL0pWidthChange (p : Fin 16) (width : Fin 17) (s : State) : Host.Outcome State Fault Refusal :=
  doneIf s ((port s.dev p).up && decide (0 < width.val) && decide (width.val ≤ (port s.dev p).trained)) fun d =>
    portMod d p fun x => { x with width }

/-! ## Lane test and histogram (R279, R280) -/

/-- A brick's test hardware. -/
def brick (d : Dev) (b : Nat) : Brick := tabGet {} d.bricks b
/-- Change it. -/
def brickMod (d : Dev) (b : Nat) (f : Brick → Brick) : Dev := { d with bricks := tabMod {} d.bricks b f }

/-- PRBS_CTL in force on a brick. -/
def prbsCtl (d : Dev) (b : Nat) : Word := if d.marwen.getLsbD b then rget d (.mwl b) .mwlPrbsCtl else rget d (.hpt b) .hptPrbsCtl
/-- HIST_CTL of a brick. -/
def histCtl (d : Dev) (b : Nat) : Word := if d.marwen.getLsbD b then rget d (.mwl b) .mwlHistCtl else rget d (.hpt b) .hptHistCtl

/-- PRBS_CTL comes into force at ACTION (R279): the links go down, the counters are cleared; or the test stops and the links retrain. -/
def prbsApply (d : Dev) (b : Nat) : Dev :=
  let c := prbsCtl d b
  if c.getLsbD 4 then
    let d := brickMod (brickDown d b) b fun x => { x with testing := true, errs := if c.getLsbD 3 then [] else x.errs, lock := 0 }
    if d.marwen.getLsbD b then mportMod d b fun m => { m with state := 0 } else d
  else linkTry (brickMod d b fun x => { x with testing := false, lock := 0 }) b

/-- START of HIST_CTL (R280): DONE is cleared and a count begins, or begins again. -/
def histBegin (d : Dev) (b : Nat) : Dev := brickMod d b fun x => { x with histDone := false, histRun := true }

/-- Whether a brick's lanes run an NRZ rate: PRBS7 and PRBS31 are sent as NRZ; a host link up to 32 GT/s is; a Marwen link is PAM4. -/
def brickNrz (d : Dev) (b : Nat) : Bool :=
  if (brick d b).testing then fld (prbsCtl d b) 1 0 ≠ 1
  else if d.marwen.getLsbD b then false
  else (brickPorts d b).all fun p => decide ((port d p).rate < 5)

/-- Meaning of HIST_DONE (R280): counts and offsets are stored, DONE set and the event raised. At NRZ rates levels 1 and 2 are not counted. -/
def execHistDone (b : Fin 8) (counts : List Word) (offsets : Word) (s : State) : Host.Outcome State Fault Refusal :=
  doneIf s (brick s.dev b).histRun fun d =>
    let mw := d.marwen.getLsbD b
    let nrz := brickNrz d b
    let d := (List.range 4).foldl (fun d k =>
      let v : Word := if nrz ∧ (k = 1 ∨ k = 2) then 0 else counts.getD k 0
      if mw then rput d (.mwl b) .mwlHistCnt v k else rput d (.hpt b) .hptHistCnt v k) d
    let o := if nrz then offsets &&& 0xFF0000FF else offsets
    let d := if mw then rput d (.mwl b) .mwlHistOfs o else rput d (.hpt b) .hptHistOfs o
    raiseEvent (brickMod d b fun x => { x with histDone := true, histRun := false }) (brickBlock d b) 2

/-- Meaning of PRBS_CHECKER_LOCK (R279, R282): the lane's lock, and the errors its checker has counted since it last reported. -/
def execPrbsCheckerLock (b : Fin 8) (lane : Fin 8) (locked : Bool) (errors : BitVec 48) (s : State) : Host.Outcome State Fault Refusal :=
  doneIf s ((brick s.dev b).testing && (prbsCtl s.dev b).getLsbD 3) fun d =>
    brickMod d b fun x =>
      { x with lock := if locked then x.lock ||| BitVec.ofNat 8 (2 ^ lane.val) else x.lock &&& ~~~(BitVec.ofNat 8 (2 ^ lane.val)),
               errs := tabMod 0 x.errs lane fun v => BitVec.ofNat 48 (min (v.toNat + errors.toNat) (2 ^ 48 - 1)) }

/-! ## SPDM (R148, R272) -/

/-- Whether the secure island is up and answers. -/
def islandUp (d : Dev) : Bool := domOn d 2

/-- Meaning of SPDM_DOE (R148, R272): the secure island's answer, over the port's DOE mailbox. -/
def execSpdmDoe (p : Fin 16) (_msg answer : List Byte) (s : State) : Host.Outcome State Fault Refusal :=
  doneIf s ((port s.dev p).up && islandUp s.dev) fun d => send d (.spdm (some p) answer)

/-- Meaning of SPDM_OVER_MCTP (R26, R272): the same over the sideband. -/
def execSpdmOverMctp (_msg answer : List Byte) (s : State) : Host.Outcome State Fault Refusal :=
  doneIf s (islandUp s.dev) fun d => send d (.spdm none answer)

end Sys2Proof.Machine
end

