-- ==== Sys2Proof/Machine/Flit.lean ====
section
/-! DEFINITION. Marwen flits (13): the header (R288), FEC and CRC (R289, R290), the slots (R291), the LCTL, NAK and SACK forms (R300,
R302) and the encryption framing (R305). -/

namespace Sys2Proof.Machine

/-! ## Header (R288) -/

/-- The fields of a flit header. -/
structure Hdr where
  typ : Nat
  enc : Bool := false
  ks : Bool := false
  ackv : Bool := false
  seq : Nat := 0
  ack : Nat := 0
  ccseq : Nat := 0
  crch : Nat := 7
  crcnt : Nat := 0
deriving DecidableEq, Repr

/-- The 64 bits of a header. -/
def Hdr.bits (h : Hdr) : Nat :=
  h.typ % 16 + b2n h.enc * 2 ^ 4 + b2n h.ks * 2 ^ 5 + b2n h.ackv * 2 ^ 6 + h.seq % 4096 * 2 ^ 8 + h.ack % 4096 * 2 ^ 20
    + h.ccseq % 1024 * 2 ^ 32 + h.crch % 8 * 2 ^ 42 + h.crcnt % 1024 * 2 ^ 45

/-- The header of 64 bits. -/
def hdrOf (v : DWord) : Hdr :=
  { typ := fld v 3 0, enc := v.getLsbD 4, ks := v.getLsbD 5, ackv := v.getLsbD 6, seq := fld v 19 8, ack := fld v 31 20,
    ccseq := fld v 41 32, crch := fld v 44 42, crcnt := fld v 54 45 }

/-! ## FEC and CRC (R289, R290) -/

/-- CRC-64 of ECMA-182 as R290 uses it. -/
def crc64 (bytes : List Byte) : Nat := bytes.foldl (crcByte 64 0x42F0E1EBA9EA3693) (2 ^ 64 - 1) ^^^ (2 ^ 64 - 1)

/-- The 256 bytes of a flit. -/
def flitBytes (f : BitVec 2048) : List Byte := bytesOf f.toNat 256

/-- The information symbols of codeword k among 240 bytes. -/
def fecInfo (l : List Byte) (k : Nat) : List Nat := (List.range 120).map fun i => (l.getD (2 * i + k) 0).toNat

/-- 240 bytes with their 16 check bytes (R289). -/
def fecAdd (l : List Byte) : List Byte :=
  let c0 := rsCheck 8 (fecInfo l 0)
  let c1 := rsCheck 8 (fecInfo l 1)
  l ++ (List.range 8).flatMap fun j => [BitVec.ofNat 8 (c0.getD j 0), BitVec.ofNat 8 (c1.getD j 0)]

/-- The 240 bytes after correction of up to 4 symbols in each codeword: none where one has more. -/
def fecFix (l : List Byte) : Option (List Byte) :=
  let word (k : Nat) : List Nat := (List.range 8).map (fun j => (l.getD (240 + 2 * j + k) 0).toNat) ++ fecInfo l k
  match rsCorrect 8 4 [] (word 0), rsCorrect 8 4 [] (word 1) with
  | some a, some b => some ((List.range 240).map fun n => BitVec.ofNat 8 ((if n % 2 = 0 then a else b).getD (8 + n / 2) 0))
  | _, _ => none

/-! ## Slots -/

/-- The 14 slots of 224 payload bytes. -/
def slotsOf (l : List Byte) : List (BitVec 128) := (List.range 14).map fun k => BitVec.ofNat 128 (ofBytes ((l.drop (16 * k)).take 16))
/-- The 224 payload bytes of up to 14 slots; the rest is zero. -/
def slotBytes (s : List (BitVec 128)) : List Byte := (List.range 14).flatMap fun k => bytesOf (s.getD k 0).toNat 16
/-- The slot that holds a null lead. -/
def nullLead : BitVec 128 := 7

/-! ## Encryption (R305) -/

/-- The IV of a flit: stream (true for CC), direction (true when the follower sent it) and counter. -/
def flitIv (cc follower : Bool) (ctr : DWord) : BitVec 96 := BitVec.ofNat 96 (b2n cc + 2 * b2n follower + ctr.toNat * 2 ^ 32)

/-- The index of a Marwen key (R342): port, key set, direction (true for transmit). -/
def mwKeyIdx (b : Nat) (set_ transmit : Bool) : Nat := b + 8 * b2n set_ + 16 * b2n transmit
/-- A Marwen key. -/
def mwKey (d : Dev) (b : Nat) (set_ transmit : Bool) : Option (BitVec 256) := tabGet none d.mwKeys (mwKeyIdx b set_ transmit)

/-- A flit of a header and slots, with CRC-64 or, given a key and IV, encrypted with its tag; FEC at its end. -/
def mkFlit (h : Hdr) (slots : List (BitVec 128)) (key : Option (BitVec 256 × BitVec 96)) : BitVec 2048 :=
  let hb := bytesOf h.bits 8
  let pb := slotBytes slots
  let body := match key with
    | none => hb ++ pb ++ bytesOf (crc64 (hb ++ pb)) 8
    | some (k, iv) =>
      let c := Config.gcmCrypt k iv pb
      hb ++ c ++ bytesOf (Config.gcmLinkTag k iv hb c).toNat 8
  BitVec.ofNat 2048 (ofBytes (fecAdd (body.take 240)))

/-! ## Numbers (R294, R298) -/

/-- (a − b) modulo 4,096. -/
def seqDist (a b : Nat) : Nat := (a + 4096 - b % 4096) % 4096
/-- (a − b) modulo 1,024. -/
def ccDist (a b : Nat) : Nat := (a + 1024 - b % 1024) % 1024
/-- A distance as a signed 64-bit step. -/
def signedStep (m dist : Nat) : DWord := if dist < m / 2 then BitVec.ofNat 64 dist else 0 - BitVec.ofNat 64 (m - dist)

/-! ## What a received flit is -/

/-- The kinds of received flit that the rules tell apart. -/
inductive FlitKind where
  | bad (tag : Bool)
  | reserved | data | cc | idle | nak | sack
  | lctl (op : Nat)
deriving DecidableEq, Repr

/-- The kind of a good flit by its TYPE (R288, R302). -/
def kindOf (h : Hdr) (slots : List (BitVec 128)) : FlitKind :=
  match h.typ with
  | 0 => .idle
  | 1 => .data
  | 2 => .cc
  | 3 => .nak
  | 4 => .sack
  | 5 => .lctl (fld (slots.headD 0) 7 0)
  | _ => .reserved

/-- A received flit after FEC, CRC or tag and decryption: its kind, header and slots. -/
def openFlit (d : Dev) (b : Nat) (f : BitVec 2048) : FlitKind × Hdr × List (BitVec 128) :=
  let m := mport d b
  match fecFix (flitBytes f) with
  | none => (.bad false, { typ := 0 }, [])
  | some l =>
    let h := hdrOf (BitVec.ofNat 64 (ofBytes (l.take 8)))
    let pb := (l.drop 8).take 224
    let check := ofBytes (l.drop 232)
    if h.enc ∧ (h.typ = 1 ∨ h.typ = 2) then
      match mwKey d b h.ks false with
      | none => (.bad true, h, [])
      | some k =>
        let base := tabGet (0, 0) m.rxCtr (b2n h.ks)
        let ctr := if h.typ = 2 then base.2 + signedStep 1024 (ccDist h.ccseq m.cce.toNat) else base.1 + signedStep 4096 (seqDist h.seq m.rxE.toNat)
        let iv := flitIv (h.typ = 2) m.leader ctr
        if (Config.gcmLinkTag k iv (l.take 8) pb).toNat % 2 ^ 64 = check then
          let s := slotsOf (Config.gcmCrypt k iv pb)
          (kindOf h s, h, s)
        else (.bad true, h, [])
    else if crc64 (l.take 232) = check then (kindOf h (slotsOf pb), h, slotsOf pb)
    else (.bad false, h, [])

/-! ## LCTL, NAK and SACK forms (R300, R302) -/

/-- Slot 0 of an LCTL message of this device. -/
def lctlSlot (d : Dev) (op rest : Nat) : BitVec 128 := BitVec.ofNat 128 (op + selfId d % 64 * 2 ^ 8 + rest * 2 ^ 16)
/-- Byte n of the flit, from slot 0 of an LCTL message. -/
def lctlField (s : BitVec 128) (firstByte bytes : Nat) : Nat := (s.toNat >>> (8 * (firstByte - 8))) % 2 ^ (8 * bytes)
/-- The opcode of an LCTL slot. -/
def lctlOp (s : BitVec 128) : Nat := lctlField s 8 1

/-- The credits this device advertises: REQ, RSP, DAT, CC, MGT (R286). -/
def advertised : List Nat := [256, 256, 1024, 512, 64]
/-- INIT. -/
def lctlInit (d : Dev) : BitVec 128 := lctlSlot d 1 ((advertised.zipIdx.map fun e => e.1 <<< (16 * e.2)).sum)
/-- INIT_DONE. -/
def lctlInitDone (d : Dev) : BitVec 128 := lctlSlot d 2 0
/-- RETRAIN_REQ, WIDTH_REQ and WIDTH_ACK with a mask. -/
def lctlMask (d : Dev) (op : Nat) (mask : BitVec 8) : BitVec 128 := lctlSlot d op mask.toNat
/-- RESUME with E and CCE. -/
def lctlResume (d : Dev) (e cce : Nat) : BitVec 128 := lctlSlot d 6 (e + cce * 2 ^ 16)
/-- KEYSW: key set, START_SEQ, START_CCSEQ. -/
def lctlKeysw (d : Dev) (ks : Bool) (s c : Nat) : BitVec 128 := lctlSlot d 7 (b2n ks + s * 2 ^ 16 + c * 2 ^ 32)
/-- KEYSW_ACK. -/
def lctlKeyswAck (d : Dev) (ks : Bool) : BitVec 128 := lctlSlot d 8 (b2n ks)

/-- Slots 0 and 1 of a SACK: BASE and BITMAP. -/
def sackSlots (base : Nat) (held : List Nat) : List (BitVec 128) :=
  [BitVec.ofNat 128 (base + (held.map fun n => 2 ^ ccDist n base).sum * 2 ^ 64), 0]

/-! ## Lanes (R304) -/

/-- The aligned lane groups, widest first, lowest first within a width. -/
def laneGroups : List (BitVec 8) :=
  [0xFF, 0x0F, 0xF0, 0x03, 0x0C, 0x30, 0xC0, 0x01, 0x02, 0x04, 0x08, 0x10, 0x20, 0x40, 0x80]
/-- The largest aligned group inside a mask; 0 for none. -/
def chooseLanes (mask : BitVec 8) : BitVec 8 := (laneGroups.find? fun g => g &&& mask = g).getD 0
/-- The lanes of a mask. -/
def laneCount (mask : BitVec 8) : Nat := ((List.range 8).filter fun i => mask.getLsbD i).length

end Sys2Proof.Machine
end

