-- ==== Sys2Proof/Machine/Link.lean ====
section
/-! DEFINITION. The Marwen link (13): bring-up (R285, R286), the general and CC streams (R292 to R301), the choice of the next flit
(R303), retrains, width changes and link down (R304), and key switching (R306 to R308). -/

namespace Sys2Proof.Machine

/-! ## Shared -/

/-- Raise a link source of a port with the link context (R313, R402). -/
def mwlRaise (d : Dev) (b bit seq : Nat) : Dev := raise d (.mwl b) bit .none (ctxLink (.mwl b) b (mport d b).peerId.toNat 0 0 0 seq)

/-- Queue an LCTL message unless one of its opcode is due already. -/
def lctlDue (d : Dev) (b : Nat) (s : BitVec 128) : Dev :=
  mportMod d b fun m => if m.lctl.any (fun x => lctlOp x = lctlOp s) then m else { m with lctl := m.lctl ++ [s] }

/-- Lanes of the brick that may be used: those in block lock. -/
def lockedLanes (d : Dev) (b : Nat) : BitVec 8 := (mport d b).lock

/-- Request a retrain (R304). -/
def retrainStart (d : Dev) (b : Nat) : Dev :=
  let m := mport d b
  if m.state ≠ 3 then d
  else
    let d := rbump (mportMod d b fun m => { m with state := 4, want := some (false, m.lock), since := d.pwr.now }) (.mwl b) .mwlRetrains
    lctlDue d b (lctlMask d 3 m.lock)

/-- Request a width change with a mask (R304). -/
def widthStart (d : Dev) (b : Nat) (mask : BitVec 8) : Dev :=
  if (mport d b).state ≠ 3 then d
  else
    let d := rbump (mportMod d b fun m => { m with state := 5, want := some (true, mask), since := d.pwr.now }) (.mwl b) .mwlRetrains
    lctlDue d b (lctlMask d 4 mask)

/-- A link protocol error (R313); some retrain the port. -/
def linkError (d : Dev) (b seq : Nat) (retrain : Bool) : Dev :=
  let d := mwlRaise d b 1 seq
  if retrain then retrainStart d b else d

/-- Replay from the oldest unacknowledged flit (R296). -/
def replayStart (d : Dev) (b : Nat) (counted : Bool) : Dev :=
  let m := mport d b
  if m.replayBuf.isEmpty then d
  else
    let tries := if counted then m.replayTries + 1 else m.replayTries
    let d := mportMod d b fun m =>
      { m with replayAt := some 0, replayRun := m.replayBuf.getLast?.map (·.1), replayTries := tries }
    let d := countMarwen (rbump d (.mwl b) .mwlReplays) b 3 1
    if 4 ≤ tries ∧ counted then retrainStart d b else d

/-- An acknowledgement of the general stream frees flits (R296). -/
def ackGeneral (d : Dev) (b a : Nat) : Dev :=
  let m := mport d b
  let n := m.replayBuf.length
  let o := match m.replayBuf with
    | x :: _ => x.1.toNat
    | [] => m.txN.toNat
  let k := seqDist a o
  if k < n then
    mportMod d b fun m =>
      let rest := m.replayBuf.drop (k + 1)
      { m with replayBuf := rest, replayAt := m.replayAt.bind fun i => if rest.isEmpty then none else some (i - (k + 1)), replayTries := 0,
               replayRun := m.replayRun.bind fun l => if rest.any (fun x => x.1 = l) then some l else none }
  else if 2048 ≤ k then d
  else linkError d b a true

/-- A cumulative CC acknowledgement frees every flit before it (R301). -/
def ackCc (d : Dev) (b c : Nat) : Dev :=
  mportMod d b fun m => { m with ccOut := m.ccOut.filter fun x => ccDist x.num c < 512 }

/-- The acknowledgements a good flit carries (R295 to R301). -/
def ackUse (d : Dev) (b : Nat) (h : Hdr) : Dev :=
  if ¬ h.ackv then d
  else
    let d := if h.typ = 3 then d else ackGeneral d b h.ack
    if h.typ = 2 then d else ackCc d b h.ccseq

/-- A credit return is applied (R292). -/
def creditReturn (d : Dev) (b : Nat) (h : Hdr) : Dev :=
  if 5 ≤ h.crch ∨ h.crcnt = 0 then d
  else
    let m := mport d b
    let v := m.credits.getD h.crch 0 + h.crcnt
    if m.peerInit.getD h.crch 0 < v then linkError d b h.seq true
    else mportMod d b fun m => { m with credits := m.credits.set h.crch v }

/-- Credits owed to the peer. -/
def owe (d : Dev) (b ch n : Nat) : Dev := if 5 ≤ ch then d else mportMod d b fun m => { m with owed := m.owed.set ch (m.owed.getD ch 0 + n) }

/-! ## Packets of a flit (R291, R308) -/

/-- Split slots into packets: each with whether it lies within the flit; a null lead ends the flit. -/
def splitSlots : Nat → List (BitVec 128) → List (List (BitVec 128) × Bool)
  | 0, _ => []
  | n + 1, l => match l with
    | [] => []
    | h :: _ =>
      let k := fld h 6 3 + 1
      if fld h 2 0 = 7 then []
      else if l.length < k then [(l, false)]
      else (l.take k, true) :: splitSlots n (l.drop k)

/-- The data bytes of a packet: a line where it carries one (R436). -/
def pktBytes (s : List (BitVec 128)) : Nat := if 5 ≤ s.length ∧ pkOp s < 0x70 then 64 else 0

/-- A packet of a flit: discarded with an error where it does not belong, refused unencrypted, or delivered. -/
def takePacket (d : Dev) (b seq : Nat) (fits enc : Bool) (s : List (BitVec 128)) : Dev :=
  let ch := fld (s.headD 0) 2 0
  if ¬ fits then linkError (owe d b ch s.length) b seq false
  else if ¬ enc ∧ ch ≠ 4 ∧ (rget d (.mwl b) .mwlCfg).getLsbD 0 then owe d b ch s.length
  else countBw (countMarwen (mportMod d b fun m => { m with ingress := m.ingress ++ [s] }) b 1 (pktBytes s)) (16 + b) false (pktBytes s)

/-- The packets of an accepted or delivered flit, in slot order; its credit return. -/
def deliverFlit (d : Dev) (b : Nat) (h : Hdr) (slots : List (BitVec 128)) (cc : Bool) : Dev :=
  let ps := splitSlots 14 slots
  let mgt : Bool := match ps with
    | p :: _ => decide (fld (p.1.headD 0) 2 0 = 4)
    | [] => false
  let ok (s : List (BitVec 128)) : Bool :=
    let ch := fld (s.headD 0) 2 0
    if cc then ch = 3 else if mgt then ch = 4 else ch < 3
  let refused := !h.enc && (rget d (.mwl b) .mwlCfg).getLsbD 0 && ps.any fun p => p.2 && ok p.1 && fld (p.1.headD 0) 2 0 ≠ 4
  let d := ps.foldl (fun d p => takePacket d b h.seq (p.2 && ok p.1) h.enc p.1) d
  let d := if refused then mwlRaise d b 3 h.seq else d
  creditReturn d b h

/-! ## Receiving (R295 to R301) -/

/-- Ask for a NAK (R295). -/
def nakAsk (d : Dev) (b : Nat) : Dev := mportMod d b fun m => { m with nakSent := true, nakDue := true, nakCount := m.nakCount + 1 }

/-- The receiver's bookkeeping of an accepted general flit: E, the counters of both key sets, the coalesced acknowledgement. -/
def acceptGeneral (d : Dev) (b : Nat) : Dev :=
  mportMod d b fun m =>
    let n := m.ackCount + 1
    { m with rxE := m.rxE + 1, nakSent := false, nakCount := 0, nakDue := false, ackCount := n, ackDue := m.ackDue || decide (n % 32 = 0),
             rxCtr := m.rxCtr.map fun e => (e.1, e.2.1 + 1, e.2.2) }

/-- Deliver the CC flit numbered CCE (R298). -/
def acceptCc (d : Dev) (b : Nat) : Dev :=
  mportMod d b fun m =>
    { m with cce := m.cce + 1, ccSinceSent := m.ccSinceSent + 1, sackDue := m.sackDue || decide (32 ≤ m.ccSinceSent + 1),
             rxCtr := m.rxCtr.map fun e => (e.1, e.2.1, e.2.2 + 1) }

/-- Deliver the held flits that now follow (R298). -/
def drainReorder : Nat → Dev → Nat → Dev
  | 0, d, _ => d
  | n + 1, d, b =>
    let m := mport d b
    match takeFirst (fun (x : BitVec 10 × BitVec 2048) => x.1 = m.cce) m.reorder with
    | none => d
    | some (x, rest) =>
      let (_, h, slots) := openFlit d b x.2
      drainReorder n (acceptCc (deliverFlit (mportMod d b fun m => { m with reorder := rest }) b h slots true) b) b

/-- A good CC flit (R298, R299). -/
def ccReceive (d : Dev) (b : Nat) (h : Hdr) (slots : List (BitVec 128)) (f : BitVec 2048) : Dev :=
  let m := mport d b
  let k := ccDist h.ccseq m.cce.toNat
  if k = 0 then drainReorder 64 (acceptCc (deliverFlit d b h slots true) b) b
  else if k < 64 then
    if m.reorder.any (fun x => x.1.toNat = h.ccseq) then d
    else mportMod d b fun m => { m with reorder := m.reorder ++ [(BitVec.ofNat 10 h.ccseq, f)], sackDue := true }
  else d

/-- A good flit against E (R295). `act` is what a flit that is not DATA does when it is processed. -/
def flitGood (d : Dev) (b : Nat) (h : Hdr) (slots : List (BitVec 128)) (act : Dev → Dev) : Dev :=
  let d := ackUse d b h
  let k := seqDist h.seq (mport d b).rxE.toNat
  let isData := h.typ = 1
  if k = 0 then (if isData then acceptGeneral (deliverFlit d b h slots false) b else act d)
  else if k < 2048 then
    let d := if (mport d b).nakSent then d else nakAsk d b
    if isData then d else act d
  else if isData then d
  else linkError d b h.seq false

/-- Whether a port receives flits: it has reached L0. -/
def linkReceives (d : Dev) (b : Nat) : Bool := d.marwen.getLsbD b && decide (2 ≤ (mport d b).state)

/-- A received flit of one kind: a flit of another kind is not this command's event. -/
def flitRow (s : State) (b : Fin 8) (f : BitVec 2048) (is : FlitKind → Bool) (act : Dev → Hdr → List (BitVec 128) → Dev) :
    Host.Outcome State Fault Refusal :=
  match openFlit s.dev b f with
  | (k, h, slots) => doneIf s (linkReceives s.dev b && is k) fun d => act d h slots

/-- Meaning of DATA_FLIT (R291, R295). -/
def execDataFlit (b : Fin 8) (flit : BitVec 2048) (s : State) : Host.Outcome State Fault Refusal :=
  flitRow s b flit (· = .data) fun d h slots => flitGood d b h slots id

/-- Meaning of CC_FLIT (R298, R299). -/
def execCcFlit (b : Fin 8) (flit : BitVec 2048) (s : State) : Host.Outcome State Fault Refusal :=
  flitRow s b flit (· = .cc) fun d h slots => flitGood d b h slots fun d => ccReceive d b h slots flit

/-- Meaning of IDLE_FLIT (R295). -/
def execIdleFlit (b : Fin 8) (flit : BitVec 2048) (s : State) : Host.Outcome State Fault Refusal :=
  flitRow s b flit (· = .idle) fun d h slots => flitGood d b h slots id

/-- What a NAK does (R296): it acknowledges all before its number, and replays from there. -/
def nakReceive (d : Dev) (b n : Nat) : Dev :=
  let m := mport d b
  let o := match m.replayBuf with
    | x :: _ => x.1.toNat
    | [] => m.txN.toNat
  if 2048 ≤ seqDist n o then d
  else if m.replayBuf.length < seqDist n o then linkError d b n false
  else
    let d := if n = o then d else ackGeneral d b ((n + 4095) % 4096)
    replayStart d b true

/-- Meaning of NAK_FLIT (R296). -/
def execNakFlit (b : Fin 8) (flit : BitVec 2048) (s : State) : Host.Outcome State Fault Refusal :=
  flitRow s b flit (· = .nak) fun d h slots => flitGood d b h slots fun d => nakReceive d b h.ack

/-- What a SACK does (R300, R301): frees what it names, and marks the missing flits not sent lately. -/
def sackReceive (d : Dev) (b : Nat) (slot : BitVec 128) : Dev :=
  let base := fld slot 9 0
  let map := fld slot 127 64
  let recent := rfld d (.mwl b) .mwlTimers 23 16 * 1000 / 4
  let top := (List.range 64).foldl (fun a i => if map.testBit i then i else a) 0
  let d := ackCc d b base
  mportMod d b fun m =>
    let kept := m.ccOut.filter fun x => !(ccDist x.num base < 64 && map.testBit (ccDist x.num base))
    { m with ccOut := kept.map fun x =>
        if ccDist x.num base < top ∧ recent < d.pwr.now.toNat - x.sent.toNat then { x with again := true } else x }

/-- Meaning of SACK_FLIT (R300, R301). -/
def execSackFlit (b : Fin 8) (flit : BitVec 2048) (s : State) : Host.Outcome State Fault Refusal :=
  flitRow s b flit (· = .sack) fun d h slots => flitGood d b h slots fun d => sackReceive d b (slots.headD 0)

/-- Meaning of BAD_FLIT (R290, R295, R308). -/
def execBadFlit (b : Fin 8) (flit : BitVec 2048) (s : State) : Host.Outcome State Fault Refusal :=
  flitRow s b flit (fun k => k = .bad false || k = .bad true) fun d h _ =>
    let d := countMarwen (rbump d (.mwl b) .mwlBadFlits) b 5 1
    if (openFlit d b flit).1 = .bad true then mwlRaise (rbump d (.mwl b) .mwlTagFails) b 2 h.seq else d

/-- Meaning of RESERVED_FLIT (R295): discarded; its acknowledgements count, as those of every good flit. -/
def execReservedFlit (b : Fin 8) (flit : BitVec 2048) (s : State) : Host.Outcome State Fault Refusal :=
  flitRow s b flit (· = .reserved) fun d h _ => linkError (ackUse d b h) b h.seq false

/-! ## Bring-up (R285, R286) -/

/-- Enter Active from Init: sequence numbers at 0, credits the peer's INIT values. -/
def linkActive (d : Dev) (b : Nat) : Dev :=
  raiseEvent (mportMod d b fun m =>
    { m with state := 3, credits := m.peerInit, rxE := 0, txN := 0, cce := 0, ccN := 0, replayBuf := [], ccOut := [], reorder := [] }) (.mwl b) 0

/-- The expected peer of a port. -/
def expectedPeer (d : Dev) (b : Nat) : Nat := rfld d (.mwl b) .mwlCfg 21 16

/-- Meaning of LINK_TRAINED (R284, R285, R420). -/
def execLinkTrained (b : Fin 8) (lanes : BitVec 8) (sets : List (List (Option Nat))) (s : State) : Host.Outcome State Fault Refusal :=
  doneIf s (s.dev.marwen.getLsbD b && decide ((mport s.dev b).state = 1)) fun d =>
    let d := slicersTrain d (8 * b) sets
    let mask := chooseLanes (lanes &&& lockedLanes d b)
    if mask = 0 then d
    else lctlDue (mportMod d b fun m => { m with state := 2, mask, width := laneCount mask, leader := selfId d < expectedPeer d b, since := d.pwr.now }) b (lctlInit d)

/-- What INIT does (R285, R286). -/
def initReceive (d : Dev) (b : Nat) (slot : BitVec 128) : Dev :=
  let m := mport d b
  let cr := (List.range 5).map fun i => lctlField slot (10 + 2 * i) 2
  if m.state ≠ 2 then d
  else if lctlField slot 9 1 % 64 ≠ expectedPeer d b then
    let d := mwDown (mportMod d b fun m => { m with initRetry := true }) b false
    mportMod d b fun m => { m with initRetry := true, state := 0 }
  else if cr.any (· < 14) then mwDown (linkError d b 0 false) b false
  else if m.initGot then d
  else lctlDue (mportMod d b fun m =>
    { m with initGot := true, peerInit := cr, credits := cr, peerId := BitVec.ofNat 6 (lctlField slot 9 1), lctl := m.lctl.filter fun x => lctlOp x ≠ 1 }) b (lctlInitDone d)

/-- Meaning of INIT (R286). -/
def execInit (b : Fin 8) (flit : BitVec 2048) (s : State) : Host.Outcome State Fault Refusal :=
  flitRow s b flit (· = .lctl 1) fun d h slots => flitGood d b h slots fun d => initReceive d b (slots.headD 0)

/-- What INIT_DONE does: with this end's own INIT_DONE sent, the link is Active. -/
def initDoneReceive (d : Dev) (b : Nat) : Dev :=
  if (mport d b).state ≠ 2 then d
  else
    let d := mportMod d b fun m => { m with doneGot := true }
    if (mport d b).doneSent ∧ (mport d b).initGot then linkActive d b else d

/-- Meaning of INIT_DONE (R286). -/
def execInitDone (b : Fin 8) (flit : BitVec 2048) (s : State) : Host.Outcome State Fault Refusal :=
  flitRow s b flit (· = .lctl 2) fun d h slots => flitGood d b h slots fun d => initDoneReceive d b

/-- Meaning of INIT_RETRY (R285). -/
def execInitRetry (b : Fin 8) (s : State) : Host.Outcome State Fault Refusal :=
  doneIf s (mport s.dev b).initRetry fun d => linkTry (mportMod d b fun m => { m with initRetry := false }) b

/-! ## Retrain and width change (R304) -/

/-- Back to Active: both RESUME messages are exchanged. -/
def linkResumed (d : Dev) (b : Nat) : Dev :=
  mportMod d b fun m => { m with state := 3, want := none, peerWant := none, recovering := false, resumeSent := false, resumeGot := false }

/-- What RETRAIN_REQ does. -/
def retrainReceive (d : Dev) (b : Nat) (mask : BitVec 8) : Dev :=
  let m := mport d b
  if m.state < 3 ∨ m.resumeSent then d
  else
    let d := if m.state = 3 then rbump d (.mwl b) .mwlRetrains else d
    mportMod d b fun m =>
      { m with state := 4, peerWant := some (false, mask), recovering := true, since := d.pwr.now, lctl := m.lctl.filter fun x => lctlOp x < 3 ∨ 5 < lctlOp x }

/-- Meaning of RETRAIN_REQ (R304). -/
def execRetrainReq (b : Fin 8) (flit : BitVec 2048) (s : State) : Host.Outcome State Fault Refusal :=
  flitRow s b flit (· = .lctl 3) fun d h slots => flitGood d b h slots fun d => retrainReceive d b (BitVec.ofNat 8 (lctlField (slots.headD 0) 10 1))

/-- The AND of every proposed mask and the lanes in lock. -/
def proposedLanes (d : Dev) (b : Nat) : BitVec 8 :=
  let m := mport d b
  let of_ (x : Option (Bool × BitVec 8)) : BitVec 8 := match x with
    | some w => w.2
    | none => 0xFF
  of_ m.want &&& of_ m.peerWant &&& m.lock

/-- What WIDTH_REQ does: the answer names the chosen mask; an empty choice takes the link down. -/
def widthReceive (d : Dev) (b : Nat) (mask : BitVec 8) : Dev :=
  let m := mport d b
  if m.state < 3 ∨ m.resumeSent then d
  else
    let d := if m.state = 3 then rbump d (.mwl b) .mwlRetrains else d
    let d := mportMod d b fun m => { m with state := if m.state = 4 then 4 else 5, peerWant := some (true, mask), since := d.pwr.now }
    if chooseLanes (proposedLanes d b) = 0 then mwDown d b false
    else if m.state = 4 then d
    else lctlDue d b (lctlMask d 5 (chooseLanes (proposedLanes d b)))

/-- Meaning of WIDTH_REQ (R304). -/
def execWidthReq (b : Fin 8) (flit : BitVec 2048) (s : State) : Host.Outcome State Fault Refusal :=
  flitRow s b flit (· = .lctl 4) fun d h slots => flitGood d b h slots fun d => widthReceive d b (BitVec.ofNat 8 (lctlField (slots.headD 0) 10 1))

/-- What WIDTH_ACK does: recovery begins with the mask it names. -/
def widthAckReceive (d : Dev) (b : Nat) (mask : BitVec 8) : Dev :=
  let m := mport d b
  if m.state ≠ 5 ∨ m.want.isNone ∨ m.resumeSent then d
  else if mask = 0 then mwDown d b false
  else mportMod d b fun m =>
    { m with peerWant := some (true, mask), recovering := true, lctl := m.lctl.filter fun x => lctlOp x ≠ 4 ∧ lctlOp x ≠ 5 }

/-- Meaning of WIDTH_ACK (R304). -/
def execWidthAck (b : Fin 8) (flit : BitVec 2048) (s : State) : Host.Outcome State Fault Refusal :=
  flitRow s b flit (· = .lctl 5) fun d h slots => flitGood d b h slots fun d => widthAckReceive d b (BitVec.ofNat 8 (lctlField (slots.headD 0) 10 1))

/-- PCIe Recovery ends (R304): the lanes are chosen, and RESUME is due. -/
def recoveryEnd (d : Dev) (b : Nat) (sets : List (List (Option Nat))) : Dev :=
  let d := if (mport d b).state = 4 then slicersTrain d (8 * b) sets else d
  let mask := chooseLanes (proposedLanes d b)
  let m := mport d b
  if mask = 0 then mwDown d b false
  else
    let d := if laneCount mask ≠ m.width then raiseEvent d (.mwl b) 1 else d
    let d := mportMod d b fun m => { m with mask, width := laneCount mask, recovering := false, resumeSent := true, lctl := [] }
    let d := lctlDue d b (lctlResume d m.rxE.toNat m.cce.toNat)
    if m.resumeGot then linkResumed d b else d

/-- Meaning of RECOVERY_COMPLETE (R304, R420). -/
def execRecoveryComplete (b : Fin 8) (sets : List (List (Option Nat))) (s : State) : Host.Outcome State Fault Refusal :=
  doneIf s (decide (4 ≤ (mport s.dev b).state) && !(mport s.dev b).resumeSent) fun d => recoveryEnd d b sets

/-- What RESUME does: the general stream replays from the peer's E, every CC flit not delivered is sent again. -/
def resumeReceive (d : Dev) (b e cce : Nat) : Dev :=
  let m := mport d b
  if m.state < 4 then d
  else
    let o := match m.replayBuf with
      | x :: _ => x.1.toNat
      | [] => m.txN.toNat
    let d := if e = o then d else ackGeneral d b ((e + 4095) % 4096)
    let d := replayStart (ackCc d b cce) b false
    let d := mportMod d b fun m => { m with ccOut := m.ccOut.map fun x => { x with again := true }, resumeGot := true }
    if (mport d b).resumeSent then linkResumed d b else d

/-- Meaning of RESUME (R304). -/
def execResume (b : Fin 8) (flit : BitVec 2048) (s : State) : Host.Outcome State Fault Refusal :=
  flitRow s b flit (· = .lctl 6) fun d h slots => flitGood d b h slots fun d =>
    resumeReceive d b (lctlField (slots.headD 0) 10 2 % 4096) (lctlField (slots.headD 0) 12 2 % 1024)

/-- Meaning of RETRAIN_LIMIT_EXPIRY (R285, R304). -/
def execRetrainLimitExpiry (b : Fin 8) (s : State) : Host.Outcome State Fault Refusal :=
  doneIf s (decide (4 ≤ (mport s.dev b).state)) fun d => mwDown d b false

/-- Meaning of BLOCK_LOCK_LOST (R304). -/
def execBlockLockLost (b : Fin 8) (lanes : BitVec 8) (s : State) : Host.Outcome State Fault Refusal :=
  doneIf s (s.dev.marwen.getLsbD b) fun d =>
    let d := mportMod d b fun m => { m with lock := m.lock &&& ~~~lanes }
    let m := mport d b
    if m.state ≠ 3 then d
    else if m.mask &&& m.lock = 0 then mportMod d b fun m => { m with lockLost := some d.pwr.now }
    else if m.mask &&& m.lock = m.mask then d
    else widthStart d b m.lock

/-- Meaning of BLOCK_LOCK_REGAINED (R304). -/
def execBlockLockRegained (b : Fin 8) (lanes : BitVec 8) (s : State) : Host.Outcome State Fault Refusal :=
  doneIf s (s.dev.marwen.getLsbD b) fun d =>
    let was := (mport d b).lockLost
    let d := mportMod d b fun m => { m with lock := m.lock ||| lanes }
    if was.isSome ∧ (mport d b).mask &&& (mport d b).lock ≠ 0 then retrainStart (mportMod d b fun m => { m with lockLost := none }) b else d

/-- Meaning of DOWN_TIME_EXPIRY (R304). -/
def execDownTimeExpiry (b : Fin 8) (s : State) : Host.Outcome State Fault Refusal :=
  doneIf s (mport s.dev b).lockLost.isSome fun d => mportMod (mwDown d b false) b fun m => { m with lockLost := none }

/-- Meaning of DOWN (R302, R304): the peer takes the link down. -/
def execDown (b : Fin 8) (flit : BitVec 2048) (s : State) : Host.Outcome State Fault Refusal :=
  flitRow s b flit (· = .lctl 9) fun d h slots => flitGood d b h slots fun d => mwDown d b false

/-! ## Key switching (R306, R307) -/

/-- What KEYSW does: the counters of the new set begin at its start numbers, and it is acknowledged. -/
def keyswReceive (d : Dev) (b : Nat) (slot : BitVec 128) : Dev :=
  let k := lctlField slot 10 1 % 2
  let st := lctlField slot 12 2 % 4096
  let sc := lctlField slot 14 2 % 1024
  let m := mport d b
  let start : BitVec 12 × BitVec 10 := (BitVec.ofNat 12 st, BitVec.ofNat 10 sc)
  let same := (m.rxStart.find? fun e => e.1 = k).map (·.2) = some start
  let d := if same then d
    else mportMod d b fun m =>
      { m with rxStart := tabIns m.rxStart k start,
               rxCtr := tabIns m.rxCtr k (0 - signedStep 4096 (seqDist st m.rxE.toNat), 0 - signedStep 1024 (ccDist sc m.cce.toNat)) }
  lctlDue d b (lctlKeyswAck d (k = 1))

/-- Meaning of KEYSW (R306). -/
def execKeysw (b : Fin 8) (flit : BitVec 2048) (s : State) : Host.Outcome State Fault Refusal :=
  flitRow s b flit (· = .lctl 7) fun d h slots => flitGood d b h slots fun d => keyswReceive d b (slots.headD 0)

/-- Meaning of KEYSW_ACK (R306): the sender uses the new set from here on. -/
def execKeyswAck (b : Fin 8) (flit : BitVec 2048) (s : State) : Host.Outcome State Fault Refusal :=
  flitRow s b flit (· = .lctl 8) fun d h slots => flitGood d b h slots fun d =>
    let k : Bool := decide (lctlField (slots.headD 0) 10 1 % 2 = 1)
    if (mport d b).switch = some k then mportMod d b fun m => { m with ks := some k, switch := none, txCtr := 0, ccCtr := 0, rekeyed := false, lctl := m.lctl.filter fun x => lctlOp x ≠ 7 }
    else d

/-! ## Timers -/

/-- Meaning of LCTL_REPEAT (R286, R302): what the state repeats is due again. -/
def execLctlRepeat (b : Fin 8) (s : State) : Host.Outcome State Fault Refusal :=
  doneIf s (linkReceives s.dev b) fun d =>
    let m := mport d b
    let d := if m.state = 2 then lctlDue d b (if m.initGot then lctlInitDone d else lctlInit d) else d
    let d := match m.want with
      | some (false, mask) => if m.state = 4 ∧ ¬ m.recovering ∧ ¬ m.resumeSent then lctlDue d b (lctlMask d 3 mask) else d
      | some (true, mask) => if m.state = 5 ∧ ¬ m.recovering ∧ ¬ m.resumeSent ∧ m.peerWant.isNone then lctlDue d b (lctlMask d 4 mask) else d
      | none => d
    let d := if m.state = 5 ∧ m.peerWant.isSome ∧ ¬ m.recovering ∧ ¬ m.resumeSent then lctlDue d b (lctlMask d 5 (chooseLanes (proposedLanes d b))) else d
    let d := if m.resumeSent then lctlDue d b (lctlResume d m.rxE.toNat m.cce.toNat) else d
    match m.switch with
    | some k => if m.state = 3 then lctlDue d b (lctlKeysw d k m.txN.toNat m.ccN.toNat) else d
    | none => d

/-- Meaning of NAK_TIMER (R295). -/
def execNakTimer (b : Fin 8) (s : State) : Host.Outcome State Fault Refusal :=
  doneIf s (mport s.dev b).nakSent fun d => if 8 ≤ (mport d b).nakCount then retrainStart d b else nakAsk d b

/-- Meaning of REPLAY_TIMER (R296). -/
def execReplayTimer (b : Fin 8) (s : State) : Host.Outcome State Fault Refusal :=
  doneIf s (!(mport s.dev b).replayBuf.isEmpty) fun d => replayStart d b true

/-- Meaning of CC_RTX_TIMER (R301): the flit unacknowledged for longest since it was last sent is sent again. -/
def execCcRtxTimer (b : Fin 8) (s : State) : Host.Outcome State Fault Refusal :=
  doneIf s (!(mport s.dev b).ccOut.isEmpty) fun d =>
    mportMod d b fun m =>
      let oldest := m.ccOut.foldl (fun a x => min a x.sent.toNat) (2 ^ 64)
      { m with ccOut := m.ccOut.map fun x => if x.sent.toNat = oldest then { x with again := true } else x }

/-- Meaning of SACK_TIMER (R299). -/
def execSackTimer (b : Fin 8) (s : State) : Host.Outcome State Fault Refusal :=
  doneIf s (!(mport s.dev b).reorder.isEmpty) fun d => mportMod d b fun m => { m with sackDue := true }

/-- Meaning of ACK_COALESCE_TIMER (R297). -/
def execAckCoalesceTimer (b : Fin 8) (s : State) : Host.Outcome State Fault Refusal :=
  doneIf s (decide (0 < (mport s.dev b).ackCount)) fun d => mportMod d b fun m => { m with ackDue := true }

/-! ## Sending (R292, R297, R303, R307) -/

/-- Whether acknowledgements are coalesced (R297). -/
def coalesces (d : Dev) (b : Nat) : Bool :=
  let m := mport d b
  !(d.pwr.mode = .service || d.pwr.mode = .degraded) || m.nakSent || m.replayRun.isSome

/-- The header every flit sent starts from: ACKV and the acknowledgements, and the number that comes next. -/
def sendHdr (d : Dev) (b typ : Nat) : Hdr :=
  let m := mport d b
  let next := match m.replayAt.bind fun i => m.replayBuf[i]? with
    | some x => x.1.toNat
    | none => m.txN.toNat
  { typ, ackv := !coalesces d b || m.ackDue, seq := next, ack := (m.rxE.toNat + 4095) % 4096, ccseq := m.cce.toNat }

/-- A flit has gone out with these acknowledgements. -/
def sentFlit (d : Dev) (b : Nat) (h : Hdr) (f : BitVec 2048) : Dev :=
  let d := send d (.mwFlit (Fin.ofNat 8 b) f)
  mportMod d b fun m =>
    let acked := h.ackv
    { m with ackDue := if acked then false else m.ackDue, ackCount := if acked then 0 else m.ackCount,
             ccSinceSent := if (acked && h.typ ≠ 2) || h.typ = 4 then 0 else m.ccSinceSent, lastCc := h.typ = 2 }

/-- The credit return of a new DATA or CC flit: the first channel that owes one. -/
def pickReturn (m : MPort) : Option (Nat × Nat) :=
  (m.owed.zipIdx.find? fun e => e.1 ≠ 0).map fun e => (e.2, min e.1 1023)

/-- Whether new DATA and CC flits may start: Active, Rolling, no key switch under way, and counters left (R304, R306, R307, R309). -/
def newFlits (d : Dev) (b : Nat) : Bool :=
  let m := mport d b
  m.state = 3 && (pget d (.mwl b)).run = .rolling && m.switch.isNone
    && !(m.ks.isSome && (m.txCtr = BitVec.allOnes 64 || m.ccCtr = BitVec.allOnes 64))

/-- Packets for one flit, in queue order: those of `want` channels that fit the slots and the credits left, none past a blocked one of
its channel. Back come the packets taken, those left, the credits and the slots. -/
def pickPackets (want : Nat → Bool) : List (List (BitVec 128)) → List Nat → Nat → List Nat → List (List (BitVec 128)) × List (List (BitVec 128)) × List Nat
  | [], cr, _, _ => ([], [], cr)
  | p :: rest, cr, room, blocked =>
    let ch := fld (p.headD 0) 2 0
    if want ch ∧ ¬ blocked.contains ch ∧ p.length ≤ room ∧ p.length ≤ cr.getD ch 0 then
      let (t, l, c) := pickPackets want rest (cr.set ch (cr.getD ch 0 - p.length)) (room - p.length) blocked
      (p :: t, l, c)
    else
      let (t, l, c) := pickPackets want rest cr room (ch :: blocked)
      (t, p :: l, c)

/-- Whether the port may send packets other than MGT now (R308). -/
def mayPlain (d : Dev) (b : Nat) : Bool := (mport d b).ks.isSome || !(rget d (.mwl b) .mwlCfg).getLsbD 0

/-- The packets of the next DATA flit: MGT packets alone where the first sendable packet is one. -/
def pickData (d : Dev) (b : Nat) : List (List (BitVec 128)) × List (List (BitVec 128)) × List Nat :=
  let m := mport d b
  let plain := mayPlain d b
  let first := m.tx.find? fun p =>
    let ch := fld (p.headD 0) 2 0
    p.length ≤ m.credits.getD ch 0 && (ch = 4 || (plain && ch < 3))
  match first with
  | none => ([], m.tx, m.credits)
  | some p => if fld (p.headD 0) 2 0 = 4 then pickPackets (· = 4) m.tx m.credits 14 [] else pickPackets (· < 3) m.tx m.credits 14 []

/-- The transmit counter reaches the rekey point or its end (R307). -/
def counterSent (d : Dev) (b : Nat) : Dev :=
  let m := mport d b
  let due := m.ks.isSome && (decide (2 ^ rfld d (.mwl b) .mwlCfg 13 8 ≤ m.txCtr.toNat) || decide (2 ^ rfld d (.mwl b) .mwlCfg 13 8 ≤ m.ccCtr.toNat))
  let d := if due ∧ ¬ m.rekeyed then raiseEvent (mportMod d b fun m => { m with rekeyed := true }) (.mwl b) 3 else d
  if m.ks.isSome ∧ (m.txCtr = BitVec.allOnes 64 ∨ m.ccCtr = BitVec.allOnes 64) then mwlRaise d b 4 m.txN.toNat else d

/-- The key and IV of a new flit of a stream; none where it goes unencrypted. -/
def txKey (d : Dev) (b : Nat) (cc : Bool) : Option (BitVec 256 × BitVec 96) :=
  let m := mport d b
  match m.ks with
  | none => none
  | some k => (mwKey d b k true).map fun key => (key, flitIv cc (!m.leader) (if cc then m.ccCtr else m.txCtr))

/-- Data bytes out of a flit's packets. -/
def countOut (d : Dev) (b : Nat) (ps : List (List (BitVec 128))) : Dev :=
  let n := (ps.map pktBytes).sum
  countBw (countMarwen d b 0 n) (16 + b) true n

/-- Send a new DATA flit of packets, with the credit return that is due. -/
def sendData (d : Dev) (b : Nat) (ps left : List (List (BitVec 128))) (cr : List Nat) : Dev :=
  let m := mport d b
  let mgt : Bool := match ps with
    | p :: _ => decide (fld (p.headD 0) 2 0 = 4)
    | [] => false
  let key := if mgt then none else txKey d b false
  let ret := pickReturn m
  let h : Hdr := { sendHdr d b 1 with seq := m.txN.toNat, enc := key.isSome, ks := key.isSome && m.ks = some true, crch := (ret.map (·.1)).getD 7, crcnt := (ret.map (·.2)).getD 0 }
  let slots := (ps.foldr (· ++ ·) [])
  let slots := if slots.length < 14 then slots ++ [nullLead] else slots
  let f := mkFlit h slots key
  let d := sentFlit (countOut d b ps) b h f
  let d := mportMod d b fun m =>
    { m with tx := left, credits := cr, txN := m.txN + 1, replayBuf := m.replayBuf ++ [(m.txN, f)], txCtr := if m.ks.isSome then m.txCtr + 1 else m.txCtr,
             owed := match ret with | some (c, n) => m.owed.set c (m.owed.getD c 0 - n) | none => m.owed }
  counterSent d b

/-- Send a new CC flit of packets. -/
def sendCc (d : Dev) (b : Nat) (ps left : List (List (BitVec 128))) (cr : List Nat) : Dev :=
  let m := mport d b
  let key := txKey d b true
  let ret := pickReturn m
  let h : Hdr := { sendHdr d b 2 with ccseq := m.ccN.toNat, enc := key.isSome, ks := key.isSome && m.ks = some true, crch := (ret.map (·.1)).getD 7, crcnt := (ret.map (·.2)).getD 0 }
  let slots := (ps.foldr (· ++ ·) [])
  let slots := if slots.length < 14 then slots ++ [nullLead] else slots
  let f := mkFlit h slots key
  let d := sentFlit (countOut d b ps) b h f
  let d := mportMod d b fun m =>
    { m with tx := left, credits := cr, ccN := m.ccN + 1, ccOut := m.ccOut ++ [({ num := m.ccN.toNat, flit := f, sent := d.pwr.now } : CcOut)],
             ccCtr := if m.ks.isSome then m.ccCtr + 1 else m.ccCtr,
             owed := match ret with | some (c, n) => m.owed.set c (m.owed.getD c 0 - n) | none => m.owed }
  counterSent d b

/-- Send an LCTL message; INIT_DONE sent and received makes the link Active (R286). -/
def sendLctl (d : Dev) (b : Nat) (s : BitVec 128) : Dev :=
  let h := sendHdr d b 5
  let d := sentFlit (mportMod d b fun m => { m with lctl := m.lctl.drop 1 }) b h (mkFlit h [s] none)
  if lctlOp s = 2 ∧ (mport d b).state = 2 then
    let d := mportMod d b fun m => { m with doneSent := true }
    if (mport d b).doneGot then linkActive d b else d
  else d

/-- Send a NAK, or a SACK (R295, R299). -/
def sendNak (d : Dev) (b : Nat) : Dev :=
  let m := mport d b
  if m.nakDue then
    let h : Hdr := { sendHdr d b 3 with ack := m.rxE.toNat }
    sentFlit (mportMod d b fun m => { m with nakDue := false }) b h (mkFlit h [] none)
  else
    let h := sendHdr d b 4
    sentFlit (mportMod d b fun m => { m with sackDue := false }) b h (mkFlit h (sackSlots m.cce.toNat (m.reorder.map fun x => x.1.toNat)) none)

/-- Send the next replayed flit as it stands (R293, R296). -/
def sendReplay (d : Dev) (b i : Nat) (f : BitVec 2048) : Dev :=
  let d := send d (.mwFlit (Fin.ofNat 8 b) f)
  mportMod d b fun m => { m with replayAt := if i + 1 < m.replayBuf.length then some (i + 1) else none, lastCc := false }

/-- Send a CC flit again (R301). -/
def sendAgain (d : Dev) (b : Nat) (x : CcOut) : Dev :=
  let d := countMarwen (rbump (send d (.mwFlit (Fin.ofNat 8 b) x.flit)) (.mwl b) .mwlCcRtx) b 4 1
  mportMod d b fun m => { m with ccOut := mapIf (fun y => y.num = x.num) (fun y => { y with again := false, sent := d.pwr.now }) m.ccOut, lastCc := true }

/-- The choice of the next flit (R303). -/
def flitSlot (d : Dev) (b : Nat) : Dev :=
  let m := mport d b
  match m.lctl with
  | s :: _ => sendLctl d b s
  | [] =>
    if m.nakDue ∨ m.sackDue then sendNak d b
    else match m.replayAt.bind fun i => (m.replayBuf[i]?).map fun x => (i, x.2) with
      | some (i, f) => sendReplay d b i f
      | none => match m.ccOut.find? (·.again) with
        | some x => sendAgain d b x
        | none =>
          let go := newFlits d b
          let (cp, cl, cc) := pickPackets (· = 3) m.tx m.credits 14 []
          let (dp, dl, dc) := pickData d b
          let canCc := go && !cp.isEmpty && mayPlain d b && decide (m.ccOut.length < 128)
          let canData := go && !dp.isEmpty && decide (m.replayBuf.length < 512)
          if canCc ∧ (¬ m.lastCc ∨ ¬ canData) then sendCc d b cp cl cc
          else if canData then sendData d b dp dl dc
          else if go ∧ (pickReturn m).isSome ∧ m.replayBuf.length < 512 then sendData d b [] m.tx m.credits
          else
            let h := sendHdr d b 0
            sentFlit d b h (mkFlit h [] none)

/-- Meaning of FLIT_SLOT_OPEN (R303). -/
def execFlitSlotOpen (b : Fin 8) (s : State) : Host.Outcome State Fault Refusal :=
  doneIf s (linkReceives s.dev b && !(mport s.dev b).recovering) fun d => flitSlot d b

end Sys2Proof.Machine
end

