-- ==== Sys2Proof/Machine/Fabric.lean ====
section
/-! DEFINITION. Marwen packets (14): the checks of a received packet (R315, R318, R319), requests served here (R316, R317), grants of pages
(R325, R326), management packets (R328), transit (R320), the answers to this device's own requests (R221, R316, R323), snoop answers and
the peer's snoops of Span lines (R213, R222), and the BI answers of hosts (R213, R216). -/

namespace Sys2Proof.Machine

/-! ## Receiving -/

/-- A packet leaves the port's ingress buffer; its credits go back (R292, R320). -/
def takeIn (d : Dev) (b : Nat) (slots : List (BitVec 128)) (credit : Bool) : Dev :=
  match takeFirst (· = slots) (mport d b).ingress with
  | some (_, rest) =>
    let d := mportMod d b fun m => { m with ingress := rest }
    if credit then owe d b (fld (slots.headD 0) 2 0) slots.length else d
  | none => d

/-- Whether an opcode is listed and its slot count allowed (R315). -/
def listed (slots : List (BitVec 128)) : Bool := (opSlots (pkOp slots)).contains slots.length

/-- The checks of R315 and R319: none for a packet that is discarded. -/
def packetCheck (d : Dev) (b : Nat) (slots : List (BitVec 128)) : Option Nat :=
  let hop := pkHop slots
  if hop = 0 ∨ 4 < hop then some 4
  else if hop = 1 ∧ pkSrc slots ≠ (mport d b).peerId.toNat then some 3
  else if ¬ listed slots then some 6
  else none

/-- A discarded packet is captured and raised (R319, R331, R332). -/
def packetRefused (d : Dev) (b cause : Nat) (slots : List (BitVec 128)) : Dev :=
  mwtRaise d b (if cause = 3 then 2 else 3) cause (pkOp slots) (pkSrc slots) (pkDst slots)

/-- A packet of one opcode for this device: checked, taken out of the ingress buffer, handled. -/
def mwRow (s : State) (b : Fin 8) (slots : List (BitVec 128)) (op : Nat) (act : Dev → Dev) : Host.Outcome State Fault Refusal :=
  doneIf s (linkReceives s.dev b && decide (pkOp slots = op) && decide (pkDst slots = selfId s.dev)) fun d =>
    match packetCheck d b slots with
    | some c => packetRefused (takeIn d b slots true) b c slots
    | none => act (takeIn d b slots (!isRequest op || op = 5 || op = 6 || (admitting d && portOpen d (16 + b.val))))

/-- The port's ingress occupancy and panic (R310). -/
def mwOcc (d : Dev) (b occ : Nat) : Dev :=
  let cfg := rget d (.mwl b) .mwlPanic
  let was := (mport d b).panic
  let now := cfg.getLsbD 16 && (if was then !decide (occ * 64 < fld cfg 5 0 * 256) else decide (fld cfg 13 8 * 256 < occ * 64))
  let d := mportMod d b fun m => { m with occ, panic := now }
  if now = was then d else (List.range 32).foldl panicSettle d

/-! ## Requests served here (R317) -/

/-- A request of a gate. -/
def mwReqOf (d : Dev) (b : Fin 8) (slots : List (BitVec 128)) (kind : Kind) (op : Op) (keep : Nat) : Req :=
  { id := 0, src := .mw b (BitVec.ofNat 6 (pkSrc slots)) (BitVec.ofNat 12 (pkTag slots)) (pkOp slots), kind, op, line := pkAddr slots / 64,
    agent := 20 + gateOf d (pkSrc slots), keep, slate := pkSlate slots, panic := (mport d b).panic }

/-- A request of a gate goes in: outside MAP.LIMIT it is refused (R316), an error caught on the way ends it (R409). -/
def mwServe (d : Dev) (b : Fin 8) (slots : List (BitVec 128)) (env : Env) (kind : Kind) (op : Op) (keep : Nat := 0) : Dev :=
  let d := mwOcc d b env.occ
  let r := mwReqOf d b slots kind op keep
  let page := pageOfLine r.line
  if limitPages d (homeOf page) ≤ page then respondRefused d r 5
  else if env.misrouted then
    let q := lineQuad r.line
    raise (respondLost d r) (.qctl q) 0 .none (ctxLine (.qctl q) .marwen 0 r.slate 0 (r.line * 64) 0)
  else
    let caught (d : Dev) : Dev := raise d (.mwt b) 5 (.brick b) (ctxChecker (.mwt b) 0 b)
    if env.datapath ∧ op = .read then caught (respondLost d r)
    else
      let d := sramMet d r.line r.slate env.sram
      let d := arrive d (if env.datapath then { r with op := .poisonWrite } else r) (16 + b.val)
      if env.datapath then caught d else d

/-- The byte mask and the line of a partial write's payload (R314). -/
def ptlOf (slots : List (BitVec 128)) : Op := .writePtl (slotsLine (slots.drop 2)) ((slots.getD 1 0).setWidth 64)
/-- The line of a packet. -/
def lineOf (slots : List (BitVec 128)) : Line := slotsLine (slots.drop 1)

/-- Meaning of MW_RD (R317). -/
def execMwRd (b : Fin 8) (slots : List (BitVec 128)) (env : Env) (s : State) : Host.Outcome State Fault Refusal :=
  mwRow s b slots 0x01 fun d => mwServe d b slots env .rc .read
/-- Meaning of MW_WR (R317). -/
def execMwWr (b : Fin 8) (slots : List (BitVec 128)) (env : Env) (s : State) : Host.Outcome State Fault Refusal :=
  mwRow s b slots 0x02 fun d => mwServe d b slots env .wr (.write (lineOf slots))
/-- Meaning of MW_WRP (R317). -/
def execMwWrp (b : Fin 8) (slots : List (BitVec 128)) (env : Env) (s : State) : Host.Outcome State Fault Refusal :=
  mwRow s b slots 0x03 fun d => mwServe d b slots env .wr (ptlOf slots)

/-- The atomic of a packet: AOP, SIZE, operand and compare value (R314); none for an operation or an alignment that R256 does not have. -/
def mwAtomic (slots : List (BitVec 128)) : Option Op :=
  let bits := if (slots.headD 0).getLsbD 113 then 64 else 32
  let off := pkAddr slots % 64
  if off % (bits / 8) ≠ 0 then none
  else (aopOf (hdrFld (slots.headD 0) 112 109)).map fun op =>
    .atomic op bits off (((slots.getD 1 0).setWidth bits).setWidth 128) ((((slots.getD 1 0) >>> 64).setWidth bits).setWidth 128)

/-- An atomic of a gate: executed at home, or granted where the predictor says so (R219). -/
def mwAtomicServe (d : Dev) (b : Fin 8) (slots : List (BitVec 128)) (env : Env) (grant : Bool) : Dev :=
  match mwAtomic slots with
  | none => respondRefused d (mwReqOf d b slots .atm (.atomic .add 32 0 0 0) 0) 6
  | some op =>
    let line := pkAddr slots / 64
    if grant ∧ tracked d line ∧ ¬ atmHome d line then mwServe d b slots env .re .read else mwServe d b slots env .atm op

/-- Meaning of MW_ATOM (R317). -/
def execMwAtom (b : Fin 8) (slots : List (BitVec 128)) (env : Env) (s : State) : Host.Outcome State Fault Refusal :=
  mwRow s b slots 0x04 fun d => mwAtomicServe d b slots env false
/-- Meaning of MW_RDS (R212). -/
def execMwRds (b : Fin 8) (slots : List (BitVec 128)) (env : Env) (s : State) : Host.Outcome State Fault Refusal :=
  mwRow s b slots 0x40 fun d => mwServe d b slots env .rs .read
/-- Meaning of MW_RDE (R212). -/
def execMwRde (b : Fin 8) (slots : List (BitVec 128)) (env : Env) (s : State) : Host.Outcome State Fault Refusal :=
  mwRow s b slots 0x41 fun d => mwServe d b slots env .re .read
/-- Meaning of MW_RDCUR (R212). -/
def execMwRdcur (b : Fin 8) (slots : List (BitVec 128)) (env : Env) (s : State) : Host.Outcome State Fault Refusal :=
  mwRow s b slots 0x42 fun d => mwServe d b slots env .rc .read
/-- Meaning of MW_OWN (R212). -/
def execMwOwn (b : Fin 8) (slots : List (BitVec 128)) (env : Env) (s : State) : Host.Outcome State Fault Refusal :=
  mwRow s b slots 0x43 fun d => mwServe d b slots env .own .none
/-- Meaning of MW_WRC (R212). -/
def execMwWrc (b : Fin 8) (slots : List (BitVec 128)) (env : Env) (s : State) : Host.Outcome State Fault Refusal :=
  mwRow s b slots 0x44 fun d => mwServe d b slots env .wr (.write (lineOf slots))
/-- Meaning of MW_WRCP (R212). -/
def execMwWrcp (b : Fin 8) (slots : List (BitVec 128)) (env : Env) (s : State) : Host.Outcome State Fault Refusal :=
  mwRow s b slots 0x45 fun d => mwServe d b slots env .wr (ptlOf slots)
/-- Meaning of MW_WBD (R212, R215). -/
def execMwWbd (b : Fin 8) (slots : List (BitVec 128)) (env : Env) (s : State) : Host.Outcome State Fault Refusal :=
  mwRow s b slots 0x46 fun d => mwServe d b slots env .wb (.write (lineOf slots)) (if pkFlag slots then 2 else 0)
/-- Meaning of MW_EVC (R212, R215). -/
def execMwEvc (b : Fin 8) (slots : List (BitVec 128)) (env : Env) (s : State) : Host.Outcome State Fault Refusal :=
  mwRow s b slots 0x47 fun d => mwServe d b slots env .evc .none
/-- Meaning of MW_ATMC (R219). -/
def execMwAtmc (b : Fin 8) (slots : List (BitVec 128)) (env : Env) (s : State) : Host.Outcome State Fault Refusal :=
  mwRow s b slots 0x48 fun d => mwAtomicServe d b slots env true

/-! ## Pages granted to peers (R325, R326) -/

/-- The lowest Unbacked page of a frame. -/
def unbackedIn (d : Dev) (frame : Nat) : Option Nat :=
  ((List.range 512).map (frame * 512 + ·)).find? fun p =>
    tierOf (entryNow d p) = .unbacked && !(quad d (homeOf p)).binds.any fun x => x.1 = p

/-- The lowest Unbacked page of the donor window whose home quadrant is at level Normal. -/
def donorPage (d : Dev) : Nat → Nat → Option Nat
  | 0, _ => none
  | n + 1, frame =>
    match (if levelNow d (homeOfFrame frame) = 0 then unbackedIn d frame else none) with
    | some p => some p
    | none => donorPage d n (frame + 1)

/-- What PGRANT does (R325). -/
def pageGrant (d : Dev) (slots : List (BitVec 128)) : Dev :=
  let src := pkSrc slots
  let answer (d : Dev) (status page : Nat) : Dev := mwSend d src 0x21 (pkSlate slots) (pkTag slots) (status + page * 2 ^ 8) []
  let base := rget d (.mwt 0) .mwtDonorBase
  if ¬ base.getLsbD 31 then answer d 4 0
  else match donorPage d (rfld d (.mwt 0) .mwtDonorLen 24 0) (fld base 23 0) with
    | none => answer d 4 0
    | some page =>
      if ¬ slateRight d (pkSlate slots) page then answer (accessRefused d page 2 0 (pkSlate slots)) 1 0
      else match bindNow d page with
        | none => answer d 4 0
        | some d => answer { d with grantee := tabPut none d.grantee page (some src) } 0 page

/-- Meaning of MW_PGRANT (R325). -/
def execMwPgrant (b : Fin 8) (slots : List (BitVec 128)) (s : State) : Host.Outcome State Fault Refusal :=
  mwRow s b slots 0x05 fun d => pageGrant d slots

/-- What PREL does (R326). -/
def pageRelease (d : Dev) (slots : List (BitVec 128)) : Dev :=
  let page := pkAddr slots / 4096
  let answer (d : Dev) (status : Nat) : Dev := mwSend d (pkSrc slots) 0x20 (pkSlate slots) (pkTag slots) status []
  if tabGet none d.grantee page = some (pkSrc slots) then answer (unbindPage { d with grantee := tabPut none d.grantee page none } page) 0
  else answer d 1

/-- Meaning of MW_PREL (R326). -/
def execMwPrel (b : Fin 8) (slots : List (BitVec 128)) (s : State) : Host.Outcome State Fault Refusal :=
  mwRow s b slots 0x06 fun d => pageRelease d slots

/-! ## Management packets (R328) -/

/-- The payload slots of an answer in segments of at most 13 slots: MGT packets of PROTO 0. -/
def mgtSegments (d : Dev) (dst tag : Nat) : Nat → List (BitVec 128) → Dev
  | 0, _ => d
  | n + 1, l =>
    let seg := l.take 13
    let rest := l.drop 13
    let d := mwSend d dst 0x70 0 tag (seg.length * 16 + b2n (!rest.isEmpty) * 2 ^ 8) seg
    if rest.isEmpty then d else mgtSegments d dst tag n rest

/-- What an MGT packet does: an ECHO returns, an SPDM message is put together and answered by the secure island. -/
def mgtReceive (d : Dev) (slots answer : List (BitVec 128)) : Dev :=
  let h := slots.headD 0
  let src := pkSrc slots
  match hdrFld h 75 73 with
  | 1 => mwSend d src 0x70 (pkSlate slots) (pkTag slots) (hdrFld h 127 64) (slots.drop 1)
  | 0 =>
    let bytes := ((slots.drop 1).flatMap fun x => bytesOf x.toNat 16).take (hdrFld h 71 64)
    let msg := tabGet [] d.mgt src ++ bytes
    if h.getLsbD 72 then { d with mgt := tabPut [] d.mgt src msg }
    else
      let d := { d with mgt := tabPut [] d.mgt src [] }
      if islandUp d ∧ ¬ answer.isEmpty then mgtSegments d src (pkTag slots) answer.length answer else d
  | _ => d

/-- Meaning of MW_MGT (R328). -/
def execMwMgt (b : Fin 8) (slots answer : List (BitVec 128)) (s : State) : Host.Outcome State Fault Refusal :=
  mwRow s b slots 0x70 fun d => mgtReceive d slots answer

/-- Meaning of MW_UNKNOWN_OPCODE (R315). -/
def execMwUnknownOpcode (b : Fin 8) (slots : List (BitVec 128)) (s : State) : Host.Outcome State Fault Refusal :=
  doneIf s (linkReceives s.dev b && !listed slots) fun d => packetRefused (takeIn d b slots true) b ((packetCheck d b slots).getD 6) slots

/-! ## Transit (R318, R320) -/

/-- The packet with HOP increased by 1. -/
def nextHop (slots : List (BitVec 128)) : List (BitVec 128) := (slots.headD 0 + BitVec.ofNat 128 (2 ^ 28)) :: slots.drop 1

/-- A packet that cannot be forwarded (R318): a request is answered NO_ROUTE, any other is discarded. -/
def notForwarded (d : Dev) (slots : List (BitVec 128)) : Dev :=
  let d := noRoute d (rfld d (.mwt 0) .mwtRoute 2 0 (pkDst slots)) (pkOp slots) (pkSrc slots) (pkDst slots)
  if ¬ isRequest (pkOp slots) then d
  else (queueTx d (mkPacket 0x20 (pkSrc slots) (selfId d) 1 (pkSlate slots) (pkTag slots) 3 [])).getD d

/-- Meaning of TRANSIT_PACKET (R318 to R320). -/
def execTransitPacket (b : Fin 8) (slots : List (BitVec 128)) (s : State) : Host.Outcome State Fault Refusal :=
  doneIf s (linkReceives s.dev b && decide (pkDst slots ≠ selfId s.dev)) fun d =>
    let d := takeIn d b slots true
    match packetCheck d b slots with
    | some c => packetRefused d b c slots
    | none =>
      if pkHop slots = 4 then notForwarded d slots
      else match queueTx d (nextHop slots) with
        | some d => countMarwen d b 2 1
        | none => notForwarded d slots

/-! ## Answers to this device's requests (R316, R323) -/

/-- Requests on Span lines that no tag was left for ask again. -/
def retryPeer (d : Dev) : Dev :=
  let asked (line : Nat) : Bool := d.tags.any fun e => match e.2 with
    | some u => !u.held && decide (u.use = .span line) && decide (u.opcode < 0x50)
    | none => false
  retry d fun w => w.wait = .peer && !asked w.req.line

/-- An answer: its tag is freed and `act` is told what it was for; one that no outstanding tag of its sender expects is a stray. -/
def mwAnswered (d : Dev) (b : Nat) (slots : List (BitVec 128)) (ok : Nat → Bool) (act : Dev → TagUse → Dev) : Dev :=
  let t := pkTag slots
  match tabGet none d.tags t with
  | some u =>
    if u.held ∨ u.peer ≠ pkSrc slots ∨ ¬ ok u.opcode then mwtErr (rbump d (.mwt 0) .mwtStrayCount) b 5 (pkOp slots) (pkSrc slots) (pkDst slots)
    else retryPeer (act { d with tags := tabPut none d.tags t none } u)
  | none => mwtErr (rbump d (.mwt 0) .mwtStrayCount) b 5 (pkOp slots) (pkSrc slots) (pkDst slots)

/-- The requests that wait for the peer on a line. -/
def peerWaiters (d : Dev) (line : Nat) : List Waiting := d.waits.filter fun w => w.wait = .peer && w.req.line = line
/-- They go on at the home. -/
def peerResume (d : Dev) (line : Nat) : Dev :=
  retry (transMod d line fun t => { t with peerPending := false }) fun w => w.wait = .peer && w.req.line = line
/-- They end with a value (`none` poison): a read takes it, a write is discarded. -/
def peerEnd (d : Dev) (line : Nat) (x : Option Line) : Dev :=
  let sel := peerWaiters d line
  let d := transMod { d with waits := d.waits.filter fun w => !(w.wait = .peer && w.req.line = line) } line fun t => { t with peerPending := false }
  sel.foldl (fun d w => if w.req.op = .read then finishRead d w.req x false else finishLost d w.req) d

/-- A grant of the peer for a Span line (R221): PG and, with data, a clean line in Stage. -/
def peerGrant (d : Dev) (line pg status : Nat) (data : Option Line) : Dev :=
  if status = 2 then peerEnd (dirPut d line { dirEnt d line with pg }) line none
  else if status ≠ 0 then peerEnd d line data
  else
    let d := dirPut d line { dirEnt d line with pg }
    match data with
    | none => peerResume d line
    | some x => match stagePut d line x false none with
      | some d => peerResume d line
      | none =>
        let reads := (peerWaiters d line).all fun w => w.req.op = .read
        if reads then peerEnd d line (some x) else peerResume d line

/-- A line of a Span page read by a promotion (R327). -/
def dollyLine (d : Dev) (q i status : Nat) (x : Line) : Dev :=
  match (quad d q).move with
  | none => d
  | some m =>
    if status ≠ 0 ∧ status ≠ 2 then abandonMove d q false
    else qmod d q fun s => { s with move := some { m with data := m.data.set i x, bad := if status = 2 then i :: m.bad else m.bad } }

/-- A request of this device got no service (R318): what timing out does. -/
def unserved (d : Dev) (u : TagUse) : Dev :=
  match u.use with
  | .span line => if u.opcode = 0x63 then forwardLost d line else if 0x50 ≤ u.opcode then peerUnanswered d line u.peer else spanLost d line
  | .dolly q _ => abandonMove d q false
  | .xfer q l _ => xferAnswer d q l 3 none
  | .note | .release _ => d

/-- Meaning of MW_CMP (R316, R318). -/
def execMwCmp (b : Fin 8) (slots : List (BitVec 128)) (s : State) : Host.Outcome State Fault Refusal :=
  mwRow s b slots 0x20 fun d => mwAnswered d b slots (fun op => pkStatus slots = 3 || op = 2 || op = 3 || op = 6) fun d u =>
    if pkStatus slots = 3 then unserved d u
    else match u.use with
      | .xfer q l _ => xferAnswer d q l (pkStatus slots) none
      | .span _ | .dolly _ _ | .note | .release _ => d

/-- Meaning of MW_GRANTED (R80, R325). -/
def execMwGranted (b : Fin 8) (slots : List (BitVec 128)) (s : State) : Host.Outcome State Fault Refusal :=
  mwRow s b slots 0x21 fun d => mwAnswered d b slots (· = 5) fun d u =>
    match u.use with
    | .dolly q _ => match (quad d q).move with
      | none => d
      | some m =>
        if pkStatus slots ≠ 0 then abandonMove d q false
        else
          let page := hdrFld (slots.headD 0) 104 72
          sendLines (moveTaken d q m (spanEntry u.peer page (heatOf m.oldEntry)) m.data) q u.peer page m.data (BitVec.allOnes 64)
    | .note =>
      if pkStatus slots ≠ 0 then d
      else (mwRequest d u.peer 6 (spanSlate d) (hdrFld (slots.headD 0) 104 72 * 4096) [] .note).getD d
    | .span _ | .xfer _ _ _ | .release _ => d

/-- Meaning of MW_DATA (R257, R316). -/
def execMwData (b : Fin 8) (slots : List (BitVec 128)) (s : State) : Host.Outcome State Fault Refusal :=
  mwRow s b slots 0x30 fun d => mwAnswered d b slots (· = 1) fun d u =>
    match u.use with
    | .xfer q l _ => xferAnswer d q l (pkStatus slots) (some (lineOf slots))
    | .span _ | .dolly _ _ | .note | .release _ => d

/-- Meaning of MW_ADATA (R316): this device sends no ATOM, so its tag is freed and nothing waits for it. -/
def execMwAdata (b : Fin 8) (slots : List (BitVec 128)) (s : State) : Host.Outcome State Fault Refusal :=
  mwRow s b slots 0x31 fun d => mwAnswered d b slots (· = 4) fun d _ => d

/-- Meaning of MW_GNTI (R221, R327). -/
def execMwGnti (b : Fin 8) (slots : List (BitVec 128)) (s : State) : Host.Outcome State Fault Refusal :=
  mwRow s b slots 0x60 fun d => mwAnswered d b slots (· = 0x42) fun d u =>
    match u.use with
    | .span line => peerEnd d line (if pkStatus slots = 2 then none else some (lineOf slots))
    | .dolly q i => dollyLine d q i (pkStatus slots) (lineOf slots)
    | .xfer _ _ _ | .note | .release _ => d

/-- Meaning of MW_GNTS (R221). -/
def execMwGnts (b : Fin 8) (slots : List (BitVec 128)) (s : State) : Host.Outcome State Fault Refusal :=
  mwRow s b slots 0x61 fun d => mwAnswered d b slots (· = 0x40) fun d u =>
    match u.use with
    | .span line => peerGrant d line 1 (pkStatus slots) (some (lineOf slots))
    | .dolly _ _ | .xfer _ _ _ | .note | .release _ => d

/-- Meaning of MW_GNTE (R221). -/
def execMwGnte (b : Fin 8) (slots : List (BitVec 128)) (s : State) : Host.Outcome State Fault Refusal :=
  mwRow s b slots 0x62 fun d => mwAnswered d b slots (fun op => op = 0x40 || op = 0x41 || op = 0x43 || op = 0x48) fun d u =>
    match u.use with
    | .span line => peerGrant d line 2 (pkStatus slots) (if slots.length = 5 then some (lineOf slots) else none)
    | .dolly _ _ | .xfer _ _ _ | .note | .release _ => d

/-- FWDDATA gives a local requester its line (R214): its transaction closes once RSPFWD has come too. -/
def forwarded (d : Dev) (line : Nat) (x : Option Line) : Dev :=
  transNext (transMod d line fun t => { t with data := (match x with | some y => some y | none => t.data), poison := t.poison || x.isNone }) line

/-- Meaning of MW_FWDDATA (R214, R315). -/
def execMwFwddata (b : Fin 8) (slots : List (BitVec 128)) (s : State) : Host.Outcome State Fault Refusal :=
  mwRow s b slots 0x63 fun d => mwAnswered d b slots (· = 0x63) fun d u =>
    match u.use with
    | .span line => forwarded d line (if pkStatus slots = 2 then none else some (lineOf slots))
    | .dolly _ _ | .xfer _ _ _ | .note | .release _ => d

/-- Meaning of MW_WCMP (R316): a refused write of a Dolly move abandons it. -/
def execMwWcmp (b : Fin 8) (slots : List (BitVec 128)) (s : State) : Host.Outcome State Fault Refusal :=
  mwRow s b slots 0x64 fun d => mwAnswered d b slots (fun op => 0x44 ≤ op && op ≤ 0x47) fun d u =>
    match u.use with
    | .dolly q _ => if pkStatus slots = 0 then d else abandonMove d q false
    | .span _ | .xfer _ _ _ | .note | .release _ => d

/-- Meaning of MW_ACMP (R316): this device sends no ATMC, so its tag is freed and nothing waits for it. -/
def execMwAcmp (b : Fin 8) (slots : List (BitVec 128)) (s : State) : Host.Outcome State Fault Refusal :=
  mwRow s b slots 0x65 fun d => mwAnswered d b slots (· = 0x48) fun d _ => d

/-! ## Snoop answers of gates (R213) -/

/-- A gate's answer to a snoop: the line is that of the snoop whose tag it carries. Poisoned data poisons the line. -/
def gateAnswer (d : Dev) (b : Nat) (slots : List (BitVec 128)) (keepS fwd : Bool) : Dev :=
  mwAnswered d b slots (fun op => 0x50 ≤ op && op ≤ 0x53) fun d u =>
    match u.use with
    | .span line =>
      let bad := slots.length = 5 ∧ pkStatus slots = 2
      let d := if bad then transMod (poisonLine d line .external).1 line fun t => { t with poison := true } else d
      let data := if slots.length = 5 ∧ ¬ bad then some (lineOf slots) else none
      snoopAnswer d line (20 + gateOf d (pkSrc slots)) (pkSrc slots) keepS (pkFlag slots) fwd data
    | .dolly _ _ | .xfer _ _ _ | .note | .release _ => d

/-- Meaning of MW_RSPI (R213). -/
def execMwRspi (b : Fin 8) (slots : List (BitVec 128)) (s : State) : Host.Outcome State Fault Refusal :=
  mwRow s b slots 0x58 fun d => gateAnswer d b slots false false
/-- Meaning of MW_RSPS (R213). -/
def execMwRsps (b : Fin 8) (slots : List (BitVec 128)) (s : State) : Host.Outcome State Fault Refusal :=
  mwRow s b slots 0x59 fun d => gateAnswer d b slots true false
/-- Meaning of MW_RSPFWD (R213). -/
def execMwRspfwd (b : Fin 8) (slots : List (BitVec 128)) (s : State) : Host.Outcome State Fault Refusal :=
  mwRow s b slots 0x5A fun d => gateAnswer d b slots false true

/-! ## The peer's snoops of Span lines (R222) -/

/-- The local page whose Span entry names a peer's page. -/
def spanPage (d : Dev) (peer page : Nat) : Option Nat :=
  (livePages d fun p => tierOf (entryNow d p) = .span && peerId (entryNow d p) = peer && peerPage (entryNow d p) = page).head?

/-- A local transaction that had its data before the peer's snoop and has not granted asks the peer again. -/
def askAgain (d : Dev) (line : Nat) : Dev :=
  match transOf d line with
  | none => d
  | some t =>
    if ¬ t.homeReady then d
    else
      let d := transMod d line fun t => { t with homeReady := false, data := none }
      if t.await.isEmpty then atHome d t.req else d

/-- Answer the peer's snoop from what Stage holds, and lower PG (R222). `held` says whether local holders had the line, `lost` that an
owner did not answer. -/
def peerSnoopEnd (d : Dev) (s : PeerSnoop) (held lost : Bool) : Dev :=
  let x := stageFind d s.line
  let dirty := stageDirty d s.line
  let keepS := s.opcode = 0x51 || s.opcode = 0x52
  let payload := match x with
    | some v => if dirty then lineSlots v else []
    | none => []
  let miss := x.isNone && !held
  let rsp (d : Dev) (op : Nat) : Dev :=
    if lost then mwSend d s.peer op 0 s.tag 2 (lineSlots 0)
    else mwSend d s.peer op 0 s.tag (if miss then 2 ^ 63 else 0) payload
  let d := match s.opcode, x with
    | 0x50, _ => rsp d 0x58
    | 0x51, _ => rsp d (if miss then 0x58 else 0x59)
    | _, some v =>
      let d := mwSend d s.fwdPeer 0x63 0 s.fwdTag 0 (lineSlots v)
      mwSend d s.peer 0x5A 0 s.tag 0 payload
    | _, none => rsp d (if keepS && !miss then 0x59 else 0x58)
  let e := dirEnt d s.line
  let d := dirPut d s.line { e with pg := if keepS ∧ ¬ miss then 1 else 0 }
  let d := if keepS ∧ ¬ miss then
      match x with
      | some v => (stagePut d s.line v false none).getD d
      | none => d
    else stageDrop d s.line
  askAgain d s.line

/-- A peer's snoop arrives (R222): the local snoops it needs go out, and it is answered at once where none is awaited. -/
def peerSnoop (d : Dev) (b : Nat) (slots : List (BitVec 128)) : Dev :=
  let op := pkOp slots
  let h := slots.headD 0
  let base : PeerSnoop :=
    { line := 0, port := b, peer := pkSrc slots, tag := pkTag slots, opcode := op, fwdPeer := hdrFld h 114 109, fwdTag := hdrFld h 126 115, await := [], data := none }
  let none_ : Dev := mwSend d (pkSrc slots) 0x58 0 (pkTag slots) (2 ^ 63) []
  match spanPage d (pkSrc slots) (pkAddr slots / 4096) with
  | none => none_
  | some page =>
    let line := page * 64 + pkAddr slots / 64 % 64
    let e := dirEnt d line
    if e.pg = 0 then none_
    else
      let inv := op = 0x50 || op = 0x53
      let who := if inv then agentsOf e.vector else if e.state = .e then agentsOf e.vector else []
      let held := !(agentsOf e.vector).isEmpty
      let (d, aw, _) := snoopAll d line who e (if inv then 0 else 1) 0 0
      let s := { base with line, await := aw }
      if aw.isEmpty then peerSnoopEnd (if inv then dirPut d line { dirEnt d line with state := .i, vector := 0, ownerPeer := 0 } else d) s held false
      else qmod d (lineQuad line) fun q => { q with peerSnoops := q.peerSnoops ++ [s] }

/-- The peer's snoop in progress that awaits an agent on a line. -/
def peerSnoopFor (d : Dev) (line agent : Nat) : Option PeerSnoop :=
  (quad d (lineQuad line)).peerSnoops.find? fun s => s.line = line && s.await.contains agent

/-- A local holder has answered the peer's snoop: it keeps S or nothing. -/
def peerSnoopAnswer (d : Dev) (s : PeerSnoop) (agent : Nat) (keepS lost : Bool) : Dev :=
  let q := lineQuad s.line
  let d := qmod d q fun x => { x with peerSnoops := x.peerSnoops.filter fun y => !(y.line = s.line && y.tag = s.tag && y.peer = s.peer) }
  let e := dirEnt d s.line
  let v := if keepS then e.vector else e.vector &&& ~~~(agentBit agent)
  let d := dirPut d s.line { e with vector := v, state := if v = 0 then .i else .s, ownerPeer := 0 }
  let s := { s with await := s.await.filter (· ≠ agent) }
  if s.await.isEmpty then peerSnoopEnd d s true lost else qmod d q fun x => { x with peerSnoops := x.peerSnoops ++ [s] }

/-- Meaning of MW_SNPINV (R222). -/
def execMwSnpinv (b : Fin 8) (slots : List (BitVec 128)) (s : State) : Host.Outcome State Fault Refusal :=
  mwRow s b slots 0x50 fun d => peerSnoop d b slots
/-- Meaning of MW_SNPDATA (R222). -/
def execMwSnpdata (b : Fin 8) (slots : List (BitVec 128)) (s : State) : Host.Outcome State Fault Refusal :=
  mwRow s b slots 0x51 fun d => peerSnoop d b slots
/-- Meaning of MW_SNPFWDS (R222). -/
def execMwSnpfwds (b : Fin 8) (slots : List (BitVec 128)) (s : State) : Host.Outcome State Fault Refusal :=
  mwRow s b slots 0x52 fun d => peerSnoop d b slots
/-- Meaning of MW_SNPFWDE (R222). -/
def execMwSnpfwde (b : Fin 8) (slots : List (BitVec 128)) (s : State) : Host.Outcome State Fault Refusal :=
  mwRow s b slots 0x53 fun d => peerSnoop d b slots

/-! ## The BI answers of hosts (R213, R216, R217) -/

/-- A host answers a back-invalidate snoop; a downgrade of the peer's snoop keeps S only if that snoop lets it. -/
def biAnswer (d : Dev) (p line : Nat) (keepS : Bool) : Dev :=
  match peerSnoopFor d line p with
  | some s =>
    if keepS ∧ (s.opcode = 0x50 ∨ s.opcode = 0x53) then (snoopAgent (perr d 3 (dirEnt d line).state.code p line) line p (dirEnt d line) 0 0 0).1
    else peerSnoopAnswer d s p keepS false
  | none => snoopAnswer d line p 0 keepS false false none

/-- Meaning of BI_RSP_I (R213). -/
def execBiRspI (p : Fin 16) (line : LineNo) (s : State) : Host.Outcome State Fault Refusal :=
  doneIf s (port s.dev p).up fun d => biAnswer d p line.toNat false
/-- Meaning of BI_RSP_S (R213). -/
def execBiRspS (p : Fin 16) (line : LineNo) (s : State) : Host.Outcome State Fault Refusal :=
  doneIf s (port s.dev p).up fun d => biAnswer d p line.toNat true
/-- Meaning of BI_CONFLICT (R216). -/
def execBiConflict (p : Fin 16) (line : LineNo) (s : State) : Host.Outcome State Fault Refusal :=
  doneIf s (port s.dev p).up fun d => send d (.biConflictAck p line.toNat)

/-- A snoop's timer expires (R217). -/
def snoopTimeout (d : Dev) (line agent : Nat) : Dev :=
  let q := lineQuad line
  let waited := (peerSnoopFor d line agent).isSome || (match transFor d line with
    | some t => t.await.contains agent
    | none => false)
  if ¬ waited then d
  else
    let d := raise (rbump d (.dir q) .dirTimeoutCount) (.dir q) 1 .none (ctxCoh (.dir q) 0 (match transFor d line with | some t => t.state.code | none => 0) agent (line * 64))
    match peerSnoopFor d line agent with
    | some s =>
      let e := dirEnt d line
      let lost := e.state = .e && e.vector.getLsbD agent
      peerSnoopAnswer (if lost then (poisonLine d line .internal).1 else d) s agent false lost
    | none => unanswered d line agent

/-- Meaning of SNOOP_TIMEOUT (R217). -/
def execSnoopTimeout (_q : Fin 4) (line : LineNo) (agent : Fin 24) (s : State) : Host.Outcome State Fault Refusal :=
  done s (snoopTimeout s.dev line.toNat agent)

/-! ## Tags (R323) -/

/-- Meaning of RESPONSE_TIMEOUT (R323). -/
def execResponseTimeout (tag : BitVec 12) (s : State) : Host.Outcome State Fault Refusal := done s (tagTimeout s.dev tag.toNat)

/-- Meaning of TAG_HOLDBACK_END (R323). -/
def execTagHoldbackEnd (tag : BitVec 12) (s : State) : Host.Outcome State Fault Refusal :=
  match tabGet none s.dev.tags tag.toNat with
  | some u => if u.held then done s (retryPeer { s.dev with tags := tabPut none s.dev.tags tag.toNat none }) else still s
  | none => still s

end Sys2Proof.Machine
end

