-- ==== Sys2Proof/Machine/Worlds.lean ====
section
/-! DEFINITION. The management complex (15): the world extension of the cores (R333 to R340), key commands (R342), life cycle and
debug enables (R343 to R345), domain claims (R349) and the management watchdog (R352). -/

namespace Sys2Proof.Machine

/-! ## Cores -/

/-- A core. -/
def coreAt (s : State) (k : Nat) : CoreSt := s.life.cores.getD k {}
/-- Change a core. -/
def coreSet (s : State) (k : Nat) (c : CoreSt) : State := { s with life := { s.life with cores := s.life.cores.set k c } }

/-- The cores after a reset that reaches domain SI (R333): core 0 in the secure world at the start of the boot ROM, the others held. -/
def coresReset : List CoreSt := [{ running := true, secure := true }, {}, {}, {}]

/-- Whether a core executes instructions: powered, released, not halted. -/
def coreRuns (s : State) (k : Nat) : Bool := domOn s.dev 1 && (coreAt s k).running && !(coreAt s k).halted

/-- An exception of a core (R340): in the secure world to STVEC, in the normal world to mtvec. -/
def trap (c : CoreSt) (pc cause tval : DWord) : CoreSt :=
  { c with mepc := pc, mcause := cause, mtval := tval, pc := if c.secure then c.stvec else c.mtvec }

/-- An illegal instruction. No rule of the spec says what mtval holds then. -/
def illegal (s : State) (k : Nat) (pc : DWord) : State :=
  let s := coreSet s k (trap (coreAt s k) pc 2 (BitVec.ofNat 64 (Config.free (fresh s.dev))))
  { s with dev := bumpFree s.dev }

/-! ## The world extension (R336 to R340) -/

/-- custom-0 with every field the table gives as zero, but for rs1 of GATE (R336). -/
def isGate (w : Word) : Bool := w &&& 0xFFF07FFF = 0x0000000B
/-- GRET (R336). -/
def gretWord : Word := 0x0000100B
/-- ENTRY (R336). -/
def entryWord : Word := 0x0000200B

/-- Whether an address lies in the boot ROM or the secure SRAM (R334). -/
def secureAddr (a : DWord) : Bool := decide (a.toNat < 0x20000) || (decide (0x08000000 ≤ a.toNat) && decide (a.toNat < 0x08040000))

/-- The first check of a GATE that fails, in the order of R337. -/
def gateReason (d : Dev) (target : DWord) (atTarget : Word) : Option Nat :=
  if ¬ secureAddr target then some 1
  else if fld target 1 0 ≠ 0 then some 2
  else if ¬ domOn d 2 then some 4
  else if atTarget ≠ entryWord then some 3
  else none

/-- A gate fault (R337): cause 24 in the normal world, the first one captured, source "gate fault". -/
def gateFault (s : State) (k : Nat) (pc target : DWord) (reason : Nat) : State :=
  let s := coreSet s k (trap (coreAt s k) pc 24 target)
  let d := s.dev
  let d := if (rget d .mgt .mgtGateErr).getLsbD 31 then d
    else rput (rput d .mgt .mgtGateErr (packW [(0, k), (2, reason), (31, 1)])) .mgt .mgtGateErrAddr (target.setWidth 32)
  { s with dev := finish (raise0 d .mgt 1) }

/-- GATE by a core that may execute it. -/
def gateEnter (s : State) (k : Nat) (pc target : DWord) (atTarget : Word) : State :=
  match gateReason s.dev target atTarget with
  | some r => gateFault s k pc target r
  | none => coreSet s k { coreAt s k with sepc := pc + 4, secure := true, pc := target + 4 }

/-- Meaning of GATE (R337, R338): in the secure world or in user mode an illegal instruction. The ENTRY at the target is executed with it. -/
def execGate (k : Fin 4) (pc : DWord) (word : Word) (target : DWord) (atTarget : Word) (user : Bool) (s : State) :
    Host.Outcome State Fault Refusal :=
  if ¬ coreRuns s k then still s
  else if (coreAt s k).secure ∨ user ∨ ¬ isGate word then .next (illegal s k pc)
  else .next (gateEnter s k pc target atTarget)

/-- Meaning of GRET (R338). -/
def execGret (k : Fin 4) (pc : DWord) (word : Word) (user : Bool) (s : State) : Host.Outcome State Fault Refusal :=
  if ¬ coreRuns s k then still s
  else if ¬ (coreAt s k).secure ∨ user ∨ word ≠ gretWord then .next (illegal s k pc)
  else .next (coreSet s k { coreAt s k with secure := false, pc := (coreAt s k).sepc })

/-- Meaning of ENTRY (R338): a no-op in the secure world, an illegal instruction in the normal world. -/
def execEntry (k : Fin 4) (pc : DWord) (word : Word) (s : State) : Host.Outcome State Fault Refusal :=
  if ¬ coreRuns s k then still s
  else if ¬ (coreAt s k).secure ∨ word ≠ entryWord then .next (illegal s k pc)
  else .next (coreSet s k { coreAt s k with pc := pc + 4 })

/-- Meaning of ILLEGAL_CUSTOM0 (R336): a word of custom-0 that is none of the three instructions. -/
def execIllegalCustom0 (k : Fin 4) (pc : DWord) (word : Word) (s : State) : Host.Outcome State Fault Refusal :=
  if coreRuns s k ∧ fld word 6 0 = 0x0B ∧ ¬ isGate word ∧ word ≠ gretWord ∧ word ≠ entryWord then .next (illegal s k pc) else still s

/-- A secure interrupt reaches the core of SIRQ_ROUTE (R340): from the normal world it acts as a GATE to STVEC; in the secure world it
is a trap there, under the world's own enables. -/
def interrupt (s : State) (k : Nat) (pc : DWord) (enabled : Bool) : State :=
  let c := coreAt s k
  if c.secure then (if enabled then coreSet s k (trap c pc 0x800000000000000B 0) else s)
  else coreSet s k { c with sepc := pc, secure := true, pc := c.stvec }

/-- Meaning of SECURE_INTERRUPT (R340). -/
def execSecureInterrupt (pc : DWord) (enabledInSecure : Bool) (s : State) : Host.Outcome State Fault Refusal :=
  let k := rfld s.dev .seci .seciSirqRoute 1 0
  if coreRuns s k ∧ domOn s.dev 2 then .next (interrupt s k pc enabledInSecure) else still s

/-! ## Key commands (R132, R342) -/

/-- Whether an IDE key set is in use: its stream is secure under it. -/
def ideInUse (d : Dev) (index : Nat) : Bool :=
  let p := port d (index % 16)
  let set_ := decide (index / 256 % 2 = 1)
  index / 32 % 4 = 0 && (if index / 16 % 2 = 1 then p.ideIo && p.ioSet = set_ else p.ideMem && p.memSet = set_)

/-- Whether a Marwen key set is active. -/
def mwSetActive (d : Dev) (index : Nat) : Bool := (mport d (index % 8)).ks = some (decide (index / 8 % 2 = 1))

/-- Whether OP, target and index go together (R342). -/
def keyArgsOk (op target index : Nat) : Bool :=
  match target with
  | 0 => decide (index < 128) && [1, 2, 3].contains op
  | 1 => decide (index < 512) && [2, 3, 4].contains op && decide (index / 32 % 4 < 3)
  | 2 => decide (index < 32) && [2, 3, 4].contains op
  | _ => false

/-- The bytes of the source block that an operation reads; none where the lengths of OP 2 are too large. -/
def keyBlockLen (op : Nat) (block : List Byte) : Option Nat :=
  match op with
  | 1 => some 104
  | 2 =>
    let l := ofBytes (block.take 2)
    let c := ofBytes ((block.drop 2).take 2)
    if l ≤ 64 ∧ c ≤ 64 then some (4 + l + c) else none
  | 4 => some 32
  | _ => some 0

/-- A Seal slot is bound (R132). -/
def slotBind (d : Dev) (k : Nat) (key : BitVec 768) (derived : Bool) : Dev :=
  { d with slots := tabMod {} d.slots k fun x => { bound := true, derived, generation := x.generation + 1, key } }

/-- A Seal slot is zeroised. GENERATION stays (R132). -/
def slotZero (d : Dev) (k : Nat) : Dev :=
  { d with slots := tabMod {} d.slots k fun x => { generation := x.generation } }

/-- An IDE key: the link stream (0) becomes secure under a key set once both its directions are loaded, after a failure only if the
port was reset since (R274); it is no longer secure once a key of its set is zeroised. -/
def ideLoad (d : Dev) (index : Nat) (key : Option (BitVec 256)) : Dev :=
  let used := ideInUse d index
  let d := { d with ideKeys := tabPut none d.ideKeys index key }
  let rx := index - index / 128 % 2 * 128
  let both := (tabGet none d.ideKeys rx).isSome && (tabGet none d.ideKeys (rx + 128)).isSome
  let set_ := decide (index / 256 % 2 = 1)
  let io := decide (index / 16 % 2 = 1)
  portMod d (index % 16) fun p =>
    if key.isNone then
      (if ¬ used then p else if io then { p with ideIo := false } else { p with ideMem := false })
    else if ¬ both ∨ index / 32 % 4 ≠ 0 then p
    else if io then
      (if p.ioBroken ∧ ¬ p.wasReset then p else { p with ideIo := true, ioSet := set_, ioBroken := false })
    else
      (if p.memBroken ∧ ¬ p.wasReset then p else { p with ideMem := true, memSet := set_, memBroken := false })

/-- A Marwen key (R305, R306): a transmit key starts the switch to its set; a zeroised set is left. -/
def mwLoad (d : Dev) (index : Nat) (key : Option (BitVec 256)) : Dev :=
  let d := { d with mwKeys := tabPut none d.mwKeys index key }
  let set_ := decide (index / 8 % 2 = 1)
  if index / 16 % 2 ≠ 1 then d
  else mportMod d (index % 8) fun m =>
    if key.isNone then (if m.ks = some set_ then { m with ks := none } else m)
    else { m with switch := some set_ }

/-- What a key command does at its end: the device and RESULT. -/
def keyApply (d : Dev) (st : BitVec 2) (r : KeyRun) : Dev × Nat :=
  if st = 3 then (d, 6)
  else if ¬ keyArgsOk r.op r.target r.index then (d, 4)
  else if r.op ≠ 3 ∧ r.target = 1 ∧ ideInUse d r.index then (d, 4)
  else if r.op ≠ 3 ∧ r.target = 2 ∧ mwSetActive d r.index then (d, 4)
  else if r.op ≠ 3 ∧ r.srcBad then (d, 5)
  else if r.target = 0 ∧ slotInUse d r.index then (d, 2)
  else
    let key256 (f : BitVec 256) : Dev := if r.target = 1 then ideLoad d r.index (some f) else mwLoad d r.index (some f)
    match r.op with
    | 1 => match Config.keyUnwrap r.block with
      | some k => (slotBind d r.index k false, 0)
      | none => (d, 3)
    | 2 =>
      let k := Config.keyDerive r.block
      (if r.target = 0 then slotBind d r.index k true else key256 (k.setWidth 256), 0)
    | 3 => (if r.target = 0 then slotZero d r.index else if r.target = 1 then ideLoad d r.index none else mwLoad d r.index none, 0)
    | _ => (key256 (BitVec.ofNat 256 (ofBytes r.block)), 0)

/-- RESULT of KEY_STAT. -/
def keyResult (d : Dev) (n : Nat) : Dev := rputFld d .seci .seciKeyStat 3 1 n

/-- A KEY_CMD with a nonzero OP is written (R342): refused at once while one runs, else it runs. -/
def keyIssue (d : Dev) (op target index : Nat) (block : List Byte) : Dev :=
  if d.keyRun.isSome then keyResult d 1
  else
    let src := rfld d .seci .seciKeySrc 17 0
    match keyBlockLen op block with
    | some n => { d with keyRun := some { op, target, index, block := (block ++ List.replicate n 0).take n, srcBad := decide (src % 16 ≠ 0) || decide (0x40000 < src + n) } }
    | none => { d with keyRun := some { op := 0, target, index, block := [], srcBad := false } }

/-- Meaning of KEY_CMD with OP 1 (R342). -/
def execKeyUnwrap (target : BitVec 2) (index : BitVec 12) (block : List Byte) (s : State) : Host.Outcome State Fault Refusal :=
  doneIf s (domOn s.dev 2) fun d => keyIssue d 1 target.toNat index.toNat block
/-- Meaning of KEY_CMD with OP 2 (R342). -/
def execKeyDerive (target : BitVec 2) (index : BitVec 12) (block : List Byte) (s : State) : Host.Outcome State Fault Refusal :=
  doneIf s (domOn s.dev 2) fun d => keyIssue d 2 target.toNat index.toNat block
/-- Meaning of KEY_CMD with OP 3 (R342). -/
def execKeyZeroise (target : BitVec 2) (index : BitVec 12) (s : State) : Host.Outcome State Fault Refusal :=
  doneIf s (domOn s.dev 2) fun d => keyIssue d 3 target.toNat index.toNat []
/-- Meaning of KEY_CMD with OP 4 (R342). -/
def execKeyLoadPlain (target : BitVec 2) (index : BitVec 12) (block : List Byte) (s : State) : Host.Outcome State Fault Refusal :=
  doneIf s (domOn s.dev 2) fun d => keyIssue d 4 target.toNat index.toNat block
/-- Meaning of KEY_CMD with an OP of no operation (R342): 0 starts nothing. -/
def execKeyCmdBadOp (op : BitVec 3) (target : BitVec 2) (index : BitVec 12) (s : State) : Host.Outcome State Fault Refusal :=
  doneIf s (domOn s.dev 2 && decide (op = 0 ∨ 4 < op.toNat) && decide (op ≠ 0)) fun d => keyIssue d op.toNat target.toNat index.toNat []

/-- The running key command ends: RESULT, BUSY 0 and EVENT_STAT bit 0. -/
def keyComplete (d : Dev) (st : BitVec 2) (r : KeyRun) : Dev :=
  let (d, res) := keyApply d st r
  raiseEvent (keyResult { d with keyRun := none } res) .seci 0

/-- Meaning of KEY_CMD_COMPLETE (R342). -/
def execKeyCmdComplete (s : State) : Host.Outcome State Fault Refusal :=
  match s.dev.keyRun with
  | some r => done s (keyComplete s.dev s.life.state r)
  | none => still s

/-! ## Life cycle and debug (R343 to R345) -/

/-- The enables of a life-cycle state without unlock: bit 0 NNID, 1 NID, 2 SNID, 3 SID (R344). -/
def baseEnables (st : BitVec 2) : BitVec 4 := if st = 0 then 0xF else if st = 2 then 0x3 else 0

/-- The enables that a token may grant: its state and its key (R344). -/
def unlockable (st : BitVec 2) (vendor : Bool) : BitVec 4 :=
  if st = 1 then (if vendor then 0xF else 0x3) else if st = 2 then (if vendor then 0xC else 0) else 0

/-- The enables in force (R343): an invasive enable implies the non-invasive one of its world, a secure one takes effect only with the
normal one of the same kind. -/
def enablesOf (raw : BitVec 4) : BitVec 4 :=
  let nid := raw.getLsbD 1
  let nnid := raw.getLsbD 0 || nid
  let snid := (raw.getLsbD 2 || raw.getLsbD 3) && nnid
  let sid := raw.getLsbD 3 && nid
  BitVec.ofNat 4 (b2n nnid + 2 * b2n nid + 4 * b2n snid + 8 * b2n sid)

/-- DEBUG_EN.ENABLES (R354). -/
def enables (l : Life) : BitVec 4 := enablesOf (baseEnables l.state ||| l.unlocked)

/-- Cores halted under an invasive enable that is no longer in force resume (R345). -/
def resumeCores (l : Life) : Life :=
  let e := enables l
  { l with cores := l.cores.map fun c => if c.halted ∧ ¬ (if c.secure then e.getLsbD 3 else e.getLsbD 1) then { c with halted := false } else c }

/-- The unlocked enables are withdrawn (R345). -/
def relockLife (l : Life) : Life := resumeCores { l with unlocked := 0 }

/-- The secure world writes LIFECYCLE (R344): ADVANCE takes only the next code. -/
def lifecycleWrite (l : Life) (v : Word) : Life :=
  if fld v 17 16 = l.state.toNat + 1 then { l with burn := some (BitVec.ofNat 2 (fld v 17 16)) } else l

/-- Meaning of DEBUG_NONCE_REQUEST (R345): over the sideband or the debug port. -/
def execDebugNonceRequest (p : Path) (nonce : BitVec 256) (s : State) : Host.Outcome State Fault Refusal :=
  if domOn s.dev 2 ∧ (p = .sideband ∨ p = .debug) then
    .next { s with life := { s.life with nonces := s.life.nonces ++ [nonce] }, dev := send s.dev (.nonce p nonce) }
  else still s

/-- Whether a token grants what it asks for (R345). -/
def tokenOk (l : Life) (t : Token) : Bool :=
  t.sigValid && l.nonces.contains t.nonce && t.enables &&& ~~~(baseEnables l.state ||| unlockable l.state t.vendor) = 0

/-- Meaning of DEBUG_UNLOCK_TOKEN (R345): granted, or "debug unlock refused". Its nonce is used up. -/
def execDebugUnlockToken (t : Token) (s : State) : Host.Outcome State Fault Refusal :=
  if ¬ domOn s.dev 2 then still s
  else
    let left := s.life.nonces.filter (· ≠ t.nonce)
    if tokenOk s.life t then .next { s with life := { s.life with nonces := left, unlocked := s.life.unlocked ||| (t.enables &&& unlockable s.life.state t.vendor) } }
    else .next { s with life := { s.life with nonces := left }, dev := finish (raise0 s.dev .seci 1) }

/-- Meaning of NONCE_EXPIRY (R345): after 60 s. -/
def execNonceExpiry (nonce : BitVec 256) (s : State) : Host.Outcome State Fault Refusal :=
  .next { s with life := { s.life with nonces := s.life.nonces.filter (· ≠ nonce) } }

/-! ## Claims (R349) -/

/-- The secure world writes CLAIM: bits of domains that are off or powering off are not applied, bits 0 and 2 never. -/
def claimWrite (d : Dev) (v : Word) : Dev :=
  let keep := (List.range 20).filter fun i =>
    v.getLsbD i && i ≠ 0 && i ≠ 2 && domOn d i && d.pwr.domReq ≠ some (i, 1)
  rput d .seci .seciClaim (packW (keep.map fun i => (i, 1)))

/-- Whether a domain is claimed. -/
def claimed (d : Dev) (i : Nat) : Bool := (rget d .seci .seciClaim).getLsbD i

/-- The code of a path (R30). -/
def Path.code : Path → Nat
  | .secure => 0 | .normal => 1 | .host _ => 2 | .sideband => 3 | .debug => 4

/-- A request against a claimed domain is refused (R349): the first one is captured. -/
def claimRefused (d : Dev) (dom kind path : Nat) : Dev :=
  let d := if (rget d .seci .seciClaimRefused).getLsbD 31 then d
    else rput d .seci .seciClaimRefused (packW [(0, dom), (5, kind), (8, path), (31, 1)])
  raiseEvent (raise0 d .seci 0) .seci 1

/-! ## Cores, TEST and watchdog -/

/-- The secure world writes CORE_RELEASE (R333, R354): a bit stays 1; a core newly released starts in the normal world at the entry
point of the normal image, which no register holds. -/
def coreReleaseWrite (s : State) (v : Word) : State :=
  let old := rget s.dev .seci .seciCoreRelease
  let now := old ||| (v &&& 0xE)
  let entry : DWord := BitVec.ofNat 64 (Config.free (fresh s.dev))
  let s := { s with dev := bumpFree (rput s.dev .seci .seciCoreRelease now) }
  [1, 2, 3].foldl (fun s k => if now.getLsbD k ∧ ¬ old.getLsbD k then coreSet s k { running := true, pc := entry } else s) s

/-- The secure world writes TEST_EN (R355). -/
def testEnWrite (s : State) (v : Word) : State :=
  if s.life.state = 3 then s else { s with dev := rput s.dev .seci .seciTestEn (v &&& 0xF) }

/-- WDOG_KICK is written (R352). -/
def wdogKickWrite (d : Dev) (v : Word) : Dev := if v.getLsbD 0 then { d with wdogSince := d.pwr.now } else d

/-- Meaning of MANAGEMENT_WATCHDOG (R351, R352): the count has reached MS. Cut stops the count. -/
def execManagementWatchdog (s : State) : Host.Outcome State Fault Refusal :=
  doneIf s (domOn s.dev 1 && (rget s.dev .mgt .mgtWdogCfg).getLsbD 16 && (pget s.dev .mgt).run ≠ .cut) fun d =>
    raise0 { d with wdogSince := d.pwr.now } .mgt 0

end Sys2Proof.Machine
end

