-- ==== Sys2Proof/Machine/Domains.lean ====
section
/-! DEFINITION. What a power domain loses and keeps (R44, R357, R358), the device time across sleep (R373), the entry to Boot
(R446, R453) and the cold reset (R411, R416). -/

namespace Sys2Proof.Machine

/-! ## Registers of a domain -/

/-- Whether a page belongs to a domain. -/
def inDomain (d : Dev) (dom page : Nat) : Bool := match blockAt d.marwen page with
  | some b => b.domain = dom
  | none => false

/-- Whether a register keeps its value through power-ups of its page's domain: persistent ones (R44), the rights of the AO pages
(R37), the cause of the last reset (R417). The settings of the MWT pages are the device's, not one brick's. -/
def keptKey (d : Dev) (key : Nat) : Bool :=
  if 0x90 ≤ key / 4096 ∧ key / 4096 < 0x98 then true
  else match blockAt d.marwen (key / 4096) with
    | none => true
    | some b => match findReg b (key % 4096) with
      | none => true
      | some (n, i) => n.row.persist || n = .fltResetCause || (n = .seciPageRights && [0, 4, 5, 7].contains i)

/-- The pages of a domain at their reset values. The layout of a host brick stays (R268). -/
def wipePages (d : Dev) (dom : Nat) : Dev :=
  let host := decide (12 ≤ dom) && !d.marwen.getLsbD (dom - 12)
  let split := rfld d (.hpt (dom - 12)) .hptCfg 1 0
  let d' := { d with
    regs := d.regs.filter fun e => !inDomain d dom (e.1 / 4096) || keptKey d e.1
    staged := tabDrop (fun k => inDomain d dom (k / 4096)) d.staged
    pages := tabDrop (fun p => inDomain d dom p) d.pages }
  if host then rputFld d' (.hpt (dom - 12)) .hptCfg 1 0 split else d'

/-! ## What else a domain holds -/

/-- A quadrant core and its SRAM: what stays is what its DRAM holds (journals, scratch page, poison list copy), what media pages are
used for, and the repairs. -/
def quadKept (s : Quad) : Quad :=
  { use := s.use, badPages := s.badPages, journal := s.journal, repaintJ := s.repaintJ,
    sweepPage := s.sweepPage.bind fun p => if p.scratch then some p else none,
    moveSeq := s.moveSeq, sweepSeq := s.sweepSeq, sander := { laps := s.sander.laps }, remap := s.remap,
    spareUsed := s.spareUsed, pprUsed := s.pprUsed, poisonCopy := s.poisonCopy }

/-- Domain QCq. -/
def wipeQuad (d : Dev) (q : Nat) : Dev :=
  let d := { d with
    quads := tabMod {} d.quads q quadKept
    banks := tabDrop (fun k => k / 2 ^ 12 / 8 = q) d.banks }
  let d := (List.range 8).foldl (fun d i => umod d (8 * q + i) fun s => { selfRefresh := s.selfRefresh }) d
  if q = 0 then { d with rangeBusy := none, regionBusy := none } else d

/-- Domain XB: the Slate table, Continuity's ring, regulation, the Gaffer, Dailies, tags. LATCHED and the first-error record are in the
always-on island, and so are the conditions that AO and the DIMMs report (R396). -/
def wipeXb (d : Dev) : Dev :=
  let heldId (i : Nat) : Bool := (16 ≤ i && i < 24) || i = 12 ||
    (132 ≤ i && i < 196 && ((i - 132) % 16 = 3 || (i - 132) % 16 = 6))
  let mask : BitVec 512 := (List.range 196).foldl (fun m i => if heldId i then m ||| BitVec.ofNat 512 (2 ^ i) else m) 0
  { d with
    flt := { d.flt with ring := [], stalls := [], clearRefused := false, asserting := d.flt.asserting &&& mask }
    ctxs := [], ctxBad := [], fbs := [], slateBusy := none, slateResult := 0, reg := {}, gaffer := {}, daily := {}
    cap := { granted := d.cap.granted }, poison := [], poisonOverflow := false, poisonLost := none
    latches := [], tags := [], mgt := [] }

/-- Domain LBb: ports, lanes, keys and tests of the brick. -/
def wipeBrick (d : Dev) (b : Nat) : Dev :=
  let d := { d with
    bricks := tabPut {} d.bricks b {}
    mports := tabPut {} d.mports b {}
    ideKeys := tabDrop (fun k => k % 16 / 2 = b) d.ideKeys
    mwKeys := tabDrop (fun k => k % 8 = b) d.mwKeys
    cal := { d.cal with lanes := tabDrop (fun l => l / 8 = b) d.cal.lanes } }
  let fresh (x : HPort) : HPort := { perst := x.perst, memTimeout := x.memTimeout, wasReset := true, upId := d.nextId }
  portMod (portMod d (2 * b) fresh) (2 * b + 1) fresh

/-- Domain MG: the mailboxes and the calibration page. The store and the firmware copies are in flash. -/
def wipeMg (d : Dev) : Dev :=
  { d with
    heads := d.heads.filterMap fun e => if e.2.fwOk then some (e.1, { fwOk := true }) else none
    cal := { d.cal with queue := [], erasing := none, stopped := false }
    fwXfer := d.fwXfer.bind fun x => if x.complete then some x else none }

/-- Everything a domain holds that does not outlive its power. -/
def wipe (d : Dev) (dom : Nat) : Dev :=
  let d := { d with cal := { d.cal with stages := tabDrop (fun k => inDomain d dom (k / 2 ^ 16)) d.cal.stages } }
  let d := wipePages d dom
  match dom with
  | 1 => wipeMg d
  | 2 => { d with keyRun := none }
  | 3 => wipeXb d
  | 4 | 5 | 6 | 7 => wipeQuad d (dom - 4)
  | 0 | 8 | 9 | 10 | 11 => d
  | _ => wipeBrick d (dom - 12)

/-! ## Time across sleep (R373) -/

/-- The time that the AO ticks since XB went off stand for, in nanoseconds. -/
def aoElapsed (d : Dev) : Nat := d.pwr.aoTicks.toNat * d.pwr.ratio.toNat / 65536

/-- XB goes off: the AO island keeps the counter's value and starts to count ticks. -/
def timeKeep (d : Dev) : Dev := { d with pwr := { d.pwr with kept := some d.pwr.now, aoTicks := 0 } }

/-- XB comes on: the time is restored, and its uncertainty grows by 5 ppm or 100 ppm of the time slept. Without a kept value it
starts at its reset value. Boot's start is placed in the restored time. -/
def timeRestore (d : Dev) : Dev :=
  let e := aoElapsed d
  let ppm := if d.pwr.calValid then 5 else 100
  let p := match d.pwr.kept with
    | some k => { d.pwr with now := k + BitVec.ofNat 64 e, unc := d.pwr.unc + BitVec.ofNat 64 (e * ppm / 1000000), kept := none, aoTicks := 0 }
    | none => { d.pwr with now := 0, aoTicks := 0 }
  { d with pwr := p, boot := { d.boot with began := p.now - BitVec.ofNat 64 e } }

/-! ## Switching domains -/

/-- A domain goes off. The claim ends with it (R349). A fenced quadrant stays marked so while it is off. -/
def domainOff (d : Dev) (dom : Nat) : Dev :=
  if ¬ domOn d dom then d
  else
    let fencedQ := 4 ≤ dom && dom < 8 && (pget d (.qctl (dom - 4))).run = .fenced
    let d := if dom = 3 then timeKeep d else d
    let bit : BitVec 20 := BitVec.ofNat 20 (2 ^ dom)
    let d := { d with pwr := { d.pwr with dom := d.pwr.dom &&& ~~~bit, clkStop := d.pwr.clkStop &&& ~~~bit } }
    let d := rput d .seci .seciClaim (rget d .seci .seciClaim &&& ~~~(BitVec.ofNat 32 (2 ^ dom)))
    let d := wipe d dom
    if fencedQ then pmod d (.qctl (dom - 4)) fun p => { p with run := .fenced } else d

/-- A domain comes on, its pages at their reset values (R44, R358). -/
def domainOn (d : Dev) (dom : Nat) : Dev :=
  if domOn d dom then d
  else
    let d := wipe { d with pwr := { d.pwr with dom := d.pwr.dom ||| BitVec.ofNat 20 (2 ^ dom) } } dom
    if dom = 3 then timeRestore d else d

/-- The other domains than AO go off at once (R367 step 6, R412 step 5). -/
def allOff (d : Dev) : Dev :=
  let d := (List.range 19).foldl (fun d i => domainOff d (i + 1)) d
  { d with
    regs := d.regs.filter fun e => ¬ (0x90 ≤ e.1 / 4096 ∧ e.1 / 4096 < 0x98) || (match findReg (.mwt 0) (e.1 % 4096) with
      | some (n, _) => n.row.persist
      | none => false)
    waits := [], ioReads := [], react := [], streams := [] }

/-- Domain SI comes on: the cores start afresh (R333), and no debug enable is unlocked (R345). -/
def lifeReset (l : Life) : Life := { l with cores := coresReset, unlocked := 0, nonces := [] }

/-! ## Boot entry (R453) and mode changes (R359) -/

/-- The mode changes. -/
def modeTo (d : Dev) (m : Mode) : Dev := raiseEvent { d with pwr := { d.pwr with mode := m } } .pwr 0

/-- The hold-up area is read (R452): PREV from the newest record that no boot has read; after a cold boot with PREV 2 the hosts
are owed a report at step 9. -/
def readHoldArea (d : Dev) : Dev :=
  let prev := match (d.flash.filter (·.fresh)).getLast? with
    | some h => h.prev
    | none => 0
  let cold := ¬ (rget d .sbi .sbiBootStat).getLsbD 5
  let d := rputFld d .sbi .sbiBootStat 17 16 prev
  { d with flash := d.flash.map fun h => { h with fresh := false },
           boot := { d.boot with owed := d.boot.owed || (cold && decide (prev = 2)) } }

/-- Entry to Boot at a step, on the warm path or not. PREV stays until step 1 sets it; an entry that skips step 1 reads the hold-up area
at once. -/
def bootEnter (d : Dev) (step : Nat) (warm : Bool) : Dev :=
  let prev := rfld d .sbi .sbiBootStat 17 16
  let d := rput d .sbi .sbiBootStat (packW [(0, step), (5, b2n warm), (16, prev)])
  let d := rput d .sbi .sbiBootMs 0
  let d := { modeTo d .boot with boot := { active := true, began := d.pwr.now } }
  if step = 1 then d else readHoldArea d

/-! ## Cold reset (R411, R416) -/

/-- RESET_CAUSE. -/
def resetCause (kind path why : Nat) : Word := packW [(0, kind), (2, path), (5, why)]

/-- The FEED registers outlive a cold reset while the feed controller is powered (R391). -/
def feedKey (k : Nat) : Bool := decide (k / 4096 = 5)

/-- The device after a cold reset: DRAM and every domain but AO lost, persistent registers (EVENT_STAT of PWR too) at their reset values,
the flash kept, Boot on its cold path. `feedKept` says that the feed controller stayed powered. -/
def coldDev (d : Dev) (cause : Word) (feedKept : Bool) : Dev :=
  let d0 : Dev :=
    { regs := if feedKept then d.regs.filter fun e => feedKey e.1 else []
      staged := if feedKept then d.staged.filter fun e => feedKey e.1 else []
      pages := if feedKept then d.pages.filter fun e => e.1 = 5 else []
      flt := { asserting := if feedKept then d.flt.asserting &&& 0xFF0000 else 0 }
      ports := d.ports.filterMap fun e => if e.2.perst then none else some (e.1, { perst := false })
      cal := { sectors := d.cal.sectors, writeAt := d.cal.writeAt, order := d.cal.order, readOnly := d.cal.readOnly, ended := d.cal.ended }
      flash := d.flash, supply := d.supply, bootFlag := d.bootFlag
      fwXfer := d.fwXfer.bind fun x => if x.complete then some x else none
      nextId := d.nextId, out := d.out, freeCtr := d.freeCtr }
  let d1 := rput (rput d0 .flt .fltResetCause cause) .sbi .sbiBootStat 1
  { d1 with boot := { active := true } }

/-- A burnt life-cycle advance takes effect (R344): entering it ends the unlocks; a test secret takes the place of the device secret
in Returned (code 2). -/
def lifeCold (l : Life) : Life :=
  match l.burn with
  | some c => { lifeReset l with state := c, burn := none, testSecret := l.testSecret || c = 2, cores := [{}, {}, {}, {}] }
  | none => { lifeReset l with cores := [{}, {}, {}, {}] }

/-- A cold reset of the whole block. -/
def coldReset (s : State) (cause : Word) (feedKept : Bool) : State :=
  { s with dev := coldDev s.dev cause feedKept, life := lifeCold s.life, feed := if feedKept then s.feed else {} }

end Sys2Proof.Machine
end

