-- ==== Sys2Proof/Machine/Reconcile.lean ====
section
/-! DEFINITION. The warm path (R415): the poison list read back (R169), sub-channels filled with poison (R408), the sweep and Dolly
journals reconciled (R144, R83). -/

namespace Sys2Proof.Machine

/-! ## Filling a sub-channel with poison (R408) -/

/-- The pages whose words DRAM holds, with their entries. -/
def storedPages (d : Dev) (q : Nat) : List (Nat × DWord) :=
  (livePages d fun p => homeOf p = q).filterMap fun p =>
    let e := entryNow d p
    if tierOf e = .open_ ∨ tierOf e = .packed then some (p, e) else none

/-- The poison word goes to every line location of the sub-channel, in the profile of what stands there, and the heads are told (R467). -/
def fillSub (d : Dev) (u : Nat) : Dev :=
  let bit : BitVec 32 := BitVec.ofNat 32 (2 ^ u)
  let skimUnits := (storedPages d (u / 8)).flatMap fun x =>
    if skimOf d x.1 then ((List.range (unitCount x.2)).map fun i => unitLoc d x.1 x.2 i).filter fun l => locSub l = u else []
  let d := { d with dram := d.dram.filter fun e => locSub e.1 ≠ u, subFill := d.subFill ||| bit }
  let d := skimUnits.foldl (fun d l => dramPut d l (poisonWord true)) d
  logEvents { d with flt := { d.flt with lossSub := d.flt.lossSub &&& ~~~bit } } (headsOf d) 2 (.subFilled u)

/-- Every sub-channel that lost writes is filled. -/
def fillLost (d : Dev) : Dev :=
  (List.range 32).foldl (fun d u => if d.flt.lossSub.getLsbD u then fillSub d u else d) d

/-! ## The reserved area as the warm path finds it -/

/-- Whether a quadrant's journals and its poison list copy pass their CRC. Where a sub-channel of the quadrant lost writes, that
depends on what it lost: a free value. -/
def reservedIntact (d : Dev) : Dev × List Bool :=
  (List.range 4).foldl (fun (a : Dev × List Bool) q =>
    if (a.1.flt.lossSub >>> (8 * q)) &&& 0xFF = 0 then (a.1, a.2 ++ [true])
    else (bumpFree a.1, a.2 ++ [decide (Config.free (fresh a.1) % 2 = 0)])) (d, [])

/-- The poison list is read back from the lowest-numbered quadrant whose copy passes (R169). -/
def poisonRestore (d : Dev) (intact : List Bool) : Dev :=
  match (List.range 4).findSome? fun q => if intact.getD q true then (quad d q).poisonCopy else none with
  | some l => { d with poison := l }
  | none => raise0 { d with poison := [], poisonOverflow := true } (.coat 0) 8

/-! ## Sweep journals (R144) -/

/-- A poison word with its record for every line of a page (R144). -/
def poisonPage (d : Dev) (page : Nat) : Dev :=
  (List.range 64).foldl (fun d i => (poisonLine d (page * 64 + i) .internal).1) d

/-- The journal's CHECK fails: for every repaint under way in the quadrant, the page at its edge is poisoned. -/
def repaintCheckFail (d : Dev) (q : Nat) : Dev :=
  let d := (List.range 4).foldl (fun d s =>
    match sweepTarget d q s true with
    | some page => poisonPage d page
    | none => d) d
  raise0 d (.seal q) 2

/-- A page's words go from the scratch page to its place (R140 step 4), straight to DRAM. -/
def scratchCopy (d : Dev) (q : Nat) (p : SweepPage) : Dev :=
  let e := entryNow d p.page
  let d := p.words.foldl (fun d w => dramWrite d (unitLoc d p.page e w.1) w.2) d
  let d := if linedOf d p.page then parityFresh d p.page e else d
  qmod d q fun s => { s with sweepPage := none }

/-- The later of the journal's NEXT_EDGE and the edge that is held. -/
def edgeLater (d : Dev) (q : Nat) (j : RepaintJ) : Dev :=
  let w := sweep d j.slot
  let x := range d w.range
  let next := max j.nextEdge (w.edge.getD q 0)
  let last := (x.base + x.len) * 512 ≤ next
  sweepEnd (sweepMod d j.slot fun w => { w with
    edge := w.edge.set q next, qdone := if last then w.qdone ||| BitVec.ofNat 4 (2 ^ q) else w.qdone }) j.slot

/-- One quadrant's sweep journal. -/
def sweepReconcile (d : Dev) (q : Nat) (intact : Bool) : Dev :=
  match (quad d q).repaintJ with
  | none => if intact then d else repaintCheckFail d q
  | some j =>
    let d :=
      if ¬ (j.ok && intact) then repaintCheckFail d q
      else match j.step, (quad d q).sweepPage with
        | 1, some p =>
          let d := scratchCopy d q p
          edgeLater (qmod d q fun s => { s with repaintJ := some { j with step := 2 } }) q { j with step := 2 }
        | 2, _ => edgeLater d q j
        | _, _ => d
    qmod d q fun s => { s with sweepPage := none }

/-! ## Dolly journals (R83) -/

/-- MOVING is cleared in every entry of the quadrant's map share. -/
def clearMoving (d : Dev) (q : Nat) : Dev :=
  (d.mapShare.filter fun e => e.1 / 2 ^ 32 = q ∧ movingOf e.2).foldl (fun d e => putShare d q (e.1 % 2 ^ 32) (withMoving e.2 false)) d

/-- The uses of media pages, rebuilt from the map: slots that no entry references are free. Linings stay. -/
def rebuildUse (d : Dev) (q : Nat) : Dev :=
  let linings := (quad d q).use.filter fun e => match e.2 with
    | .lining _ => true
    | _ => false
  let add (u : Tab MUse) (e : Nat × DWord) : Tab MUse :=
    match tierOf e.2 with
    | .open_ => tabPut .free u (mpnOf e.2) (.open_ (pageOfLocal q (e.1 % 2 ^ 32)))
    | .packed =>
      let had : BitVec 16 := match tabGet MUse.free u (mpnOf e.2) with
        | .pool m => m
        | _ => 0
      tabPut .free u (mpnOf e.2) (.pool (had ||| BitVec.ofNat 16 ((2 ^ slotCount e.2 - 1) <<< firstSlot e.2)))
    | .unbacked | .span => u
  let use := ((d.mapShare.filter fun e => e.1 / 2 ^ 32 = q ∧ entryOk e.2 (2 ^ 30)).foldl add linings)
  qmod d q fun s => { s with use, runs := [], binds := [] }

/-- One quadrant's Dolly journal: PHASE 1 rolls back, PHASE 2 stands, a failed CHECK counts as idle. -/
def dollyReconcile (d : Dev) (q : Nat) (intact : Bool) : Dev :=
  let d := match (quad d q).journal with
    | none => if intact then d else raise0 d (.dolly 0) 0
    | some j =>
      if ¬ (j.ok && intact) then raise0 d (.dolly 0) 0
      else if j.active ∧ j.phase = 1 then putShare d q (localPage j.page) j.oldEntry
      else d
  rebuildUse (clearMoving (qmod d q fun s => { s with journal := none, move := none }) q) q

/-! ## The warm path (R415) -/

/-- Steps 1 to 4 of R415; the remaps of step 1 are in the remap tables, which stand. A range that was flushing has nothing left in
Stage. -/
def warmReconcile (d : Dev) : Dev :=
  let (d, intact) := reservedIntact d
  let d := poisonRestore d intact
  let d := fillLost d
  let d := (List.range 4).foldl (fun d q => sweepReconcile d q (intact.getD q true)) d
  let d := (List.range 4).foldl (fun d q => dollyReconcile d q (intact.getD q true)) d
  { d with ranges := d.ranges.map fun e => if e.2.state = .flushing then (e.1, { e.2 with flushed := 0xF }) else e }

end Sys2Proof.Machine
end

