-- ==== Sys2Proof/Machine/Power.lean ====
section
/-! DEFINITION. Domain and mode requests (R358 to R362), the Gaffer (R363 to R366), Retain and wake (R367 to R372), device time (R373). -/

namespace Sys2Proof.Machine

/-! ## Registers that the state gives (R374, R375, R377) -/

/-- A signed temperature in its 8-bit field. -/
def temp8 (t : Int) : Nat := (t % 256).toNat

/-- The VCORE target of the sub-state (R360). -/
def vcoreTarget (d : Dev) : Nat := match d.pwr.sub with
  | 0 => 750
  | 1 => rfld d .gaffer .gafferCfg 25 16
  | _ => 600

/-- The read value of a GAFFER register that the state gives; none for the others. -/
def gafferReg (d : Dev) (n : RName) : Option Word := match n with
  | .gafferEst => some (packW [(0, min d.gaffer.est 0xFFFF)])
  | .gafferVcore => some (packW [(0, d.gaffer.vcore % 1024), (16, vcoreTarget d % 1024)])
  | .gafferGrants => some (d.gaffer.grants.setWidth 32)
  | .gafferTemp => some (packW ((List.range 4).map fun q => (8 * q, temp8 (d.gaffer.temps.getD q 0))))
  | .gafferTempXb => some (packW [(0, temp8 (d.gaffer.temps.getD 4 0)), (8, temp8 (d.gaffer.temps.getD 5 0))])
  | .gafferTherm => some (packW [(0, b2n d.gaffer.trimForced), (1, d.gaffer.thermFenced.toNat)])
  | _ => none

/-- MODE codes (R377). -/
def Mode.code : Mode → Nat
  | .boot => 0 | .service => 1 | .degraded => 2 | .maintain => 3 | .retain => 4 | .factory => 5

/-- The read value of a PWR register that the state gives. -/
def pwrReg (d : Dev) (n : RName) : Option Word := match n with
  | .pwrMode => some (packW [(0, d.pwr.mode.code), (4, d.pwr.sub)])
  | .pwrReqStat => some (packW [(0, b2n d.pwr.req.isSome), (1, d.pwr.reqResult)])
  | .pwrDomStat => some (packW [(0, b2n d.pwr.domReq.isSome), (1, d.pwr.domResult)])
  | .pwrWakeStat => some (packW [(0, b2n d.pwr.wakeFail), (1, d.pwr.failStep), (4, d.pwr.wakeAttempts)])
  | .pwrPadStat => some (d.pwr.pads.setWidth 32)
  | _ => none

/-- The read value of a TIME register that the state gives. -/
def timeReg (d : Dev) (n : RName) : Option Word := match n with
  | .timeNowLo => some (d.pwr.now.setWidth 32)
  | .timeNowHi => some ((d.pwr.now >>> 32).setWidth 32)
  | .timeStat => some (packW [(0, b2n d.pwr.valid), (1, b2n d.pwr.calValid)])
  | .timeRatio => some d.pwr.ratio
  | .timeUncLo => some (d.pwr.unc.setWidth 32)
  | .timeUncHi => some ((d.pwr.unc >>> 32).setWidth 32)
  | _ => none

/-- The context of a PWR or GAFFER source (R402 KIND 6): the first seven block registers. -/
def pwrCtx (d : Dev) : BitVec 256 :=
  let v (n : RName) : Word := (pwrReg d n).getD (rget d .pwr n)
  ctxPower .pwr [v .pwrMode, 0, v .pwrReqStat, 0, v .pwrDomStat, v .pwrWakeEn, v .pwrWakeSrc]
def gafferCtx (d : Dev) : BitVec 256 :=
  let v (n : RName) : Word := (gafferReg d n).getD (rget d .gaffer n)
  ctxPower .gaffer [v .gafferCfg, v .gafferCap, v .gafferEst, v .gafferVcore, v .gafferGrants, v .gafferTemp, v .gafferTempXb]

/-! ## Domain requests (R357, R358) -/

/-- A domain request completes. -/
def domDone (d : Dev) (res : Nat) : Dev := raiseEvent { d with pwr := { d.pwr with domResult := res } } .pwr 2

/-- The conditions of R357 on a power-off or clock stop, and the domains that clock operations apply to. -/
def domAllowed (d : Dev) (dom op : Nat) : Bool :=
  let fenced (c : Nat) : Bool := subFenced d (2 * c) && subFenced d (2 * c + 1)
  let mayStop :=
    if dom < 8 then quadFenced d (dom - 4)
    else if dom < 12 then !domOn d (dom - 4) || (List.range 4).all fun k => fenced (4 * (dom - 8) + k)
    else true
  match op with
  | 0 => true
  | 1 => mayStop
  | 2 => decide (8 ≤ dom) && domOn d dom && mayStop
  | _ => decide (8 ≤ dom) && domOn d dom

/-- DOM_REQ is written: the checks of R358 in their order, then the request runs. -/
def domRequest (d : Dev) (p : Path) (dom op : Nat) : Dev :=
  if d.pwr.domReq.isSome then domDone d 1
  else if dom < 4 then domDone d 4
  else if 20 ≤ dom then domDone d 3
  else if p ≠ .secure ∧ (op = 1 ∨ op = 2) ∧ claimed d dom then domDone (claimRefused d dom (op - 1) (Path.code p)) 2
  else if ¬ domAllowed d dom op then domDone d 3
  else { d with pwr := { d.pwr with domReq := some (dom, op) } }

/-- What an accepted domain request does. A quadrant that comes on finds its journals. -/
def domApply (d : Dev) (dom op : Nat) : Dev :=
  let bit : BitVec 20 := BitVec.ofNat 20 (2 ^ dom)
  let d := if (op = 1 ∨ op = 2) ∧ 12 ≤ dom then brickDown d (dom - 12) else d
  match op with
  | 0 =>
    if domOn d dom then d
    else
      let d := domainOn d dom
      if dom < 8 then dollyReconcile d (dom - 4) true else d
  | 1 => domainOff d dom
  | 2 => { d with pwr := { d.pwr with clkStop := d.pwr.clkStop ||| bit } }
  | _ =>
    let d := { d with pwr := { d.pwr with clkStop := d.pwr.clkStop &&& ~~~bit } }
    if 12 ≤ dom then linkTry d (dom - 12) else d

/-- Meaning of DOMAIN_REQUEST_DONE (R358). -/
def execDomainRequestDone (s : State) : Host.Outcome State Fault Refusal :=
  match s.dev.pwr.domReq with
  | none => still s
  | some (dom, op) => done s (domDone (domApply { s.dev with pwr := { s.dev.pwr with domReq := none } } dom op) 0)

/-! ## Sub-states (R360, R366) -/

/-- The sub-state in force follows the request and the forced Trim. Doze narrows the host ports, leaving it widens them. -/
def applySub (d : Dev) : Dev :=
  let sub := if d.gaffer.trimForced ∧ d.pwr.subReq ≠ 2 then 1 else d.pwr.subReq
  if sub = d.pwr.sub then d
  else
    let d' := { d with pwr := { d.pwr with sub } }
    if sub = 2 then { d' with ports := d'.ports.map fun e => if e.2.up then (e.1, { e.2 with width := 1 }) else e }
    else if d.pwr.sub = 2 then { d' with ports := d'.ports.map fun e => if e.2.up then (e.1, { e.2 with width := e.2.trained }) else e }
    else d'

/-! ## Mode requests (R359) -/

/-- A mode request completes. -/
def reqDone (d : Dev) (res : Nat) : Dev := raiseEvent { d with pwr := { d.pwr with reqResult := res } } .pwr 3

/-- The request that was being applied completes. -/
def reqEnd (d : Dev) (res : Nat) : Dev := reqDone { d with pwr := { d.pwr with req := none } } res

/-- Whether the mode is Service or Degraded. -/
def inService (d : Dev) : Bool := d.pwr.mode = .service || d.pwr.mode = .degraded

/-- Service, or Degraded where a unit is fenced. -/
def toService (d : Dev) : Dev := modeTo d (if anyFenced d then .degraded else .service)

/-- Admission stops, and the engine clusters are cut (R361). -/
def stopIntake (d : Dev) (r : ModeReq) : Dev :=
  (List.range 4).foldl (fun d q =>
    if (pget d (.nme q)).run = .rolling then
      pmod { d with pwr := { d.pwr with cutBy := d.pwr.cutBy ||| BitVec.ofNat 4 (2 ^ q) } } (.nme q) fun p => { p with run := .cutting }
    else d) { d with pwr := { d.pwr with req := some r } }

/-- Admission resumes, and the clusters that were cut for the entry go on. -/
def resumeIntake (d : Dev) : Dev :=
  let d := (List.range 4).foldl (fun d q =>
    if d.pwr.cutBy.getLsbD q ∧ ((pget d (.nme q)).run = .cutting ∨ (pget d (.nme q)).run = .cut) then
      pmod d (.nme q) fun p => { p with run := .rolling }
    else d) d
  retry { d with pwr := { d.pwr with cutBy := 0 } } fun w => w.wait = .admission

/-- Whether nothing admitted is in flight. -/
def drained (d : Dev) : Bool :=
  d.waits.all (fun w => w.wait = .admission || w.wait = .portGate)
    && (List.range 4).all (fun q => (quad d q).trans.isEmpty && (quad d q).peerSnoops.isEmpty && (quad d q).rebuilds.isEmpty)
    && (List.range 32).all fun u => (subc d u).rq.isEmpty && (subc d u).flight.isEmpty

/-- Whether a cluster has nothing left: no fetched job, no running job. -/
def clusterIdle (d : Dev) (q : Nat) : Bool := (quad d q).cluster.queue.isEmpty && (runningJobs d q).isEmpty

/-- Whether Maintain is reached (R361): also no move, no page of a sweep, no job. -/
def maintainReady (d : Dev) : Bool :=
  drained d && (List.range 4).all fun q => (quad d q).move.isNone && (quad d q).sweepPage.isNone && clusterIdle d q

/-- The lowest claimed domain but AO. -/
def anyClaim (d : Dev) : Option Nat := (List.range 20).find? fun i => i ≠ 0 && claimed d i

/-- A mailbox command's answer without contents. -/
def mbCode (d : Dev) (p opcode code : Nat) : Dev := send d (.mailbox (Fin.ofNat 16 p) opcode code .none)

/-- Maintain ends on a REQ 1 (R359); an activation under way is complete (R362). -/
def leaveMaintain (d : Dev) : Dev :=
  let d := resumeIntake (toService d)
  match d.pwr.activating with
  | some p => mbCode { d with pwr := { d.pwr with activating := none } } p 0x0202 0
  | none => d

/-- MODE_REQ is written (R359, R360, R361, R367). -/
def modeRequest (s : State) (p : Path) (req sub : Nat) : State :=
  let d := s.dev
  let d :=
    if d.pwr.req.isSome then reqDone d 1
    else match req with
      | 0 => if inService d ∧ sub < 3 then reqDone (applySub { d with pwr := { d.pwr with subReq := sub } }) 0 else reqDone d 3
      | 1 => if d.pwr.mode = .maintain then reqDone (leaveMaintain d) 0 else reqDone d 3
      | 3 => if inService d then stopIntake d .maintain else reqDone d 3
      | 4 =>
        match anyClaim d with
        | some dom => reqDone (claimRefused d dom 2 (Path.code p)) 2
        | none => if inService d then stopIntake d .retain else reqDone d 3
      | 5 => if p = .secure ∧ d.pwr.mode = .boot ∧ s.life.state = 0 then reqDone (modeTo d .factory) 0 else reqDone d 3
      | _ => reqDone d 3
  { s with dev := d }

/-! ## Maintain and activation (R361, R362) -/

/-- Every released core returns to the secure world, which releases it later, with GRET, at the entry point of the normal image it
loads; no register holds that entry point. -/
def coresToSecure (s : State) : State :=
  let entry : DWord := BitVec.ofNat 64 (Config.free (fresh s.dev))
  let back (c : CoreSt) : CoreSt := if c.running then { c with secure := true, sepc := entry, pc := c.stvec } else c
  { s with dev := bumpFree s.dev, life := { s.life with cores := s.life.cores.map back } }

/-- The normal copy that runs is the other one from now on, and so the boot flag where `flag`. -/
def swapNormal (d : Dev) (flag : Bool) : Dev :=
  let d := rput d .mgt .mgtFwStat (rget d .mgt .mgtFwStat ^^^ 2)
  if flag then { d with bootFlag := d.bootFlag ^^^ 2 } else d

/-- Meaning of MAINTAIN_REACHED (R361, R362). -/
def execMaintainReached (s : State) : Host.Outcome State Fault Refusal :=
  if s.dev.pwr.req = some .maintain ∧ maintainReady s.dev ∧ ¬ s.dev.pwr.holdUp then
    let d := (List.range 4).foldl (fun d q =>
      if (pget d (.nme q)).run = .cutting then pmod d (.nme q) fun p => { p with run := .cut } else d) s.dev
    let s := { s with dev := modeTo (reqEnd d 0) .maintain }
    if s.dev.pwr.activating.isSome then
      let s := coresToSecure s
      done s (swapNormal s.dev false)
    else done s s.dev
  else still s

/-- Maintain has lasted MAINT_LIMIT (R361, R362): service resumes; an activation is rolled back. -/
def maintainOver (s : State) : State :=
  let d := raise (resumeIntake (toService s.dev)) .pwr 1 .none (pwrCtx s.dev)
  match d.pwr.activating with
  | some p =>
    let s := coresToSecure { s with dev := swapNormal { d with pwr := { d.pwr with activating := none } } true }
    { s with dev := mbCode s.dev p 0x0202 0x000C }
  | none => { s with dev := d }

/-- Meaning of MAINTAIN_OVERRUN (R361, R362). -/
def execMaintainOverrun (s : State) : Host.Outcome State Fault Refusal :=
  if s.dev.pwr.mode = .maintain ∧ ¬ s.dev.pwr.holdUp then let s := maintainOver s; done s s.dev else still s

/-! ## The Gaffer (R363 to R366) -/

/-- The estimate of R363 in 1/16 W, term by term rounded down. `temps` are the four quadrants, the crossbar and the management
complex; `counts` the events of the epoch. -/
def gafferEst (d : Dev) (temps : List Int) (counts : List Nat) : Nat :=
  let v := d.gaffer.vcore
  let hot := temps.foldl max (temps.headD 0)
  let idle (b : Nat) : Nat :=
    let ps := pacePs d (if b < 4 then .qctl b else .xbar)
    Config.gafferIdle b * v * v * 250 / (562500 * ps)
  let ev (e : Nat × Nat) : Nat := e.1 * Config.gafferCoef e.2 * v * v * 16 / (1024 * 10000000 * 562500)
  Config.gafferStatic v hot + ((List.range 5).map idle).sum + (counts.zipIdx.map ev).sum + Config.gafferPhy d.pwr.dom

/-- The fixed allowances of R364, in 1/16 W. -/
def allowance (k : Nat) : Nat := 16 * [0, 0, 2, 6, 8, 2, 12, 1].getD k 0

/-- Whether the sub-state bars an item (R360). -/
def barred (sub k : Nat) : Bool := match sub with
  | 0 => false
  | 1 => k = 6 || k = 7
  | _ => k = 4 || k = 6 || k = 7

/-- The grants of R364 from item `k` on. -/
def grantFrom (sub : Nat) (work : BitVec 7) : List Nat → Int → BitVec 7
  | [], _ => 0
  | k :: ks, head =>
    if barred sub k ∨ ¬ work.getLsbD (k - 1) then grantFrom sub work ks head
    else if (allowance k : Int) ≤ head then BitVec.ofNat 7 (2 ^ (k - 1)) ||| grantFrom sub work ks (head - allowance k)
    else 0

/-- CAP in 1/16 W. -/
def gafferCap (d : Dev) : Nat := 16 * rfld d .gaffer .gafferCap 7 0

/-- The grants for the next epoch: a Cut Gaffer grants item 1 only. -/
def gafferGrants (d : Dev) (est : Nat) (work : BitVec 7) : BitVec 7 :=
  if (pget d .gaffer).run = .rolling then 1 ||| grantFrom d.pwr.sub work [2, 3, 4, 5, 6, 7] ((gafferCap d : Int) - est) else 1

/-- VCORE control of R365. -/
def vcoreStep (d : Dev) (est : Nat) : Dev :=
  let g := d.gaffer
  let cap := gafferCap d
  let target := vcoreTarget d
  let ask (mv : Nat) : Dev := send { d with gaffer := { g with step := some mv, upCount := 0 } } (.avsbus mv)
  let low := decide (est + 16 * rfld d .gaffer .gafferCfg 7 0 < cap) && decide (g.vcore < target)
  let n := if low then g.upCount + 1 else 0
  if (cap < est ∧ 600 < g.vcore) ∨ target < g.vcore then
    (if g.step.isNone then ask (g.vcore - 10) else { d with gaffer := { g with upCount := 0 } })
  else if low ∧ rfld d .gaffer .gafferCfg 15 8 ≤ n ∧ g.step.isNone then ask (g.vcore + 10)
  else { d with gaffer := { g with upCount := n } }

/-- A condition source follows its condition: it asserts once for each period. -/
def follow (d : Dev) (bit : Nat) (c : Bool) : Dev :=
  let on := d.flt.asserting.getLsbD (srcId .gaffer bit)
  if c ∧ ¬ on then raise d .gaffer bit .none (gafferCtx d) true
  else if ¬ c then deassert d .gaffer bit else d

/-- Trim forced and released (R366). -/
def thermTrim (d : Dev) (hot : Int) : Dev :=
  if 115 ≤ hot ∧ ¬ d.gaffer.trimForced then raiseEvent { d with gaffer := { d.gaffer with trimForced := true } } .gaffer 0
  else if hot < 110 ∧ d.gaffer.trimForced then raiseEvent { d with gaffer := { d.gaffer with trimForced := false } } .gaffer 1
  else d

/-- Whether 10 ms have passed since a moment. -/
def tenMs (d : Dev) (t : DWord) : Bool := decide (10000000 ≤ (d.pwr.now - t).toNat)

/-- The quadrant whose sensor reads highest, the lowest-numbered on a tie. -/
def hottest (temps : List Int) (cands : List Nat) : Option Nat :=
  cands.foldl (fun (a : Option Nat) q => match a with
    | none => some q
    | some x => if temps.getD x 0 < temps.getD q 0 then some q else some x) none

/-- The thermal quadrant fence and the thermal halt (R366). The fence happens whatever the severity of its source (R398). -/
def thermAct (d : Dev) (temps : List Int) (hot : Int) : Dev :=
  if hot < 125 then follow d 3 false
  else match hottest temps ((List.range 4).filter fun q => !quadFenced d q) with
    | some q =>
      if (match d.gaffer.lastThermal with
          | some t => tenMs d t
          | none => true)
      then
        let u : FUnit := .quadrant (quadOf q)
        let d := { d with gaffer := { d.gaffer with lastThermal := some d.pwr.now, thermFenced := d.gaffer.thermFenced ||| BitVec.ofNat 4 (2 ^ q) } }
        let d := if sevOf d thermalSource < 2 then { d with react := d.react ++ [.fence u thermalSource] } else d
        raise d .gaffer 2 u (gafferCtx d)
      else d
    | none =>
      let past (t : Option DWord) : Bool := match t with
        | some t => tenMs d t
        | none => true
      if past d.gaffer.lastThermal ∧ past d.gaffer.allFenced then follow d 3 true else d

/-- The end of an epoch. -/
def gafferEpoch (d : Dev) (temps : List Int) (counts : List Nat) (work : BitVec 7) : Dev :=
  let hot := temps.foldl max (temps.headD 0)
  let est := gafferEst d temps counts
  let d := { d with gaffer := { d.gaffer with est, temps } }
  let d := applySub (thermTrim d hot)
  let d := { d with gaffer := { d.gaffer with grants := gafferGrants d est work } }
  let d := thermAct (vcoreStep d est) temps hot
  follow d 0 (decide (gafferCap d < est) && decide (d.gaffer.vcore ≤ 600))

/-- Meaning of GAFFER_EPOCH (R363 to R366). -/
def execGafferEpoch (temps : List Int) (counts : List Nat) (work : BitVec 7) (s : State) : Host.Outcome State Fault Refusal :=
  doneIf s (domOn s.dev 3) fun d => gafferEpoch d ((temps ++ List.replicate 6 0).take 6) counts work

/-- Meaning of AVSBUS_ACK (R365): the step is in force, and AVSBus fault ends. -/
def execAvsbusAck (s : State) : Host.Outcome State Fault Refusal :=
  match s.dev.gaffer.step with
  | some mv => done s (follow { s.dev with gaffer := { s.dev.gaffer with vcore := mv, step := none, avsFault := false } } 1 false)
  | none => still s

/-- Meaning of AVSBUS_FAULT (R365): 1 ms without an acknowledgement. -/
def execAvsbusFault (s : State) : Host.Outcome State Fault Refusal :=
  doneIf s (s.dev.gaffer.step.isSome && !s.dev.gaffer.avsFault) fun d => follow { d with gaffer := { d.gaffer with avsFault := true } } 1 true

/-! ## Retain (R367, R368) -/

/-- The flush of every unfenced quadrant (R367 step 2, R388 step 3, R399 step 3). The flag says that all completed. -/
def flushAllQuads (d : Dev) (how : FlushHow) : Dev × Bool :=
  (List.range 4).foldl (fun (a : Dev × Bool) q =>
    if quadFenced a.1 q then a else let r := flushQuad a.1 q how; (r.1, a.2 && r.2)) (d, true)

/-- Steps 5 and 6 of R367: pads latched, links down, every domain but AO off, VCORE disabled. An event latched meanwhile then wakes
the device (R368). -/
def enterRetain (d : Dev) : Dev :=
  let busy := d.pwr.req
  let d := allLinksDown { d with pwr := { d.pwr with pads := 0x7F } }
  let d := allOff d
  let late := d.pwr.wakeLatched
  let d := modeTo { d with
    pwr := { d.pwr with vrEn := false, req := none, holdUp := false, ponr := false, cutBy := 0, activating := none, wakeLatched := false }
    boot := {} } .retain
  let d := match busy with
    | some .retain => reqDone d 0
    | some .maintain => reqDone d 3
    | none => d
  if late then { d with pwr := { d.pwr with wakeStep := 1, wakeAttempts := 0, vrEn := true } } else d

/-- Meaning of RETAIN_FLUSH_DONE (R367 steps 2 to 4, R468). A Dolly move and a sweep stop where they stand (R412). -/
def execRetainFlushDone (s : State) : Host.Outcome State Fault Refusal :=
  doneIf s (decide (s.dev.pwr.req = some .retain) && !s.dev.pwr.ponr && !s.dev.pwr.holdUp && drained s.dev) fun d =>
    let d := subsToSleep (flushAllQuads d .orderly).1
    { d with pwr := { d.pwr with ponr := true } }

/-- Meaning of RETAIN_POINT_OF_NO_RETURN (R367 steps 5 and 6). -/
def execRetainPointOfNoReturn (s : State) : Host.Outcome State Fault Refusal :=
  doneIf s (decide (s.dev.pwr.req = some .retain) && s.dev.pwr.ponr && !s.dev.pwr.holdUp) enterRetain

/-- The flush had covered some lines when the entry was aborted (R368): they stay invalid. How many is a free value. -/
def flushPart (d : Dev) (q : Nat) : Dev :=
  let lines := (quad d q).stage.flatMap fun e => e.2.ways.map fun w => (w.2.1, w.2.2)
  let n := Config.free (fresh d) % (lines.length + 1)
  (lines.take n).foldl (fun d l =>
    let (d, ok) := if l.2.dirty then flushLine d .orderly l.1 l.2.data else (d, true)
    if ok then stageDrop d l.1 else d) (bumpFree d)

/-- A wake event aborts the entry to Retain (R368). -/
def retainAbort (d : Dev) : Dev :=
  let d := if drained d then (List.range 4).foldl (fun d q => if quadFenced d q then d else flushPart d q) d else d
  let d := raiseEvent (reqEnd d 4) .pwr 1
  resumeIntake (rbump d .pwr .pwrEntryAborts)

/-! ## Wake (R369 to R371) -/

/-- A wake starts (R371): the regulator is enabled, step 1 runs. -/
def wakeStart (d : Dev) : Dev := { d with pwr := { d.pwr with wakeStep := 1, wakeAttempts := 0, vrEn := true, wakeLatched := false } }

/-- A wake event of source `k` (R369): always recorded; where it is enabled it aborts an entry to Retain, is latched after the point
of no return or during a hold-up flush, and starts a wake in Retain. -/
def wakeEvent (d : Dev) (k : Nat) : Dev :=
  let d := rput d .pwr .pwrWakeSrc (rget d .pwr .pwrWakeSrc ||| BitVec.ofNat 32 (2 ^ k))
  if ¬ (rget d .pwr .pwrWakeEn).getLsbD k then d
  else if d.pwr.holdUp ∨ (d.pwr.req = some .retain ∧ d.pwr.ponr) then
    rput { d with pwr := { d.pwr with wakeLatched := true } } .pwr .pwrWakeSrc (rget d .pwr .pwrWakeSrc ||| 0x80000000)
  else if d.pwr.req = some .retain then retainAbort d
  else if d.pwr.mode = .retain ∧ d.pwr.wakeStep = 0 ∧ ¬ d.pwr.wakeFail ∧ ¬ d.pwr.regOff then wakeStart d
  else d

/-- A transaction to the main sideband address while the device sleeps (R370): ACK, NACK of the first byte, and a wake event. -/
def mainMatch (d : Dev) : Dev := wakeEvent (if d.pwr.mode = .retain then send d .nack else d) 0

/-- Meaning of SIDEBAND_ADDRESS_MATCH (R369, R370). -/
def execSidebandAddressMatch (s : State) : Host.Outcome State Fault Refusal :=
  doneIf s (decide (s.dev.pwr.mode = .retain) || decide (s.dev.pwr.req = some .retain)) mainMatch

/-- Meaning of WAKE_N_LOW (R369). -/
def execWakeNLow (s : State) : Host.Outcome State Fault Refusal := done s (wakeEvent s.dev 1)

/-- Meaning of WAKE_TIMER_EXPIRY (R369). -/
def execWakeTimerExpiry (s : State) : Host.Outcome State Fault Refusal :=
  doneIf s (decide (s.dev.pwr.mode = .retain) && decide (rget s.dev .pwr .pwrWakeTimer ≠ 0)) fun d => wakeEvent d 4

/-- Meaning of PERST_N_DEASSERT (R369, R447). -/
def execPerstNDeassert (p : Fin 16) (s : State) : Host.Outcome State Fault Refusal :=
  done s (wakeEvent (portMod s.dev p fun x => { x with perst := false }) 2)

/-- Meaning of WAKE_STEP_DONE (R371): the next step, or after step 4 MG, SI and XB on and Boot on its warm path. -/
def execWakeStepDone (s : State) : Host.Outcome State Fault Refusal :=
  let d := s.dev
  if d.pwr.wakeStep = 0 ∨ d.pwr.regOff then still s
  else if d.pwr.wakeStep < 4 then done s { d with pwr := { d.pwr with wakeStep := d.pwr.wakeStep + 1 } }
  else
    let d := domainOn (domainOn (domainOn { d with pwr := { d.pwr with wakeStep := 0 } } 1) 2) 3
    done { s with life := lifeReset s.life } (bootEnter d 4 true)

/-- Meaning of WAKE_STEP_TIMEOUT (R371): the regulator goes off for 10 ms, or after three retries the wake has failed. -/
def execWakeStepTimeout (s : State) : Host.Outcome State Fault Refusal :=
  doneIf s (decide (s.dev.pwr.wakeStep ≠ 0) && !s.dev.pwr.regOff) fun d =>
    if d.pwr.wakeAttempts < 3 then
      { d with pwr := { d.pwr with wakeAttempts := d.pwr.wakeAttempts + 1, regOff := true, vrEn := false } }
    else
      let d := { d with pwr := { d.pwr with failStep := d.pwr.wakeStep, wakeStep := 0, wakeFail := true, vrEn := false } }
      raise d .pwr 0 .none (pwrCtx d) true

/-- Meaning of WAKE_REGULATOR_OFF_END (R371). -/
def execWakeRegulatorOffEnd (s : State) : Host.Outcome State Fault Refusal :=
  doneIf s s.dev.pwr.regOff fun d => { d with pwr := { d.pwr with regOff := false, wakeStep := 1, vrEn := true } }

/-- RETRY is written to WAKE_STAT (R371): it acts only after a failed wake. -/
def wakeRetryWrite (d : Dev) : Dev :=
  if d.pwr.wakeFail ∧ d.pwr.mode = .retain then
    wakeStart (deassert { d with pwr := { d.pwr with wakeFail := false, failStep := 0 } } .pwr 0)
  else d

/-! ## Pads and time (R372, R373) -/

/-- PAD_RELEASE is written (R372). -/
def padReleaseWrite (d : Dev) (v : Word) : Dev := { d with pwr := { d.pwr with pads := d.pwr.pads &&& ~~~(v.setWidth 7) } }

/-- Meaning of AO_RATIO_WINDOW (R373): a 1 s window in Service is complete. -/
def execAoRatioWindow (ratio : Word) (s : State) : Host.Outcome State Fault Refusal :=
  doneIf s (decide (s.dev.pwr.mode = .service)) fun d => { d with pwr := { d.pwr with ratio, calValid := true } }

/-- SET loads NOW (R373); Boot's start moves with it. -/
def timeLoad (d : Dev) (v : DWord) : Dev :=
  { d with pwr := { d.pwr with now := v, valid := true, unc := 0 }, boot := { d.boot with began := d.boot.began + (v - d.pwr.now) } }

end Sys2Proof.Machine
end

