-- ==== Sys2Proof/Machine/FeedCtl.lean ====
section
/-! DEFINITION. The feed controller (17): admission, health and the early warning (R380 to R382), the states of insertion and their
protections (R383 to R385), telemetry (R386), and the hold-up flush (R388 to R390). -/

namespace Sys2Proof.Machine

/-! ## Registers that the state gives (R392) -/

/-- The low or high half of a signed 64-bit count. -/
def half64 (v : Int) (hi : Bool) : Word :=
  let w : DWord := BitVec.ofInt 64 v
  (if hi then w >>> 32 else w).setWidth 32

/-- STAT of R392. -/
def feedStat (f : Feed) : Word :=
  packW [(0, f.st), (3, b2n f.powerGood), (4, b2n f.warnPin), (5, f.admitted.toNat), (7, f.degraded.toNat),
    (9, b2n f.timerRun), (10, min f.trips 3), (12, f.lastFault)]

/-- HOLDUP of R392. -/
def feedHoldup (f : Feed) : Word := packW [(0, b2n f.ran), (1, b2n f.done), (16, min f.flushUs 0xFFFF)]

/-- The read value of a FEED register that the state gives. -/
def feedReg (f : Feed) (n : RName) (i : Nat) : Option Word := match n with
  | .feedStat => some (feedStat f)
  | .feedHoldup => some (feedHoldup f)
  | .feedRevCount => some (packW [(0, (f.rev.getD 0 0).toNat), (16, (f.rev.getD 1 0).toNat)])
  | .feedV => some (BitVec.ofInt 32 (f.meanMv.getD i 0) &&& 0xFFFF)
  | .feedI => some (BitVec.ofInt 32 (f.meanMa.getD i 0))
  | .feedP => some (BitVec.ofInt 32 (f.meanMw.getD i 0))
  | .feedELo => some (half64 (f.energy.getD i 0 / 100000) false)
  | .feedEHi => some (half64 (f.energy.getD i 0 / 100000) true)
  | _ => none

/-- The context of a FEED source (R402 KIND 6). -/
def feedCtx (d : Dev) (f : Feed) : BitVec 256 :=
  ctxPower .feed [rget d .feed .feedCfg, rget d .feed .feedTimer, rget d .feed .feedWarn, rget d .feed .feedLevels, feedStat f, 0, feedHoldup f]

/-- A FEED source asserts. -/
def feedRaise (s : State) (bit : Nat) (cond : Bool := false) : State :=
  { s with dev := raise s.dev .feed bit .none (feedCtx s.dev s.feed) cond }

/-- A FEED event. -/
def feedEvent (s : State) (i : Nat) : State := { s with dev := raiseEvent s.dev .feed i }

/-- A command of the feed controller, with the reactions it owes. -/
def feedDone (s : State) : Host.Outcome State Fault Refusal := done s s.dev

/-! ## The hold-up flush (R388 to R390) -/

/-- The time in nanoseconds by the counter that runs: the time counter, or the AO ticks while XB is off. -/
def clockNs (d : Dev) : Nat := if domOn d 3 then d.pwr.now.toNat else aoElapsed d

/-- FEED_WARN_N starts the hold-up flush: steps 1 and 2 of R388. A second assertion during one has no further effect (R389). A warm
reset under way is taken over. -/
def holdUpStart (s : State) : State :=
  if s.dev.pwr.holdUp then s
  else
    let s := { s with feed := { s.feed with ran := true, done := false, began := clockNs s.dev } }
    let s := feedRaise s 4
    let d := calStop s.dev
    { s with dev := flashRecords { d with pwr := { d.pwr with holdUp := true, warm := none } } 2 }

/-- The records of the ring that the last record of the hold-up area does not hold yet are added to it (R390). -/
def holdUpTail (d : Dev) : Dev :=
  match d.flash.reverse with
  | [] => d
  | h :: rest =>
    let new := d.flt.ring.filter fun r => !h.records.contains r
    { d with flash := (({ h with records := new ++ h.records } : HoldRec) :: rest).reverse }

/-- The status record with DONE, the device time and the duration (R388 step 5). -/
def holdUpStatus (d : Dev) (us : Nat) : Dev :=
  match d.flash.reverse with
  | [] => d
  | h :: rest => { d with flash := (({ h with prev := 1, time := d.pwr.now, us } : HoldRec) :: rest).reverse }

/-- Whether DRAM has been trained: outside Boot, or from step 8 of it on (R388, R447). -/
def dramTrained (d : Dev) : Bool := d.pwr.mode ≠ .boot || decide (8 ≤ rfld d .sbi .sbiBootStat 3 0)

/-- The flush ends (R388 steps 3 to 5), and the device goes on to Retain (R389). A halt whose flush it took over is over too. -/
def holdUpEnd (s : State) : State :=
  let us := (clockNs s.dev - s.feed.began) / 1000
  let s := { s with feed := { s.feed with done := true, flushUs := us } }
  if s.dev.pwr.mode = .retain then
    let d := holdUpStatus s.dev us
    let late := d.pwr.wakeLatched ∧ d.pwr.wakeStep = 0 ∧ ¬ d.pwr.wakeFail
    let d := { d with pwr := { d.pwr with holdUp := false, wakeLatched := false } }
    { s with dev := if late then wakeStart d else d }
  else
    let r := if dramTrained s.dev then flushAllQuads s.dev .orderly else (s.dev, true)
    let d := if dramTrained s.dev then subsToSleep r.1 else r.1
    let d := holdUpStatus (holdUpTail d) us
    let d := if d.flt.haltRunning then { d with flt := { d.flt with haltRunning := false, haltOn := true, halted := true, haltFlushed := r.2 } } else d
    { s with dev := enterRetain d }

/-- Meaning of HOLD_UP_FLUSH_DONE (R388, R389). -/
def execHoldUpFlushDone (s : State) : Host.Outcome State Fault Refusal :=
  if s.dev.pwr.holdUp then feedDone (holdUpEnd s) else still s

/-- Meaning of HOLD_UP_EVENT_RECORD_WRITE (R390). -/
def execHoldUpEventRecordWrite (s : State) : Host.Outcome State Fault Refusal :=
  doneIf s (s.dev.pwr.holdUp && decide (s.dev.pwr.mode ≠ .retain)) holdUpTail

/-! ## Feeds (R380 to R382) -/

/-- Feed A is bit 0, feed B bit 1. -/
def feedBit (b : Bool) : BitVec 2 := if b then 2 else 1

/-- The early warning (R382): no feed is healthy while POWER_GOOD is high. -/
def warnCheck (s : State) : State :=
  if s.feed.powerGood ∧ s.feed.healthy = 0 ∧ ¬ s.feed.warnPin then
    holdUpStart (feedEvent { s with feed := { s.feed with warnPin := true } } 3)
  else s

/-- A feed stops being healthy (R381). -/
def feedSick (s : State) (b : Bool) : State :=
  if s.feed.healthy &&& feedBit b = 0 then s
  else
    let s := { s with feed := { s.feed with healthy := s.feed.healthy &&& ~~~(feedBit b), degraded := s.feed.degraded ||| feedBit b } }
    warnCheck (feedRaise s 3 true)

/-- A feed is healthy: "feed degraded" ends once no feed is. -/
def feedWell (s : State) (b : Bool) : State :=
  let f := { s.feed with healthy := s.feed.healthy ||| feedBit b, degraded := s.feed.degraded &&& ~~~(feedBit b), pairs := s.feed.pairs ||| feedBit b }
  { s with feed := f, dev := if f.degraded = 0 then deassert s.dev .feed 3 else s.dev }

/-! ## States (R383 to R385) -/

/-- A fall of POWER_GOOD. -/
def pgFall (s : State) : State :=
  if s.feed.powerGood then feedEvent { s with feed := { s.feed with powerGood := false } } 1 else s

/-- A state with the main FET off: the fault timer is idle and POWER_GOOD low. -/
def feedOff (s : State) (st : Nat) : State := pgFall { s with feed := { s.feed with st, timerRun := false, pairs := 0 } }

/-- Off is left at once for Pre-charge where a feed is admitted. -/
def feedStart (s : State) : State :=
  if s.feed.st = 0 ∧ s.feed.admitted ≠ 0 then { s with feed := { s.feed with st := 1, pairs := s.feed.admitted } } else s

/-- CFG.RETRIES. -/
def feedRetries (d : Dev) : Nat := rfld d .feed .feedCfg 25 24

/-- A trip with its cause and source: Retry wait, or Latched once TRIPS has reached RETRIES. -/
def feedTrip (s : State) (cause bit : Nat) : State :=
  let s := feedRaise (feedOff { s with feed := { s.feed with trips := s.feed.trips + 1, lastFault := cause } } 5) bit
  if feedRetries s.dev ≤ s.feed.trips then feedRaise { s with feed := { s.feed with st := 6 } } 0 true else s

/-- Meaning of FEED_ADMIT (R381, R383, R369): healthy at once where its voltage is at WARN_MV or above. -/
def execFeedAdmit (b : Bool) (mv : Nat) (s : State) : Host.Outcome State Fault Refusal :=
  if s.feed.admitted &&& feedBit b ≠ 0 ∨ mv < rfld s.dev .feed .feedLevels 13 0 then still s
  else
    let s := { s with feed := { s.feed with admitted := s.feed.admitted ||| feedBit b, pairs := s.feed.pairs ||| feedBit b } }
    let s := if rfld s.dev .feed .feedWarn 13 0 ≤ mv then feedWell s b else s
    let s := feedEvent s 2
    feedDone (feedStart { s with dev := wakeEvent s.dev 3 })

/-- Meaning of FEED_LOST (R381 to R383): below 8.0 V. Latched is left only with the loss of auxiliary power too. -/
def execFeedLost (b : Bool) (s : State) : Host.Outcome State Fault Refusal :=
  if s.feed.admitted &&& feedBit b = 0 then still s
  else
    let s := feedSick s b
    let s := feedEvent { s with feed := { s.feed with admitted := s.feed.admitted &&& ~~~(feedBit b), pairs := s.feed.pairs &&& ~~~(feedBit b) } } 2
    feedDone (if s.feed.admitted = 0 ∧ s.feed.st ≠ 6 then feedOff s 0 else s)

/-- Meaning of FEED_UNHEALTHY (R381, R382). -/
def execFeedUnhealthy (b : Bool) (s : State) : Host.Outcome State Fault Refusal := feedDone (feedSick s b)

/-- Meaning of FEED_HEALTHY (R381). -/
def execFeedHealthy (b : Bool) (s : State) : Host.Outcome State Fault Refusal :=
  if s.feed.admitted &&& feedBit b ≠ 0 ∧ s.feed.healthy &&& feedBit b = 0 then feedDone (feedWell s b) else still s

/-- Meaning of REVERSE_CURRENT (R380): the pair turns off and is counted. -/
def execReverseCurrent (b : Bool) (s : State) : Host.Outcome State Fault Refusal :=
  let i := b2n b
  feedDone (feedRaise { s with feed := { s.feed with pairs := s.feed.pairs &&& ~~~(feedBit b), rev := s.feed.rev.set i (satInc (s.feed.rev.getD i 0)) } } 5)

/-- Meaning of PRECHARGE_REACHED (R383). -/
def execPrechargeReached (s : State) : Host.Outcome State Fault Refusal :=
  if s.feed.st = 1 then .next { s with feed := { s.feed with st := 2 } } else still s

/-- Meaning of PRECHARGE_TIMEOUT (R384). -/
def execPrechargeTimeout (s : State) : Host.Outcome State Fault Refusal :=
  if s.feed.st = 1 then feedDone (feedTrip s 1 1) else still s

/-- Meaning of RAMP_DONE (R383). -/
def execRampDone (s : State) : Host.Outcome State Fault Refusal :=
  if s.feed.st = 2 then .next { s with feed := { s.feed with st := 3 } } else still s

/-- Meaning of FAST_TRIP (R384). -/
def execFastTrip (s : State) : Host.Outcome State Fault Refusal :=
  if s.feed.st = 2 ∨ s.feed.st = 3 ∨ s.feed.st = 4 then feedDone (feedTrip s 3 2) else still s

/-- Meaning of OVERCURRENT (R384): the fault timer starts. -/
def execOvercurrent (s : State) : Host.Outcome State Fault Refusal :=
  if s.feed.st = 3 ∨ s.feed.st = 4 then .next { s with feed := { s.feed with timerRun := true } } else still s

/-- Meaning of FAULT_TIMER_IDLE (R384). -/
def execFaultTimerIdle (s : State) : Host.Outcome State Fault Refusal := .next { s with feed := { s.feed with timerRun := false } }

/-- Meaning of FAULT_TIMER_EXPIRY (R384, R385). -/
def execFaultTimerExpiry (s : State) : Host.Outcome State Fault Refusal :=
  if s.feed.timerRun then feedDone (feedTrip s 2 2) else still s

/-- Meaning of STABLE_IDLE_DONE (R383, R385): On with POWER_GOOD, which ends the early warning and is a feed event. -/
def execStableIdleDone (s : State) : Host.Outcome State Fault Refusal :=
  if s.feed.st = 3 ∧ ¬ s.feed.timerRun then
    let s := feedEvent { s with feed := { s.feed with st := 4, powerGood := true, warnPin := false } } 0
    feedDone (warnCheck { s with dev := wakeEvent s.dev 3 })
  else still s

/-- Meaning of RETRY_WAIT_END (R383). -/
def execRetryWaitEnd (s : State) : Host.Outcome State Fault Refusal :=
  if s.feed.st = 5 then
    if s.feed.trips < feedRetries s.dev then .next { s with feed := { s.feed with st := 1, pairs := s.feed.admitted } }
    else feedDone (feedRaise { s with feed := { s.feed with st := 6 } } 0 true)
  else still s

/-- Meaning of TRIPS_RESET (R383): POWER_GOOD has stayed high for 1 s. -/
def execTripsReset (s : State) : Host.Outcome State Fault Refusal :=
  if s.feed.powerGood then .next { s with feed := { s.feed with trips := 0 } } else still s

/-- CTL is written (R383, R386). -/
def feedCtlWrite (s : State) (v : Word) : State :=
  let s := if v.getLsbD 1 then { s with feed := { s.feed with energy := [0, 0, 0] } } else s
  if v.getLsbD 0 ∧ s.feed.st = 6 then
    feedStart { s with feed := { s.feed with st := 0 }, dev := deassert s.dev .feed 0 }
  else s

/-! ## Telemetry (R386) -/

/-- Add two lists of three, element by element. -/
def add3 (a b : List Int) : List Int := (List.range 3).map fun i => a.getD i 0 + b.getD i 0

/-- Meaning of FEED_SAMPLE (R386): every 10 µs. -/
def execFeedSample (mv ma : List Int) (s : State) : Host.Outcome State Fault Refusal :=
  let uw := (List.range 3).map fun i => mv.getD i 0 * ma.getD i 0
  let f := s.feed
  .next { s with feed := { f with energy := add3 f.energy uw, sumMv := add3 f.sumMv mv, sumMa := add3 f.sumMa ma, sumUw := add3 f.sumUw uw, samples := f.samples + 1 } }

/-- Meaning of TELEMETRY_WINDOW (R386): the means of the 1 ms window that ends, rounded down. -/
def execTelemetryWindow (s : State) : Host.Outcome State Fault Refusal :=
  let f := s.feed
  if f.samples = 0 then still s
  else .next { s with feed := { f with
    meanMv := f.sumMv.map (· / (f.samples : Int)), meanMa := f.sumMa.map (· / (f.samples : Int)), meanMw := f.sumUw.map (· / (1000 * (f.samples : Int)))
    sumMv := [0, 0, 0], sumMa := [0, 0, 0], sumUw := [0, 0, 0], samples := 0 } }

end Sys2Proof.Machine
end

