-- ==== Sys2Proof/Machine/Reset.lean ====
section
/-! DEFINITION. Continuity's rows and the resets (18): stalls (R18), clearing and injection (R403 to R405), the end of a halt (R399),
warm and cold reset (R411 to R416), BIST and checkers (R409, R410), supply faults (R460), auxiliary power (R459). -/

namespace Sys2Proof.Machine

/-! ## Units of the sources -/

/-- The unit of a source's table row. Where the row names an engine or a pipeline of its quadrant, or a sub-channel of its channel,
`pick` says which; a row whose unit is that of a stage names none here. -/
def srcUnit (b : Block) (bit pick : Nat) : FUnit :=
  match b, bit with
  | .gaffer, 2 => .quadrant (quadOf (pick % 4))
  | .qctl q, 2 => .quadrant (quadOf q)
  | .map q, _ => .quadrant (quadOf q)
  | .pack q, 1 => .packEngine (quadOf q) (Fin.ofNat 2 pick)
  | .seal q, 3 => .sealPipe (quadOf q) (Fin.ofNat 4 pick)
  | .coat q, 9 => .quadrant (quadOf q)
  | .dir q, 2 => .quadrant (quadOf q)
  | .dir q, 3 => .quadrant (quadOf q)
  | .nme q, 1 => .cluster (quadOf q)
  | .dmc c, 1 => .sub (Fin.ofNat 32 (2 * c + pick % 2))
  | .dmc c, 3 => .channel (Fin.ofNat 16 c)
  | .hpt b, 2 => .brick (Fin.ofNat 8 b)
  | .mwl b, 5 => .brick (Fin.ofNat 8 b)
  | .mwt b, 5 => .brick (Fin.ofNat 8 b)
  | _, _ => .none

/-! ## Stalls (R17 to R19) -/

/-- Meaning of STAGE_STALL (R18, R398): the source asserts while the request is held, unless the reaction ends the hold. -/
def execStageStall (u : FUnit) (stageId : BitVec 16) (slate : Slate) (began : DWord) (s : State) : Host.Outcome State Fault Refusal :=
  doneIf s (domOn s.dev 3) fun d =>
    let held := decide (sevOf d 0 < 2)
    let d := raise d .flt 0 u (ctxStall stageId.toNat slate.toNat began.toNat) held
    if held then { d with flt := { d.flt with stalls := d.flt.stalls ++ [(u, stageId)] } } else d

/-- Whether the requests of reported stalls are still held is not the state's to know: a free value says it when a clear asks. -/
def stallsSettle (d : Dev) : Dev :=
  if d.flt.stalls.isEmpty ∨ Config.free (fresh d) % 2 = 0 then bumpFree d
  else deassert (bumpFree { d with flt := { d.flt with stalls := [] } }) .flt 0

/-! ## Clearing (R403, R34) -/

/-- A 1 written to LATCHED bits: those whose source does not assert are cleared, a refused clear is shown. -/
def latchedClear (d : Dev) (mask : BitVec 512) : Dev :=
  let d := if (mask &&& d.flt.latched).getLsbD 0 then stallsSettle d else d
  let refused := mask &&& d.flt.latched &&& d.flt.asserting
  { d with flt := { d.flt with
      latched := d.flt.latched &&& ~~~(mask &&& ~~~d.flt.asserting)
      clearRefused := d.flt.clearRefused || decide (refused ≠ 0) } }

/-- FE_CTL.CLEAR: the first-error record is cleared and armed, unless its source asserts. -/
def firstClear (d : Dev) : Dev :=
  match d.flt.fe with
  | none => d
  | some r =>
    let d := if r.source = 0 then stallsSettle d else d
    if d.flt.asserting.getLsbD r.source then { d with flt := { d.flt with clearRefused := true } }
    else { d with flt := { d.flt with fe := none, feOverflow := false, feCount := 0 } }

/-- INJ is written in Factory mode (R405): with ARM, the source is raised once with a KIND 0 context. A number that no page has
raises nothing (R394). -/
def injWrite (d : Dev) (v : Word) : Dev :=
  let d := rput d .flt .fltInj (v &&& 0x1FF)
  if ¬ v.getLsbD 31 then d
  else match srcOf d.marwen (fld v 8 0) with
    | none => d
    | some (b, bit) =>
      if b.sources ≤ bit then d
      else raise (bumpFree d) b bit (srcUnit b bit (Config.free (fresh d))) (ctxKind 0 b) false true

/-! ## ALIVE (R404) -/

/-- Whether ALIVE holds its level: a LATCHED source at or above ALIVE_SEV. -/
def aliveStopped (d : Dev) : Bool :=
  let lim := max 1 (rfld d .flt .fltCfg 1 0)
  decide (d.flt.latched ≠ 0) && (List.range 420).any fun i => d.flt.latched.getLsbD i && decide (lim ≤ sevOf d i)

/-- Meaning of ALIVE_TOGGLE (R404). -/
def execAliveToggle (s : State) : Host.Outcome State Fault Refusal :=
  doneIf s (domOn s.dev 0 && !aliveStopped s.dev) fun d => { d with flt := { d.flt with alive := !d.flt.alive } }

/-! ## Halt (R399) -/

/-- Meaning of HALT_FLUSH_DONE (R399 steps 3 to 5). -/
def execHaltFlushDone (s : State) : Host.Outcome State Fault Refusal :=
  doneIf s (s.dev.flt.haltRunning && !s.dev.pwr.holdUp) fun d =>
    let r := if dramTrained d then flushAllQuads d .dead else (d, true)
    let d := if dramTrained d then subsToSleep r.1 else r.1
    let d := calStop d
    { d with flt := { d.flt with haltRunning := false, haltOn := true, halted := true, haltFlushed := r.2 } }

/-! ## Warm reset (R412, R414) -/

/-- Step 3's directory rule (R414): a poison word for every tracked line of the quadrant whose entry is in E. -/
def directoryPoison (d : Dev) (q : Nat) : Dev :=
  let lines := (dirLines d).filter fun e => lineQuad e.1 = q ∧ e.2.state = .e ∧ tracked d e.1
  lines.foldl (fun d e => (poisonLine d e.1 .internal).1) d

/-- RESET_CTL is written (R411): COLD wins; WARM starts step 1 of R412. A hold-up flush or a warm reset under way is not disturbed by
WARM. -/
def resetCtlWrite (s : State) (p : Path) (v : Word) : State :=
  if v.getLsbD 1 then coldReset { s with dev := flashRecords s.dev 3 } (resetCause 1 (Path.code p) 0) true
  else if v.getLsbD 0 ∧ ¬ s.dev.pwr.holdUp ∧ s.dev.pwr.warm = none ∧ s.dev.pwr.mode ≠ .retain then
    { s with dev := allLinksDown { s.dev with pwr := { s.dev.pwr with warm := some (Path.code p) } } }
  else s

/-- A warm reset that becomes a cold one (R412). -/
def warmToCold (s : State) (path why : Nat) : State := coldReset s (resetCause 3 path why) true

/-- Steps 2 to 4 of R412: moves and sweeps stop where they stand, the directory rule, the flush, self-refresh. -/
def warmFlush (d : Dev) : Dev :=
  let d := (List.range 4).foldl (fun d q => if quadFenced d q then d else directoryPoison d q) d
  if dramTrained d then subsToSleep (flushAllQuads d .dead).1 else d

/-- Step 5 of R412: every domain but AO off, then Boot on its warm path. A halt ends (R399); a mode request under way is dropped. -/
def warmDown (d : Dev) (path : Nat) : Dev :=
  let d := allOff (rput d .flt .fltResetCause (resetCause 2 path 0))
  let d := { d with
    flt := { d.flt with haltOn := false, haltRunning := false }
    pwr := { d.pwr with warm := none, ponr := false, cutBy := 0, activating := none, domReq := none } }
  let d := if d.pwr.req.isSome then reqEnd d 3 else d
  bootEnter d 1 true

/-- Meaning of WARM_RESET_FLUSH_DONE (R412). -/
def execWarmResetFlushDone (s : State) : Host.Outcome State Fault Refusal :=
  match s.dev.pwr.warm with
  | none => still s
  | some path =>
    let d := warmFlush s.dev
    if d.flt.lossQ ≠ 0 then let s := warmToCold { s with dev := d } path 1; done s s.dev
    else done s (warmDown d path)

/-- Meaning of WARM_RESET_TIMEOUT (R412). -/
def execWarmResetTimeout (s : State) : Host.Outcome State Fault Refusal :=
  match s.dev.pwr.warm with
  | none => still s
  | some path => let s := warmToCold s path 2; done s s.dev

/-- Meaning of WARM_PATH_RECONCILE (R415): at step 7 of a warm boot, once no pad group holds a channel (R372), the sub-channels leave
self-refresh and the steps of R415 run. -/
def execWarmPathReconcile (s : State) : Host.Outcome State Fault Refusal :=
  let b := rget s.dev .sbi .sbiBootStat
  doneIf s (decide (s.dev.pwr.mode = .boot) && s.dev.boot.active && b.getLsbD 5 && !b.getLsbD 4 && decide (fld b 3 0 = 7)
      && !s.dev.boot.reconciled && decide (s.dev.pwr.pads &&& 0xF = 0)) fun d =>
    let d := (List.range 32).foldl (fun d u => umod d u fun x => { x with selfRefresh := false }) d
    warmReconcile { d with boot := { d.boot with reconciled := true } }

/-! ## Auxiliary power (R411, R459) -/

/-- Whether a feed keeps the feed controller powered without auxiliary power (R8). -/
def feedPowered (f : Feed) : Bool := decide (f.admitted ≠ 0)

/-- Meaning of AO_POWER_UP (R411): a cold reset. -/
def execAoPowerUp (s : State) : Host.Outcome State Fault Refusal :=
  let s := coldReset s (resetCause 0 0 0) (feedPowered s.feed)
  done s s.dev

/-- Meaning of VAUX_LOSS (R459): nothing is powered but what a feed powers; the next power-up is cold. -/
def execVauxLoss (s : State) : Host.Outcome State Fault Refusal :=
  let s := coldReset s 0 (feedPowered s.feed)
  .next { s with dev := { s.dev with pwr := { s.dev.pwr with dom := 0 }, boot := {} } }

/-! ## BIST and checkers (R409, R410) -/

/-- The line in a way of a Stage set. -/
def wayLine (d : Dev) (q set way : Nat) : Option (Nat × SLine) :=
  ((tabGet {} (quad d q).stage set).ways.find? fun w => w.1 = way).map (·.2)

/-- A way of a Stage set leaves use, its dirty line written back; none while its line is locked or cannot go. -/
def wayOut (d : Dev) (q set way : Nat) : Option Dev :=
  let out (d : Dev) : Dev := qmod d q fun s => { s with waysOut := s.waysOut ++ [(set, way)] }
  match wayLine d q set way with
  | none => some (out d)
  | some (line, x) =>
    if lineLocked d line then none
    else
      let (d, ok) := if x.dirty then flushLine d .orderly line x.data else (d, true)
      if ok then some (out (stageDrop d line)) else none

/-- Meaning of SRAM_BIST (R410): with item 7 granted, a way of a Stage set is taken out of use for its test. -/
def execSramBist (q : Fin 4) (array : Nat) (way : Fin 16) (s : State) : Host.Outcome State Fault Refusal :=
  if granted s.dev 7 ∧ ¬ quadFenced s.dev q ∧ array < 12288 ∧ (array, way.val) ∉ (quad s.dev q).waysOut then
    match wayOut s.dev q array way with
    | some d => done s d
    | none => still s
  else still s

/-- Meaning of SRAM_BIST_DONE (R410): a way that fails stays out of use. -/
def execSramBistDone (q : Fin 4) (array : Nat) (way : Fin 16) (pass : Bool) (s : State) : Host.Outcome State Fault Refusal :=
  let w := (array, way.val)
  doneIf s (decide (w ∈ (quad s.dev q).waysOut) && decide (w ∉ (quad s.dev q).bistFail)) fun d =>
    if pass then qmod d q fun x => { x with waysOut := x.waysOut.filter (· ≠ w) }
    else raise0 (qmod d q fun x => { x with bistFail := x.bistFail ++ [w] }) (.qctl q) 1

/-- Whether a source is a checker. -/
def isChecker (b : Block) (bit : Nat) : Bool := match b with
  | .flt => bit = 2 | .gaffer => bit = 4 | .seci => bit = 3 | .xbar => bit = 1 | .slate => bit = 2 | .qctl _ => bit = 2
  | .pack _ => bit = 1 | .seal _ => bit = 3 | .coat _ => bit = 9 | .dir _ => bit = 3 | .nme _ => bit = 1 | .dmc _ => bit = 3
  | .hpt _ => bit = 2 | .mwl _ => bit = 5 | .mwt _ => bit = 5 | .feed => bit = 6
  | .pgdir | .time | .pwr | .cal | .sbi | .mgt | .dolly _ | .map _ | .stage _ | .dphy _ | .daily _ => false

/-- A checker's comparator showed a mismatch. Which checker and unit of the block it was is a free value. -/
def checkerRaise (d : Dev) (id : Nat) : Dev :=
  match srcOf d.marwen id with
  | none => d
  | some (b, bit) =>
    if isChecker b bit then
      let n := Config.free (fresh d)
      raise (bumpFree d) b bit (srcUnit b bit n) (ctxChecker b (n / 4) (n % 4))
    else d

/-- Meaning of CHECKER_SAMPLE (R409). -/
def execCheckerSample (mismatches : List (BitVec 9)) (s : State) : Host.Outcome State Fault Refusal :=
  doneIf s (domOn s.dev 3) fun d => mismatches.foldl (fun d m => checkerRaise d m.toNat) d

/-! ## Supply faults (R460) -/

/-- Meaning of SUPPLY_FAULT (R460): outside Retain, and so outside a wake. -/
def execSupplyFault (cond : Fin 3) (s : State) : Host.Outcome State Fault Refusal :=
  doneIf s (decide (s.dev.pwr.mode ≠ .retain) && domOn s.dev 0) fun d =>
    raise { d with supply := d.supply ||| BitVec.ofNat 3 (2 ^ cond.val) } .flt 3 .none (ctxKind 0 .flt) true

/-- Meaning of SUPPLY_FAULT_END (R460). -/
def execSupplyFaultEnd (cond : Fin 3) (s : State) : Host.Outcome State Fault Refusal :=
  let v := s.dev.supply &&& ~~~(BitVec.ofNat 3 (2 ^ cond.val))
  let d := { s.dev with supply := v }
  done s (if v = 0 then deassert d .flt 3 else d)

end Sys2Proof.Machine
end

