-- ==== Sys2Proof/Machine/Daily.lean ====
section
/-! DEFINITION. Dailies (20): the counter pages, snapshots, port bandwidth and the user views. -/

namespace Sys2Proof.Machine

/-- Whether the model keeps a counter (R436, R437): the host and Marwen port events, but for the flits a host port receives, the
class counters and the counter-set counters. The spec does not name the other events, so that their counts are free. -/
def countKept (key : Nat) : Bool :=
  if key < 96 then key % 6 ≠ 5 else key < 144 || (640 ≤ key && key < 1920)

/-- The live value of a counter, as a read finds it. -/
def liveRead (d : Dev) (key : Nat) : Dev × DWord :=
  if countKept key then (d, tabGet 0 d.daily.live key) else (bumpFree d, BitVec.ofNat 64 (Config.free (fresh d)))

/-- The value of a counter in the last snapshot: 0 before the first one. -/
def snapRead (d : Dev) (key : Nat) : DWord :=
  if countKept key then tabGet 0 d.daily.snap key
  else match d.daily.snapFree with
    | some i => BitVec.ofNat 64 (Config.free (i + key))
    | none => 0

/-- A snapshot is taken (R438). -/
def snapTake (d : Dev) : Dev :=
  let t := d.pwr.now
  let d := { d with daily := { d.daily with snap := d.daily.live, snapFree := some d.freeCtr, snapDue := false }, freeCtr := d.freeCtr + 1920 }
  let d := rput (rput d (.daily 0) .daily0SnapTimeLo (t.setWidth 32)) (.daily 0) .daily0SnapTimeHi ((t >>> 32).setWidth 32)
  rput d (.daily 0) .daily0SnapSeq (rget d (.daily 0) .daily0SnapSeq + 1)

/-- The tick after a SNAP write has been admitted. -/
def execSnapshotTick (s : State) : Host.Outcome State Fault Refusal :=
  doneIf s (s.dev.daily.snapDue && domOn s.dev 3) snapTake

/-- BW_WINDOW.US as the next window takes it (R443). -/
def bwLength (d : Dev) : Nat := max 1 (min 1000000 (rfld d (.daily 0) .daily0BwWindow 19 0))

/-- A rate in 1/16 GB/s of bytes in a window of `us` microseconds (R439). -/
def bwRate (bytes us : Nat) : Nat := min 0xFFFF (16 * bytes / (us * 1000))

/-- The bandwidth register of a port at a window's end: 0 to 15 hosts, 16 to 23 Marwen. -/
def bwReg (d : Dev) (p : Nat) : Word :=
  if portActive d p then
    packW [(0, bwRate (tabGet 0 d.daily.winOut p) d.daily.winUs), (16, bwRate (tabGet 0 d.daily.winIn p) d.daily.winUs)]
  else 0

/-- A bandwidth window ends, and the next one begins. -/
def bwEnd (d : Dev) : Dev :=
  let old := d
  let d := (List.range 16).foldl (fun d p => rput d (.daily 0) .daily0BwHp (bwReg old p) p) d
  let d := (List.range 8).foldl (fun d b => rput d (.daily 0) .daily0BwMp (bwReg old (16 + b)) b) d
  let d := rput d (.daily 0) .daily0BwSeq (rget d (.daily 0) .daily0BwSeq + 1)
  { d with daily := { d.daily with winOut := [], winIn := [], winUs := bwLength d } }

/-- The end of a bandwidth window. -/
def execBwWindowEnd (s : State) : Host.Outcome State Fault Refusal := doneIf s (domOn s.dev 3) bwEnd

/-- VIEW_BIND of a view page. -/
def viewBind (d : Dev) (v : Nat) : Word := rget d (.daily 0) .daily0ViewBind v
/-- The context of the Slate that a view page shows (R441). -/
def viewCtx (d : Dev) (v : Nat) : BitVec 128 := ctxOfSlate d (fld (viewBind d v) 17 0)

/-- The user's conditions of R440 on a read of a view page, apart from PAGE_RIGHTS: `slate` is the request's. The cores and the
sideband need only PAGE_RIGHTS. -/
def viewServed (d : Dev) (p : Path) (slate : Option Nat) (v : Nat) : Bool :=
  match p with
  | .secure | .normal | .sideband => true
  | .host _ | .debug =>
    let k := fld (viewBind d v) 17 0
    bitOf (viewBind d v) 31 && slate = some k && ctxValid d k && (ctxOfSlate d k).getLsbD 116

/-- The 64-bit counter behind an offset of a view page (R441), with the key of the counter. -/
def viewKey (d : Dev) (v off : Nat) : Option Nat :=
  let c := viewCtx d v
  if 0x80 ≤ off ∧ off < 0xA0 then some (640 + 4 * fld c 102 97 + (off - 0x80) / 8)
  else if 0xA0 ≤ off ∧ off < 0xC0 then some (896 + 4 * fld c 124 117 + (off - 0xA0) / 8)
  else if 0x100 ≤ off ∧ off < 0x100 + 16 * 24 then
    let i := (off - 0x100) / 16
    let inn := (off - 0x100) / 8 % 2
    some (if i < 16 then 6 * i + inn else 96 + 6 * (i - 16) + inn)
  else none

/-- CLASS of a view page. -/
def viewClassReg (d : Dev) (v : Nat) : Word := packW [(0, fld (viewCtx d v) 102 97), (8, fld (viewCtx d v) 124 117)]

end Sys2Proof.Machine
end

