-- ==== Sys2Proof/Machine/Regs.lean ====
section
/-! DEFINITION. What a read of a register finds: the registers that the state gives page by page, the rights of a path (R37, R38),
and the words of a 64-bit register (R25). -/

namespace Sys2Proof.Machine

/-! ## Rights (R37, R38) -/

/-- The rights of a path on a page: bit 0 READ, 1 WRITE, 2 RUNCTL, 3 for the secure world. The debug path has what its enables let it. -/
def rightsOf (s : State) (p : Path) (page : Nat) : Nat :=
  let r := rget s.dev .seci .seciPageRights page
  match p with
  | .secure => 15
  | .normal => fld r 2 0
  | .host _ => fld r 5 3
  | .sideband => fld r 8 6
  | .debug =>
    let e := enables s.life
    let x := fld r 11 9
    if ¬ e.getLsbD 0 then 0 else if e.getLsbD 1 then x else x % 2

/-! ## The header (R31 to R34) -/

/-- RUN_STAT of a page (R33, R39). -/
def runStat (p : PageSt) : Word :=
  packW [(0, match p.run with
    | .rolling => 1 | .cutting => 0 | .cut => 2 | .resetting => 8 | .fenced => 4), (8, b2n p.writeRefused)]

/-- FAULT_STAT of a page: the LATCHED bits of its sources (R34). -/
def faultStat (d : Dev) (b : Block) : Word :=
  packW ((List.range b.sources).map fun i => (i, b2n (d.flt.latched.getLsbD (srcId b i))))

/-- The header registers that the state gives. -/
def headerReg (s : State) (p : Path) (b : Block) (n : RName) : Option Word := match n with
  | .hdrPageId => some b.pageId
  | .hdrPageCaps => some (packW [(0, b2n b.caps.1), (1, b2n b.caps.2.1), (2, b2n b.caps.2.2)])
  | .hdrRunCtl => some 0
  | .hdrRunStat => some (runStat (pget s.dev b))
  | .hdrFaultStat => some (faultStat s.dev b)
  | .hdrAccess => some (BitVec.ofNat 32 (rightsOf s p b.page))
  | .hdrEventStat => some (pget s.dev b).eventStat
  | _ => none

/-! ## Block registers -/

/-- PGDIR (R28, R29). -/
def pgdirReg (d : Dev) (n : RName) (i : Nat) : Option Word := match n with
  | .pgdirPageEntry => some (match blockAt d.marwen i with
    | some b => b.pageId
    | none => 0)
  | .pgdirDomainOn => some (d.pwr.dom.setWidth 32)
  | .pgdirVendor => some Config.vendor
  | _ => none

/-- MAP and STAGE (R71, R73). -/
def mapStageReg (d : Dev) (q : Nat) (n : RName) : Option Word :=
  let s := quad d q
  match n with
  | .mapMissPend => some (packW [(0, min 64 s.miss.length)])
  | .stageFlushCtl => some (rget d (.stage q) n &&& 3)
  | .stageFlushStat => some (packW [(0, b2n s.flush.isSome)] ||| (rget d (.stage q) n &&& 6))
  | .stageDirty => some (packW [(0, (s.stage.map fun e => (e.2.ways.filter fun w => w.2.2.dirty).length).sum)])
  | .stageWbPend => some (packW [(0, s.wb.length)])
  | _ => none

/-- DOLLY (R88, R90). -/
def dollyReg (d : Dev) (n : RName) (i : Nat) : Option Word :=
  let s := quad d i
  match n with
  | .dolly0ListStat => some (packW [(0, s.promo.length), (16, s.demo.length)])
  | .dolly0MoveStat => some (match s.move with
    | some m => packW [(0, 1), (1, m.kind), (3, b2n m.urgent)]
    | none => 0)
  | .dolly1FreePages => some (BitVec.ofNat 32 (freePages d i))
  | .dolly1PhysPages => some (BitVec.ofNat 32 (physPages d i))
  | .dolly1State => some (packW ((8, d.cap.granted.length) :: (List.range 4).map fun q => (2 * q, (quad d q).level)))
  | .dolly1Waiting => some (packW [(0, (d.waits.filter fun w => w.wait = .room).length)])
  | _ => none

/-- ENG_STAT of an engine (R124). -/
def engStat (d : Dev) (q e : Nat) : Word :=
  let x := (quad d q).engines.getD e {}
  let client : Nat := match x.work with
    | none => 0
    | some (.decode _) => 1
    | some (.promotion _) => 2
    | some (.dolly _) => 3
    | some (.job _) => 4
  packW [(0, b2n (x.work.isSome || x.aside.isSome)), (1, b2n (engFenced d q e)), (2, b2n x.aside.isSome), (4, client)]

/-- PACK (R124). -/
def packReg (d : Dev) (q : Nat) (n : RName) : Option Word := match n with
  | .packEngStat0 => some (engStat d q 0)
  | .packEngStat1 => some (engStat d q 1)
  | _ => none

/-- The codes of R135. -/
def RState.code : RState → Nat
  | .unused => 0 | .active => 1 | .flushing => 2 | .filling => 3 | .repainting => 4

/-- RANGE_CFG as RANGE_SEL loads it (R133, R151). -/
def rangeCfg (x : Range) : Word :=
  packW [(0, x.keySlot), (8, x.nextSlot), (16, b2n x.enc), (17, b2n x.tag), (18, b2n x.debugRd), (19, b2n x.test), (20, x.sweep), (24, x.state.code)]

/-- SEAL (R151). A pipeline's work ends in the step that gives it, so that BUSY reads 0. SWEEP and STATE show the selected range. -/
def sealReg (d : Dev) (q : Nat) (n : RName) (i : Nat) : Option Word := match n with
  | .sealPipeStat => some (packW ((List.range 4).map fun k => (k, b2n (pipeFenced d q k))))
  | .sealRangeCfg =>
    let x := range d (rfld d (.seal 0) .sealRangeSel 5 0)
    some ((rget d (.seal 0) n &&& 0xF7F7F) ||| (rangeCfg x &&& 0x7300000))
  | .sealRangeCmd => some 0
  | .sealCmdStat => some (packW [(0, b2n d.rangeBusy.isSome), (1, d.rangeResult), (4, d.rangeLast)])
  | .sealSlotStat =>
    let k := keySlot d (rfld d (.seal 0) .sealSlotSel 6 0)
    some (packW [(0, b2n k.bound), (1, b2n k.derived), (16, k.generation.toNat)])
  | .sealSweepStat =>
    let x := sweep d i
    some (packW [(0, x.range), (6, b2n x.active), (7, b2n x.repaint), (8, x.qdone.toNat)])
  | .sealEdgeLo => some (BitVec.ofNat 32 ((sweep d (i / 4)).edge.getD (i % 4) 0))
  | .sealEdgeHi => some (BitVec.ofNat 32 ((sweep d (i / 4)).edge.getD (i % 4) 0 / 2 ^ 32))
  | _ => none

/-- COAT (R182). -/
def coatReg (d : Dev) (q : Nat) (n : RName) (i : Nat) : Option Word :=
  let s := quad d q
  match n with
  | .coatLapStat => some (packW [(0, b2n s.sander.overdue), (16, s.sander.laps.toNat)])
  | .coatPatchStat => some (packW [(0, s.patch.length), (16, s.patchDropped.toNat)])
  | .coatSpareUsed => some (packW [(0, s.spareUsed.getD i 0)])
  | .coatRegionCmd => some 0
  | .coatRegionStat => some (packW [(0, b2n d.regionBusy.isSome), (1, d.regionResult)])
  | .coatPoisonStat => some (packW [(0, d.poison.length), (31, b2n d.poisonOverflow)])
  | _ => none

/-- DMC (R199). -/
def dmcReg (d : Dev) (c : Nat) (n : RName) : Option Word :=
  let a := subc d (2 * c)
  let b := subc d (2 * c + 1)
  let queue (x : Sub) : Word := packW [(0, x.rq.length), (16, x.wq.length)]
  match n with
  | .dmcSubFence => some (packW [(0, b2n a.swFence), (1, b2n b.swFence)])
  | .dmcSubStat => some (packW [(0, b2n (subFenced d (2 * c))), (1, b2n (subFenced d (2 * c + 1))), (2, b2n a.inRetry), (3, b2n b.inRetry),
      (4, b2n (decide (a.mode = .drain))), (5, b2n (decide (b.mode = .drain))), (6, b2n a.panic), (7, b2n b.panic),
      (8, b2n (decide (a.twice ≠ 0 ∨ b.twice ≠ 0)))])
  | .dmcQueueA => some (queue a)
  | .dmcQueueB => some (queue b)
  | .dmcDimmCfg => some (dimmCfg d c &&& 0xFFFFFF)
  | _ => none

/-- A directory entry as its word (R207). -/
def dirWord (line : Nat) (e : DEnt) (open_ : Bool) : DWord :=
  let st : Nat := match e.state with
    | .i => 0 | .s => 1 | .e => 2
  BitVec.ofNat 64 (qln line / 2 ^ 16 % 2 ^ 21 + st * 2 ^ 21 + e.vector.toNat * 2 ^ 23 + e.ownerPeer % 64 * 2 ^ 47 + e.pg % 4 * 2 ^ 53 + b2n open_ * 2 ^ 55)

/-- DIR (R226). -/
def dirReg (d : Dev) (q : Nat) (n : RName) : Option Word := match n with
  | .dirOpen => some (packW [(0, (quad d q).trans.length)])
  | _ => none

/-- SLATE (R245). -/
def slateReg (d : Dev) (n : RName) : Option Word := match n with
  | .slateFloor => some (packW [(0, min 0xFFFF d.reg.floor), (16, min 0xFFFF d.reg.nominal)])
  | .slateCommitStat => some (packW [(0, committed d), (17, b2n d.reg.overNominal), (18, b2n d.reg.oversub)])
  | .slateScale => some (packW [(0, d.reg.scale)])
  | .slateCtxCmd | .slateFbCmd => some 0
  | .slateCmdStat => some (packW [(0, b2n d.slateBusy.isSome), (1, d.slateResult)])
  | _ => none

/-- RING_STAT codes of a ring's state (R266). -/
def RingState.code : RingState → Nat
  | .off => 0 | .running => 1 | .stopping => 2 | .error => 3

/-- NME (R248, R266). -/
def nmeReg (d : Dev) (q : Nat) (n : RName) (i : Nat) : Option Word := match n with
  | .nmeLaneStat => some (packW ((8, (quad d q).cluster.queue.length) :: (List.range 8).map fun l => (l, b2n (laneJob d q l).isSome)))
  | .nmeRingCmd => some 0
  | .nmeRingStat =>
    let r := ringOf d q (ringSel d q)
    some (packW [(0, r.state.code), (2, b2n (decide (r.state = .stopping))), (3, (quad d q).cluster.ringResult), (16, r.head)])
  | .nmeDoorbell => let r := ringOf d q i; some (packW [(0, r.tail), (16, r.head)])
  | _ => none

/-- The PRBS and histogram registers of a brick (R282): `sel` is PRBS_SEL, `hist` HIST_CTL as stored. -/
def prbsErr (d : Dev) (b : Nat) (sel : Word) (hi : Bool) : Word :=
  let e := tabGet 0 (brick d b).errs (fld sel 2 0)
  if hi then packW [(0, e.toNat / 2 ^ 32), (31, b2n ((brick d b).lock.getLsbD (fld sel 2 0)))] else e.setWidth 32

/-- HPT (R282). -/
def hptReg (d : Dev) (b : Nat) (n : RName) (i : Nat) : Option Word := match n with
  | .hptLinkStat =>
    if portPresent d (2 * b + i) then
      let p := port d (2 * b + i)
      some (packW [(0, b2n p.up), (1, p.rate), (4, p.width), (9, p.trained), (14, b2n p.ideMem), (15, b2n p.ideIo), (16, b2n p.panic)])
    else some 0
  | .hptIngress => some (packW [(0, (port d (2 * b)).occ), (16, (port d (2 * b + 1)).occ)])
  | .hptPrbsErrLo => some (prbsErr d b (rget d (.hpt b) .hptPrbsSel) false)
  | .hptPrbsErrHi => some (prbsErr d b (rget d (.hpt b) .hptPrbsSel) true)
  | .hptHistCtl => some ((rget d (.hpt b) n &&& 0xF7) ||| packW [(30, b2n (brick d b).histDone)])
  | _ => none

/-- MWL (R312). -/
def mwlReg (d : Dev) (b : Nat) (n : RName) : Option Word :=
  let m := mport d b
  match n with
  | .mwlLinkStat => some (packW [(0, m.state), (3, b2n m.leader), (4, m.width), (8, m.mask.toNat), (16, m.peerId.toNat), (22, b2n m.ks.isSome),
      (23, b2n (m.ks = some true)), (24, b2n (coalesces d b)), (25, b2n m.panic)])
  | .mwlWidthCtl => some (rget d (.mwl b) n &&& 0xFF)
  | .mwlPrbsErrLo => some (prbsErr d b (rget d (.mwl b) .mwlPrbsSel) false)
  | .mwlPrbsErrHi => some (prbsErr d b (rget d (.mwl b) .mwlPrbsSel) true)
  | .mwlHistCtl => some ((rget d (.mwl b) n &&& 0xF7) ||| packW [(30, b2n (brick d b).histDone)])
  | .mwlTxCtrLo => some (m.txCtr.setWidth 32)
  | .mwlTxCtrHi => some ((m.txCtr >>> 32).setWidth 32)
  | .mwlStreamStat => some (packW [(0, m.replayBuf.length), (16, m.ccOut.length), (24, m.reorder.length)])
  | _ => none

/-- MWT (R331). -/
def mwtReg (d : Dev) (n : RName) : Option Word := match n with
  | .mwtTags => some (packW [(0, d.tags.length)])
  | _ => none

/-- MGT (R352). -/
def mgtReg (s : State) (n : RName) : Option Word := match n with
  | .mgtCoreStat =>
    let bits (lo : Nat) (f : CoreSt → Bool) : List (Nat × Nat) := (List.range 4).map fun k => (lo + k, b2n (f (coreAt s k)))
    some (packW (bits 0 (·.running) ++ bits 4 (·.secure) ++ bits 8 (·.halted)))
  | .mgtWdogKick => some 0
  | _ => none

/-- SECI (R354). -/
def seciReg (s : State) (n : RName) : Option Word := match n with
  | .seciLifecycle => some (packW [(0, s.life.state.toNat), (16, match s.life.burn with
    | some c => c.toNat
    | none => 0)])
  | .seciDebugEn => some (packW [(0, (enables s.life).toNat), (4, s.life.unlocked.toNat)])
  | .seciKeyCmd => some 0
  | .seciKeyStat => some (packW [(0, b2n s.dev.keyRun.isSome)] ||| (rget s.dev .seci n &&& 0xE))
  | _ => none

/-- The 64 bytes of a Continuity record (R401): `ovf` and `count` are OVERFLOW and OVF_COUNT. -/
def recBytes (r : Rec) (ovf : Bool) (count : Nat) : List Byte :=
  let low := bytesOf r.time.toNat 8 ++ bytesOf (r.source % 512) 2 ++ bytesOf (r.sev % 4) 1
    ++ bytesOf (1 + 2 * b2n ovf + 4 * b2n r.timeValid + 8 * b2n r.injected) 1 ++ bytesOf r.seq.toNat 4 ++ bytesOf r.ctx.toNat 32 ++ bytesOf count 4
    ++ List.replicate 8 0
  low ++ bytesOf (crc32c low) 4

/-- Word `n` of a record. -/
def recWord (r : Option Rec) (ovf : Bool) (count n : Nat) : Word :=
  match r with
  | some r => BitVec.ofNat 32 (ofBytes (((recBytes r ovf count).drop (4 * n)).take 4))
  | none => 0

/-- FLT (R418). -/
def fltReg (d : Dev) (n : RName) (i : Nat) : Option Word := match n with
  | .fltStat => some (packW [(0, b2n (aliveStopped d)), (1, b2n d.flt.halted), (2, b2n d.flt.haltFlushed), (3, b2n d.flt.clearRefused)])
  | .fltLossSub => some d.flt.lossSub
  | .fltLossQ => some (d.flt.lossQ.setWidth 32)
  | .fltResetCtl | .fltFeCtl => some 0
  | .fltCfg => some ((rget d .flt n &&& 0xF) ||| packW [(8, b2n d.flt.locked)])
  | .fltInj => some (rget d .flt n &&& 0x1FF)
  | .fltFe => some (recWord d.flt.fe d.flt.feOverflow d.flt.feCount.toNat i)
  | .fltEvt => some (recWord (d.flt.ring[rfld d .flt .fltEvtSel 5 0]?) false 0 i)
  | .fltAssert => some ((d.flt.asserting >>> (32 * i)).setWidth 32)
  | .fltLatched => some ((d.flt.latched >>> (32 * i)).setWidth 32)
  | _ => none

/-- The keys with a valid copy, and the queue's length, as STORE_STAT shows them (R431). -/
def storeStat (c : Cal) : Word :=
  let work := c.sectors.filter fun x => x.st = 1
  let keys := (work.flatMap fun x => x.recs.map fun r => (r.1.kind, r.1.key)).eraseDups
  packW [(0, b2n c.readOnly), (1, b2n c.erasing.isSome), (2, (c.sectors.filter fun x => x.st = 0).length), (8, min 255 c.queue.length),
    (16, min 0xFFFF keys.length)]

/-- CAL (R431). -/
def calReg (d : Dev) (n : RName) : Option Word :=
  let x := slicer d (rfld d .cal .calSlicerSel 5 0)
  match n with
  | .calStoreStat => some (storeStat d.cal)
  | .calWear => some (packW [(0, ((d.cal.sectors.filter fun x => x.st = 1).map (·.erases)).foldl max 0)])
  | .calSlicerStat => some (packW [(0, x.set), (2, b2n x.valid), (3, b2n x.pending), (4, x.best)])
  | .calSlicerScore => some (packW [(0, x.scores.getD 0 0), (10, x.scores.getD 1 0), (20, x.scores.getD 2 0)])
  | _ => none

/-- The register that the state gives, none for one that is stored as it reads. -/
def derivedReg (s : State) (p : Path) (b : Block) (n : RName) (i : Nat) : Option Word :=
  match headerReg s p b n with
  | some v => some v
  | none => match b with
    | .pgdir => pgdirReg s.dev n i
    | .time => timeReg s.dev n
    | .flt => fltReg s.dev n i
    | .gaffer => gafferReg s.dev n
    | .pwr => match n with
      | .pwrModeReq | .pwrDomReq | .pwrPadRelease => some 0
      | _ => pwrReg s.dev n
    | .feed => match n with
      | .feedCtl => some 0
      | _ => feedReg s.feed n i
    | .cal => calReg s.dev n
    | .mgt => mgtReg s n
    | .seci => seciReg s n
    | .slate => slateReg s.dev n
    | .dolly _ => dollyReg s.dev n i
    | .map q | .stage q => mapStageReg s.dev q n
    | .pack q => packReg s.dev q n
    | .seal q => sealReg s.dev q n i
    | .coat q => coatReg s.dev q n i
    | .dir q => dirReg s.dev q n
    | .nme q => nmeReg s.dev q n i
    | .dmc c => dmcReg s.dev c n
    | .hpt b => hptReg s.dev b n i
    | .mwl b => mwlReg s.dev b n
    | .mwt _ => mwtReg s.dev n
    | .sbi | .xbar | .qctl _ | .dphy _ | .daily _ => none

/-! ## Settings that wait for ACTION (R42) -/

/-- The page whose copy holds a register: every MWT register but ERR and the header is device-wide (R330). -/
def regHome (b : Block) (n : RName) : Block :=
  match b with
  | .mwt k => if n = .mwtErr ∨ regsHeader.contains n then .mwt k else .mwt 0
  | b => b

/-- A setting written while its page was Cut and not yet in force; a device-wide MWT register shows what any page holds. -/
def stagedAt (d : Dev) (b : Block) (n : RName) (i : Nat) : Option Word :=
  let at_ (b : Block) : Option Word := tabGet none d.staged (regKey b n i)
  match b with
  | .mwt _ => match at_ b with
    | some v => some v
    | none => if regHome b n = .mwt 0 then (List.range 8).findSome? fun k => at_ (.mwt k) else none
  | _ => at_ b

/-- The value of a stored register with the settings that wait in it. -/
def storedReg (d : Dev) (b : Block) (n : RName) (i : Nat) : Word :=
  let v := rget d (regHome b n) n i
  match stagedAt d b n i with
  | some w => (v &&& ~~~n.row.cw) ||| (w &&& n.row.cw)
  | none => v

/-- What a read of a register finds. -/
def readReg (s : State) (p : Path) (b : Block) (n : RName) (i : Nat) : Word :=
  match derivedReg s p b n i with
  | some v => v
  | none => storedReg s.dev b n i

/-! ## 64-bit registers (R25) -/

/-- The low and high names of the registers that R25 covers. -/
def widePairs : List (RName × RName) :=
  [(.mapChkErrLo, .mapChkErrHi), (.packPageErrLo, .packPageErrHi), (.sealAccErrLo, .sealAccErrHi), (.sealEdgeLo, .sealEdgeHi),
   (.coatFlipMpaLo, .coatFlipMpaHi), (.dirPerrLineLo, .dirPerrLineHi), (.dirProbeEntryLo, .dirProbeEntryHi), (.hptPrbsErrLo, .hptPrbsErrHi),
   (.mwlPrbsErrLo, .mwlPrbsErrHi), (.mwlTxCtrLo, .mwlTxCtrHi), (.timeNowLo, .timeNowHi), (.timeSetLo, .timeSetHi), (.timeUncLo, .timeUncHi),
   (.feedELo, .feedEHi), (.daily0SnapTimeLo, .daily0SnapTimeHi)]
/-- The high word of a low word's register. -/
def highOf (n : RName) : Option RName := (widePairs.find? fun x => x.1 = n).map (·.2)
/-- The low word of a high word's register. -/
def lowOf (n : RName) : Option RName := (widePairs.find? fun x => x.2 = n).map (·.1)

/-- The number of a path's latches (R25): one for each path and host port, and for each view page one of its own (R441). -/
def latchKey (p : Path) (page : Nat) : Nat :=
  let k := match p with
    | .secure => 0 | .normal => 1 | .sideband => 2 | .debug => 3
    | .host p => 4 + p.val
  if 0xD0 ≤ page then 32 + (page - 0xD0) else k
/-- A path's latches. -/
def latchGet (d : Dev) (k : Nat) : Latches := tabGet {} d.latches k
/-- Change a path's latches. -/
def latchMod (d : Dev) (k : Nat) (f : Latches → Latches) : Dev := { d with latches := tabMod {} d.latches k f }

end Sys2Proof.Machine
end

