-- ==== Sys2Proof/Machine/RunCtl.lean ====
section
/-! DEFINITION. Run control (R39 to R43): the checks of each block at ACTION, cut, action, block reset and the software fence. -/

namespace Sys2Proof.Machine

/-! ## The checks at ACTION (R42) -/

/-- LO < HI ≤ 63 of a PANIC register. -/
def panicOk (v : Word) : Bool := decide (fld v 5 0 < fld v 13 8) && decide (fld v 13 8 ≤ 63)
/-- The conditions of R282 on PRBS_CTL. -/
def prbsOk (v : Word) : Bool := fld v 1 0 ≠ 3 && (!bitOf v 4 || bitOf v 2 || bitOf v 3)
/-- A number between two bounds. -/
def within (lo x hi : Nat) : Bool := decide (lo ≤ x) && decide (x ≤ hi)

/-- Whether the settings of a block, those that wait included, are consistent. -/
def actionOk (d : Dev) (b : Block) : Bool :=
  let f (n : RName) (hi lo : Nat) : Nat := fld (storedReg d b n 0) hi lo
  match b with
  | .stage _ => f .stageCfg 31 16 ≠ 0
  | .dolly 0 =>
    decide (f .dolly0HeatCfg 21 16 ≤ f .dolly0HeatCfg 9 4) && decide (f .dolly0HeatCfg 9 4 < f .dolly0HeatCfg 15 10)
      && decide (f .dolly0HeatCfg 3 0 ≤ 10) && within 10 (f .dolly0Epoch 15 0) 60000
  | .dolly _ =>
    decide (f .dolly1Marks 19 10 < f .dolly1Marks 9 0) && decide (f .dolly1Marks 9 0 < f .dolly1Marks 29 20)
      && decide (f .dolly1Marks 29 20 ≤ 500) && within 1 (f .dolly1WaitLimit 9 0) 1000
  | .pack _ => f .packCfg 5 4 ≠ 0
  | .dmc _ =>
    decide (1 ≤ f .dmcWqLo 6 0) && decide (f .dmcWqLo 6 0 < f .dmcWqHi 6 0) && decide (f .dmcWqHi 6 0 < f .dmcCfg 21 16)
      && f .dmcCfg 1 0 ≠ 3 && decide (f .dmcCfg 14 12 ≤ 4) && decide (1 ≤ f .dmcCfg 11 4) && within 64 (f .dmcTally 15 0) 4096
      && within 1 (f .dmcTally 17 16) 2
  | .dphy _ => f .dphyPeriodic 15 0 ≠ 0 && f .dphyPeriodic 31 16 ≠ 0
  | .dir _ => f .dirCfg 1 0 ≠ 3 && f .dirCfg 15 8 ≠ 0 && within 10 (f .dirSnoopLimit 15 0) 60000
  | .slate =>
    within 10 (f .slateWindow 9 0) 640 && within 500 (f .slateFloorCfg 9 0) 1000 && f .slateFloorCfg 25 16 ≠ 0 && f .slatePackrd 7 0 ≠ 0
  | .nme _ => f .nmeCfg 7 0 ≠ 0
  | .hpt _ => panicOk (storedReg d b .hptPanic 0) && panicOk (storedReg d b .hptPanic 1) && prbsOk (storedReg d b .hptPrbsCtl 0)
  | .mwl _ =>
    within 10 (f .mwlDownTime 13 0) 10000 && f .mwlTimers 7 0 ≠ 0 && f .mwlTimers 15 8 ≠ 0 && f .mwlTimers 23 16 ≠ 0 && f .mwlTimers 31 24 ≠ 0
      && within 20 (f .mwlCfg 13 8) 63 && panicOk (storedReg d b .mwlPanic 0) && prbsOk (storedReg d b .mwlPrbsCtl 0)
  | .mwt _ => within 10 (f .mwtRspLimit 15 0) 60000
  | .mgt => f .mgtWdogCfg 15 0 ≠ 0
  | .gaffer =>
    within 40 (f .gafferCap 7 0) 185 && within 600 (f .gafferCfg 25 16) 750 && f .gafferCfg 25 16 % 10 = 0 && f .gafferCfg 7 0 ≠ 0
      && f .gafferCfg 15 8 ≠ 0
  | .feed =>
    decide (f .feedLevels 29 16 < f .feedWarn 13 0) && decide (f .feedWarn 13 0 < f .feedLevels 13 0) && decide (f .feedLevels 13 0 ≤ 13200)
      && within 10 (f .feedCfg 9 0) 800 && f .feedCfg 23 16 ≠ 0 && f .feedCfg 25 24 ≠ 0 && f .feedTimer 15 0 ≠ 0 && f .feedWarn 23 16 ≠ 0
  | .cal => decide (f .calCfg 7 4 ≤ 8)
  | .pgdir | .time | .flt | .pwr | .sbi | .seci | .xbar | .qctl _ | .map _ | .seal _ | .coat _ | .daily _ => true

/-! ## Cutting (R41) -/

/-- Whether a quadrant has nothing in flight on the blocks that every request passes. -/
def quadQuiet (d : Dev) (q : Nat) : Bool :=
  let s := quad d q
  s.trans.isEmpty && s.miss.isEmpty && s.binds.isEmpty && s.wb.isEmpty && s.flush.isNone && s.lockedFlush.isEmpty && s.rebuilds.isEmpty
    && s.move.isNone && s.sweepPage.isNone
    && d.waits.all fun w => w.q.val ≠ q || w.wait = .intake || w.wait = .admission || w.wait = .portGate

/-- Whether a sub-channel has nothing queued or on its way. -/
def subQuiet (d : Dev) (u : Nat) : Bool := (subc d u).rq.isEmpty && (subc d u).wq.isEmpty && (subc d u).flight.isEmpty && !(subc d u).inRetry

/-- Whether nothing is left in flight in a block. -/
def blockQuiet (d : Dev) (b : Block) : Bool :=
  match b with
  | .qctl q | .map q | .stage q | .coat q | .dir q => quadQuiet d q && d.regionBusy.isNone
  | .seal q => quadQuiet d q && d.rangeBusy.isNone
  | .pack q => (List.range 2).all (fun e => ((quad d q).engines.getD e {}).work.isNone && ((quad d q).engines.getD e {}).aside.isNone) && (quad d q).decodes.isEmpty
  | .nme q => clusterIdle d q
  | .dmc c => subQuiet d (2 * c) && subQuiet d (2 * c + 1)
  | .dolly 0 => (List.range 4).all fun q => (quad d q).move.isNone
  | .slate => d.slateBusy.isNone
  | .xbar => d.waits.all fun w => w.wait ≠ .portGate
  | .hpt b => d.waits.all fun w => w.wait ≠ .portGate || reqPort w.req / 2 ≠ b
  | .mwl b => (mport d b).replayBuf.isEmpty && (mport d b).ccOut.isEmpty
  | .mwt b => d.tags.all (fun t => match t.2 with
      | some u => u.port ≠ b || u.held
      | none => true) && d.waits.all fun w => w.wait ≠ .portGate || reqPort w.req ≠ 16 + b
  | .cal => d.cal.erasing.isNone
  | .gaffer => d.gaffer.step.isNone
  | .dolly _ | .dphy _ | .mgt | .feed | .sbi | .pgdir | .time | .flt | .pwr | .seci | .daily _ => true

/-- The block of a page number. -/
def blockOf (d : Dev) (page : Nat) : Option Block := blockAt d.marwen page

/-- Meaning of CUT_DONE (R41): a block in Cutting has nothing left in flight. -/
def execCutDone (page : BitVec 8) (s : State) : Host.Outcome State Fault Refusal :=
  match blockOf s.dev page.toNat with
  | some b => doneIf s ((pget s.dev b).run = .cutting && domOn s.dev b.domain && blockQuiet s.dev b) fun d => pmod d b fun p => { p with run := .cut }
  | none => still s

/-! ## ACTION (R42) -/

/-- The settings that wait in a page come into force. -/
def takeStaged (d : Dev) (b : Block) : Dev :=
  b.regs.foldl (fun d n =>
    if n.row.cw = 0 then d
    else (List.range n.row.count).foldl (fun d i =>
      match tabGet none d.staged (regKey b n i) with
      | some w =>
        let h := regHome b n
        let d := rput d h n ((rget d h n i &&& ~~~n.row.cw) ||| (w &&& n.row.cw)) i
        { d with staged := tabPut none d.staged (regKey b n i) none }
      | none => d) d) d

/-- COMMIT_STAT.OVER_NOMINAL at an ACTION of the SLATE page (R242). -/
def nominalCheck (d : Dev) : Dev :=
  let c := ((List.range 64).map fun k => rfld d .slate .slateClassCfg 10 0 k).sum
  let tight := decide (d.reg.nominal < c * 8)
  let d := { d with reg := { d.reg with overNominal := tight } }
  if tight then raiseEvent d .slate 3 else d

/-- What a block that is Rolling again lets go on. -/
def actionGo (d : Dev) (b : Block) : Dev :=
  match b with
  | .qctl q | .map q | .stage q | .seal q | .coat q | .dir q => if quadOpen d q then retry d (atWait q .intake) else d
  | .pack q => retry d fun w => atWait q .decode w && !(quad d q).decodes.any fun x => x.page = pageOfLine w.req.line
  | .dmc c => retry d fun w => w.q.val = c / 4 && (w.wait = .readQueue || w.wait = .stage)
  | .xbar | .mwt _ => retry d fun w => w.wait = .admission
  | .hpt b => retry (prbsApply d b) fun w => w.wait = .admission
  | .mwl b => prbsApply d b
  | .slate => nominalCheck d
  | .dolly _ | .nme _ | .dphy _ | .cal | .gaffer | .mgt | .feed | .sbi | .pgdir | .time | .flt | .pwr | .seci | .daily _ => d

/-- ACTION of a block in Cut: refused, or Rolling with all its settings at once. -/
def actionApply (d : Dev) (b : Block) : Dev :=
  if actionOk d b then actionGo (pmod (takeStaged d b) b fun p => { p with run := .rolling }) b
  else pmod d b fun p => { p with writeRefused := true }

/-! ## Block reset (R43, R44) -/

/-- The registers of a page return to their reset values, but for the persistent ones and those of the site profile. -/
def resetRegs (d : Dev) (b : Block) : Dev :=
  let d := (regsHeader ++ b.regs).foldl (fun d n =>
    if n.row.persist ∨ n.row.profile then d
    else (List.range n.row.count).foldl (fun d i =>
      let d := rput d (regHome b n) n (resetAt n i) i
      { d with staged := tabPut none d.staged (regKey b n i) none }) d) d
  pmod d b fun p => { p with writeRefused := false, eventStat := 0 }

/-- A sub-channel after the reset of its DMC (R408): filled with poison where it lost writes, then in use. -/
def resetSub (d : Dev) (u : Nat) : Dev :=
  let d := if d.flt.lossSub.getLsbD u then fillSub d u else d
  umod d u fun s => { s with fenced := false, swFence := false, inRetry := false, retry := [], replays := [], failedReplays := 0, mode := .read }

/-- What a block holds beside its registers: a fenced unit returns to use (R264, R406), lists and results are empty. -/
def resetBlock (d : Dev) (b : Block) : Dev :=
  match b with
  | .pack q => qmod d q fun s => { s with engines := [{}, {}] }
  | .seal q =>
    let d := qmod d q fun s => { s with pipeFenced := 0 }
    if q = 0 then { d with rangeResult := 0, rangeLast := 0 } else d
  | .nme q => cmod { d with pwr := { d.pwr with cutBy := d.pwr.cutBy &&& ~~~(BitVec.ofNat 4 (2 ^ q)) } } q fun c =>
      { c with queue := [], lanes := [], ringResult := 0, rings := c.rings.foldl (fun t r => tabPut {} t r.1 { r.2 with state := .off }) [] }
  | .dmc c => resetSub (resetSub d (2 * c)) (2 * c + 1)
  | .hpt b => brickMod (brickDown d b) b fun _ => {}
  | .mwl b => brickMod (mwDown d b true) b fun _ => {}
  | .dolly 0 => (List.range 4).foldl (fun d q => qmod d q fun s => { s with promo := [], demo := [] }) d
  | .slate => { d with slateResult := 0, reg := { d.reg with overNominal := false } }
  | .gaffer => { d with gaffer := { d.gaffer with est := 0, grants := 0, upCount := 0 } }
  | .qctl _ | .map _ | .stage _ | .coat _ | .dir _ | .dolly _ | .dphy _ | .xbar | .mwt _ | .cal | .mgt | .feed | .sbi | .pgdir | .time | .flt
  | .pwr | .seci | .daily _ => d

/-- BLOCK_RESET that is accepted: the page is Resetting, its registers at their reset values. -/
def resetStart (d : Dev) (b : Block) : Dev :=
  resetBlock (resetRegs (pmod d b fun p => { p with run := .resetting, fencedBy := none, fenceAtEnd := none }) b) b

/-- Meaning of BLOCK_RESET_END (R43): Cut with FENCED 0, or Fenced where a Continuity fence arrived meanwhile. -/
def execBlockResetEnd (page : BitVec 8) (s : State) : Host.Outcome State Fault Refusal :=
  match blockOf s.dev page.toNat with
  | some b => doneIf s ((pget s.dev b).run = .resetting && domOn s.dev b.domain) fun d =>
      pmod d b fun p => match p.fenceAtEnd with
        | some src => { p with run := .fenced, fencedBy := some src, fenceAtEnd := none }
        | none => { p with run := .cut }
  | none => still s

/-! ## Software fences (R40, R43, R398) -/

/-- A software fence is recorded. -/
def softRecord (d : Dev) : Dev := raise0 d .flt 1

/-- FENCE_REQ of a page fences its unit (R27), whatever severity the source has. -/
def softFencePage (d : Dev) (b : Block) : Dev :=
  let d := softRecord d
  match b with
  | .qctl q => fenceUnit d (.quadrant (quadOf q)) 1 true
  | .pack q => fenceEngine (fenceEngine (fencePage d b 1) q 0) q 1
  | .seal q => qmod (fencePage d b 1) q fun s => { s with pipeFenced := 0xF }
  | .nme q => fenceUnit d (.cluster (quadOf q)) 1 true
  | .dmc c => fenceUnit d (.channel (Fin.ofNat 16 c)) 1 true
  | .hpt b | .mwl b => fenceUnit d (.brick (Fin.ofNat 8 b)) 1 true
  | _ => d

/-- New bits of a fence register that a write sets. -/
def newBits (old v : Word) (n : Nat) : List Nat := (List.range n).filter fun i => bitOf v i && !bitOf old i

/-- ENG_FENCE, PIPE_FENCE and SUB_FENCE fence one unit for each bit that is set, as software fences. -/
def softFenceEngine (d : Dev) (q e : Nat) : Dev :=
  let d := softRecord (rput d (.pack q) .packEngFence (rget d (.pack q) .packEngFence ||| BitVec.ofNat 32 (2 ^ e)))
  fenceEngine d q e
def softFencePipe (d : Dev) (q k : Nat) : Dev :=
  let d := softRecord (rput d (.seal q) .sealPipeFence (rget d (.seal q) .sealPipeFence ||| BitVec.ofNat 32 (2 ^ k)))
  qmod d q fun s => { s with pipeFenced := s.pipeFenced ||| BitVec.ofNat 4 (2 ^ k) }
def softFenceSub (d : Dev) (u : Nat) : Dev := fenceSub (softRecord (umod d u fun s => { s with swFence := true })) u

/-! ## RUN_CTL (R40) -/

/-- The Continuity record that fenced a block still stands (R40, R403). -/
def fenceRecorded (d : Dev) (b : Block) : Bool :=
  match (pget d b).fencedBy with
  | some src => d.flt.latched.getLsbD src
  | none => false

/-- A refused request sets WRITE_REFUSED and changes nothing. -/
def runRefused (d : Dev) (b : Block) : Dev := pmod d b fun p => { p with writeRefused := true }

/-- A write of RUN_CTL. -/
def runCtlWrite (d : Dev) (b : Block) (v : Word) : Dev :=
  let run := (pget d b).run
  match fld v 3 0 with
  | 0 => d
  | 1 =>
    if ¬ b.caps.1 ∨ run = .resetting ∨ run = .fenced then runRefused d b
    else if run = .rolling then pmod d b fun p => { p with run := .cutting } else d
  | 2 =>
    if ¬ b.caps.1 ∨ run = .cutting ∨ run = .resetting ∨ run = .fenced then runRefused d b
    else if run = .cut then actionApply d b else d
  | 4 =>
    if ¬ b.caps.2.1 ∨ run = .rolling ∨ run = .cutting ∨ run = .resetting ∨ (run = .fenced ∧ fenceRecorded d b) then runRefused d b
    else resetStart d b
  | 8 =>
    if ¬ b.caps.2.2 ∨ run = .resetting then runRefused d b
    else if run = .fenced then d else softFencePage d b
  | _ => runRefused d b

end Sys2Proof.Machine
end

