-- ==== Sys2Proof/Machine/Writes.lean ====
section
/-! DEFINITION. What a write of a register does once the access is admitted: the access codes of R35, the load of site-profile
registers during Boot (R44), the clearing of captures, and the registers whose write starts something. -/

namespace Sys2Proof.Machine

/-! ## The access codes (R35) -/

/-- The stored value after a write: RW bits and, from the secure world, SW bits take the value; W1C and W1S bits follow their ones. -/
def coded (r : RegRow) (secure : Bool) (old w : Word) : Word :=
  let m := r.rw ||| (if secure then r.sw else 0)
  (((old &&& ~~~m) ||| (w &&& m)) &&& ~~~(w &&& r.w1c)) ||| (w &&& r.w1s)

/-- A setting waits for ACTION (R42). -/
def stage (d : Dev) (b : Block) (n : RName) (i : Nat) (w : Word) : Dev :=
  { d with staged := tabPut none d.staged (regKey b n i) (some w) }

/-- The CW bits of a write: they wait for ACTION while the block is Cut, and are refused in every other state. -/
def cwWrite (d : Dev) (b : Block) (n : RName) (i : Nat) (w : Word) : Dev :=
  if n.row.cw = 0 then d
  else if (pget d b).run = .cut then stage d b n i w
  else pmod d b fun p => { p with writeRefused := true }

/-- Whether a write is the load of a site-profile register (R44). -/
def profileLoad (d : Dev) (p : Path) (b : Block) (n : RName) : Bool :=
  n.row.profile && decide (p = .secure) && decide (d.pwr.mode = .boot) && (!b.caps.1 || decide ((pget d b).run = .cut))

/-- The load of a site-profile register: whatever its access codes; CW bits wait for ACTION. -/
def profileStore (d : Dev) (b : Block) (n : RName) (i : Nat) (w : Word) : Dev :=
  let h := regHome b n
  let now := n.row.df &&& ~~~n.row.cw
  cwWrite (rput d h n ((rget d h n i &&& ~~~now) ||| (w &&& now)) i) b n i w

/-- A write by the access codes alone. -/
def codedWrite (d : Dev) (secure : Bool) (b : Block) (n : RName) (i : Nat) (w : Word) : Dev :=
  let h := regHome b n
  cwWrite (rput d h n (coded n.row secure (rget d h n i) w) i) b n i w

/-! ## Captures -/

/-- The registers that a 1 written to VALID of a capture clears. -/
def captureOf (n : RName) : List RName := match n with
  | .mapChkErrHi => [.mapChkErrLo, .mapChkErrHi]
  | .packPageErrHi => [.packPageErrLo, .packPageErrHi]
  | .sealAccErrHi => [.sealAccErrLo, .sealAccErrHi]
  | .dirPerr => [.dirPerr, .dirPerrLineLo, .dirPerrLineHi]
  | .nmeDbErr => [.nmeDbErr]
  | .mwtErr => [.mwtErr]
  | .mgtGateErr => [.mgtGateErr, .mgtGateErrAddr]
  | .pgdirWinErr => [.pgdirWinErr, .pgdirWinErrCount]
  | .seciClaimRefused => [.seciClaimRefused]
  | _ => []

/-- A write of a capture register. -/
def captureWrite (d : Dev) (b : Block) (l : List RName) (w : Word) : Dev :=
  if bitOf w 31 then l.foldl (fun d n => rput d b n 0) d else d

/-! ## Registers whose write does something -/

/-- FAULT_STAT: W1C on the page's sources under the rules of R403. -/
def faultStatWrite (d : Dev) (b : Block) (w : Word) : Dev :=
  latchedClear d (((List.range b.sources).filter fun i => bitOf w i).foldl (fun m i => m ||| BitVec.ofNat 512 (2 ^ srcId b i)) 0)

/-- RANGE_SEL loads the staging registers with the range (R133). -/
def rangeSelWrite (d : Dev) (w : Word) : Dev :=
  let r := fld w 5 0
  let x := range d r
  let b := Block.seal 0
  let d := rput (rput d b .sealRangeSel (BitVec.ofNat 32 r)) b .sealRangeBase (BitVec.ofNat 32 x.base)
  rput (rput (rput d b .sealRangeLen (BitVec.ofNat 32 x.len)) b .sealRangeCfg (rangeCfg x)) b .sealRangeHosts (x.hosts.setWidth 32)

/-- REGION_SEL loads REGION_CFG with the extent's entry (R162). -/
def regionSelWrite (d : Dev) (w : Word) : Dev :=
  let x := tabGet (false, false) d.regions (fld w 14 0)
  rput (rput d (.coat 0) .coatRegionSel (w &&& 0x7FFF)) (.coat 0) .coatRegionCfg (packW [(0, b2n x.1), (1, b2n x.2)])

/-- REGION_CMD.SET (R162): RESULT 4 while a command is being applied. -/
def regionCmdWrite (d : Dev) (w : Word) : Dev :=
  if ¬ bitOf w 0 then d
  else if d.regionBusy.isSome then { d with regionResult := 4 }
  else { d with regionBusy := some (rfld d (.coat 0) .coatRegionSel 14 0, rget d (.coat 0) .coatRegionCfg) }

/-- FLIP_CTL (R180): ARM arms the mask for the channel and sub-channel of the same write, or disarms it. -/
def flipCtlWrite (d : Dev) (q : Nat) (w : Word) : Dev :=
  let d := codedWrite d true (.coat q) .coatFlipCtl 0 w
  qmod d q fun s => { s with flip := if bitOf w 31 then some 0 else none }

/-- DEV_FAIL (R160): the source "DRAM device failed" asserts while a device is marked (R396). -/
def devFailWrite (d : Dev) (q : Nat) (n : RName) (w : Word) : Dev :=
  let d := codedWrite d true (.coat q) n 0 w
  let on := ((rget d (.coat q) .coatDevFail0 ||| rget d (.coat q) .coatDevFail1) &&& 0x80808080) ≠ 0
  if ¬ on then deassert d (.coat q) 3
  else if d.flt.asserting.getLsbD (srcId (.coat q) 3) then d
  else raise d (.coat q) 3 .none (ctxKind 0 (.coat q)) true

/-- PROBE_CTL (R226): the entry of the line named, or NOT_HOME. A line without an entry probes as zero. -/
def probeWrite (d : Dev) (q : Nat) (w : Word) : Dev :=
  let b := Block.dir q
  if ¬ bitOf w 0 then d
  else
    let line := (rget d b .dirProbeLineLo).toNat + rfld d b .dirProbeLineHi 6 0 * 2 ^ 32
    if lineQuad line ≠ q then rput d b .dirProbeCtl 0xA
    else
      let word (d : Dev) (v : DWord) : Dev := rput (rput d b .dirProbeEntryLo (v.setWidth 32)) b .dirProbeEntryHi ((v >>> 32).setWidth 32)
      match asFind (tabGet {} (quad d q).dir (dirSet line)) line with
      | some (_, e) => rput (word d (dirWord line e ((quad d q).trans.any fun t => t.line = line))) b .dirProbeCtl 6
      | none => rput (word d 0) b .dirProbeCtl 2

/-- DOORBELL (R248): TAIL, or a value at or above the ring's size that is refused, shown in DB_ERR. -/
def doorbellWrite (d : Dev) (p : Path) (q i : Nat) (w : Word) : Dev :=
  let v := fld w 15 0
  let b := Block.nme q
  if v < ringSize (ringOf d q i) then ringMod d q i fun r => { r with tail := v }
  else
    let d := if bitOf (rget d b .nmeDbErr) 31 then d
      else rput d b .nmeDbErr (packW [(0, i), (8, v), (24, Path.code p), (27, match p with | .host k => k.val | _ => 0), (31, 1)])
    raiseEvent d b 2

/-- SEV (R398, R418): ignored under LOCK; the fields of fixed sources stay. -/
def sevWrite (d : Dev) (i : Nat) (w : Word) : Dev :=
  if d.flt.locked then d
  else
    let keep := (List.range 16).foldl (fun m j => if fixedHalt (16 * i + j) then m ||| BitVec.ofNat 32 (3 * 4 ^ j) else m) (0 : Word)
    rput d .flt .fltSev ((rget d .flt .fltSev i &&& keep) ||| (w &&& ~~~keep)) i

/-- FLT.CFG (R418): ignored under LOCK, which holds until cold reset. -/
def fltCfgWrite (d : Dev) (w : Word) : Dev :=
  if d.flt.locked then d
  else let d := rput d .flt .fltCfg (w &&& 0xF); { d with flt := { d.flt with locked := bitOf w 8 } }

/-- WIDTH_CTL (R304, R312). -/
def widthCtlWrite (d : Dev) (b : Nat) (w : Word) : Dev :=
  let d := rput d (.mwl b) .mwlWidthCtl (w &&& 0xFF)
  let d := if bitOf w 30 then retrainStart d b else d
  if bitOf w 31 then widthStart d b (w.setWidth 8) else d

/-- HIST_CTL (R280). -/
def histCtlWrite (d : Dev) (blk : Block) (b : Nat) (n : RName) (w : Word) : Dev :=
  let d := codedWrite d true blk n 0 w
  if bitOf w 31 then histBegin d b else d

/-- KEY_CMD (R342): a nonzero OP starts a command. The source block in the secure SRAM is not the state's: its bytes are free. -/
def keyCmdWrite (d : Dev) (w : Word) : Dev :=
  if fld w 2 0 = 0 then d
  else keyIssue (bumpFree d) (fld w 2 0) (fld w 4 3) (fld w 19 8) (bytesOf (Config.free (fresh d)) 136)

/-- The write of a header register. -/
def headerWrite (d : Dev) (b : Block) (n : RName) (w : Word) : Option Dev := match n with
  | .hdrRunCtl => some (runCtlWrite d b w)
  | .hdrRunStat => some (if bitOf w 8 then pmod d b fun p => { p with writeRefused := false } else d)
  | .hdrFaultStat => some (faultStatWrite d b w)
  | .hdrEventStat => some (pmod d b fun p => { p with eventStat := p.eventStat &&& ~~~w })
  | _ => none

/-- The write of a register of a quadrant page that does something. -/
def quadWrite (d : Dev) (p : Path) (b : Block) (n : RName) (i : Nat) (w : Word) : Option Dev := match b, n with
  | .stage q, .stageFlushCtl =>
    let d := codedWrite d true b n 0 w
    some (if bitOf w 31 then flushStart d q (fld w 1 0) else d)
  | .pack q, .packEngFence => some ((newBits (rget d b n) w 2).foldl (fun d e => softFenceEngine d q e) d)
  | .seal q, .sealPipeFence => some ((newBits (rget d b n) w 4).foldl (fun d k => softFencePipe d q k) d)
  | .seal 0, .sealRangeSel => some (rangeSelWrite d w)
  | .seal 0, .sealRangeCmd => some (rangeIssue d (fld w 2 0))
  | .coat q, .coatFlipCtl => some (flipCtlWrite d q w)
  | .coat q, .coatDevFail0 => some (devFailWrite d q .coatDevFail0 w)
  | .coat q, .coatDevFail1 => some (devFailWrite d q .coatDevFail1 w)
  | .coat 0, .coatRegionSel => some (regionSelWrite d w)
  | .coat 0, .coatRegionCmd => some (regionCmdWrite d w)
  | .coat 0, .coatPoisonStat => some (if bitOf w 31 then { d with poisonOverflow := false } else d)
  | .dir q, .dirProbeCtl => some (probeWrite d q w)
  | .nme q, .nmeRingCmd => some (ringCommand d q (fld w 2 0) (decide (p = .secure)))
  | .nme q, .nmeDoorbell => some (doorbellWrite d p q i w)
  | .dmc c, .dmcSubFence =>
    let old := packW [(0, b2n (subc d (2 * c)).swFence), (1, b2n (subc d (2 * c + 1)).swFence)]
    some ((newBits old w 2).foldl (fun d k => softFenceSub d (2 * c + k)) d)
  | _, _ => none

/-- The write of a register of any other page that does something to the device alone. -/
def deviceWrite (d : Dev) (p : Path) (b : Block) (n : RName) (i : Nat) (w : Word) : Option Dev := match b, n with
  | .slate, .slateCtxCmd => some (slateIssue d (.ctx (fld w 1 0) (decide (p = .secure))))
  | .slate, .slateFbCmd => some (slateIssue d (.fb (fld w 1 0)))
  | .hpt b, .hptHistCtl => some (histCtlWrite d (.hpt b) b n w)
  | .mwl b, .mwlHistCtl => some (histCtlWrite d (.mwl b) b n w)
  | .mwl b, .mwlWidthCtl => some (widthCtlWrite d b w)
  | .mgt, .mgtWdogKick => some (wdogKickWrite d w)
  | .seci, .seciClaim => some (claimWrite d w)
  | .seci, .seciKeyCmd => some (keyCmdWrite d w)
  | .pwr, .pwrDomReq => some (domRequest d p (fld w 4 0) (fld w 6 5))
  | .pwr, .pwrWakeStat => some (if bitOf w 31 then wakeRetryWrite d else d)
  | .pwr, .pwrPadRelease => some (padReleaseWrite d w)
  | .time, .timeSetHi =>
    let d := rput d .time n w
    some (timeLoad d (BitVec.ofNat 64 ((rget d .time .timeSetLo).toNat + w.toNat * 2 ^ 32)))
  | .flt, .fltCfg => some (fltCfgWrite d w)
  | .flt, .fltStat => some (if bitOf w 3 then { d with flt := { d.flt with clearRefused := false } } else d)
  | .flt, .fltInj => some (injWrite d w)
  | .flt, .fltFeCtl => some (if bitOf w 0 then firstClear d else d)
  | .flt, .fltLatched => some (latchedClear d (w.setWidth 512 <<< (32 * i)))
  | .flt, .fltSev => some (sevWrite d i w)
  | .daily 0, .daily0SnapCtl => some (if bitOf w 0 then { d with daily := { d.daily with snapDue := true } } else d)
  | _, _ => none

/-- The write of a register that reaches beyond the device: the cores, the life cycle, the feed controller, a mode or a reset. -/
def stateWrite (s : State) (p : Path) (b : Block) (n : RName) (w : Word) : Option State := match b, n with
  | .seci, .seciLifecycle => some { s with life := lifecycleWrite s.life w }
  | .seci, .seciDebugEn => some (if bitOf w 8 then { s with life := relockLife s.life } else s)
  | .seci, .seciCoreRelease => some (coreReleaseWrite s w)
  | .seci, .seciTestEn => some (testEnWrite s w)
  | .pwr, .pwrModeReq => some (modeRequest s p (fld w 2 0) (fld w 5 4))
  | .feed, .feedCtl => some (feedCtlWrite s w)
  | .feed, .feedHoldup => some (if bitOf w 0 then { s with feed := { s.feed with ran := false } } else s)
  | .flt, .fltResetCtl => some (resetCtlWrite s p w)
  | _, _ => none

/-- A write of a register that the window has admitted. -/
def writeReg (s : State) (p : Path) (b : Block) (n : RName) (i : Nat) (w : Word) : State :=
  let d := s.dev
  if profileLoad d p b n then { s with dev := profileStore d b n i w }
  else match headerWrite d b n w with
  | some d => { s with dev := d }
  | none =>
    if captureOf n ≠ [] then { s with dev := captureWrite d b (captureOf n) w }
    else match quadWrite d p b n i w with
    | some d => { s with dev := d }
    | none => match deviceWrite d p b n i w with
      | some d => { s with dev := d }
      | none => match stateWrite s p b n w with
        | some s => s
        | none => { s with dev := codedWrite d (decide (p = .secure)) b n i w }

end Sys2Proof.Machine
end

