-- ==== Sys2Proof/Machine/Window.lean ====
section
/-! DEFINITION. The register window: the checks of an access (R23, R36, R37), refusals (R30), reads and writes with the latches of
R25, the sideband messages of R26, and the commands that are reads and writes of registers. -/

namespace Sys2Proof.Machine

/-! ## The checks (R36) -/

/-- Whether a path can present an access at all: the cores with their domains on, a host with its link up, the debug path with XB
on, the sideband while AO is powered; in Retain only the sideband. -/
def presents (d : Dev) (p : Path) : Bool :=
  match p with
  | .sideband => domOn d 0
  | .secure | .normal => d.pwr.mode ≠ .retain && domOn d 1 && domOn d 2
  | .host p => d.pwr.mode ≠ .retain && (port d p).up
  | .debug => d.pwr.mode ≠ .retain && domOn d 3

/-- The AO pages that hold in Retain (R36). -/
def aoPage (page : Nat) : Bool := page = 0 || page = 4 || page = 5 || page = 7

/-- What an access asks for: its path, window offset, size, whether it writes, and the Slate of R231. -/
structure WinAcc where
  path : Path
  off : Nat
  bytes : Nat := 4
  write : Bool := false
  slate : Option Nat := none
deriving DecidableEq, Repr

/-- The refusals for rights that a register's own rule adds: R249, R405, R440. -/
def ownRefusal (d : Dev) (a : WinAcc) (b : Block) : Bool :=
  match b with
  | .flt => a.write && findReg b (a.off % 4096) = some (.fltInj, 0) && d.pwr.mode ≠ .factory
  | .nme q => match a.path, findReg b (a.off % 4096) with
    | .host h, some (.nmeDoorbell, i) => a.write && !(ringOf d q i).hosts.getLsbD h
    | _, _ => false
  | .daily i => decide (16 ≤ i) && (a.write || !viewServed d a.path a.slate (i - 16))
  | _ => false

/-- Whether the rights refuse an access (R35, R37). -/
def rightsRefuse (s : State) (a : WinAcc) (b : Block) : Bool :=
  let r := rightsOf s a.path b.page
  let lacks : Bool :=
    if ¬ a.write then r % 2 = 0
    else if a.off % 4096 = 8 then r / 4 % 2 = 0
    else match findReg b (a.off % 4096) with
      | some (n, _) => if n.row.swReg then decide (a.path ≠ .secure) else r / 2 % 2 = 0
      | none => r / 2 % 2 = 0
  lacks || ownRefusal s.dev a b

/-- The first cause that refuses an access (R36): 3 not a word, 2 page unassigned, 1 domain off, 0 rights. -/
def refusal (s : State) (a : WinAcc) : Option Nat :=
  if a.bytes ≠ 4 ∨ a.off % 4 ≠ 0 then some 3
  else match blockOf s.dev (a.off / 4096) with
    | none => some 2
    | some b =>
      if ¬ domOn s.dev b.domain then some 1
      else if rightsRefuse s a b then some 0 else none

/-- A refused access is recorded (R30, R36). -/
def winRefuse (d : Dev) (a : WinAcc) (cause : Nat) : Dev :=
  let e := rget d .pgdir .pgdirWinErr
  let host : Nat := match a.path with
    | .host p => p.val
    | _ => 0
  let d := if bitOf e 31 then d
    else rput d .pgdir .pgdirWinErr
      (packW [(31, 1), (28, Path.code a.path), (24, host), (22, cause), (21, b2n a.write), (0, a.off % 2 ^ 20)])
  raiseEvent (rbump d .pgdir .pgdirWinErrCount) .pgdir 0

/-! ## Reading (R25) -/

/-- What stands at an offset: a plain word, or the low or high word of a 64-bit value, the latter with its low word's offset. -/
inductive Found where
  | plain (v : Word)
  | low (v : DWord)
  | high (lo : Nat) (v : DWord)
deriving DecidableEq, Repr

/-- A word of a 64-bit value at an 8-byte place. -/
def wideAt (off : Nat) (v : DWord) : Found := if off % 8 = 0 then .low v else .high (off - 4) v

/-- The counter pages (R434). -/
def findCounter (d : Dev) (page off : Nat) : Dev × Found :=
  let o := off % 4096
  let key (base w : Nat) : Nat := 128 * (page - 0xC1) + (o - base) / w
  if 0x200 ≤ o ∧ o < 0x400 then (d, .plain (Config.dailyDesc (key 0x200 4)))
  else if 0x400 ≤ o ∧ o < 0x800 then let (d, v) := liveRead d (key 0x400 8); (d, wideAt off v)
  else if 0x800 ≤ o ∧ o < 0xC00 then (d, wideAt off (snapRead d (key 0x800 8)))
  else (d, .plain 0)

/-- The view pages (R441). -/
def findView (d : Dev) (v off : Nat) : Dev × Found :=
  if off % 4096 = 0x40 then (d, .plain (viewClassReg d v))
  else match viewKey d v (off % 4096) with
    | some k => let (d, x) := liveRead d k; (d, wideAt off x)
    | none => (d, .plain 0)

/-- The registers of every page. -/
def findHere (s : State) (p : Path) (b : Block) (off : Nat) : Found :=
  match findReg b (off % 4096) with
  | none => .plain 0
  | some (n, i) =>
    let word (n : RName) : Word := readReg s p b n i
    match highOf n, lowOf n with
    | some h, _ => .low ((word h).setWidth 64 <<< 32 ||| (word n).setWidth 64)
    | none, some l => .high (regKey b l i) ((word n).setWidth 64 <<< 32 ||| (word l).setWidth 64)
    | none, none => .plain (word n)

/-- What an offset of an assigned page holds. -/
def findAt (s : State) (p : Path) (b : Block) (off : Nat) : Dev × Found :=
  match b with
  | .daily i =>
    if off % 4096 < 0x40 ∨ i = 0 then (s.dev, findHere s p b off)
    else if i < 16 then findCounter s.dev (off / 4096) off
    else findView s.dev (i - 16) off
  | _ => (s.dev, findHere s p b off)

/-- A read of an assigned page: a low word latches the high word, which the next read of the high word takes. -/
def readAt (s : State) (p : Path) (b : Block) (off : Nat) : Dev × Word :=
  let k := latchKey p b.page
  match findAt s p b off with
  | (d, .plain v) => (d, v)
  | (d, .low v) => (latchMod d k fun l => { l with rd := some (off, (v >>> 32).setWidth 32) }, v.setWidth 32)
  | (d, .high lo v) => match (latchGet d k).rd with
    | some (o, w) => if o = lo then (latchMod d k fun l => { l with rd := none }, w) else (d, (v >>> 32).setWidth 32)
    | none => (d, (v >>> 32).setWidth 32)

/-! ## Writing (R25) -/

/-- A write of an assigned page that is admitted: a low word of a 64-bit register waits in the write latch, and its high word commits
both. -/
def writeAt (s : State) (p : Path) (b : Block) (off : Nat) (w : Word) : State :=
  let k := latchKey p b.page
  match findReg b (off % 4096) with
  | none => s
  | some (n, i) => match highOf n, lowOf n with
    | some _, _ => { s with dev := latchMod s.dev k fun l => { l with wr := some (off, w) } }
    | none, some lo =>
      match (latchGet s.dev k).wr with
      | some (o, x) =>
        if o = regKey b lo i then
          let s := { s with dev := latchMod s.dev k fun l => { l with wr := none } }
          writeReg (writeReg s p b lo i x) p b n i w
        else writeReg s p b n i w
      | none => writeReg s p b n i w
    | none, none => writeReg s p b n i w

/-! ## Accesses -/

/-- A write through the window: the state after it, and the cause where it is refused. -/
def winWrite (s : State) (a : WinAcc) (w : Word) : State × Option Nat :=
  match refusal s a, blockOf s.dev (a.off / 4096) with
  | none, some b => (writeAt s a.path b a.off w, none)
  | none, none => (s, none)
  | some c, _ => ({ s with dev := winRefuse s.dev a c }, some c)

/-- A read through the window: the state after it, and the word or the cause. -/
def winRead (s : State) (a : WinAcc) : State × Except Nat Word :=
  match refusal s a, blockOf s.dev (a.off / 4096) with
  | none, some b => let (d, v) := readAt s a.path b a.off; ({ s with dev := d }, .ok v)
  | none, none => (s, .ok 0)
  | some c, _ => ({ s with dev := winRefuse s.dev a c }, .error c)

/-- STATUS of a sideband response (R26). -/
def sbStatus (cause : Nat) : Nat := [1, 2, 3, 4].getD cause 1

/-- A sideband response (R26). -/
def sbResponse (op : Nat) (off : Nat) (status : Nat) (data : Option Word) : List Byte :=
  bytesOf (op + 0x80) 1 ++ bytesOf off 3 ++ bytesOf status 1 ++ [0, 0, 0] ++ match data with
    | some v => bytesOf v.toNat 4
    | none => []

/-- The end of a command that is a register access. -/
def winDone (s : State) : Host.Outcome State Fault Refusal := .next { s with dev := finish s.dev }

/-- A command that writes a register: on the sideband it is answered. -/
def writeCmd (s : State) (p : Path) (off : Nat) (w : Word) (bytes : Nat := 4) : Host.Outcome State Fault Refusal :=
  if ¬ presents s.dev p then still s
  else
    let (s, c) := winWrite s { path := p, off, bytes, write := true } w
    let s := if p = .sideband then { s with dev := send s.dev (.sideband (sbResponse 2 off ((c.map sbStatus).getD 0) none)) } else s
    winDone s

/-- A command that reads a register; a refused read answers all ones, on the sideband no data. -/
def readCmd (s : State) (p : Path) (off : Nat) (bytes : Nat := 4) (slate : Option Nat := none) : Host.Outcome State Fault Refusal :=
  if ¬ presents s.dev p then still s
  else
    let (s, r) := winRead s { path := p, off, bytes, slate }
    let o : Out := match p, r with
      | .sideband, .ok v => .sideband (sbResponse 1 off 0 (some v))
      | .sideband, .error c => .sideband (sbResponse 1 off (sbStatus c) none)
      | _, .ok v => .regData p v
      | _, .error _ => .regData p 0xFFFFFFFF
    winDone { s with dev := send s.dev o }

/-! ## Sideband messages (R26, R370) -/

/-- A register message served: a request too short or with a too large OFFSET is refused first; the service address reaches the AO pages
alone. -/
def sbServe (s : State) (a : SbAddr) (body : List Byte) : State :=
  let op := (body.headD 0).toNat
  let off := ofBytes ((body.drop 1).take 3)
  let write : Bool := op = 2
  let acc : WinAcc := { path := .sideband, off := off % 2 ^ 20, write }
  let page := off % 2 ^ 20 / 4096
  let answer (s : State) (status : Nat) (v : Option Word) : State := { s with dev := send s.dev (.sideband (sbResponse op off status v)) }
  if body.length < (if write then 12 else 8) then answer { s with dev := winRefuse s.dev acc 3 } 4 none
  else if 2 ^ 20 ≤ off then answer { s with dev := winRefuse s.dev acc 2 } 3 none
  else if a = .service ∧ off % 4 = 0 ∧ (blockOf s.dev page).isSome ∧ ¬ aoPage page then answer { s with dev := winRefuse s.dev acc 1 } 2 none
  else if write then
    let (s, c) := winWrite s acc (BitVec.ofNat 32 (ofBytes ((body.drop 8).take 4)))
    answer s ((c.map sbStatus).getD 0) none
  else match winRead s acc with
    | (s, .ok v) => answer s 0 (some v)
    | (s, .error c) => answer s (sbStatus c) none

/-- A message to the sideband target: the main address of a sleeping device wakes it; a message that is no request is discarded. -/
def sbMessage (s : State) (a : SbAddr) (body : List Byte) : Host.Outcome State Fault Refusal :=
  if ¬ domOn s.dev 0 then still s
  else if a = .main ∧ s.dev.pwr.mode = .retain then done s (mainMatch s.dev)
  else if body.headD 0 = 1 ∨ body.headD 0 = 2 then winDone (sbServe s a body)
  else still s

/-- Meaning of SIDEBAND_READ (R26). -/
def execSidebandRead (a : SbAddr) (body : List Byte) (s : State) : Host.Outcome State Fault Refusal := sbMessage s a body
/-- Meaning of SIDEBAND_WRITE (R26). -/
def execSidebandWrite (a : SbAddr) (body : List Byte) (s : State) : Host.Outcome State Fault Refusal := sbMessage s a body
/-- Meaning of SIDEBAND_OTHER_OPCODE (R26). -/
def execSidebandOtherOpcode (a : SbAddr) (body : List Byte) (s : State) : Host.Outcome State Fault Refusal := sbMessage s a body

/-! ## The general accesses -/

/-- The Slate of a host's access to the window (R231): its PASID's where the tag matches, else PORT_DEF of its port. -/
def windowSlate (d : Dev) (p : Path) (pasid : Option (BitVec 20)) : Option Nat :=
  match p with
  | .host h => match pasid.bind (pasidSlate d h) with
    | some k => some k
    | none => some (fld (slateCfg d .slatePortDef h) 17 0)
  | _ => none

/-- Meaning of REGISTER_WRITE (R35). -/
def execRegisterWrite (p : Path) (off : BitVec 20) (bytes : Nat) (v : Word) (s : State) : Host.Outcome State Fault Refusal :=
  writeCmd s p off.toNat v bytes
/-- Meaning of LOW_WORD_READ (R25): a read of any register. -/
def execLowWordRead (p : Path) (off : BitVec 20) (bytes : Nat) (s : State) : Host.Outcome State Fault Refusal :=
  readCmd s p off.toNat bytes (windowSlate s.dev p none)
/-- Meaning of VIEW_PAGE_READ (R440, R441). -/
def execViewPageRead (p : Path) (slate : Option (BitVec 20)) (v : Fin 48) (off : BitVec 12) (s : State) : Host.Outcome State Fault Refusal :=
  readCmd s p ((0xD0 + v.val) * 4096 + off.toNat) 4 (windowSlate s.dev p slate)

/-! ## The header -/

/-- A write of RUN_CTL of a page. -/
def runCmd (s : State) (p : Path) (page : BitVec 8) (v bit : Word) : Host.Outcome State Fault Refusal := writeCmd s p (page.toNat * 4096 + 8) (v ||| bit)

/-- Meaning of CUT (R40). -/
def execCut (p : Path) (page : BitVec 8) (v : Word) (s : State) : Host.Outcome State Fault Refusal := runCmd s p page v 1
/-- Meaning of ACTION (R42). -/
def execAction (p : Path) (page : BitVec 8) (v : Word) (s : State) : Host.Outcome State Fault Refusal := runCmd s p page v 2
/-- Meaning of BLOCK_RESET (R43). -/
def execBlockReset (p : Path) (page : BitVec 8) (v : Word) (s : State) : Host.Outcome State Fault Refusal := runCmd s p page v 4
/-- Meaning of FENCE_REQ (R40). -/
def execFenceReq (p : Path) (page : BitVec 8) (v : Word) (s : State) : Host.Outcome State Fault Refusal := runCmd s p page v 8

/-- A write of a named register. -/
def regCmd (s : State) (p : Path) (b : Block) (n : RName) (v : Word) (i : Nat := 0) : Host.Outcome State Fault Refusal := writeCmd s p (regKey b n i) v

/-- Meaning of WIN_ERR_CLEAR (R30). -/
def execWinErrClear (p : Path) (v : Word) (s : State) : Host.Outcome State Fault Refusal := regCmd s p .pgdir .pgdirWinErr (v ||| 0x80000000)

/-! ## Stage, PACK, SEAL, COAT, DMC, DIR -/

/-- Meaning of FLUSH_CTL.START with OP 1 (R69). -/
def execFlushRange (p : Path) (q : Fin 4) (s : State) : Host.Outcome State Fault Refusal := regCmd s p (.stage q) .stageFlushCtl 0x80000001
/-- Meaning of FLUSH_CTL.START with OP 2 (R69). -/
def execCleanRange (p : Path) (q : Fin 4) (s : State) : Host.Outcome State Fault Refusal := regCmd s p (.stage q) .stageFlushCtl 0x80000002
/-- Meaning of FLUSH_CTL.START with OP 3 (R69). -/
def execFlushAll (p : Path) (q : Fin 4) (s : State) : Host.Outcome State Fault Refusal := regCmd s p (.stage q) .stageFlushCtl 0x80000003
/-- Meaning of FLUSH_CTL.START with OP 0 (R69). -/
def execFlushNone (p : Path) (q : Fin 4) (s : State) : Host.Outcome State Fault Refusal := regCmd s p (.stage q) .stageFlushCtl 0x80000000
/-- Meaning of ENG_FENCE (R124). -/
def execPackEngFence (p : Path) (q : Fin 4) (v : Word) (s : State) : Host.Outcome State Fault Refusal := regCmd s p (.pack q) .packEngFence v
/-- Meaning of RANGE_SEL (R133). -/
def execRangeSel (p : Path) (v : Word) (s : State) : Host.Outcome State Fault Refusal := regCmd s p (.seal 0) .sealRangeSel v
/-- Meaning of RANGE_CMD DEFINE (R134). -/
def execRangeDefine (p : Path) (s : State) : Host.Outcome State Fault Refusal := regCmd s p (.seal 0) .sealRangeCmd 1
/-- Meaning of RANGE_CMD CLEAR (R134). -/
def execRangeClear (p : Path) (s : State) : Host.Outcome State Fault Refusal := regCmd s p (.seal 0) .sealRangeCmd 2
/-- Meaning of RANGE_CMD RETIRE (R134). -/
def execRangeRetire (p : Path) (s : State) : Host.Outcome State Fault Refusal := regCmd s p (.seal 0) .sealRangeCmd 3
/-- Meaning of RANGE_CMD REPAINT (R134). -/
def execRangeRepaint (p : Path) (s : State) : Host.Outcome State Fault Refusal := regCmd s p (.seal 0) .sealRangeCmd 4
/-- Meaning of RANGE_CMD SET_RIGHTS (R134). -/
def execRangeSetRights (p : Path) (s : State) : Host.Outcome State Fault Refusal := regCmd s p (.seal 0) .sealRangeCmd 5
/-- Meaning of RANGE_CMD with any other OP (R134). -/
def execRangeCmdBadOp (p : Path) (op : BitVec 3) (s : State) : Host.Outcome State Fault Refusal := regCmd s p (.seal 0) .sealRangeCmd (op.setWidth 32)
/-- Meaning of PIPE_FENCE (R149). -/
def execPipeFence (p : Path) (q : Fin 4) (v : Word) (s : State) : Host.Outcome State Fault Refusal := regCmd s p (.seal q) .sealPipeFence v
/-- Meaning of a write of DEV_FAILn (R160). -/
def execDevFailWrite (p : Path) (q : Fin 4) (n : Fin 2) (v : Word) (s : State) : Host.Outcome State Fault Refusal :=
  regCmd s p (.coat q) (if n = 0 then .coatDevFail0 else .coatDevFail1) v
/-- Meaning of REGION_SEL (R162). -/
def execRegionSel (p : Path) (v : Word) (s : State) : Host.Outcome State Fault Refusal := regCmd s p (.coat 0) .coatRegionSel v
/-- Meaning of REGION_CMD.SET (R162). -/
def execRegionSet (p : Path) (v : Word) (s : State) : Host.Outcome State Fault Refusal := regCmd s p (.coat 0) .coatRegionCmd (v ||| 1)
/-- Meaning of FLIP_CTL with ARM 1 (R180). -/
def execFlipArm (p : Path) (q : Fin 4) (v : Word) (s : State) : Host.Outcome State Fault Refusal := regCmd s p (.coat q) .coatFlipCtl (v ||| 0x80000000)
/-- Meaning of FLIP_CTL with ARM 0 (R180). -/
def execFlipDisarm (p : Path) (q : Fin 4) (v : Word) (s : State) : Host.Outcome State Fault Refusal := regCmd s p (.coat q) .coatFlipCtl (v &&& 0x7FFFFFFF)
/-- Meaning of SUB_FENCE (R196). -/
def execSubFence (p : Path) (c : Fin 16) (v : Word) (s : State) : Host.Outcome State Fault Refusal := regCmd s p (.dmc c) .dmcSubFence v
/-- Meaning of PROBE_CTL.START (R226). -/
def execDirProbe (p : Path) (q : Fin 4) (v : Word) (s : State) : Host.Outcome State Fault Refusal := regCmd s p (.dir q) .dirProbeCtl (v ||| 1)

/-! ## SLATE, NME -/

/-- Meaning of CTX_CMD OP 1 (R234). -/
def execCtxLoad (p : Path) (s : State) : Host.Outcome State Fault Refusal := regCmd s p .slate .slateCtxCmd 1
/-- Meaning of CTX_CMD OP 2 (R234). -/
def execCtxWriteWord3 (p : Path) (s : State) : Host.Outcome State Fault Refusal := regCmd s p .slate .slateCtxCmd 2
/-- Meaning of CTX_CMD OP 3 (R234). -/
def execCtxWriteRights (p : Path) (s : State) : Host.Outcome State Fault Refusal := regCmd s p .slate .slateCtxCmd 3
/-- Meaning of CTX_CMD OP 0 (R234). -/
def execCtxCmdOp0 (p : Path) (s : State) : Host.Outcome State Fault Refusal := regCmd s p .slate .slateCtxCmd 0
/-- Meaning of FB_CMD OP 1 (R234). -/
def execFbLoad (p : Path) (s : State) : Host.Outcome State Fault Refusal := regCmd s p .slate .slateFbCmd 1
/-- Meaning of FB_CMD OP 2 (R234). -/
def execFbWrite (p : Path) (s : State) : Host.Outcome State Fault Refusal := regCmd s p .slate .slateFbCmd 2
/-- Meaning of FB_CMD OP 0 or 3 (R234). -/
def execFbCmdBadOp (p : Path) (op : BitVec 2) (s : State) : Host.Outcome State Fault Refusal := regCmd s p .slate .slateFbCmd (op.setWidth 32)
/-- Meaning of DOORBELL (R248, R249). -/
def execDoorbell (p : Path) (q : Fin 4) (i : BitVec 8) (v : Word) (s : State) : Host.Outcome State Fault Refusal := regCmd s p (.nme q) .nmeDoorbell v i.toNat
/-- Meaning of RING_CMD LOAD (R263). -/
def execRingLoad (p : Path) (q : Fin 4) (s : State) : Host.Outcome State Fault Refusal := regCmd s p (.nme q) .nmeRingCmd 1
/-- Meaning of RING_CMD ENABLE (R263). -/
def execRingEnable (p : Path) (q : Fin 4) (s : State) : Host.Outcome State Fault Refusal := regCmd s p (.nme q) .nmeRingCmd 2
/-- Meaning of RING_CMD DISABLE (R263). -/
def execRingDisable (p : Path) (q : Fin 4) (s : State) : Host.Outcome State Fault Refusal := regCmd s p (.nme q) .nmeRingCmd 3
/-- Meaning of RING_CMD RESUME (R263). -/
def execRingResume (p : Path) (q : Fin 4) (s : State) : Host.Outcome State Fault Refusal := regCmd s p (.nme q) .nmeRingCmd 4
/-- Meaning of RING_CMD SET_OWNER (R263). -/
def execRingSetOwner (p : Path) (q : Fin 4) (s : State) : Host.Outcome State Fault Refusal := regCmd s p (.nme q) .nmeRingCmd 5

/-! ## Links, worlds -/

/-- Meaning of HIST_CTL.START (R280). -/
def execHistStart (p : Path) (b : Fin 8) (v : Word) (s : State) : Host.Outcome State Fault Refusal := regCmd s p (.hpt b) .hptHistCtl (v ||| 0x80000000)
/-- Meaning of WIDTH_CTL.RETRAIN (R304): the mask stays as it is. -/
def execWidthCtlRetrain (p : Path) (b : Fin 8) (s : State) : Host.Outcome State Fault Refusal :=
  regCmd s p (.mwl b) .mwlWidthCtl (0x40000000 ||| (rget s.dev (.mwl b) .mwlWidthCtl &&& 0xFF))
/-- Meaning of WIDTH_CTL.REQ (R304). -/
def execWidthCtlReq (p : Path) (b : Fin 8) (mask : BitVec 8) (s : State) : Host.Outcome State Fault Refusal :=
  regCmd s p (.mwl b) .mwlWidthCtl (0x80000000 ||| mask.setWidth 32)
/-- Meaning of a write of LIFECYCLE (R344). -/
def execLifecycleAdvance (p : Path) (v : Word) (s : State) : Host.Outcome State Fault Refusal := regCmd s p .seci .seciLifecycle v
/-- Meaning of DEBUG_EN.RELOCK (R345). -/
def execRelock (p : Path) (v : Word) (s : State) : Host.Outcome State Fault Refusal := regCmd s p .seci .seciDebugEn (v ||| 0x100)
/-- Meaning of a write of CLAIM (R349). -/
def execClaim (p : Path) (v : Word) (s : State) : Host.Outcome State Fault Refusal := regCmd s p .seci .seciClaim v
/-- Meaning of CORE_RELEASE (R333). -/
def execCoreRelease (p : Path) (v : Word) (s : State) : Host.Outcome State Fault Refusal := regCmd s p .seci .seciCoreRelease v
/-- Meaning of TEST_EN (R355). -/
def execTestEn (p : Path) (v : Word) (s : State) : Host.Outcome State Fault Refusal := regCmd s p .seci .seciTestEn v
/-- Meaning of WDOG_KICK (R352). -/
def execWdogKick (p : Path) (v : Word) (s : State) : Host.Outcome State Fault Refusal := regCmd s p .mgt .mgtWdogKick (v ||| 1)

/-! ## Power -/

/-- A domain request (R358). -/
def domCmd (s : State) (p : Path) (dom : BitVec 5) (op : Nat) : Host.Outcome State Fault Refusal := regCmd s p .pwr .pwrDomReq (packW [(0, dom.toNat), (5, op)])
/-- Meaning of DOM_REQ, power on (R358). -/
def execDomainPowerOn (p : Path) (d : BitVec 5) (s : State) : Host.Outcome State Fault Refusal := domCmd s p d 0
/-- Meaning of DOM_REQ, power off (R357, R358). -/
def execDomainPowerOff (p : Path) (d : BitVec 5) (s : State) : Host.Outcome State Fault Refusal := domCmd s p d 1
/-- Meaning of DOM_REQ, clock stop (R357, R358). -/
def execDomainClockStop (p : Path) (d : BitVec 5) (s : State) : Host.Outcome State Fault Refusal := domCmd s p d 2
/-- Meaning of DOM_REQ, clock start (R358). -/
def execDomainClockStart (p : Path) (d : BitVec 5) (s : State) : Host.Outcome State Fault Refusal := domCmd s p d 3
/-- A mode request (R359). -/
def modeCmd (s : State) (p : Path) (req sub : Nat) : Host.Outcome State Fault Refusal := regCmd s p .pwr .pwrModeReq (packW [(0, req), (4, sub)])
/-- Meaning of MODE_REQ REQ 0 (R360). -/
def execSubStateSet (p : Path) (sub : BitVec 2) (s : State) : Host.Outcome State Fault Refusal := modeCmd s p 0 sub.toNat
/-- Meaning of MODE_REQ REQ 1 (R359). -/
def execLeaveMaintain (p : Path) (s : State) : Host.Outcome State Fault Refusal := modeCmd s p 1 0
/-- Meaning of MODE_REQ REQ 3 (R361). -/
def execMaintainRequest (p : Path) (s : State) : Host.Outcome State Fault Refusal := modeCmd s p 3 0
/-- Meaning of MODE_REQ REQ 4 (R367). -/
def execRetainRequest (p : Path) (s : State) : Host.Outcome State Fault Refusal := modeCmd s p 4 0
/-- Meaning of MODE_REQ REQ 5 (R359). -/
def execFactoryRequest (p : Path) (s : State) : Host.Outcome State Fault Refusal := modeCmd s p 5 0
/-- Meaning of a MODE_REQ that is not allowed, REQ 2, 6 and 7 among them (R359). -/
def execModeReqNotAllowed (p : Path) (req : BitVec 3) (s : State) : Host.Outcome State Fault Refusal := modeCmd s p req.toNat 0
/-- Meaning of WAKE_STAT.RETRY (R371), written over the sideband. -/
def execWakeRetry (a : SbAddr) (s : State) : Host.Outcome State Fault Refusal :=
  sbMessage s a (bytesOf 2 1 ++ bytesOf (regKey .pwr .pwrWakeStat 0) 3 ++ bytesOf 0 4 ++ bytesOf 0x80000000 4)
/-- Meaning of PAD_RELEASE (R372). -/
def execPadRelease (p : Path) (v : Word) (s : State) : Host.Outcome State Fault Refusal := regCmd s p .pwr .pwrPadRelease v
/-- Meaning of a write of TIME.SET_HI (R373). -/
def execTimeSet (p : Path) (v : Word) (s : State) : Host.Outcome State Fault Refusal := regCmd s p .time .timeSetHi v

/-! ## Feed, Continuity, Dailies -/

/-- Meaning of CTL.CLEAR_LATCH (R383). -/
def execClearLatch (p : Path) (v : Word) (s : State) : Host.Outcome State Fault Refusal := regCmd s p .feed .feedCtl (v ||| 1)
/-- Meaning of CTL.ENERGY_CLR (R386). -/
def execEnergyClr (p : Path) (v : Word) (s : State) : Host.Outcome State Fault Refusal := regCmd s p .feed .feedCtl (v ||| 2)
/-- Meaning of INJ with ARM (R405). -/
def execSourceInject (p : Path) (v : Word) (s : State) : Host.Outcome State Fault Refusal := regCmd s p .flt .fltInj (v ||| 0x80000000)
/-- Meaning of FE_CTL.CLEAR (R403). -/
def execFirstErrorClear (p : Path) (v : Word) (s : State) : Host.Outcome State Fault Refusal := regCmd s p .flt .fltFeCtl (v ||| 1)
/-- Meaning of a write of LATCHED (R403). -/
def execLatchedClear (p : Path) (w : Fin 16) (v : Word) (s : State) : Host.Outcome State Fault Refusal := regCmd s p .flt .fltLatched v w
/-- Meaning of RESET_CTL.WARM (R412). -/
def execWarmReset (p : Path) (v : Word) (s : State) : Host.Outcome State Fault Refusal := regCmd s p .flt .fltResetCtl (v ||| 1)
/-- Meaning of RESET_CTL.COLD (R411). -/
def execColdReset (p : Path) (v : Word) (s : State) : Host.Outcome State Fault Refusal := regCmd s p .flt .fltResetCtl (v ||| 2)
/-- Meaning of SNAP_CTL.SNAP (R438). -/
def execSnap (p : Path) (v : Word) (s : State) : Host.Outcome State Fault Refusal := regCmd s p (.daily 0) .daily0SnapCtl (v ||| 1)

/-! ## Pace monitors (R14 to R16) -/

/-- The PACE register of a monitor: 0 to 3 the quadrants, 4 the crossbar. -/
def paceBlock (m : Nat) : Block := if m < 4 then .qctl m else .xbar

/-- The core cycle time of a window in ps, rounded to the nearest; which way a tie goes, and what stands for a count without a value that
fits, is free. -/
def paceCycle (count free : Nat) : Nat :=
  if count = 0 then free % 2 ^ 16
  else
    let n := 1000000 / count
    let r := 1000000 % count
    let n := if 2 * r = count then n + free % 2 else if count < 2 * r then n + 1 else n
    if n < 2 ^ 16 then n else free % 2 ^ 16

/-- Meaning of PACE_WINDOW_END (R14, R16). -/
def execPaceWindowEnd (m : Fin 5) (count : Nat) (s : State) : Host.Outcome State Fault Refusal :=
  let b := paceBlock m
  doneIf s (domOn s.dev b.domain && domOn s.dev 3) fun d =>
    rput (bumpFree d) b .pace (packW [(0, paceCycle count (Config.free (fresh d))), (31, 1)])

/-! ## The debug path's DPA reads (R146, R343) -/

/-- Meaning of DEBUG_DPA_READ: without the normal non-invasive enable, or without DEBUG_RD, all-ones words and the error flag. -/
def execDebugDpaRead (dpa : Dpa) (s : State) : Host.Outcome State Fault Refusal :=
  let line := dpa.toNat / 64
  let page := pageOfLine line
  let mode := s.dev.pwr.mode
  let up : Bool := domOn s.dev 3 && domOn s.dev (4 + homeOf page) && (mode = .service || mode = .degraded || mode = .maintain)
  doneIf s up fun d =>
    if limitPages d (homeOf page) ≤ page then send d (.debugData (BitVec.allOnes 512) true)
    else if ¬ (enables s.life).getLsbD 0 then send (accessRefused d page 3 0 0) (.debugData (BitVec.allOnes 512) true)
    else enterHome { d with nextId := d.nextId + 1 }
      { id := d.nextId, src := .debug, kind := .rc, op := .read, line, agent := 24, slate := 2 ^ 18, heatW := 0 }

end Sys2Proof.Machine
end

