-- ==== Sys2Proof/Machine/Mailbox.lean ====
section
/-! DEFINITION. The memory-device mailbox of a head (R276): event logs, firmware, time, logs, identity and health, poison, Dynamic
Capacity. Command opcodes, return codes and the contents that the spec leaves to CXL 3.1 are PRESUMED from CXL 3.1. -/

namespace Sys2Proof.Machine

/-! ## Serving a command -/

/-- Whether the mailbox of a port serves commands: its link is up, the management complex powered, and no activation holds the cores
(R362). -/
def mbServed (d : Dev) (p : Nat) : Bool :=
  (port d p).up && domOn d 1 && !(d.pwr.activating.isSome && d.pwr.mode = .maintain)

/-- A mailbox answer. -/
def mbAnswer (d : Dev) (p opcode : Nat) (a : MbAns) (code : Nat := 0) : Dev := send d (.mailbox (Fin.ofNat 16 p) opcode code a)

/-- A mailbox command that changes only the device. -/
def mbDo (s : State) (p : Nat) (f : Dev → Dev) : Host.Outcome State Fault Refusal := doneIf s (mbServed s.dev p) f

/-- A head's mailbox state. -/
def head (d : Dev) (p : Nat) : Head := tabGet {} d.heads p
/-- Change it. -/
def headMod (d : Dev) (p : Nat) (f : Head → Head) : Dev := { d with heads := tabMod {} d.heads p f }

/-! ## Events -/

/-- Meaning of Get Event Records (R276). -/
def execGetEventRecords (p : Fin 16) (log : Fin 5) (s : State) : Host.Outcome State Fault Refusal :=
  mbDo s p fun d => mbAnswer d p 0x0100 (.records ((head d p).logs.getD log []) ((head d p).lost.getD log 0))

/-- Clear records of a log: all, or those of the handles, which must be its oldest, oldest first. The count of lost records restarts. -/
def clearRecords (d : Dev) (p log : Nat) (handles : Option (List Nat)) : Dev :=
  let l := (head d p).logs.getD log []
  let put (l : List EvRec) : Dev := headMod d p fun h => { h with logs := h.logs.set log l, lost := h.lost.set log 0 }
  match handles with
  | none => mbAnswer (put []) p 0x0101 .none
  | some hs => if (l.take hs.length).map (·.handle) = hs then mbAnswer (put (l.drop hs.length)) p 0x0101 .none
    else mbAnswer d p 0x0101 .none 0xE

/-- Meaning of Clear Event Records (R276). -/
def execClearEventRecords (p : Fin 16) (log : Fin 5) (handles : Option (List Nat)) (s : State) : Host.Outcome State Fault Refusal :=
  mbDo s p fun d => clearRecords d p log handles
/-- Meaning of Get Event Interrupt Policy (R276). -/
def execGetEventInterruptPolicy (p : Fin 16) (s : State) : Host.Outcome State Fault Refusal :=
  mbDo s p fun d => mbAnswer d p 0x0102 (.bytes (head d p).policy)
/-- Meaning of Set Event Interrupt Policy (R276). -/
def execSetEventInterruptPolicy (p : Fin 16) (policy : List Byte) (s : State) : Host.Outcome State Fault Refusal :=
  mbDo s p fun d => mbAnswer (headMod d p fun h => { h with policy }) p 0x0103 .none

/-! ## Firmware (R276, R348, R362) -/

/-- Meaning of Get FW Info: the copies that run and those the boot flags name; Unsupported from a head the site profile does not name. -/
def execGetFwInfo (p : Fin 16) (s : State) : Host.Outcome State Fault Refusal :=
  mbDo s p fun d =>
    let f := rget d .mgt .mgtFwStat
    if (head d p).fwOk then mbAnswer d p 0x0200 (.firmware (bitOf f 0) (bitOf f 1) (d.bootFlag.getLsbD 0) (d.bootFlag.getLsbD 1))
    else mbCode d p 0x0200 3

/-- Transfer FW: the first part starts a transfer into the copy that does not run. Busy while another head's is incomplete. -/
def transferFw (d : Dev) (p : Nat) (secure last : Bool) (n : Nat) : Dev :=
  let start : Dev := mbCode { d with fwXfer := some { head := p, secure, bytes := n, complete := last } } p 0x0201 0
  if ¬ (head d p).fwOk then mbCode d p 0x0201 3
  else match d.fwXfer with
    | none => start
    | some x =>
      if x.complete then start
      else if x.head ≠ p then mbCode d p 0x0201 6
      else mbCode { d with fwXfer := some { x with secure, bytes := x.bytes + n, complete := last } } p 0x0201 0

/-- Meaning of Transfer FW (R276, R348). -/
def execTransferFw (p : Fin 16) (secureImage last : Bool) (chunk : List Byte) (s : State) : Host.Outcome State Fault Refusal :=
  mbDo s p fun d => transferFw d p secureImage last chunk.length

/-- Activate FW (R348, R362): a copy that does not verify is not activated. A normal image enters Maintain; the command completes when
the new firmware writes REQ 1. A secure image takes effect at the next reset. -/
def activateFw (d : Dev) (p : Nat) (verifies : Bool) : Dev :=
  let f := rget d .mgt .mgtFwStat
  let secure : Bool := match d.fwXfer with
    | some x => x.secure
    | none => false
  let incomplete : Bool := match d.fwXfer with
    | some x => !x.complete
    | none => false
  let flag (i : Nat) : BitVec 2 :=
    let m : BitVec 2 := BitVec.ofNat 2 (2 ^ i)
    if bitOf f i then d.bootFlag &&& ~~~m else d.bootFlag ||| m
  if ¬ (head d p).fwOk then mbCode d p 0x0202 3
  else if incomplete then mbCode d p 0x0202 8
  else if ¬ verifies then mbCode d p 0x0202 2
  else if secure then mbCode { d with fwXfer := none, bootFlag := flag 0 } p 0x0202 0
  else if ¬ inService d ∨ d.pwr.req.isSome ∨ d.pwr.activating.isSome then mbCode d p 0x0202 6
  else stopIntake { d with fwXfer := none, bootFlag := flag 1, pwr := { d.pwr with activating := some p } } .maintain

/-- Meaning of Activate FW (R276, R348, R362). -/
def execActivateFw (p : Fin 16) (verifies : Bool) (s : State) : Host.Outcome State Fault Refusal :=
  mbDo s p fun d => activateFw d p verifies

/-! ## Time, logs, identity, health -/

/-- Meaning of Get Timestamp (R276). -/
def execGetTimestamp (p : Fin 16) (s : State) : Host.Outcome State Fault Refusal := mbDo s p fun d => mbAnswer d p 0x0300 (.time d.pwr.now)
/-- Meaning of Set Timestamp (R276, R373). -/
def execSetTimestamp (p : Fin 16) (ns : DWord) (s : State) : Host.Outcome State Fault Refusal :=
  mbDo s p fun d => mbAnswer (timeLoad d ns) p 0x0301 .none

/-- The opcodes that the mailbox implements (R276). -/
def mbOpcodes : List Nat :=
  [0x0100, 0x0101, 0x0102, 0x0103, 0x0200, 0x0201, 0x0202, 0x0300, 0x0301, 0x0400, 0x0401, 0x4000, 0x4100, 0x4200, 0x4201, 0x4202,
   0x4300, 0x4301, 0x4302, 0x4800, 0x4801, 0x4802, 0x4803]

/-- Meaning of Get Supported Logs (R276). -/
def execGetSupportedLogs (p : Fin 16) (s : State) : Host.Outcome State Fault Refusal := mbDo s p fun d => mbAnswer d p 0x0400 .logs
/-- Meaning of Get Log (R276): the Command Effects Log alone exists. -/
def execGetLog (p : Fin 16) (cel : Bool) (s : State) : Host.Outcome State Fault Refusal :=
  mbDo s p fun d => if cel then mbAnswer d p 0x0401 (.effects mbOpcodes) else mbAnswer d p 0x0401 .none 2

/-- Meaning of Identify Memory Device (R276). -/
def execIdentifyMemoryDevice (p : Fin 16) (s : State) : Host.Outcome State Fault Refusal :=
  mbDo s p fun d => mbAnswer d p 0x4000 (.identity Config.staticExtents Config.identity)
/-- Meaning of Get Partition Info (R276). -/
def execGetPartitionInfo (p : Fin 16) (s : State) : Host.Outcome State Fault Refusal :=
  mbDo s p fun d => mbAnswer d p 0x4100 (.capacity Config.staticExtents)
/-- Meaning of Get Health Info (R276). -/
def execGetHealthInfo (p : Fin 16) (s : State) : Host.Outcome State Fault Refusal :=
  mbDo s p fun d => mbAnswer (bumpFree d) p 0x4200 (.health (decide (d.pwr.mode = .degraded)) (Config.free (fresh d)))
/-- Meaning of Get Alert Configuration (R276): the settings last written, then what CXL 3.1 leaves to the device. -/
def execGetAlertConfiguration (p : Fin 16) (s : State) : Host.Outcome State Fault Refusal :=
  mbDo s p fun d => mbAnswer (bumpFree d) p 0x4201 (.bytes ((head d p).alerts ++ bytesOf (Config.free (fresh d)) 16))
/-- Meaning of Set Alert Configuration (R276). -/
def execSetAlertConfiguration (p : Fin 16) (cfg : List Byte) (s : State) : Host.Outcome State Fault Refusal :=
  mbDo s p fun d => mbAnswer (headMod d p fun h => { h with alerts := cfg }) p 0x4202 .none

/-! ## Poison (R169, R170, R276) -/

/-- Meaning of Get Poison List (R169, R170). -/
def execGetPoisonList (p : Fin 16) (s : State) : Host.Outcome State Fault Refusal :=
  mbDo s p fun d => mbAnswer d p 0x4300 (.poison d.poison d.poisonOverflow d.poisonLost)

/-- A poison command on a line: it needs an address of the head's capacity and its rights (R146), which it is refused without as any
access; `f` does it. -/
def poisonCmd (d : Dev) (p opcode page : Nat) (f : Dev → Dev) : Dev :=
  if outsideCapacity d p page then mbCode d p opcode 0xF
  else if ¬ hostRight d p page then mbCode (accessRefused d page 0 p 0) p opcode 0xF
  else if quadFenced d (homeOf page) then mbCode d p opcode 4
  else mbCode (f d) p opcode 0

/-- Meaning of Inject Poison (R169, R276). -/
def execInjectPoison (p : Fin 16) (dpa : Dpa) (s : State) : Host.Outcome State Fault Refusal :=
  let line := dpa.toNat / 64
  mbDo s p fun d => poisonCmd d p 0x4301 (pageOfLine line) fun d => (poisonLine d line .injected).1
/-- Meaning of Clear Poison (R168, R276): a full-line write of the supplied data. -/
def execClearPoison (p : Fin 16) (dpa : Dpa) (data : Line) (s : State) : Host.Outcome State Fault Refusal :=
  let line := dpa.toNat / 64
  mbDo s p fun d => poisonCmd d p 0x4302 (pageOfLine line) fun d => ioLine d p 0 none {} .wr (.write data) line 0 64

/-! ## Dynamic Capacity (R85, R86, R276) -/

/-- Meaning of Get Dynamic Capacity Configuration (R276): region 0, in blocks of 1 GiB. -/
def execGetDynamicCapacityConfiguration (p : Fin 16) (s : State) : Host.Outcome State Fault Refusal :=
  mbDo s p fun d =>
    mbAnswer d p 0x4800 (.region Config.staticExtents (rfld d (.map 0) .mapLimit 15 0 - Config.staticExtents) (2 ^ 30))
/-- Meaning of Get Dynamic Capacity Extent List (R276). -/
def execGetDynamicCapacityExtentList (p : Fin 16) (s : State) : Host.Outcome State Fault Refusal :=
  mbDo s p fun d => mbAnswer d p 0x4801 (.extents ((d.cap.granted.filter fun e => e.2 = p.val).map (·.1)))

/-- A host accepts an extent on offer to it (R85). -/
def acceptExtent (d : Dev) (p extent : Nat) : Dev :=
  if d.cap.offers.contains (extent, p) then
    let c := { d.cap with offers := d.cap.offers.filter fun e => e ≠ (extent, p), granted := d.cap.granted ++ [(extent, p)] }
    mbCode (raiseEvent { d with cap := c } (.dolly 1) 1) p 0x4802 0
  else mbCode d p 0x4802 0xF

/-- Meaning of Add Dynamic Capacity Response (R85). -/
def execAddDynamicCapacityResponse (p : Fin 16) (extent : BitVec 15) (s : State) : Host.Outcome State Fault Refusal :=
  mbDo s p fun d => acceptExtent d p extent.toNat

/-- A host releases an extent granted to it (R86). -/
def giveBack (d : Dev) (p extent : Nat) : Dev :=
  if d.cap.granted.contains (extent, p) then mbCode (releaseEnded (releaseExtent d extent) p) p 0x4803 0
  else mbCode d p 0x4803 0xF

/-- Meaning of Release Dynamic Capacity (R86). -/
def execReleaseDynamicCapacity (p : Fin 16) (extent : BitVec 15) (s : State) : Host.Outcome State Fault Refusal :=
  mbDo s p fun d => giveBack d p extent.toNat

/-! ## Unsupported (R276) -/

/-- Meaning of Sanitize (R276). -/
def execSanitize (p : Fin 16) (s : State) : Host.Outcome State Fault Refusal := mbDo s p fun d => mbCode d p 0x4400 3
/-- Meaning of Secure Erase (R276). -/
def execSecureErase (p : Fin 16) (s : State) : Host.Outcome State Fault Refusal := mbDo s p fun d => mbCode d p 0x4401 3
/-- Meaning of an opcode that R276 does not list. -/
def execUnsupportedOpcode (p : Fin 16) (opcode : BitVec 16) (s : State) : Host.Outcome State Fault Refusal :=
  mbDo s p fun d => mbCode d p opcode.toNat 3

end Sys2Proof.Machine
end

