-- ==== Sys2Proof/Machine/Boot.lean ====
section
/-! DEFINITION. Boot (21): the steps of R446 and their ends, the images (R347), the site profile (R444, R445, R448), the DIMM population (R185),
memory active (R449) and a stopped Boot (R451). -/

namespace Sys2Proof.Machine

/-! ## Steps -/

/-- BOOT_STAT.STEP. -/
def bootStep (d : Dev) : Nat := rfld d .sbi .sbiBootStat 3 0
/-- BOOT_STAT.WARM. -/
def bootWarm (d : Dev) : Bool := (rget d .sbi .sbiBootStat).getLsbD 5
/-- The next step starts. -/
def bootTo (d : Dev) (step : Nat) : Dev := rputFld d .sbi .sbiBootStat 3 0 step
/-- The time since Boot began, in milliseconds: by the time counter, or by the AO ticks while XB is off. -/
def bootMs (d : Dev) : Nat := (if domOn d 3 then (d.pwr.now - d.boot.began).toNat else aoElapsed d) / 1000000
/-- Memory active or a stop shows the time of Boot. -/
def bootTimed (d : Dev) : Dev := rput d .sbi .sbiBootMs (BitVec.ofNat 32 (bootMs d))
/-- Boot stops (R451). -/
def bootStop (d : Dev) (code detail : Nat) : Dev :=
  let d := rputFld (rputFld d .sbi .sbiBootStat 4 4 1) .sbi .sbiBootStat 15 8 code
  bootTimed (rput d .sbi .sbiBootDetail (BitVec.ofNat 32 detail))

/-- Whether a step of Boot runs: the mode is Boot, nothing has stopped it, and no flush takes the device elsewhere. -/
def bootRuns (d : Dev) : Bool :=
  decide (d.pwr.mode = .boot) && d.boot.active && !(rget d .sbi .sbiBootStat).getLsbD 4 && !d.pwr.holdUp && d.pwr.warm.isNone

/-! ## Steps 1 to 3 -/

/-- Step 1: the hold-up area is read (R452); the warm path skips step 2 while POWER_GOOD is high (R448). -/
def bootFirst (s : State) : Dev :=
  bootTo (readHoldArea s.dev) (if bootWarm s.dev ∧ s.feed.powerGood then 3 else 2)

/-- Step 2: feed insertion (R383). -/
def bootFeed (s : State) : Dev :=
  if s.feed.st = 6 then bootStop s.dev 1 (feedStat s.feed).toNat
  else if s.feed.powerGood then bootTo s.dev 3 else s.dev

/-- Step 3: MG, SI and XB come on, and the boot ROM starts. -/
def bootSupply (s : State) : State :=
  let d := { s.dev with pwr := { s.dev.pwr with vrEn := true } }
  { s with dev := bootTo (domainOn (domainOn (domainOn d 1) 2) 3) 4, life := lifeReset s.life }

/-! ## Step 4: the images (R347) -/

/-- The copy that runs: the one the boot flag names (true for B), else the other one; and whether it was a fallback. -/
def imagePick (flag rejA rejB : Bool) : Option (Bool × Bool) :=
  let rej (b : Bool) : Bool := if b then rejB else rejA
  if ¬ rej flag then some (flag, false) else if ¬ rej !flag then some (!flag, true) else none

/-- A rejected first choice is shown and raised. -/
def imageFell (d : Dev) (fell : Bool) : Dev := if fell then raise0 (rputFld d .mgt .mgtFwStat 2 2 1) .seci 2 else d

/-- Step 4: no firmware runs in Decommissioned (R344). Both images are verified, and the normal cores released. -/
def bootImages (s : State) (secA secB normA normB : Bool) (svn : BitVec 16) : State :=
  if s.life.state = 3 then s
  else match imagePick (s.dev.bootFlag.getLsbD 0) secA secB with
    | none => { s with dev := bootStop (imageFell s.dev true) 3 1 }
    | some (sec, f1) =>
      let d := imageFell (rputFld s.dev .mgt .mgtFwStat 0 0 (b2n sec)) f1
      match imagePick (d.bootFlag.getLsbD 1) normA normB with
      | none => { s with dev := bootStop (imageFell d true) 3 2 }
      | some (norm, f2) =>
        let d := imageFell (rputFld (rputFld d .mgt .mgtFwStat 1 1 (b2n norm)) .mgt .mgtFwStat 31 16 svn.toNat) f2
        coreReleaseWrite { s with dev := bootTo d 5 } 0xE

/-! ## Step 5: the site profile (R444, R445, R448) -/

/-- The copy in force: the valid one with the higher SEQ, A on a tie. True stands for B. -/
def profilePick (a b : ProfileCopy) : Option (ProfileCopy × Bool) :=
  match a.valid, b.valid with
  | true, true => if a.seq.toNat < b.seq.toNat then some (b, true) else some (a, false)
  | true, false => some (a, false)
  | false, true => some (b, true)
  | false, false => none

/-- The Marwen personality of a brick, as the last item that names it says; a brick the profile does not name is a host brick (R268). -/
def profileMarwen (items : List ProfileItem) : BitVec 8 :=
  items.foldl (fun m i => match i with
    | .personality b mw => let bit : BitVec 8 := BitVec.ofNat 8 (2 ^ b.val); if mw then m ||| bit else m &&& ~~~bit
    | _ => m) 0

/-- The region table of a profile (R161). -/
def profileRegions (items : List ProfileItem) : Tab (Bool × Bool) :=
  items.foldl (fun t i => match i with
    | .region x skim lined => tabPut (false, false) t x.toNat (skim, lined)
    | _ => t) []

/-- One setting is loaded (R445). Registers are written by the secure world; personalities and regions have been read before. -/
def profileItem (s : State) (i : ProfileItem) : State :=
  let d := s.dev
  match i with
  | .reg _ off v => match blockOf d (off.toNat / 4096) with
    | some b => writeAt s .secure b off.toNat v
    | none => s
  | .fwHead p => { s with dev := { d with heads := tabMod {} d.heads p fun h => { h with fwOk := true } } }
  | .slateCtx k v => { s with dev := { d with ctxs := tabPut 0 d.ctxs k.toNat v, ctxBad := d.ctxBad.filter (· ≠ k.toNat) } }
  | .fallback k base len slate =>
    let v : BitVec 96 := base.setWidth 96 ||| (len.setWidth 96 <<< 32) ||| (slate.setWidth 96 <<< 64)
    { s with dev := { d with fbs := tabPut 0 d.fbs k.toNat v } }
  | .memTimeout c => { s with dev := (List.range 16).foldl (fun d p => portMod d p fun x => { x with memTimeout := c.toNat }) d }
  | .personality _ _ | .region _ _ _ => s

/-- The device as the load finds it: personalities in force, layouts at their reset value, no head allowed to transfer firmware,
every domain on, and the feed controller's page Cut. -/
def profileBefore (d : Dev) (items : List ProfileItem) : Dev :=
  let d := { d with marwen := profileMarwen items, heads := (List.range 16).foldl (fun t p => tabMod {} t p fun h => { h with fwOk := false }) d.heads }
  let d := (List.range 16).foldl (fun d i => domainOn d (i + 4)) d
  let d := (List.range 8).foldl (fun d b => if d.marwen.getLsbD b then d else rput d (.hpt b) .hptCfg (resetAt .hptCfg 0)) d
  if (pget d .feed).run = .rolling then pmod d .feed fun p => { p with run := .cut } else d

/-- MAP.LIMIT is loaded once and shown by every quadrant's MAP page. -/
def limitSpread (d : Dev) : Dev := [1, 2, 3].foldl (fun d q => rput d (.map q) .mapLimit (rget d (.map 0) .mapLimit)) d

/-- Whether the layouts agree with R269. -/
def layoutOk (d : Dev) (b : Nat) : Bool :=
  let host (b : Nat) : Bool := decide (b < 8) && !d.marwen.getLsbD b
  let split (b : Nat) : Nat := fld (storedReg d (.hpt b) .hptCfg 0) 1 0
  !host b || match split b with
    | 2 => decide (b % 2 = 0) && host (b + 1) && decide (split (b + 1) = 3)
    | 3 => decide (b % 2 = 1) && host (b - 1) && decide (split (b - 1) = 2)
    | _ => true

/-- Whether two DB windows have no frame in common. -/
def dbApart (d : Dev) (i j : Nat) : Bool :=
  let base (i : Nat) : Word := storedReg d (.dir 0) .dirDbWinBase i
  let len (i : Nat) : Nat := fld (storedReg d (.dir 0) .dirDbWinLen i) 24 0
  let lo (i : Nat) : Nat := fld (base i) 23 0
  !(base i).getLsbD 31 || !(base j).getLsbD 31 || decide (lo i + len i ≤ lo j) || decide (lo j + len j ≤ lo i)

/-- A fall-back entry as FB_CMD checks it (R232). -/
def fallbackOk (d : Dev) (v : BitVec 96) : Bool :=
  !v.getLsbD 31 || (decide (0 < v.toNat / 2 ^ 32 % 2 ^ 25) && decide (v.toNat % 2 ^ 24 + v.toNat / 2 ^ 32 % 2 ^ 25 ≤ limitPages d 0 / 512))

/-- The rows of R445 whose check fails once everything is loaded. On the warm path the region table, MAP.LIMIT and CAL.AREA must be
those in force before (R448). -/
def profileBad (d : Dev) (c : ProfileCopy) : List Nat :=
  let addr := rget d .sbi .sbiAddr
  let limit := rget d (.map 0) .mapLimit
  let moved (f : Word × Word → Bool) : Bool := bootWarm d && match d.profileWas with
    | some w => f w
    | none => false
  let row (n : Nat) : Bool := match n with
    | 1 => fld addr 6 0 = fld addr 14 8
    | 2 => !(List.range 8).all (layoutOk d)
    | 4 => decide (32768 < fld limit 15 0) || moved fun w => w.1 ≠ limit
    | 5 => bootWarm d && decide (d.regions ≠ profileRegions c.items)
    | 6 => !(List.range 16).all fun i => (List.range i).all fun j => dbApart d i j
    | 8 => !actionOk d .feed
    | 9 => moved fun w => w.2 ≠ rget d .cal .calArea
    | 12 => !(d.fbs.all fun e => fallbackOk d e.2)
    | _ => false
  (List.range 13).filter fun n => row n || c.badRow = some n

/-- The pages of some domains that are Cut go Rolling, those that pass their checks. -/
def restart (d : Dev) (doms : List Nat) : Dev :=
  (List.range 256).foldl (fun d p => match blockAt d.marwen p with
    | some b => if b.caps.1 && doms.contains b.domain && decide ((pget d b).run = .cut) then actionApply d b else d
    | none => d) d

/-- Step 5: the profile is loaded, checked and put in force. The lowest-numbered row that fails stops Boot. -/
def bootProfile (s : State) (a b : ProfileCopy) : State :=
  match profilePick a b with
  | none => { s with dev := bootStop s.dev 4 0 }
  | some (c, copyB) =>
    let d := rput s.dev .sbi .sbiProfile (packW [(0, c.seq.toNat), (16, b2n copyB)])
    let s := c.items.foldl profileItem { s with dev := profileBefore d c.items }
    let d := limitSpread s.dev
    match profileBad d c with
    | n :: _ => { s with dev := bootStop d 5 n }
    | [] =>
      let d := { d with
        regions := profileRegions c.items
        profileWas := some (rget d (.map 0) .mapLimit, rget d .cal .calArea) }
      { s with dev := bootTo (restart d [0, 1, 3, 12, 13, 14, 15, 16, 17, 18, 19]) 6 }

/-! ## Step 6: calibration (R424, R426) -/

/-- A blank area gets its first sectors: 16 Working, 48 Spare. -/
def blankArea : List Sector := List.replicate 16 ({ st := 1 } : Sector) ++ List.replicate 48 ({} : Sector)

/-- The slicer sets of a brick as its newest record has them (R425). -/
def slicersRestore (d : Dev) (b : Nat) : Dev :=
  match newestCopy d.cal 1 b with
  | some r => r.1.body.zipIdx.foldl (fun d e => slicerMod d (8 * b + e.2) fun x => { x with set := e.1 % 4 }) d
  | none => d

/-- Step 6: the store is read, each invalid copy counted and raised; the quadrant domains go Rolling. -/
def bootCalib (d : Dev) (bad : Nat) : Dev :=
  let d := (List.range bad).foldl (fun d _ => raise0 (rbump d .cal .calBadRecords) .cal 0) d
  let c := d.cal
  let d := { d with cal := { c with stopped := false, sectors := if c.sectors = [] then blankArea else c.sectors } }
  let d := (List.range 8).foldl slicersRestore d
  bootTo (restart d [4, 5, 6, 7, 8, 9, 10, 11]) 7

/-! ## Step 7: DIMMs, training, repairs (R185, R197, R179) -/

/-- What is wrong with a channel's population (R451): what SPD says, or how it differs from channel 0. -/
def dimmCause (c0 : Word) (x : DimmInfo) : Option Nat :=
  let differs (hi lo : Nat) : Bool := fld x.cfg hi lo ≠ fld c0 hi lo
  match x.cause with
  | some v => some v.toNat
  | none =>
    if differs 1 0 then some 1 else if differs 2 2 then some 2 else if differs 4 3 then some 3
    else if differs 6 5 then some 4 else if differs 23 19 then some 5 else none

/-- The lowest channel whose population is refused. -/
def dimmRefused (l : List DimmInfo) : Option (Nat × Nat) :=
  let c0 := (l.head?.map (·.cfg)).getD 0
  (List.range 16).findSome? fun c => (l[c]?.bind (dimmCause c0)).map fun v => (c, v)

/-- TRAIN_STAT of a channel. -/
def trainStat (d : Dev) (c : Nat) : Word := rget d (.dphy c) .dphyTrainStat
/-- The lowest channel in use whose training failed. -/
def trainFailed (d : Dev) (c : Nat) : Bool := (trainStat d c).getLsbD 3
/-- Whether a channel is fenced: both its sub-channels are. -/
def chanFenced (d : Dev) (c : Nat) : Bool := subFenced d (2 * c) && subFenced d (2 * c + 1)

/-- One repair of a record's body. -/
def repairPut (d : Dev) (q c v : Nat) : Dev :=
  if 2 ^ 62 ≤ v then qmod d q fun s => { s with pprUsed := s.pprUsed ++ [v - 2 ^ 62] }
  else
    let i := v / 2 ^ 38
    qmod d q fun s => { s with
      remap := tabPut none s.remap (v % 2 ^ 38) (some i), spareUsed := s.spareUsed.set c (max (s.spareUsed.getD c 0) (i + 1)) }

/-- The repairs of the store are applied again after a cold reset (R179). -/
def repairsApply (d : Dev) : Dev :=
  (List.range 32).foldl (fun d k => match newestCopy d.cal 4 k with
    | some r => r.1.body.foldl (fun d v => repairPut d (k / 8) (k / 2 % 4) v) d
    | none => d) d

/-- The Lining areas of the extents that the region table gives LINED (R163). -/
def liningsApply (d : Dev) : Dev :=
  (d.regions.filter (·.2.2)).foldl (fun d e =>
    let d := liningSet { d with regions := tabPut (false, false) d.regions e.1 (e.2.1, false) } e.1 true
    { d with regions := tabPut (false, false) d.regions e.1 e.2 }) d

/-- Step 7: population, training, the checks of R445 that need the DIMMs, and after a cold reset the repairs. Every channel that is not
fenced must be trained, and the warm path reconciled (R415). -/
def bootDimms (d : Dev) (l : List DimmInfo) (rsv : Nat) : Dev :=
  match dimmRefused l with
  | some (c, v) => bootStop d 6 (c + v * 256)
  | none => match (List.range 16).find? fun c => trainFailed d c && !chanFenced d c with
    | some c => bootStop d 7 (c + fld (trainStat d c) 10 0 * 65536)
    | none =>
      if ¬ (List.range 16).all (fun c => (trainStat d c).getLsbD 2 || chanFenced d c) ∨ (bootWarm d ∧ ¬ d.boot.reconciled) then d
      else
        let d := { d with dimm := (l.zipIdx.foldl (fun t e => tabPut 0 t e.2 e.1.cfg) []) }
        let d := (List.range 4).foldl (fun d q => rput d (.map q) .mapRsvBase (BitVec.ofNat 32 rsv)) d
        let d := if (List.range 16).any fun c => fld (trainStat d c) 1 0 = 2 then rputFld d .sbi .sbiBootStat 6 6 1 else d
        if limitPages d 0 < 4 * rsv then bootStop d 5 4
        else if ¬ (List.range (rfld d (.map 0) .mapLimit 15 0)).all fun x => profileOk d (tabGet (false, false) d.regions x).1 then bootStop d 5 5
        else
          let d := if bootWarm d then d else liningsApply (repairsApply d)
          (List.range 8).foldl linkTry (bootTo d 8)

/-! ## Steps 8 and 9: links, memory active (R447, R449) -/

/-- Whether every port is up. -/
def portsUp (d : Dev) : Bool :=
  (headsOf d).all (fun p => (port d p).up) && (List.range 8).all fun b => !d.marwen.getLsbD b || decide ((mport d b).state = 3)

/-- What the hosts are owed after lost writes (R452): the status record of the hold-up. -/
def holdReport (d : Dev) : Dev :=
  match d.boot.owed, d.flash.getLast? with
  | true, some h => logEvents d (headsOf d) 2 (.holdUp h.us (decide (h.prev = 1)))
  | _, _ => d

/-- Step 9: memory active on every port, the mode Service or Degraded, the report, and what waits is admitted. -/
def bootEnd (d : Dev) : Dev :=
  let d := bootTimed (bootTo d 9)
  let d := (List.range 16).foldl (fun d p => portMod d p fun x => { x with memActive := true }) d
  let d := holdReport (raiseEvent (toService d) .sbi 0)
  retry { d with boot := { d.boot with active := false, owed := false } } fun w => w.wait = .admission

/-! ## The commands -/

/-- The running step of Boot meets its end condition with an input; an input of another step changes nothing. -/
def bootDone (s : State) (i : BootInput) : State :=
  let d := s.dev
  match bootStep d, i with
  | 1, .ok => { s with dev := bootFirst s }
  | 2, .ok => { s with dev := bootFeed s }
  | 3, .ok => bootSupply s
  | 3, .supplyFail c => { s with dev := bootStop d 2 c }
  | 4, .images secA secB normA normB svn => bootImages s secA secB normA normB svn
  | 5, .profile a b => bootProfile s a b
  | 6, .calib bad => { s with dev := bootCalib d bad }
  | 7, .dimms l rsv => { s with dev := bootDimms d l rsv.toNat }
  | 8, .ok => { s with dev := if portsUp d then bootEnd d else d }
  | _, _ => s

/-- Meaning of BOOT_STEP_DONE (R446 to R452). -/
def execBootStepDone (i : BootInput) (s : State) : Host.Outcome State Fault Refusal :=
  if bootRuns s.dev then let s := bootDone s i; done s s.dev else still s

/-- Meaning of BOOT_PORT_TIMEOUT (R446, R447): step 8 proceeds without the ports that have not trained. -/
def execBootPortTimeout (s : State) : Host.Outcome State Fault Refusal :=
  doneIf s (bootRuns s.dev && decide (bootStep s.dev = 8)) bootEnd

end Sys2Proof.Machine
end

