-- ==== Sys2Proof/Machine/Dispatch.lean ====
section
/-! DEFINITION. Each command of the table and its meaning. -/

namespace Sys2Proof.Machine

/-- The effect of a command on everything but the queue. -/
def exec (i : Instr) (s : State) : Host.Outcome State Fault Refusal :=
  match i with
  | .paceWindowEnd m count => Sys2Proof.Machine.execPaceWindowEnd m count s
  | .stageStall u stageId slate began => Sys2Proof.Machine.execStageStall u stageId slate began s
  | .registerWrite p off bytes v => Sys2Proof.Machine.execRegisterWrite p off bytes v s
  | .lowWordRead p off bytes => Sys2Proof.Machine.execLowWordRead p off bytes s
  | .sidebandRead a body => Sys2Proof.Machine.execSidebandRead a body s
  | .sidebandWrite a body => Sys2Proof.Machine.execSidebandWrite a body s
  | .sidebandOtherOpcode a body => Sys2Proof.Machine.execSidebandOtherOpcode a body s
  | .cut p page v => Sys2Proof.Machine.execCut p page v s
  | .action p page v => Sys2Proof.Machine.execAction p page v s
  | .blockReset p page v => Sys2Proof.Machine.execBlockReset p page v s
  | .fenceReq p page v => Sys2Proof.Machine.execFenceReq p page v s
  | .cutDone page => Sys2Proof.Machine.execCutDone page s
  | .blockResetEnd page => Sys2Proof.Machine.execBlockResetEnd page s
  | .winErrClear p v => Sys2Proof.Machine.execWinErrClear p v s
  | .memRd p tag hpa m env => Sys2Proof.Machine.execMemRd p tag hpa m env s
  | .memRdData p tag hpa env => Sys2Proof.Machine.execMemRdData p tag hpa env s
  | .memWr p tag hpa m data poison env => Sys2Proof.Machine.execMemWr p tag hpa m data poison env s
  | .memWrPtl p tag hpa m data mask env => Sys2Proof.Machine.execMemWrPtl p tag hpa m data mask env s
  | .memInv p tag hpa env => Sys2Proof.Machine.execMemInv p tag hpa env s
  | .memInvNt p tag hpa env => Sys2Proof.Machine.execMemInvNt p tag hpa env s
  | .memClnEvct p tag hpa env => Sys2Proof.Machine.execMemClnEvct p tag hpa env s
  | .memSpecRd p hpa env => Sys2Proof.Machine.execMemSpecRd p hpa env s
  | .biRspI p line => Sys2Proof.Machine.execBiRspI p line s
  | .biRspS p line => Sys2Proof.Machine.execBiRspS p line s
  | .biConflict p line => Sys2Proof.Machine.execBiConflict p line s
  | .ioMemRead p tag dpa len pasid env => Sys2Proof.Machine.execIoMemRead p tag dpa len pasid env s
  | .ioMemWrite p tag dpa bytes pasid env => Sys2Proof.Machine.execIoMemWrite p tag dpa bytes pasid env s
  | .atomicOp p tag dpa op bits operand compare pasid env => Sys2Proof.Machine.execAtomicOp p tag dpa op bits operand compare pasid env s
  | .mapLineFill q bad => Sys2Proof.Machine.execMapLineFill q bad s
  | .pageBindComplete q => Sys2Proof.Machine.execPageBindComplete q s
  | .stageWriteBack q => Sys2Proof.Machine.execStageWriteBack q s
  | .flushRange p q => Sys2Proof.Machine.execFlushRange p q s
  | .cleanRange p q => Sys2Proof.Machine.execCleanRange p q s
  | .flushAll p q => Sys2Proof.Machine.execFlushAll p q s
  | .flushNone p q => Sys2Proof.Machine.execFlushNone p q s
  | .lockedLineFlush q line => Sys2Proof.Machine.execLockedLineFlush q line s
  | .flushDone q => Sys2Proof.Machine.execFlushDone q s
  | .epochBoundary => Sys2Proof.Machine.execEpochBoundary s
  | .demotionScan q => Sys2Proof.Machine.execDemotionScan q s
  | .dollyMoveStart q => Sys2Proof.Machine.execDollyMoveStart q s
  | .moveSourceReady q => Sys2Proof.Machine.execMoveSourceReady q s
  | .moveDestinationWritten q => Sys2Proof.Machine.execMoveDestinationWritten q s
  | .moveFreeOld q => Sys2Proof.Machine.execMoveFreeOld q s
  | .extentOffer => Sys2Proof.Machine.execExtentOffer s
  | .offerLapse => Sys2Proof.Machine.execOfferLapse s
  | .releaseCapacityRequest p => Sys2Proof.Machine.execReleaseCapacityRequest p s
  | .releaseRequestLapse p => Sys2Proof.Machine.execReleaseRequestLapse p s
  | .writeWaitAdmit q => Sys2Proof.Machine.execWriteWaitAdmit q s
  | .capacityWriteTimeout q => Sys2Proof.Machine.execCapacityWriteTimeout q s
  | .packEngineSchedule q e => Sys2Proof.Machine.execPackEngineSchedule q e s
  | .packedPageDecode q e => Sys2Proof.Machine.execPackedPageDecode q e s
  | .packEngFence p q v => Sys2Proof.Machine.execPackEngFence p q v s
  | .rangeSel p v => Sys2Proof.Machine.execRangeSel p v s
  | .rangeDefine p => Sys2Proof.Machine.execRangeDefine p s
  | .rangeClear p => Sys2Proof.Machine.execRangeClear p s
  | .rangeRetire p => Sys2Proof.Machine.execRangeRetire p s
  | .rangeRepaint p => Sys2Proof.Machine.execRangeRepaint p s
  | .rangeSetRights p => Sys2Proof.Machine.execRangeSetRights p s
  | .rangeCmdBadOp p op => Sys2Proof.Machine.execRangeCmdBadOp p op s
  | .rangeFlushDone r => Sys2Proof.Machine.execRangeFlushDone r s
  | .rangeCmdComplete => Sys2Proof.Machine.execRangeCmdComplete s
  | .fillSweepPage q slot => Sys2Proof.Machine.execFillSweepPage q slot s
  | .repaintPageStart q slot => Sys2Proof.Machine.execRepaintPageStart q slot s
  | .repaintScratchWritten q => Sys2Proof.Machine.execRepaintScratchWritten q s
  | .repaintPageDone q => Sys2Proof.Machine.execRepaintPageDone q s
  | .pipeFence p q v => Sys2Proof.Machine.execPipeFence p q v s
  | .dramReadComplete u err => Sys2Proof.Machine.execDramReadComplete u err s
  | .devFailWrite p q n v => Sys2Proof.Machine.execDevFailWrite p q n v s
  | .regionSel p v => Sys2Proof.Machine.execRegionSel p v s
  | .regionSet p v => Sys2Proof.Machine.execRegionSet p v s
  | .regionCmdComplete => Sys2Proof.Machine.execRegionCmdComplete s
  | .liningRebuildDone q => Sys2Proof.Machine.execLiningRebuildDone q s
  | .sanderRead q => Sys2Proof.Machine.execSanderRead q s
  | .forcedSanderRead u => Sys2Proof.Machine.execForcedSanderRead u s
  | .scrubLapOverdue q => Sys2Proof.Machine.execScrubLapOverdue q s
  | .watchingExpiry q mpa => Sys2Proof.Machine.execWatchingExpiry q mpa s
  | .softPprDone u => Sys2Proof.Machine.execSoftPprDone u s
  | .flipArm p q v => Sys2Proof.Machine.execFlipArm p q v s
  | .flipDisarm p q v => Sys2Proof.Machine.execFlipDisarm p q v s
  | .dramCommandIssue u ready => Sys2Proof.Machine.execDramCommandIssue u ready s
  | .refreshDue u rank => Sys2Proof.Machine.execRefreshDue u rank s
  | .mr4Poll u rank twice hot => Sys2Proof.Machine.execMr4Poll u rank twice hot s
  | .zqCalibration c => Sys2Proof.Machine.execZqCalibration c s
  | .dqsOscTracking c => Sys2Proof.Machine.execDqsOscTracking c s
  | .rfmIssue u bank => Sys2Proof.Machine.execRfmIssue u bank s
  | .alertNAssert u span => Sys2Proof.Machine.execAlertNAssert u span s
  | .alertNDeassert u => Sys2Proof.Machine.execAlertNDeassert u s
  | .commandReplayDone u => Sys2Proof.Machine.execCommandReplayDone u s
  | .subFence p c v => Sys2Proof.Machine.execSubFence p c v s
  | .selfRefreshEntry u => Sys2Proof.Machine.execSelfRefreshEntry u s
  | .ddrTrainingDone c r => Sys2Proof.Machine.execDdrTrainingDone c r s
  | .prechargePowerDown u => Sys2Proof.Machine.execPrechargePowerDown u s
  | .queueAdmit q dirErr => Sys2Proof.Machine.execQueueAdmit q dirErr s
  | .homeDataReady q line => Sys2Proof.Machine.execHomeDataReady q line s
  | .snoopTimeout q line agent => Sys2Proof.Machine.execSnoopTimeout q line agent s
  | .atomWindowEnd q => Sys2Proof.Machine.execAtomWindowEnd q s
  | .dirProbe p q v => Sys2Proof.Machine.execDirProbe p q v s
  | .regulationWindowStart => Sys2Proof.Machine.execRegulationWindowStart s
  | .ctxLoad p => Sys2Proof.Machine.execCtxLoad p s
  | .ctxWriteWord3 p => Sys2Proof.Machine.execCtxWriteWord3 p s
  | .ctxWriteRights p => Sys2Proof.Machine.execCtxWriteRights p s
  | .ctxCmdOp0 p => Sys2Proof.Machine.execCtxCmdOp0 p s
  | .fbLoad p => Sys2Proof.Machine.execFbLoad p s
  | .fbWrite p => Sys2Proof.Machine.execFbWrite p s
  | .fbCmdBadOp p op => Sys2Proof.Machine.execFbCmdBadOp p op s
  | .slateCmdComplete => Sys2Proof.Machine.execSlateCmdComplete s
  | .doorbell p q idx v => Sys2Proof.Machine.execDoorbell p q idx v s
  | .descriptorFetch q => Sys2Proof.Machine.execDescriptorFetch q s
  | .laneTakeJob q l => Sys2Proof.Machine.execLaneTakeJob q l s
  | .copy q l => Sys2Proof.Machine.execCopy q l s
  | .fill q l => Sys2Proof.Machine.execFill q l s
  | .cmp q l => Sys2Proof.Machine.execCmp q l s
  | .crc q l => Sys2Proof.Machine.execCrc q l s
  | .scan q l => Sys2Proof.Machine.execScan q l s
  | .reduce q l => Sys2Proof.Machine.execReduce q l s
  | .pack q l => Sys2Proof.Machine.execPack q l s
  | .unpack q l => Sys2Proof.Machine.execUnpack q l s
  | .atom q l => Sys2Proof.Machine.execAtom q l s
  | .xfer q l => Sys2Proof.Machine.execXfer q l s
  | .ringLoad p q => Sys2Proof.Machine.execRingLoad p q s
  | .ringEnable p q => Sys2Proof.Machine.execRingEnable p q s
  | .ringDisable p q => Sys2Proof.Machine.execRingDisable p q s
  | .ringResume p q => Sys2Proof.Machine.execRingResume p q s
  | .ringSetOwner p q => Sys2Proof.Machine.execRingSetOwner p q s
  | .ringStopped q idx => Sys2Proof.Machine.execRingStopped q idx s
  | .hostLinkUp p partnerRate width sets => Sys2Proof.Machine.execHostLinkUp p partnerRate width sets s
  | .hostLinkDown p => Sys2Proof.Machine.execHostLinkDown p s
  | .perstNAssert p => Sys2Proof.Machine.execPerstNAssert p s
  | .perstNDeassert p => Sys2Proof.Machine.execPerstNDeassert p s
  | .hdmDecoderCommit p idx base size ways gran pos dpaBase db => Sys2Proof.Machine.execHdmDecoderCommit p idx base size ways gran pos dpaBase db s
  | .l0pWidthChange p width => Sys2Proof.Machine.execL0pWidthChange p width s
  | .histStart p b v => Sys2Proof.Machine.execHistStart p b v s
  | .histDone b counts offsets => Sys2Proof.Machine.execHistDone b counts offsets s
  | .spdmDoe p msg answer => Sys2Proof.Machine.execSpdmDoe p msg answer s
  | .getEventRecords p log => Sys2Proof.Machine.execGetEventRecords p log s
  | .clearEventRecords p log handles => Sys2Proof.Machine.execClearEventRecords p log handles s
  | .getEventInterruptPolicy p => Sys2Proof.Machine.execGetEventInterruptPolicy p s
  | .setEventInterruptPolicy p policy => Sys2Proof.Machine.execSetEventInterruptPolicy p policy s
  | .getFwInfo p => Sys2Proof.Machine.execGetFwInfo p s
  | .transferFw p secureImage last chunk => Sys2Proof.Machine.execTransferFw p secureImage last chunk s
  | .activateFw p verifies => Sys2Proof.Machine.execActivateFw p verifies s
  | .getTimestamp p => Sys2Proof.Machine.execGetTimestamp p s
  | .setTimestamp p ns => Sys2Proof.Machine.execSetTimestamp p ns s
  | .getSupportedLogs p => Sys2Proof.Machine.execGetSupportedLogs p s
  | .getLog p cel => Sys2Proof.Machine.execGetLog p cel s
  | .identifyMemoryDevice p => Sys2Proof.Machine.execIdentifyMemoryDevice p s
  | .getPartitionInfo p => Sys2Proof.Machine.execGetPartitionInfo p s
  | .getHealthInfo p => Sys2Proof.Machine.execGetHealthInfo p s
  | .getAlertConfiguration p => Sys2Proof.Machine.execGetAlertConfiguration p s
  | .setAlertConfiguration p cfg => Sys2Proof.Machine.execSetAlertConfiguration p cfg s
  | .getPoisonList p => Sys2Proof.Machine.execGetPoisonList p s
  | .injectPoison p dpa => Sys2Proof.Machine.execInjectPoison p dpa s
  | .clearPoison p dpa data => Sys2Proof.Machine.execClearPoison p dpa data s
  | .getDynamicCapacityConfiguration p => Sys2Proof.Machine.execGetDynamicCapacityConfiguration p s
  | .getDynamicCapacityExtentList p => Sys2Proof.Machine.execGetDynamicCapacityExtentList p s
  | .addDynamicCapacityResponse p extent => Sys2Proof.Machine.execAddDynamicCapacityResponse p extent s
  | .releaseDynamicCapacity p extent => Sys2Proof.Machine.execReleaseDynamicCapacity p extent s
  | .sanitize p => Sys2Proof.Machine.execSanitize p s
  | .secureErase p => Sys2Proof.Machine.execSecureErase p s
  | .unsupportedOpcode p opcode => Sys2Proof.Machine.execUnsupportedOpcode p opcode s
  | .linkTrained b lanes sets => Sys2Proof.Machine.execLinkTrained b lanes sets s
  | .init b flit => Sys2Proof.Machine.execInit b flit s
  | .initDone b flit => Sys2Proof.Machine.execInitDone b flit s
  | .initRetry b => Sys2Proof.Machine.execInitRetry b s
  | .lctlRepeat b => Sys2Proof.Machine.execLctlRepeat b s
  | .retrainReq b flit => Sys2Proof.Machine.execRetrainReq b flit s
  | .widthReq b flit => Sys2Proof.Machine.execWidthReq b flit s
  | .widthAck b flit => Sys2Proof.Machine.execWidthAck b flit s
  | .resume b flit => Sys2Proof.Machine.execResume b flit s
  | .keysw b flit => Sys2Proof.Machine.execKeysw b flit s
  | .keyswAck b flit => Sys2Proof.Machine.execKeyswAck b flit s
  | .down b flit => Sys2Proof.Machine.execDown b flit s
  | .dataFlit b flit => Sys2Proof.Machine.execDataFlit b flit s
  | .ccFlit b flit => Sys2Proof.Machine.execCcFlit b flit s
  | .idleFlit b flit => Sys2Proof.Machine.execIdleFlit b flit s
  | .nakFlit b flit => Sys2Proof.Machine.execNakFlit b flit s
  | .sackFlit b flit => Sys2Proof.Machine.execSackFlit b flit s
  | .badFlit b flit => Sys2Proof.Machine.execBadFlit b flit s
  | .reservedFlit b flit => Sys2Proof.Machine.execReservedFlit b flit s
  | .nakTimer b => Sys2Proof.Machine.execNakTimer b s
  | .replayTimer b => Sys2Proof.Machine.execReplayTimer b s
  | .ccRtxTimer b => Sys2Proof.Machine.execCcRtxTimer b s
  | .sackTimer b => Sys2Proof.Machine.execSackTimer b s
  | .ackCoalesceTimer b => Sys2Proof.Machine.execAckCoalesceTimer b s
  | .flitSlotOpen b => Sys2Proof.Machine.execFlitSlotOpen b s
  | .blockLockLost b lanes => Sys2Proof.Machine.execBlockLockLost b lanes s
  | .blockLockRegained b lanes => Sys2Proof.Machine.execBlockLockRegained b lanes s
  | .downTimeExpiry b => Sys2Proof.Machine.execDownTimeExpiry b s
  | .retrainLimitExpiry b => Sys2Proof.Machine.execRetrainLimitExpiry b s
  | .recoveryComplete b sets => Sys2Proof.Machine.execRecoveryComplete b sets s
  | .widthCtlRetrain p b => Sys2Proof.Machine.execWidthCtlRetrain p b s
  | .widthCtlReq p b mask => Sys2Proof.Machine.execWidthCtlReq p b mask s
  | .mwRd b slots env => Sys2Proof.Machine.execMwRd b slots env s
  | .mwWr b slots env => Sys2Proof.Machine.execMwWr b slots env s
  | .mwWrp b slots env => Sys2Proof.Machine.execMwWrp b slots env s
  | .mwAtom b slots env => Sys2Proof.Machine.execMwAtom b slots env s
  | .mwPgrant b slots => Sys2Proof.Machine.execMwPgrant b slots s
  | .mwPrel b slots => Sys2Proof.Machine.execMwPrel b slots s
  | .mwCmp b slots => Sys2Proof.Machine.execMwCmp b slots s
  | .mwGranted b slots => Sys2Proof.Machine.execMwGranted b slots s
  | .mwData b slots => Sys2Proof.Machine.execMwData b slots s
  | .mwAdata b slots => Sys2Proof.Machine.execMwAdata b slots s
  | .mwRds b slots env => Sys2Proof.Machine.execMwRds b slots env s
  | .mwRde b slots env => Sys2Proof.Machine.execMwRde b slots env s
  | .mwRdcur b slots env => Sys2Proof.Machine.execMwRdcur b slots env s
  | .mwOwn b slots env => Sys2Proof.Machine.execMwOwn b slots env s
  | .mwWrc b slots env => Sys2Proof.Machine.execMwWrc b slots env s
  | .mwWrcp b slots env => Sys2Proof.Machine.execMwWrcp b slots env s
  | .mwWbd b slots env => Sys2Proof.Machine.execMwWbd b slots env s
  | .mwEvc b slots env => Sys2Proof.Machine.execMwEvc b slots env s
  | .mwAtmc b slots env => Sys2Proof.Machine.execMwAtmc b slots env s
  | .mwSnpinv b slots => Sys2Proof.Machine.execMwSnpinv b slots s
  | .mwSnpdata b slots => Sys2Proof.Machine.execMwSnpdata b slots s
  | .mwSnpfwds b slots => Sys2Proof.Machine.execMwSnpfwds b slots s
  | .mwSnpfwde b slots => Sys2Proof.Machine.execMwSnpfwde b slots s
  | .mwRspi b slots => Sys2Proof.Machine.execMwRspi b slots s
  | .mwRsps b slots => Sys2Proof.Machine.execMwRsps b slots s
  | .mwRspfwd b slots => Sys2Proof.Machine.execMwRspfwd b slots s
  | .mwGnti b slots => Sys2Proof.Machine.execMwGnti b slots s
  | .mwGnts b slots => Sys2Proof.Machine.execMwGnts b slots s
  | .mwGnte b slots => Sys2Proof.Machine.execMwGnte b slots s
  | .mwFwddata b slots => Sys2Proof.Machine.execMwFwddata b slots s
  | .mwWcmp b slots => Sys2Proof.Machine.execMwWcmp b slots s
  | .mwAcmp b slots => Sys2Proof.Machine.execMwAcmp b slots s
  | .mwMgt b slots answer => Sys2Proof.Machine.execMwMgt b slots answer s
  | .mwUnknownOpcode b slots => Sys2Proof.Machine.execMwUnknownOpcode b slots s
  | .transitPacket b slots => Sys2Proof.Machine.execTransitPacket b slots s
  | .responseTimeout tag => Sys2Proof.Machine.execResponseTimeout tag s
  | .tagHoldbackEnd tag => Sys2Proof.Machine.execTagHoldbackEnd tag s
  | .gate core pc word target atTarget user => Sys2Proof.Machine.execGate core pc word target atTarget user s
  | .gret core pc word user => Sys2Proof.Machine.execGret core pc word user s
  | .entry core pc word => Sys2Proof.Machine.execEntry core pc word s
  | .illegalCustom0 core pc word => Sys2Proof.Machine.execIllegalCustom0 core pc word s
  | .secureInterrupt pc enabledInSecure => Sys2Proof.Machine.execSecureInterrupt pc enabledInSecure s
  | .keyUnwrap target index block => Sys2Proof.Machine.execKeyUnwrap target index block s
  | .keyDerive target index block => Sys2Proof.Machine.execKeyDerive target index block s
  | .keyZeroise target index => Sys2Proof.Machine.execKeyZeroise target index s
  | .keyLoadPlain target index block => Sys2Proof.Machine.execKeyLoadPlain target index block s
  | .keyCmdBadOp op target index => Sys2Proof.Machine.execKeyCmdBadOp op target index s
  | .keyCmdComplete => Sys2Proof.Machine.execKeyCmdComplete s
  | .lifecycleAdvance p v => Sys2Proof.Machine.execLifecycleAdvance p v s
  | .debugNonceRequest p nonce => Sys2Proof.Machine.execDebugNonceRequest p nonce s
  | .debugUnlockToken t => Sys2Proof.Machine.execDebugUnlockToken t s
  | .nonceExpiry nonce => Sys2Proof.Machine.execNonceExpiry nonce s
  | .relock p v => Sys2Proof.Machine.execRelock p v s
  | .claim p v => Sys2Proof.Machine.execClaim p v s
  | .coreRelease p v => Sys2Proof.Machine.execCoreRelease p v s
  | .testEn p v => Sys2Proof.Machine.execTestEn p v s
  | .wdogKick p v => Sys2Proof.Machine.execWdogKick p v s
  | .managementWatchdog => Sys2Proof.Machine.execManagementWatchdog s
  | .domainPowerOn p d => Sys2Proof.Machine.execDomainPowerOn p d s
  | .domainPowerOff p d => Sys2Proof.Machine.execDomainPowerOff p d s
  | .domainClockStop p d => Sys2Proof.Machine.execDomainClockStop p d s
  | .domainClockStart p d => Sys2Proof.Machine.execDomainClockStart p d s
  | .domainRequestDone => Sys2Proof.Machine.execDomainRequestDone s
  | .subStateSet p sub => Sys2Proof.Machine.execSubStateSet p sub s
  | .leaveMaintain p => Sys2Proof.Machine.execLeaveMaintain p s
  | .maintainRequest p => Sys2Proof.Machine.execMaintainRequest p s
  | .retainRequest p => Sys2Proof.Machine.execRetainRequest p s
  | .factoryRequest p => Sys2Proof.Machine.execFactoryRequest p s
  | .modeReqNotAllowed p req => Sys2Proof.Machine.execModeReqNotAllowed p req s
  | .maintainReached => Sys2Proof.Machine.execMaintainReached s
  | .maintainOverrun => Sys2Proof.Machine.execMaintainOverrun s
  | .gafferEpoch temps counts work => Sys2Proof.Machine.execGafferEpoch temps counts work s
  | .avsbusAck => Sys2Proof.Machine.execAvsbusAck s
  | .avsbusFault => Sys2Proof.Machine.execAvsbusFault s
  | .retainFlushDone => Sys2Proof.Machine.execRetainFlushDone s
  | .retainPointOfNoReturn => Sys2Proof.Machine.execRetainPointOfNoReturn s
  | .sidebandAddressMatch => Sys2Proof.Machine.execSidebandAddressMatch s
  | .wakeNLow => Sys2Proof.Machine.execWakeNLow s
  | .wakeTimerExpiry => Sys2Proof.Machine.execWakeTimerExpiry s
  | .wakeStepDone => Sys2Proof.Machine.execWakeStepDone s
  | .wakeStepTimeout => Sys2Proof.Machine.execWakeStepTimeout s
  | .wakeRegulatorOffEnd => Sys2Proof.Machine.execWakeRegulatorOffEnd s
  | .wakeRetry a => Sys2Proof.Machine.execWakeRetry a s
  | .padRelease p v => Sys2Proof.Machine.execPadRelease p v s
  | .aoRatioWindow ratio => Sys2Proof.Machine.execAoRatioWindow ratio s
  | .timeSet p v => Sys2Proof.Machine.execTimeSet p v s
  | .feedAdmit b mv => Sys2Proof.Machine.execFeedAdmit b mv s
  | .feedLost b => Sys2Proof.Machine.execFeedLost b s
  | .feedUnhealthy b => Sys2Proof.Machine.execFeedUnhealthy b s
  | .holdUpFlushDone => Sys2Proof.Machine.execHoldUpFlushDone s
  | .holdUpEventRecordWrite => Sys2Proof.Machine.execHoldUpEventRecordWrite s
  | .reverseCurrent b => Sys2Proof.Machine.execReverseCurrent b s
  | .prechargeReached => Sys2Proof.Machine.execPrechargeReached s
  | .prechargeTimeout => Sys2Proof.Machine.execPrechargeTimeout s
  | .rampDone => Sys2Proof.Machine.execRampDone s
  | .fastTrip => Sys2Proof.Machine.execFastTrip s
  | .overcurrent => Sys2Proof.Machine.execOvercurrent s
  | .faultTimerExpiry => Sys2Proof.Machine.execFaultTimerExpiry s
  | .stableIdleDone => Sys2Proof.Machine.execStableIdleDone s
  | .retryWaitEnd => Sys2Proof.Machine.execRetryWaitEnd s
  | .tripsReset => Sys2Proof.Machine.execTripsReset s
  | .clearLatch p v => Sys2Proof.Machine.execClearLatch p v s
  | .energyClr p v => Sys2Proof.Machine.execEnergyClr p v s
  | .feedSample mv ma => Sys2Proof.Machine.execFeedSample mv ma s
  | .telemetryWindow => Sys2Proof.Machine.execTelemetryWindow s
  | .haltFlushDone => Sys2Proof.Machine.execHaltFlushDone s
  | .aliveToggle => Sys2Proof.Machine.execAliveToggle s
  | .sourceInject p v => Sys2Proof.Machine.execSourceInject p v s
  | .firstErrorClear p v => Sys2Proof.Machine.execFirstErrorClear p v s
  | .latchedClear p w v => Sys2Proof.Machine.execLatchedClear p w v s
  | .warmReset p v => Sys2Proof.Machine.execWarmReset p v s
  | .warmResetFlushDone => Sys2Proof.Machine.execWarmResetFlushDone s
  | .warmResetTimeout => Sys2Proof.Machine.execWarmResetTimeout s
  | .coldReset p v => Sys2Proof.Machine.execColdReset p v s
  | .warmPathReconcile => Sys2Proof.Machine.execWarmPathReconcile s
  | .sramBist q array way => Sys2Proof.Machine.execSramBist q array way s
  | .sramBistDone q array way pass => Sys2Proof.Machine.execSramBistDone q array way pass s
  | .checkerSample mismatches => Sys2Proof.Machine.execCheckerSample mismatches s
  | .supplyFault cond => Sys2Proof.Machine.execSupplyFault cond s
  | .aoPowerUp => Sys2Proof.Machine.execAoPowerUp s
  | .vauxLoss => Sys2Proof.Machine.execVauxLoss s
  | .slicerRescore lane scores => Sys2Proof.Machine.execSlicerRescore lane scores s
  | .delayTrialDone stage nearMisses => Sys2Proof.Machine.execDelayTrialDone stage nearMisses s
  | .nearMiss stage => Sys2Proof.Machine.execNearMiss stage s
  | .matchedDelayTrim stage => Sys2Proof.Machine.execMatchedDelayTrim stage s
  | .calRecordProgrammed => Sys2Proof.Machine.execCalRecordProgrammed s
  | .calSectorEraseDone => Sys2Proof.Machine.execCalSectorEraseDone s
  | .snap p v => Sys2Proof.Machine.execSnap p v s
  | .snapshotTick => Sys2Proof.Machine.execSnapshotTick s
  | .bwWindowEnd => Sys2Proof.Machine.execBwWindowEnd s
  | .viewPageRead p slate v off => Sys2Proof.Machine.execViewPageRead p slate v off s
  | .bootStepDone idx => Sys2Proof.Machine.execBootStepDone idx s
  | .bootPortTimeout => Sys2Proof.Machine.execBootPortTimeout s
  | .debugDpaRead dpa => Sys2Proof.Machine.execDebugDpaRead dpa s
  | .spdmOverMctp msg answer => Sys2Proof.Machine.execSpdmOverMctp msg answer s
  | .feedHealthy b => Sys2Proof.Machine.execFeedHealthy b s
  | .faultTimerIdle => Sys2Proof.Machine.execFaultTimerIdle s
  | .supplyFaultEnd cond => Sys2Proof.Machine.execSupplyFaultEnd cond s
  | .prbsCheckerLock b lane locked errors => Sys2Proof.Machine.execPrbsCheckerLock b lane locked errors s

end Sys2Proof.Machine
end

