-- ==== Sys2Proof/Machine/Idle.lean ====
section
/-! DEFINITION. What passes when no command waits: one tick of the time counter (R373). -/

namespace Sys2Proof.Machine

/-- Whether the crossbar domain is on (R29). -/
def xbOn (d : Dev) : Bool := d.pwr.dom.getLsbD 3

/-- One tick with no command. -/
def idleTick (s : State) : State :=
  if xbOn s.dev then { s with dev := { s.dev with pwr := { s.dev.pwr with now := s.dev.pwr.now + 10 } } }
  else { s with dev := { s.dev with pwr := { s.dev.pwr with aoTicks := s.dev.pwr.aoTicks + 1 } } }

end Sys2Proof.Machine
end

