-- ==== Sys2Proof/Safety.lean ====
section
/-! DEFINITION. The predicates that statements are written in: what a command's effect and the settling of its step are, when a register
access is admitted, the canonical forms, and what requests and reactions never change. -/

namespace Sys2Proof.Machine

/-! ## DRAM as memory (R186, R408) -/

/-- The list of DRAM places is in canonical form: places strictly rising, and none listed with what it would read as unlisted. -/
def Memory.wf (d : Dev) : Bool :=
  d.dram.all (fun e => decide (e.2 ≠ dramBase d e.1)) && decide ((d.dram.map (·.1)).Pairwise (· < ·))

/-! ## The form of a command's effect -/

/-- The state after the settling that ends a step (R397, R359, R84). -/
def settled (s : State) : State := { s with dev := finish s.dev }

/-- The state after a command whose own effect leaves the device as `d`, before and after settling: what lies outside the device is as
it was. -/
def onDev (s : State) (d : Dev) : State := settled { s with dev := d }

/-- A state with another device. -/
def withDev (s : State) (d : Dev) : State := { s with dev := d }

/-- Nothing is owed when a step ends: no reaction stands open and no request waits for an older write of its line. -/
def quiet (d : Dev) : Bool := decide (d.react = []) && d.waits.all fun w => decide (w.wait ≠ .line)

/-- The device without what a report touches: the Continuity state, registers, page events, the heads' logs, what was sent, and the
reactions owed. -/
def Dev.unreported (d : Dev) : Dev := { d with flt := {}, regs := [], pages := [], heads := [], out := [], react := [] }

/-! ## Commands that reach beyond the device -/

/-- A command that can change the cores, the life cycle or the feed controller, or is a write of a register that the command does not
name. Every other command changes the device alone. -/
def reachesOut : Instr → Bool
  | .registerWrite _ _ _ _ | .sidebandRead _ _ | .sidebandWrite _ _ | .sidebandOtherOpcode _ _ | .wakeRetry _ | .cut _ _ _
  | .action _ _ _ | .blockReset _ _ _ | .fenceReq _ _ _ | .coreRelease _ _ | .claim _ _ | .testEn _ _ | .relock _ _
  | .lifecycleAdvance _ _ | .debugNonceRequest _ _ | .debugUnlockToken _ | .nonceExpiry _ | .gate _ _ _ _ _ _ | .gret _ _ _ _
  | .entry _ _ _ | .illegalCustom0 _ _ _ | .secureInterrupt _ _ | .maintainReached | .maintainOverrun | .wakeStepDone | .bootStepDone _
  | .warmReset _ _ | .coldReset _ _ | .warmResetFlushDone | .warmResetTimeout | .aoPowerUp | .vauxLoss | .sourceInject _ _
  | .firstErrorClear _ _ | .latchedClear _ _ _ | .clearLatch _ _ | .energyClr _ _ | .feedAdmit _ _ | .feedLost _ | .feedUnhealthy _
  | .feedHealthy _ | .holdUpFlushDone | .reverseCurrent _ | .prechargeReached | .prechargeTimeout | .rampDone | .fastTrip
  | .overcurrent | .faultTimerExpiry | .faultTimerIdle | .stableIdleDone | .retryWaitEnd | .tripsReset | .feedSample _ _
  | .telemetryWindow => true
  | _ => false

/-! ## Register accesses (R23, R36) -/

/-- The window offset of a register on its page (R22). -/
def regOff (b : Block) (n : RName) (i : Nat) : BitVec 20 := BitVec.ofNat 20 (regKey b n i)

/-- A path can present an access, and the window admits its write of a register. -/
def admitted (s : State) (p : Path) (b : Block) (n : RName) (i : Nat := 0) : Bool :=
  presents s.dev p && decide (blockOf s.dev (regKey b n i / 4096) = some b)
    && decide (refusal s { path := p, off := regKey b n i, write := true } = none)

/-- The answer to an admitted write: a response on the sideband, nothing on other paths (R26). -/
def answered (p : Path) (b : Block) (n : RName) (i : Nat) (s : State) : State :=
  if p = .sideband then { s with dev := send s.dev (.sideband (sbResponse 2 (regKey b n i) 0 none)) } else s

/-- The state after an admitted write of a register whose own effect leaves the state as `t`. -/
def wrote (p : Path) (b : Block) (n : RName) (t : State) (i : Nat := 0) : State := settled (answered p b n i t)

/-- A register whose write does what its access codes say and nothing else: no 64-bit pair, capture, header register or register that
starts something, not the load of a site profile, and not one held for all fabric tables (R25, R35, R44). -/
def ordinary (s : State) (p : Path) (b : Block) (n : RName) (i : Nat) (w : Word) : Bool :=
  !profileLoad s.dev p b n && decide (headerWrite s.dev b n w = none) && decide (captureOf n = []) && decide (quadWrite s.dev p b n i w = none)
    && decide (deviceWrite s.dev p b n i w = none) && decide (stateWrite s p b n w = none) && decide (highOf n = none) && decide (lowOf n = none)
    && decide (regHome b n = b)

/-- A path can present an access, and the window admits its read of a register. -/
def readable (s : State) (p : Path) (b : Block) (n : RName) (i : Nat := 0) : Bool :=
  presents s.dev p && decide (blockOf s.dev (regKey b n i / 4096) = some b)
    && decide (refusal s { path := p, off := regKey b n i, slate := windowSlate s.dev p none } = none)

/-- The answer to an admitted read: the word, on the sideband in a response that echoes the offset (R26). -/
def readAnswer (d : Dev) (p : Path) (off : Nat) (v : Word) : Dev :=
  send d (if p = .sideband then .sideband (sbResponse 1 off 0 (some v)) else .regData p v)

/-- When a request of RUN_CTL is refused (R40): more than one bit, an absent capability, or a state that does not take it. -/
def runRefusal (d : Dev) (b : Block) (c : Instr) : Bool :=
  let run := (pget d b).run
  let one (u : Word) (k : Nat) : Bool := decide (fld (u ||| BitVec.ofNat 32 k) 3 0 = k)
  match c with
  | .cut _ _ u => !one u 1 || !b.caps.1 || decide (run = .resetting) || decide (run = .fenced)
  | .action _ _ u => !one u 2 || !b.caps.1 || decide (run = .cutting) || decide (run = .resetting) || decide (run = .fenced)
  | .blockReset _ _ u =>
    !one u 4 || !b.caps.2.1 || decide (run = .rolling) || decide (run = .cutting) || decide (run = .resetting)
      || (decide (run = .fenced) && fenceRecorded d b)
  | .fenceReq _ _ u => !one u 8 || !b.caps.2.2 || decide (run = .resetting)
  | _ => false

/-! ## A clear way (what a request meets when nothing holds it, refuses it or catches an error) -/

/-- Nothing goes wrong with a message on its way in (R409, R274): no check fails and no lookup meets a bad word. -/
def envClean (env : Env) : Bool := env.ideOk && decide (env.sram = .none) && !env.datapath && !env.misrouted

/-- A host port takes a request in: link up, no panic threshold in use, admission open, the answer owed (R275, R278, R361). -/
def portClear (d : Dev) (p : Nat) : Bool :=
  (port d p).up && !(port d p).panic && !bitOf (rget d (.hpt (p / 2)) .hptPanic (p % 2)) 16
    && admitting d && portOpen d p && decide ((port d p).upId ≤ d.nextId)

/-- The context of a Slate is valid and its class has tokens at a port's gate (R231, R236). -/
def slateClear (d : Dev) (gate slate : Nat) : Bool :=
  ctxValid d slate && decide (0 < tabGet 0 (tabGet {} d.reg.ports gate).tokens (slatePolicy d slate).1)

/-- A line's home takes a request straight away: an open quadrant, no range that holds the page back, no directory duty, nothing under
way on the line (R41, R134, R209). -/
def homeClear (d : Dev) (line : Nat) : Bool :=
  let page := pageOfLine line
  !quadFenced d (homeOf page) && quadOpen d (homeOf page) && decide (zoneOf d page = .normal) && !needsDir d line
   && !lineBusy d line && d.waits.all (fun w => decide (w.req.line ≠ line)) && (quad d (homeOf page)).trans.all fun t => decide (t.line ≠ line)

/-- A host's way to a line is clear: its port takes the request, no error is met, the line lies in its capacity and its range lets it in, the
Slate has tokens, and the home takes it straight away (R45, R46, R146, R231, R236, R275). -/
def wayClear (d : Dev) (p : Fin 16) (env : Env) (broken : Bool) (line slate : Nat) : Bool :=
  portClear d p && envClean env && !broken && !outsideCapacity d p (pageOfLine line) && slateClear d p slate && homeClear d line
    && hostRight d p (pageOfLine line)

/-! ## Flushes (R69) -/

/-- FLUSH_CTL as a start of an operation leaves it. -/
def flushSet (d : Dev) (q op : Nat) : Dev :=
  rput d (.stage q) .stageFlushCtl (coded RName.stageFlushCtl.row true (rget d (.stage q) .stageFlushCtl) (BitVec.ofNat 32 (2 ^ 31 + op)))

/-- The flush that software starts: the lines from FLUSH_BASE on, FLUSH_LEN of them. -/
def softFlush (d : Dev) (q op : Nat) : Flush :=
  { op, lo := rfld d (.stage q) .stageFlushBase 23 0, hi := rfld d (.stage q) .stageFlushBase 23 0 + rfld d (.stage q) .stageFlushLen 24 0, by_ := .software }

/-! ## Serving a request at its home -/

/-- What serving a request that Stage answers may change: what is sent, the ports' occupancies and gates, the counters, the request numbers,
and in the quadrants and the map share the heat samples and the order of use. Everything else is as before. -/
def Served (d e : Dev) : Prop :=
  e = { d with out := e.out, ports := e.ports, daily := e.daily, nextId := e.nextId, reg := { d.reg with ports := e.reg.ports }, quads := e.quads, mapShare := e.mapShare }

/-- Every line of Stage holds what it held. -/
def SameStage (d e : Dev) : Prop := ∀ line, stageFind e line = stageFind d line

/-- Stage holds a line in one enabled way, and no other line in that way. -/
def stageOwn (d : Dev) (line : Nat) (x : Line) : Bool :=
  match stageWay d line with
  | some (w, y) => decide (y.data = x) && wayEnabled d (homeOf (pageOfLine line)) (stageSet line) w
      && (tabGet {} (quad d (homeOf (pageOfLine line))).stage (stageSet line)).ways.all (fun z => decide (z.1 = w ↔ z.2.1 = line))
  | none => false

/-- A page is Open under an entry that the map cache holds and that is good, no move is on it, and no poison stands on the line (R54, R56). -/
def openLine (d : Dev) (line : Nat) : Bool :=
  let page := pageOfLine line
  match mapHit d page with
  | some e => entryGood d page e && decide (tierOf e = .open_) && (moveOn d page).isNone && decide (d.poison.all fun r => !r.covers line)
  | none => false

/-! ## Sweeps and links in statements -/

/-- A range command taken: what the staging registers hold, for the range selected (R133). -/
def rangeTaken (d : Dev) (op : Nat) : Dev :=
  let r := rfld d (.seal 0) .sealRangeSel 5 0
  { d with rangeBusy := some { op, r, new := stagedRange d }, rangeLast := r }

/-- A received flit is a good one of a kind, carries no acknowledgement, and has the number the port expects (R294, R295). -/
def inSequence (s : State) (b : Nat) (f : BitVec 2048) (k : FlitKind) (h : Hdr) (slots : List (BitVec 128)) : Prop :=
  linkReceives s.dev b = true ∧ openFlit s.dev b f = (k, h, slots) ∧ h.ackv = false ∧ h.seq = (mport s.dev b).rxE.toNat

/-- A packet of an opcode arrives for this device and passes the checks of R315 and R319. -/
def mwArrives (s : State) (b : Fin 8) (slots : List (BitVec 128)) (op : Nat) : Prop :=
  linkReceives s.dev b = true ∧ pkOp slots = op ∧ pkDst slots = selfId s.dev ∧ packetCheck s.dev b slots = none

/-- The device once the packet has left the ingress buffer: its credits go back but for a request while intake is stopped (R292, R320). -/
def mwTaken (d : Dev) (b : Fin 8) (slots : List (BitVec 128)) (op : Nat) : Dev :=
  takeIn d b slots (!isRequest op || op = 5 || op = 6 || (admitting d && portOpen d (16 + b.val)))

/-- An answer arrives that an outstanding tag of its sender expects (R323). -/
def mwExpected (s : State) (b : Fin 8) (slots : List (BitVec 128)) (op : Nat) (u : TagUse) : Prop :=
  mwArrives s b slots op ∧ tabGet none s.dev.tags (pkTag slots) = some u ∧ u.held = false ∧ u.peer = pkSrc slots

/-- The device once the answer is taken in and its tag free. -/
def mwFreed (d : Dev) (b : Fin 8) (slots : List (BitVec 128)) (op : Nat) : Dev :=
  let d := mwTaken d b slots op
  { d with tags := tabPut none d.tags (pkTag slots) none }

/-! ## What every step keeps -/

/-- A legal feed controller (R380, R381, R383, R385): its state is one of the seven, POWER_GOOD is high in On and nowhere else, only admitted feeds
are healthy or conduct, a state between Off and Latched has a feed, and the fault timer runs in Stable and On alone. -/
def feedLegal (f : Feed) : Bool :=
  decide (f.st ≤ 6) && decide (f.powerGood = true ↔ f.st = 4) && decide (f.healthy &&& ~~~f.admitted = 0) && decide (f.pairs &&& ~~~f.admitted = 0)
    && decide (f.admitted = 0 → f.st = 0 ∨ f.st = 6) && decide (f.timerRun = true → f.st = 3 ∨ f.st = 4)

/-- A legal life cycle (R333, R344, R345): four cores, an advance to the next code alone, and no debug enable that no key of the state could unlock.
-/
def lifeLegal (l : Life) : Bool :=
  decide (l.cores.length = 4) && l.burn.all (fun c => decide (c.toNat = l.state.toNat + 1)) && decide (l.unlocked &&& ~~~(unlockable l.state true) = 0)

/-- The device with other keys in the same places: Seal slots, IDE keys, Marwen keys, and the block of a key command that runs. -/
def rekeyed (d : Dev) (slot : Nat → BitVec 768) (ide mw : Nat → BitVec 256) (block : List Byte) : Dev :=
  { d with
    slots := d.slots.map fun e => (e.1, { e.2 with key := slot e.1 })
    ideKeys := d.ideKeys.map fun e => (e.1, e.2.map fun _ => ide e.1)
    mwKeys := d.mwKeys.map fun e => (e.1, e.2.map fun _ => mw e.1)
    keyRun := d.keyRun.map fun r => { r with block } }

end Sys2Proof.Machine
end

