-- ==== Sys2Proof/Certificates/Slice0/Obligations.lean ====
section
/-! DEFINITION. The statements for the provers: what the commands of the device do, group by group, and three results about every step. -/

open Sys2Proof Sys2Proof.Machine

/-- A step runs the command at the front of the queue, on the state with the queue's rest. A step with no command waiting is one tick, and one tick
alone: of the time counter while the crossbar domain is on (10 ns, R373), else of the always-on counter. That time passes in such a step is the
model's choice (log entry 1). -/
def Obligations.StepRunsFront : Prop :=
  (∀ (c : Instr) (s : State) (rest : List Instr), s.pending = c :: rest → step s = exec c { s with pending := rest })
  ∧ (∀ s : State, s.pending = [] →
    step s = .next (if s.dev.pwr.dom.getLsbD 3
      then { s with dev := { s.dev with pwr := { s.dev.pwr with now := s.dev.pwr.now + 10 } } }
      else { s with dev := { s.dev with pwr := { s.dev.pwr with aoTicks := s.dev.pwr.aoTicks + 1 } } }))

/-- Reset leaves the registers at the values the spec prints, the memory with nothing listed, and the queue empty. What the invariants below say holds
of the state after reset. What State.reset is, where the spec gives no value, is the model's choice (log entries 4, 106). -/
def Obligations.ResetLegal : Prop :=
  ((∀ p : Nat, p < 256 → rget State.reset.dev .seci .seciPageRights p = if p = 0 ∨ p = 2 ∨ p = 4 ∨ p = 5 ∨ p = 7 then 0x47 else 0x07)
  ∧ (∀ b : Block, (pget State.reset.dev b).eventStat = 0 ∧ (pget State.reset.dev b).writeRefused = false
      ∧ (pget State.reset.dev b).run = if b.caps.1 then .cut else .rolling)
  ∧ (∀ q : Fin 4, rget State.reset.dev (.map q) .mapCfg = 7 ∧ rget State.reset.dev (.stage q) .stageCfg = 0xFFFF0000)
  ∧ rget State.reset.dev (.dolly 0) .dolly0HeatCfg = 0x00804026 ∧ rget State.reset.dev (.dolly 1) .dolly1Marks = 0x0500281E
  ∧ State.reset.dev.dram = [] ∧ State.reset.pending = [])
  ∧ (feedLegal State.reset.feed = true ∧ lifeLegal State.reset.life = true ∧ Memory.wf State.reset.dev = true)

/-- Every command answers a next state, and none touches the queue. A command that does not reach out changes the device alone: the queue, the feed
controller, the cores and the life cycle are as before. -/
def Obligations.EveryCommandCompletes : Prop :=
  (∀ (c : Instr) (s : State), ∃ t, exec c s = .next t ∧ t.pending = s.pending)
  ∧ (∀ (c : Instr) (s : State), reachesOut c = false → ∃ d, exec c s = .next { s with dev := d })

/-- A refused access (R30, R36). Its cause is the first that applies, in the order "not a word" (3), "page unassigned" (2), "domain off" (1), "rights"
(0). WIN_ERR captures it where it holds none, WIN_ERR_COUNT is one higher, saturated, EVENT_STAT bit 0 of PGDIR is raised, and no other register and
no other page changes. A refused read answers all ones, on the sideband without data, and a refused write changes nothing more. Writing 1 to VALID
clears the capture and the count. -/
def Obligations.RefusedAccesses : Prop :=
  (∀ (s : State) (a : WinAcc),
    ((a.bytes ≠ 4 ∨ a.off % 4 ≠ 0) → refusal s a = some 3)
    ∧ (a.bytes = 4 → a.off % 4 = 0 → blockOf s.dev (a.off / 4096) = none → refusal s a = some 2)
    ∧ (∀ b, a.bytes = 4 → a.off % 4 = 0 → blockOf s.dev (a.off / 4096) = some b →
        (domOn s.dev b.domain = false → refusal s a = some 1)
        ∧ (domOn s.dev b.domain = true → rightsRefuse s a b = true → refusal s a = some 0)
        ∧ (domOn s.dev b.domain = true → rightsRefuse s a b = false → refusal s a = none)))
  ∧ (∀ (d : Dev) (a : WinAcc) (cause : Nat),
      let e := winRefuse d a cause
      e = { d with regs := e.regs, pages := e.pages }
      ∧ rget e .pgdir .pgdirWinErrCount = (if rget d .pgdir .pgdirWinErrCount = 0xFFFFFFFF then 0xFFFFFFFF else rget d .pgdir .pgdirWinErrCount + 1)
      ∧ (bitOf (rget d .pgdir .pgdirWinErr) 31 = true → rget e .pgdir .pgdirWinErr = rget d .pgdir .pgdirWinErr)
      ∧ (bitOf (rget d .pgdir .pgdirWinErr) 31 = false → rget e .pgdir .pgdirWinErr =
          packW [(31, 1), (28, match a.path with | .secure => 0 | .normal => 1 | .host _ => 2 | .sideband => 3 | .debug => 4),
            (24, match a.path with | .host h => h.val | _ => 0), (22, cause), (21, if a.write then 1 else 0), (0, a.off % 2 ^ 20)])
      ∧ pget e .pgdir = { pget d .pgdir with eventStat := (pget d .pgdir).eventStat ||| 1 }
      ∧ (∀ k, k ≠ regKey .pgdir .pgdirWinErr 0 → k ≠ regKey .pgdir .pgdirWinErrCount 0 → ∀ x, tabGet x e.regs k = tabGet x d.regs k)
      ∧ ∀ b : Block, b.page ≠ 0 → pget e b = pget d b)
  ∧ (∀ (s : State) (p : Path) (off : BitVec 20) (bytes cause : Nat) (v : Word), presents s.dev p = true →
      let a : WinAcc := { path := p, off := off.toNat, bytes := bytes, write := true }
      refusal s a = some cause →
      exec (.registerWrite p off bytes v) s = .next (onDev s
        (if p = .sideband then send (winRefuse s.dev a cause) (.sideband (sbResponse 2 off.toNat (sbStatus cause) none)) else winRefuse s.dev a cause)))
  ∧ (∀ (s : State) (p : Path) (off : BitVec 20) (bytes cause : Nat), presents s.dev p = true →
      let a : WinAcc := { path := p, off := off.toNat, bytes := bytes, slate := windowSlate s.dev p none }
      refusal s a = some cause →
      exec (.lowWordRead p off bytes) s = .next (onDev s
        (send (winRefuse s.dev a cause) (if p = .sideband then .sideband (sbResponse 1 off.toNat (sbStatus cause) none) else .regData p 0xFFFFFFFF))))
  ∧ (∀ (s : State) (p : Path) (v : Word), admitted s p .pgdir .pgdirWinErr = true →
      exec (.winErrClear p v) s = .next (wrote p .pgdir .pgdirWinErr (withDev s (rput (rput s.dev .pgdir .pgdirWinErr 0) .pgdir .pgdirWinErrCount 0))))

/-- A write of an ordinary register that the window admits: W1S bits are set by ones, W1C bits cleared by ones, RW bits take the value, SW bits take
it from the secure world, every other bit stays; CW bits wait for ACTION while the block is Cut, and set WRITE_REFUSED in any other state (R35, R42).
-/
def Obligations.RegisterWriteByCode : Prop :=
  ∀ (s : State) (p : Path) (b : Block) (n : RName) (i : Nat) (w : Word), admitted s p b n i = true → n ∈ regsHeader ++ b.regs → i < n.row.count →
    ordinary s p b n i w = true →
    ∃ (v : Word) (d : Dev),
      (∀ k, v.getLsbD k = (w.getLsbD k && n.row.w1s.getLsbD k
        || !(w.getLsbD k && n.row.w1c.getLsbD k)
          && (if n.row.rw.getLsbD k || decide (p = .secure) && n.row.sw.getLsbD k then w.getLsbD k else (rget s.dev b n i).getLsbD k)))
      ∧ (n.row.cw = 0 → d = rput s.dev b n v i)
      ∧ (n.row.cw ≠ 0 → (pget s.dev b).run = .cut → d = stage (rput s.dev b n v i) b n i w)
      ∧ (n.row.cw ≠ 0 → (pget s.dev b).run ≠ .cut → d = pmod (rput s.dev b n v i) b fun x => { x with writeRefused := true })
      ∧ exec (.registerWrite p (regOff b n i) 4 w) s = .next (wrote p b n { s with dev := d } i)

/-- Reads of registers: a plain register reads as its value and changes nothing; the low word of a 64-bit register latches the high word, and the next
read of the high word on the same path takes it from the latch (R24, R25). The counter and view pages read live counts. That a high word read without
a latch gives the current value is the model's reading (log entry 27). -/
def Obligations.RegisterReads : Prop :=
  (∀ (s : State) (p : Path) (b : Block) (n : RName) (i : Nat), readable s p b n i = true → (∀ k, b ≠ .daily k) → n ∈ regsHeader ++ b.regs →
    i < n.row.count →
    (highOf n = none → lowOf n = none →
      exec (.lowWordRead p (regOff b n i) 4) s = .next (onDev s (readAnswer s.dev p (regKey b n i) (readReg s p b n i))))
    ∧ (∀ h, highOf n = some h →
      exec (.lowWordRead p (regOff b n i) 4) s = .next (onDev s (readAnswer
        { s.dev with latches := tabMod {} s.dev.latches (latchKey p b.page) fun l => { l with rd := some (regKey b n i, readReg s p b h i) } }
        p (regKey b n i) (readReg s p b n i))))
    ∧ (∀ l x, highOf n = none → lowOf n = some l → (tabGet {} s.dev.latches (latchKey p b.page)).rd = some (regKey b l i, x) →
      exec (.lowWordRead p (regOff b n i) 4) s = .next (onDev s (readAnswer
        { s.dev with latches := tabMod {} s.dev.latches (latchKey p b.page) fun l => { l with rd := none } } p (regKey b n i) x))))
  ∧ (∀ (s : State) (p : Path) (slate : Option (BitVec 20)) (v : Fin 48), presents s.dev p = true →
      refusal s { path := p, off := (0xD0 + v.val) * 4096 + 0x40, slate := windowSlate s.dev p slate } = none →
      exec (.viewPageRead p slate v 0x40) s = .next (onDev s (readAnswer s.dev p ((0xD0 + v.val) * 4096 + 0x40) (viewClassReg s.dev v))))

/-- Register messages over the sideband (R26): a read is answered with the word, a write with a response, a request that is too short with STATUS
0x04, one beyond the window with 0x03, one the window refuses with its cause; another opcode is discarded; the main address of a sleeping device is
answered with a NACK and wakes it (R370); the RETRY of a failed wake starts it again (R371). That a response carries the request's offset bytes, and
what the service address is refused, is the model's reading (log entries 31, 32). -/
def Obligations.SidebandMessages : Prop :=
  (∀ (s : State) (a : SbAddr) (b : Block) (n : RName) (i : Nat) (rest : List Byte), domOn s.dev 0 = true → (a = .main → s.dev.pwr.mode ≠ .retain) →
      4 ≤ rest.length → n ∈ regsHeader ++ b.regs → i < n.row.count → (∀ k, b ≠ .daily k) → highOf n = none → lowOf n = none →
      blockOf s.dev (regKey b n i / 4096) = some b → refusal s { path := .sideband, off := regKey b n i } = none →
      (a = .service → aoPage (regKey b n i / 4096) = true) →
      exec (.sidebandRead a (1 :: bytesOf (regKey b n i) 3 ++ rest)) s
        = .next (onDev s (send s.dev (.sideband (sbResponse 1 (regKey b n i) 0 (some (readReg s .sideband b n i)))))))
  ∧ (∀ (s : State) (a : SbAddr) (b : Block) (n : RName) (i : Nat) (v : Word) (w x y z : Byte) (rest : List Byte), domOn s.dev 0 = true →
      (a = .main → s.dev.pwr.mode ≠ .retain) → n ∈ regsHeader ++ b.regs → i < n.row.count → highOf n = none → lowOf n = none →
      admitted s .sideband b n i = true → (a = .service → aoPage (regKey b n i / 4096) = true) →
      exec (.sidebandWrite a (2 :: bytesOf (regKey b n i) 3 ++ [w, x, y, z] ++ bytesOf v.toNat 4 ++ rest)) s
        = .next (wrote .sideband b n (writeReg s .sideband b n i v) i))
  ∧ (∀ (s : State) (a : SbAddr) (op : Byte) (rest : List Byte), domOn s.dev 0 = true → (a = .main → s.dev.pwr.mode ≠ .retain) → (op = 1 ∨ op = 2) →
      rest.length < (if op = 2 then 11 else 7) →
      exec (if op = 2 then .sidebandWrite a (op :: rest) else .sidebandRead a (op :: rest)) s
        = .next (onDev s (send (winRefuse s.dev { path := .sideband, off := ofBytes (rest.take 3) % 2 ^ 20, write := decide (op = 2) } 3)
            (.sideband (sbResponse op.toNat (ofBytes (rest.take 3)) 4 none)))))
  ∧ (∀ (s : State) (a : SbAddr) (op : Byte) (rest : List Byte), domOn s.dev 0 = true → (a = .main → s.dev.pwr.mode ≠ .retain) → op ≠ 1 → op ≠ 2 →
      exec (.sidebandOtherOpcode a (op :: rest)) s = .next s)
  ∧ (∀ (s : State) (body : List Byte), domOn s.dev 0 = true → s.dev.pwr.mode = .retain →
      exec (.sidebandRead .main body) s = .next (onDev s (wakeEvent (send s.dev .nack) 0)))
  ∧ (∀ (s : State), domOn s.dev 0 = true → s.dev.pwr.mode = .retain → s.dev.pwr.wakeFail = true → admitted s .sideband .pwr .pwrWakeStat = true →
      exec (.wakeRetry .service) s = .next (wrote .sideband .pwr .pwrWakeStat (withDev s (wakeStart (deassert { s.dev with pwr := { s.dev.pwr with wakeFail := false, failStep := 0 } } .pwr 0)))))

/-- Requests of RUN_CTL (R40, R41, R42, R43): Rolling becomes Cutting; an ACTION with consistent settings makes Cut Rolling with all of them, an
inconsistent one leaves it Cut with WRITE_REFUSED set; a reset of a Cut block makes it Resetting with the page's registers at their reset values; a
fence request fences the block's unit. A request with two bits, for an absent capability or in a state that does not allow it sets WRITE_REFUSED and
changes nothing else. What ends a cut, a reset and a pace window, what a stall reports, and the clearing of WIN_ERR (R14, R17, R30, R41, R43). The
cycle time is the number nearest to a million picoseconds by the count of cycles in the window. That a reset's registers return at the write is the
model's reading (log entry 34). -/
def Obligations.RunControl : Prop :=
  (∀ (s : State) (p : Path) (b : Block) (v : Word), admitted s p b .hdrRunCtl = true → fld v 3 0 = 0 →
    (b.caps.1 = true → (pget s.dev b).run = .rolling →
      exec (.cut p (BitVec.ofNat 8 b.page) v) s = .next (wrote p b .hdrRunCtl (withDev s (pmod s.dev b fun x => { x with run := .cutting }))))
    ∧ (b.caps.1 = true → (pget s.dev b).run = .cutting ∨ (pget s.dev b).run = .cut →
      exec (.cut p (BitVec.ofNat 8 b.page) v) s = .next (wrote p b .hdrRunCtl s))
    ∧ (b.caps.1 = true → (pget s.dev b).run = .rolling → exec (.action p (BitVec.ofNat 8 b.page) v) s = .next (wrote p b .hdrRunCtl s))
    ∧ (b.caps.2.2 = true → (pget s.dev b).run = .fenced → exec (.fenceReq p (BitVec.ofNat 8 b.page) v) s = .next (wrote p b .hdrRunCtl s))
    ∧ (b.caps.1 = true → (pget s.dev b).run = .cut → actionOk s.dev b = true →
      exec (.action p (BitVec.ofNat 8 b.page) v) s
        = .next (wrote p b .hdrRunCtl (withDev s (actionGo (pmod (takeStaged s.dev b) b fun x => { x with run := .rolling }) b))))
    ∧ (b.caps.1 = true → (pget s.dev b).run = .cut → actionOk s.dev b = false →
      exec (.action p (BitVec.ofNat 8 b.page) v) s = .next (wrote p b .hdrRunCtl (withDev s (pmod s.dev b fun x => { x with writeRefused := true }))))
    ∧ (b.caps.2.1 = true → (pget s.dev b).run = .cut ∨ (pget s.dev b).run = .fenced ∧ fenceRecorded s.dev b = false →
      exec (.blockReset p (BitVec.ofNat 8 b.page) v) s = .next (wrote p b .hdrRunCtl (withDev s (resetBlock (resetRegs (pmod s.dev b fun x => { x with run := .resetting, fencedBy := none, fenceAtEnd := none }) b) b))))
    ∧ (b.caps.2.2 = true → (pget s.dev b).run ≠ .resetting → (pget s.dev b).run ≠ .fenced →
      exec (.fenceReq p (BitVec.ofNat 8 b.page) v) s = .next (wrote p b .hdrRunCtl (withDev s (softFencePage s.dev b))))
    ∧ (∀ (u : Word) (c : Instr), c ∈ [Instr.cut p (BitVec.ofNat 8 b.page) u, .action p (BitVec.ofNat 8 b.page) u, .blockReset p (BitVec.ofNat 8 b.page) u,
          .fenceReq p (BitVec.ofNat 8 b.page) u] → runRefusal s.dev b c = true →
      exec c s = .next (wrote p b .hdrRunCtl (withDev s (pmod s.dev b fun x => { x with writeRefused := true })))))
  ∧ ((∀ (s : State) (page : BitVec 8) (b : Block), blockOf s.dev page.toNat = some b → (pget s.dev b).run = .cutting → domOn s.dev b.domain = true →
      blockQuiet s.dev b = true → exec (.cutDone page) s = .next (onDev s (pmod s.dev b fun x => { x with run := .cut })))
  ∧ (∀ (s : State) (page : BitVec 8) (b : Block), blockOf s.dev page.toNat = some b → (pget s.dev b).run = .resetting → domOn s.dev b.domain = true →
      ((pget s.dev b).fenceAtEnd = none → exec (.blockResetEnd page) s = .next (onDev s (pmod s.dev b fun x => { x with run := .cut })))
      ∧ ∀ f, (pget s.dev b).fenceAtEnd = some f →
        exec (.blockResetEnd page) s = .next (onDev s (pmod s.dev b fun x => { x with run := .fenced, fencedBy := some f, fenceAtEnd := none })))
  ∧ (∀ (s : State) (p : Path) (v : Word), admitted s p .pgdir .pgdirWinErr = true →
      exec (.winErrClear p v) s = .next (wrote p .pgdir .pgdirWinErr (withDev s (rput (rput s.dev .pgdir .pgdirWinErr 0) .pgdir .pgdirWinErrCount 0))))
  ∧ (∀ (s : State) (m : Fin 5) (count n : Nat), domOn s.dev (paceBlock m).domain = true → domOn s.dev 3 = true → n < 2 ^ 16 →
      2 * count * n < 2000000 + count → 2000000 < 2 * count * n + count →
      exec (.paceWindowEnd m count) s = .next (onDev s (rput { s.dev with freeCtr := s.dev.freeCtr + 1 } (paceBlock m) .pace (packW [(0, n), (31, 1)]))))
  ∧ (∀ (s : State) (u : FUnit) (id : BitVec 16) (slate : Slate) (began : DWord), domOn s.dev 3 = true →
      (2 ≤ sevOf s.dev 0 → exec (.stageStall u id slate began) s = .next (onDev s (raise s.dev .flt 0 u (ctxStall id.toNat slate.toNat began.toNat))))
      ∧ (sevOf s.dev 0 < 2 → ∃ e, exec (.stageStall u id slate began) s = .next (onDev s e) ∧ e.flt.stalls = s.dev.flt.stalls ++ [(u, id)]
          ∧ e.unreported = s.dev.unreported ∧ e.flt.latched.getLsbD 0 = true)))

/-- Settling a step that owes nothing changes the mode, the quadrants' capacity levels and the page events alone; in Boot and Retain it changes
nothing. -/
def Obligations.SettlingOwesNothing : Prop :=
  (∀ (s : State) (d : Dev), quiet d = true →
    ∃ (m : Mode) (Q : Tab Quad) (P : Tab (Option PageSt)), onDev s d = { s with dev := { d with pwr := { d.pwr with mode := m }, quads := Q, pages := P } })
  ∧ ∀ (s : State) (d : Dev), quiet d = true → (d.pwr.mode = .boot ∨ d.pwr.mode = .retain) → onDev s d = { s with dev := d }

/-- Raising a source latches its bit and leaves everything outside the Continuity state, the registers, the page events, the event logs, what is sent
and the reactions owed as it was (R397). -/
def Obligations.RaiseLatches : Prop :=
  ∀ (d : Dev) (b : Block) (i : Nat) (u : FUnit) (ctx : BitVec 256) (cond inj : Bool) (named : List Nat), srcId b i < 512 →
    (raise d b i u ctx cond inj named).flt.latched.getLsbD (srcId b i) = true
    ∧ (∀ k, k ≠ srcId b i → (raise d b i u ctx cond inj named).flt.latched.getLsbD k = d.flt.latched.getLsbD k)
    ∧ (raise d b i u ctx cond inj named).unreported = d.unreported

/-- A stored place reads as what was last written to it, every other place as before, and the list of places keeps its canonical form. The word that a
line is stored as shows the line again once it is unsealed, in every range and profile (R128, R154). What a place reads as that nothing has written is
the model's choice (log entry 12). -/
def Obligations.StoredPlaceReadsBack : Prop :=
  ∀ (d : Dev) (loc : Nat) (w : Stored), dramGet (dramPut d loc w) loc = w
    ∧ (∀ k, k ≠ loc → dramGet (dramPut d loc w) k = dramGet d k)
    ∧ (Memory.wf d = true → Memory.wf (dramPut d loc w) = true)
    ∧ (∀ (line : Nat) (x : Line), unsealLine d line (wordData (lineWord d line x)) = x)

/-- Requests of a host that Stage answers at once, on a line that no directory tracks and whose way is clear (R20, R45, R202): a read returns the line
without poison and grants no state; an ownership request and an eviction notice are completed; a speculative read answers nothing. No line of Stage
and no stored place changes. Writes of a host to an Open line that Stage holds, on a clear way (R20, R58, R64): the new line stands in Stage, every
other line and every stored place is as before, and the write is completed. How a decoder maps an address is CXL's, taken over by the model (log entry
14). -/
def Obligations.HostReadsAndWrites : Prop :=
  (∀ (s : State) (p : Fin 16) (tag dpa : Nat) (h : Hdm) (hpa : BitVec 64) (env : Env), hpaToDpa s.dev p hpa.toNat = some (dpa, h) →
    wayClear s.dev p env (port s.dev p).memBroken (dpa / 64) (fallbackSlate s.dev p (frameOf (pageOfLine (dpa / 64)))) = true →
    (∀ x, stageFind s.dev (dpa / 64) = some x →
      (∀ m, ∃ e, exec (.memRd p tag hpa m env) s = .next (onDev s e) ∧ Served s.dev e ∧ SameStage s.dev e
        ∧ e.out = .memData p tag x false 0 :: s.dev.out)
      ∧ (∃ e, exec (.memRdData p tag hpa env) s = .next (onDev s e) ∧ Served s.dev e ∧ SameStage s.dev e
        ∧ e.out = .memData p tag x false 0 :: s.dev.out))
    ∧ (∃ e, exec (.memInv p tag hpa env) s = .next (onDev s e) ∧ Served s.dev e ∧ SameStage s.dev e ∧ e.out = .memCmp p tag 0 :: s.dev.out)
    ∧ (∃ e, exec (.memInvNt p tag hpa env) s = .next (onDev s e) ∧ Served s.dev e ∧ SameStage s.dev e ∧ e.out = .memCmp p tag 0 :: s.dev.out)
    ∧ (∃ e, exec (.memClnEvct p tag hpa env) s = .next (onDev s e) ∧ Served s.dev e ∧ SameStage s.dev e ∧ e.out = .memCmp p tag 0 :: s.dev.out)
    ∧ (∃ e, exec (.memSpecRd p hpa env) s = .next (onDev s e) ∧ Served s.dev e ∧ SameStage s.dev e ∧ e.out = s.dev.out))
  ∧ (∀ (s : State) (p : Fin 16) (tag dpa : Nat) (h : Hdm) (hpa : BitVec 64) (env : Env) (x : Line), hpaToDpa s.dev p hpa.toNat = some (dpa, h) →
    wayClear s.dev p env (port s.dev p).memBroken (dpa / 64) (fallbackSlate s.dev p (frameOf (pageOfLine (dpa / 64)))) = true →
    openLine s.dev (dpa / 64) = true → stageOwn s.dev (dpa / 64) x = true →
    (∀ m data, ∃ e, exec (.memWr p tag hpa m data false env) s = .next (onDev s e) ∧ Served s.dev e
      ∧ (∀ l, stageFind e l = if l = dpa / 64 then some data else stageFind s.dev l) ∧ e.out = .memCmp p tag 0 :: s.dev.out)
    ∧ (∀ m data mask, ∃ e, exec (.memWrPtl p tag hpa m data mask env) s = .next (onDev s e) ∧ Served s.dev e
      ∧ (∀ l, stageFind e l = if l = dpa / 64 then some (mergeLine x data mask) else stageFind s.dev l) ∧ e.out = .memCmp p tag 0 :: s.dev.out))

/-- CXL.io requests inside one line that Stage holds, on a clear way (R45, R204, R231): a read returns the bytes asked for, a write merges its bytes
and is posted, an atomic returns the old value and leaves the new one. That a CXL.io request acts as no caching agent is the model's reading (log
entry 19). -/
def Obligations.HostIo : Prop :=
  ∀ (s : State) (p : Fin 16) (tag : Nat) (dpa : Dpa) (pasid : Option (BitVec 20)) (env : Env) (x : Line),
    wayClear s.dev p env (port s.dev p).ioBroken (dpa.toNat / 64) (ioSlate s.dev p pasid (pageOfLine (dpa.toNat / 64))) = true →
    (∀ len, 0 < len → dpa.toNat % 64 + len ≤ 64 → stageFind s.dev (dpa.toNat / 64) = some x → s.dev.ioReads = [] →
      ∃ e, exec (.ioMemRead p tag dpa len pasid env) s = .next (onDev s e) ∧ Served s.dev e ∧ SameStage s.dev e
        ∧ e.out = .ioData p tag (lineBytes x (dpa.toNat % 64) len) false :: s.dev.out)
    ∧ (openLine s.dev (dpa.toNat / 64) = true → stageOwn s.dev (dpa.toNat / 64) x = true →
      (∀ bytes : List Byte, 0 < bytes.length → dpa.toNat % 64 + bytes.length < 64 →
        ∃ e, exec (.ioMemWrite p tag dpa bytes pasid env) s = .next (onDev s e) ∧ Served s.dev e ∧ e.out = s.dev.out
          ∧ ∀ l, stageFind e l = if l = dpa.toNat / 64 then
              some (mergeLine x (BitVec.ofNat 512 (ofBytes bytes * 2 ^ (8 * (dpa.toNat % 64))))
                (BitVec.ofNat 64 ((2 ^ bytes.length - 1) * 2 ^ (dpa.toNat % 64)))) else stageFind s.dev l)
      ∧ (∀ op bits operand compare, hostAtomicOk op bits dpa.toNat = true →
        ∃ e, exec (.atomicOp p tag dpa op bits operand compare pasid env) s = .next (onDev s e) ∧ Served s.dev e
          ∧ e.out = .ioAtomic p tag (lineAtomic x op bits (dpa.toNat % 64) operand compare).2 :: s.dev.out
          ∧ ∀ l, stageFind e l = if l = dpa.toNat / 64 then some (lineAtomic x op bits (dpa.toNat % 64) operand compare).1 else stageFind s.dev l))

/-- What an agent's answer to a snoop does while other agents are awaited (R213): a holder that gave the line up leaves the vector, one that kept it
shared stays; a conflict is acknowledged. What a snoop's time limit does (R217): it is counted and reported, and the agent stands as having given the
line up without data. -/
def Obligations.SnoopAnswers : Prop :=
  (∀ (s : State) (p : Fin 16) (line : LineNo) (t : Trans) (x : Nat), (port s.dev p).up = true → peerSnoopFor s.dev line.toNat p = none →
      transFor s.dev line.toNat = some t → t.peers = [] → p.val ∈ t.await → x ∈ t.await → x ≠ p.val →
      (exec (.biRspI p line) s = .next (onDev s
        (qmod (dirPut (if t.marked.contains p.val then s.dev else rbump s.dev (.dir (lineQuad line.toNat)) .dirStaleCount) line.toNat
            { dirEnt s.dev line.toNat with vector := (dirEnt s.dev line.toNat).vector &&& ~~~(agentBit p) }) (lineQuad line.toNat)
          fun y => { y with trans := mapIf (fun z => z.line = t.line) (fun z => { z with peers := [], await := z.await.filter (· ≠ p.val) }) y.trans })))
      ∧ (t.state = .downgrading → exec (.biRspS p line) s = .next (onDev s (qmod s.dev (lineQuad line.toNat)
          fun y => { y with trans := mapIf (fun z => z.line = t.line) (fun z => { z with peers := [], await := z.await.filter (· ≠ p.val) }) y.trans }))))
  ∧ (∀ (s : State) (p : Fin 16) (line : LineNo), (port s.dev p).up = true →
      exec (.biConflict p line) s = .next (onDev s { s.dev with out := .biConflictAck p line.toNat :: s.dev.out }))
  ∧ (∀ (s : State) (q : Fin 4) (line : LineNo) (agent : Fin 24) (t : Trans), peerSnoopFor s.dev line.toNat agent = none →
      transFor s.dev line.toNat = some t → agent.val ∈ t.await →
      exec (.snoopTimeout q line agent) s = .next (onDev s (unanswered
        (raise (rbump s.dev (.dir (lineQuad line.toNat)) .dirTimeoutCount) (.dir (lineQuad line.toNat)) 1 .none
          (ctxCoh (.dir (lineQuad line.toNat)) 0 t.state.code agent (line.toNat * 64))) line.toNat agent)))

/-- The end of a transaction (R209, R212, R219, R226): when the home's data is in and every answer with it, a host's shared read is answered with the
line and the Shared state and its transaction closes; the oldest request in the queue that may proceed enters its home; the oldest window of a
remembered atomic ends, which weakens the predictor where it saw no conflict; a probe shows the entry of its line. That a probe of an absent entry
shows 0 is the model's reading (log entry 98). -/
def Obligations.TransactionsEnd : Prop :=
  (∀ (s : State) (q : Fin 4) (line : LineNo) (t : Trans) (p : Fin 16) (tag : Nat) (x : Line), lineQuad line.toNat = q →
      transOf s.dev line.toNat = some t → t.line = line.toNat → t.homeReady = true → t.await = [] → t.state = .awaitData → t.poison = false →
      t.data = some x → t.req.src = .host p tag → t.req.kind = .rs → t.req.line = line.toNat → tracked s.dev line.toNat = true →
      (port s.dev p).up = true → (port s.dev p).upId ≤ t.req.id →
      ∃ e, exec (.homeDataReady q line) s = .next (onDev s e) ∧ e = { s.dev with out := .memData p tag x false 1 :: s.dev.out, quads := e.quads, daily := e.daily }
        ∧ transOf e line.toNat = none)
  ∧ (∀ (s : State) (q : Fin 4) (w : Waiting), oldestWait (s.dev.waits.filter fun x => atWait q .queue x && queueReady s.dev x) = some w →
      ∃ e, exec (.queueAdmit q false) s = .next (onDev s e)
        ∧ e = { enterHome { s.dev with waits := s.dev.waits.filter fun x => x.req.id ≠ w.req.id } w.req with waits := e.waits })
  ∧ (∀ (s : State) (q : Fin 4) (a : AtmMem) (rest : List AtmMem), (quad s.dev q).atms = a :: rest →
      exec (.atomWindowEnd q) s = .next (onDev s (qmod s.dev q fun x =>
        { x with atms := rest, pred := if a.hit then x.pred else tabMod 1 x.pred (predHash a.line) fun c => c - 1 })))
  ∧ (∀ (s : State) (p : Path) (q : Fin 4) (v : Word) (line : Nat), admitted s p (.dir q) .dirProbeCtl = true →
      line = (rget s.dev (.dir q) .dirProbeLineLo).toNat + rfld s.dev (.dir q) .dirProbeLineHi 6 0 * 2 ^ 32 →
      (lineQuad line ≠ q → exec (.dirProbe p q v) s = .next (wrote p (.dir q) .dirProbeCtl (withDev s (rput s.dev (.dir q) .dirProbeCtl 0xA))))
      ∧ (∀ w e, lineQuad line = q → asFind (tabGet {} (quad s.dev q).dir (dirSet line)) line = some (w, e) →
        exec (.dirProbe p q v) s = .next (wrote p (.dir q) .dirProbeCtl (withDev s (rput (rput (rput s.dev (.dir q) .dirProbeEntryLo
          ((dirWord line e ((quad s.dev q).trans.any fun t => t.line = line)).setWidth 32)) (.dir q) .dirProbeEntryHi
          ((dirWord line e ((quad s.dev q).trans.any fun t => t.line = line) >>> 32).setWidth 32)) (.dir q) .dirProbeCtl 6)))))

/-- The map cache and Stage of a quadrant (R58, R60, R61, R66): a map line that arrives installs the entry that a request waits for, ends the miss and
lets the requests of the line go on; a page bound takes its entry and the writes that waited for it go on; the oldest write-back that can leave goes
to its place, is charged to its class and leaves the buffer. The flush engine of a quadrant (R69): a start with OP 1, 2 or 3 takes the lines of its
range at once, one with OP 0 does nothing, and one while a flush runs sets BUSY_REFUSED; a locked line of the range is written out when its lock ends,
and the flush is done when none is left. -/
def Obligations.MapAndStage : Prop :=
  ((∀ (s : State) (q : Fin 4) (l i : Nat) (rest : List Nat) (d : Dev), (quad s.dev q).miss = l :: rest → i < 8 →
      (rget s.dev (.map q) .mapCfg).getLsbD 1 = false →
      (∀ k, k < 8 → (s.dev.waits.any fun w => atWait q .map w && decide (localPage (pageOfLine w.req.line) = l * 8 + k)) = decide (k = i)) →
      installSmall s.dev q (l * 8 + i) = some d →
      exec (.mapLineFill q 0) s = .next (onDev s (retry (qmod d q fun x => { x with miss := rest })
        fun w => atWait q .map w && localPage (pageOfLine w.req.line) / 8 = l)))
  ∧ (∀ (s : State) (q : Fin 4) (page mpn : Nat) (rest : List (Nat × Nat)), (quad s.dev q).binds = (page, mpn) :: rest →
      (∀ w ∈ s.dev.waits, ¬ (atWait q .bind w = true ∧ pageOfLine w.req.line = page)) →
      exec (.pageBindComplete q) s = .next (onDev s (frameWholeSet (settleMarks
        (setEntry (qmod s.dev (homeOf page) fun x => { x with binds := x.binds.filter fun b => b.1 ≠ page }) page (openEntry mpn (heatNow s.dev page)))
        page (openEntry mpn (heatNow s.dev page))) page)))
  ∧ (∀ (s : State) (q : Fin 4) (w : WbEnt) (rest : List WbEnt) (d : Dev), (quad s.dev q).wb = w :: rest → writeBack s.dev w.line w.data = some d →
      exec (.stageWriteBack q) s = .next (onDev s (retry (wbCharge (qmod d q fun x => { x with wb := x.wb.filter fun y => y.line ≠ w.line }) q w.cls)
        fun x => atWait q .stage x))))
  ∧ ((∀ (s : State) (p : Path) (q : Fin 4), admitted s p (.stage q) .stageFlushCtl = true →
      ((quad s.dev q).flush = none →
        (exec (.flushRange p q) s = .next (wrote p (.stage q) .stageFlushCtl (withDev s (flushRun (flushSet s.dev q 1) q (softFlush s.dev q 1)))))
        ∧ (exec (.cleanRange p q) s = .next (wrote p (.stage q) .stageFlushCtl (withDev s (flushRun (flushSet s.dev q 2) q (softFlush s.dev q 2)))))
        ∧ (exec (.flushAll p q) s = .next (wrote p (.stage q) .stageFlushCtl (withDev s (flushRun (flushSet s.dev q 3) q (softFlush s.dev q 3)))))
        ∧ exec (.flushNone p q) s = .next (wrote p (.stage q) .stageFlushCtl (withDev s (flushSet s.dev q 0))))
      ∧ ((quad s.dev q).flush.isSome = true → ∀ c op, (c, op) ∈ [(Instr.flushRange p q, 1), (.cleanRange p q, 2), (.flushAll p q, 3)] →
        exec c s = .next (wrote p (.stage q) .stageFlushCtl (withDev s
          (rput (flushSet s.dev q op) (.stage q) .stageFlushStat (rget s.dev (.stage q) .stageFlushStat ||| 4))))))
  ∧ (∀ (s : State) (q : Fin 4) (line : LineNo) (f : Flush) (x : Line) (d : Dev), (quad s.dev q).flush = some f → line.toNat ∈ (quad s.dev q).lockedFlush →
      (quad s.dev q).trans = [] → f.discards = false → stageFind s.dev line.toNat = some x → stageDirty s.dev line.toNat = true →
      writeBack s.dev line.toNat x = some d → (∀ w ∈ s.dev.waits, atWait q .stage w = false) → d.waits = s.dev.waits →
      exec (.lockedLineFlush q line) s = .next (onDev s (flushedLine (qmod d q fun x => { x with lockedFlush := x.lockedFlush.filter fun l => l ≠ line.toNat })
        f.op line.toNat)))
  ∧ (∀ (s : State) (q : Fin 4) (f : Flush), (quad s.dev q).flush = some f → (quad s.dev q).lockedFlush = [] → (quad s.dev q).flushQ = [] →
      f.by_ = .software → (∀ w ∈ s.dev.waits, atWait q .stage w = false) →
      exec (.flushDone q) s = .next (onDev s (qmod (rput s.dev (.stage q) .stageFlushStat (rget s.dev (.stage q) .stageFlushStat ||| 2)) q
        fun x => { x with flush := none }))))

/-- Heat and its lists (R74, R75, R76): at an epoch boundary the heat of every cached entry is halved and nothing else changes; the demotion scanner
looks at the next eight pages of its quadrant and moves on, round to the first. The steps of a move (R77, R78, R79, R80, R82): an urgent promotion
that can start starts before any other; a page read is the data to be moved; a page packed is stored and its entry switched; the old place is freed
when nothing reads it, and the move is over. -/
def Obligations.HeatAndMoves : Prop :=
  ((∀ s : State, ∃ e, exec .epochBoundary s = .next (onDev s e) ∧ e = { s.dev with quads := e.quads }
      ∧ ∀ q : Fin 4, quad e q = { quad s.dev q with mapSets := (quad s.dev q).mapSets.map fun x =>
          (x.1, { x.2 with ways := x.2.ways.map fun y => (y.1, y.2.1, match y.2.2 with
            | .small v c => if heatOf v = 0 then .small v c else .small (withHeat v (heatOf v / 2)) true
            | .large b h c => .large b (h / 2) (c || decide (h ≠ 0))) }) })
  ∧ (∀ (s : State) (q : Fin 4), dollyRuns s.dev q = true → granted s.dev 4 = true → 0 < localPages s.dev q →
      ∃ e, exec (.demotionScan q) s = .next (onDev s e) ∧ e = { s.dev with quads := e.quads, mapShare := e.mapShare }
        ∧ (quad e q).scanPos = (if ((quad s.dev q).scanPos + 1) * 8 < localPages s.dev q then (quad s.dev q).scanPos + 1 else 0)
        ∧ (quad e q).stage = (quad s.dev q).stage ∧ (quad e q).move = (quad s.dev q).move))
  ∧ ((∀ (s : State) (q : Fin 4) (page : Nat), dollyRuns s.dev q = true → (quad s.dev q).move = none → (quad s.dev q).urgent = [page] →
      tierOf (entryNow s.dev page) = .packed → urgentReady s.dev q page = true →
      ∃ e m, exec (.dollyMoveStart q) s = .next (onDev s e) ∧ (quad e q).move = some m ∧ m.kind = 2 ∧ m.urgent = true ∧ m.page = page
        ∧ m.phase = .started ∧ e.dram = s.dev.dram ∧ (quad e q).urgent = [] ∧ (quad e q).moveSeq = (quad s.dev q).moveSeq + 1)
  ∧ (∀ (s : State) (q : Fin 4) (m : Move), (quad s.dev q).move = some m → m.phase = .started → m.kind = 2 →
      (m.ready = true ∨ engineOn s.dev q m.page = true) → (needsSeal s.dev m.page && sealDown s.dev q) = false →
      exec (.moveSourceReady q) s = .next (onDev s (openSource s.dev q m)))
  ∧ (∀ (s : State) (q : Fin 4) (m : Move), (quad s.dev q).move = some m → m.phase = .taken → m.kind = 0 →
      exec (.moveDestinationWritten q) s = .next (onDev s (leaveOpen (journalPut (qmod (setEntryThrough (storePacked s.dev m.page m.newEntry m.data)
        m.page m.newEntry) q fun x => { x with move := some { m with phase := .switched } }) q { m with phase := .switched } 2) m.page)))
  ∧ (∀ (s : State) (q : Fin 4) (m : Move), (quad s.dev q).move = some m → m.phase = .switched → oldReads s.dev m = false → tierOf m.oldEntry = .open_ →
      exec (.moveFreeOld q) s = .next (onDev s (markDecode (qmod (journalIdle (setUse s.dev (homeOf m.page) (mpnOf m.oldEntry) .free) q) q
        fun x => { x with move := none }) q))))

/-- Extents of Dynamic Capacity and writes that wait for room (R84, R85, R86): the lowest extent not in use is offered to the next host and an event
says so; an offer lapses, oldest first; a host is asked for its newest extent and the request lapses; a write that waited for room goes on when there
is room; one that waited too long is poisoned, counted, reported and completed. -/
def Obligations.CapacityMoves : Prop :=
  (∀ (s : State) (x p : Nat), (rget s.dev (.dolly 1) .dolly1CapCfg).getLsbD 0 = true → capRuns s.dev = true → offerRoom s.dev = true →
      lowestUnoffered s.dev = some x → nextHost s.dev = some p →
      exec .extentOffer s = .next (onDev s (raiseEvent (logEvent { s.dev with cap := { s.dev.cap with offers := s.dev.cap.offers ++ [(x, p)], lastHost := p, lastOffer := some s.dev.pwr.now } } p 4 (.addCapacity x)) (.dolly 1) 0)))
  ∧ (∀ s : State, exec .offerLapse s = .next (onDev s { s.dev with cap := { s.dev.cap with offers := s.dev.cap.offers.drop 1 } }))
  ∧ (∀ (s : State) (p : Fin 16) (x : Nat), capRuns s.dev = true → (∃ q, q < 4 ∧ levelNow s.dev q ≠ 0) → s.dev.cap.release.all (fun r => decide (r.1 ≠ p.val)) = true →
      newestExtent s.dev p = some x →
      exec (.releaseCapacityRequest p) s = .next (onDev s (logEvent { s.dev with cap := { s.dev.cap with release := s.dev.cap.release ++ [(p.val, x)] } } p 4 (.releaseCapacity x))))
  ∧ (∀ (s : State) (p : Fin 16) (x : Nat), (p.val, x) ∈ s.dev.cap.release →
      exec (.releaseRequestLapse p) s = .next (onDev s { s.dev with cap := { s.dev.cap with release := s.dev.cap.release.filter fun r => r.1 ≠ p, lastRelease := (s.dev.cap.lastRelease.filter fun r => r.1 ≠ p.val) ++ [(p.val, s.dev.pwr.now)] } }))
  ∧ (∀ (s : State) (q : Fin 4), hasRoom s.dev q = true →
      exec (.writeWaitAdmit q) s = .next (onDev s (retry s.dev fun w => atWait q .room w)))
  ∧ (∀ (s : State) (q : Fin 4) (w : Waiting), oldestWait (s.dev.waits.filter (timedWait s.dev q)) = some w →
      (tierOf (entryNow s.dev (pageOfLine w.req.line)) = .open_ ∨ s.dev.poison.length < 4096) →
      ∃ d hs, poisonLine { s.dev with waits := s.dev.waits.filter fun x => x.req.id ≠ w.req.id } w.req.line .vendor = (d, hs)
        ∧ exec (.capacityWriteTimeout q) s = .next (onDev s (finishLost (raise (rbump d (.dolly 1) .dolly1Timeouts) (.dolly 1) 0 .none
          (ctxLine (.dolly 1) (finderOf w.req) (portOf w.req) w.req.slate 0 (w.req.line * 64) 0) false false hs) w.req)))

/-- A free pack engine takes the work the quadrant's local rule gives it (R92): a waiting page decode first; then an urgent Dolly move; then, where a
Dolly move and a job wait, the one whose kind did not run last; then whichever waits. A decode that ends well answers every read that waited for it
from the decoded page, and leaves the engine free (R95). Software fences (R15, R43): each newly written 1 fences its engine, pipe or sub-channel and
stays set in the register; a 1 that stands fences nothing again. What the fence record of a software fence holds is the model's reading (log entry
35). -/
def Obligations.PackEngineWork : Prop :=
  ((∀ (s : State) (q : Fin 4) (e : Fin 2), engAvailable s.dev q e = true → (pget s.dev (.pack q)).run = .rolling →
      (∀ x rest, (quad s.dev q).decodes = x :: rest → x.running = false → x.promote = false →
        (∀ p, ((quad s.dev q).engines.getD e {}).work ≠ some (.decode p)) →
        exec (.packEngineSchedule q e) s = .next (onDev s (markDecode (qmod (engMod s.dev q e fun g => { g with work := some (.decode x.page), aside := g.work }) q
          fun a => { a with decodes := mapIf (fun y => y.page = x.page) (fun y => { y with running := true }) a.decodes }) q)))
      ∧ ((quad s.dev q).decodes = [] → (quad s.dev q).engines.getD e {} = { lastJob := ((quad s.dev q).engines.getD e {}).lastJob } →
        (∀ page, moveWaiting s.dev q = some (page, true) →
          exec (.packEngineSchedule q e) s = .next (onDev s (markDecode (engMod s.dev q e fun g => { g with work := some (.promotion page), lastJob := false }) q)))
        ∧ (∀ page lane, moveWaiting s.dev q = some (page, false) → jobWaiting s.dev q = some lane →
          exec (.packEngineSchedule q e) s = .next (onDev s (markDecode (if ((quad s.dev q).engines.getD e {}).lastJob
            then engMod s.dev q e fun g => { g with work := some (.dolly page), lastJob := false }
            else engMod s.dev q e fun g => { g with work := some (.job lane), lastJob := true }) q)))
        ∧ (∀ lane, moveWaiting s.dev q = none → jobWaiting s.dev q = some lane →
          exec (.packEngineSchedule q e) s = .next (onDev s (markDecode (engMod s.dev q e fun g => { g with work := some (.job lane), lastJob := true }) q)))
        ∧ (∀ page, moveWaiting s.dev q = some (page, false) → jobWaiting s.dev q = none →
          exec (.packEngineSchedule q e) s = .next (onDev s (markDecode (engMod s.dev q e fun g => { g with work := some (.dolly page), lastJob := false }) q)))))
  ∧ (∀ (s : State) (q : Fin 4) (e : Fin 2) (page n : Nat) (d : Dev) (ls : List Line), ((quad s.dev q).engines.getD e {}).work = some (.decode page) →
      decodePacked s.dev .host page (entryNow s.dev page) = (d, some ls, n) → (rget d (.pack q) .packCfg).getLsbD 1 = false →
      (∀ x ∈ (quad s.dev q).decodes, x.promote = false) →
      exec (.packedPageDecode q e) s = .next (onDev s (((s.dev.waits.filter fun w => atWait q .decode w && pageOfLine w.req.line = page).map (·.req)).foldl
        (fun d r => serveData d r (some (ls.getD (r.line % 64) 0)) false)
        (qmod { engMod d q e fun g => { g with work := none, lastJob := false } with
            waits := d.waits.filter fun w => !(atWait q .decode w && pageOfLine w.req.line = page) } q
          fun a => { a with decodes := a.decodes.filter fun x => x.page ≠ page })))))
  ∧ ((∀ (s : State) (p : Path) (q : Fin 4) (v : Word), admitted s p (.pack q) .packEngFence = true →
      exec (.packEngFence p q v) s = .next (wrote p (.pack q) .packEngFence (withDev s
        (((List.range 2).filter fun k => v.getLsbD k && !(rget s.dev (.pack q) .packEngFence).getLsbD k).foldl (fun d k => softFenceEngine d q k) s.dev))))
  ∧ (∀ (s : State) (p : Path) (q : Fin 4) (v : Word), admitted s p (.seal q) .sealPipeFence = true →
      exec (.pipeFence p q v) s = .next (wrote p (.seal q) .sealPipeFence (withDev s
        (((List.range 4).filter fun k => v.getLsbD k && !(rget s.dev (.seal q) .sealPipeFence).getLsbD k).foldl (fun d k => softFencePipe d q k) s.dev))))
  ∧ (∀ (s : State) (p : Path) (c : Fin 16) (v : Word), admitted s p (.dmc c) .dmcSubFence = true →
      exec (.subFence p c v) s = .next (wrote p (.dmc c) .dmcSubFence (withDev s
        (((List.range 2).filter fun k => v.getLsbD k && !(subc s.dev (2 * c + k)).swFence).foldl (fun d k => softFenceSub d (2 * c + k)) s.dev)))))

/-- Commands on ranges (R133, R134): RANGE_SEL loads the staging registers; a command takes what they hold and is refused with RESULT 6 while another
runs; when it completes RESULT says whether it was accepted and the event is raised, whatever it was. A completed SET_RIGHTS puts in the hosts and the
two rights bits and nothing else of the range. -/
def Obligations.RangeCommands : Prop :=
  (∀ (s : State) (p : Path) (v : Word), admitted s p (.seal 0) .sealRangeSel = true →
      exec (.rangeSel p v) s = .next (wrote p (.seal 0) .sealRangeSel (withDev s (rangeSelWrite s.dev v))))
  ∧ (∀ v d, rget (rangeSelWrite d v) (.seal 0) .sealRangeSel = BitVec.ofNat 32 (fld v 5 0)
      ∧ rget (rangeSelWrite d v) (.seal 0) .sealRangeBase = BitVec.ofNat 32 (range d (fld v 5 0)).base
      ∧ rget (rangeSelWrite d v) (.seal 0) .sealRangeLen = BitVec.ofNat 32 (range d (fld v 5 0)).len
      ∧ rget (rangeSelWrite d v) (.seal 0) .sealRangeHosts = (range d (fld v 5 0)).hosts.setWidth 32)
  ∧ (∀ (s : State) (p : Path) (op : BitVec 3) (c : Instr), admitted s p (.seal 0) .sealRangeCmd = true →
      (c, op) ∈ [(Instr.rangeDefine p, (1 : BitVec 3)), (.rangeClear p, 2), (.rangeRetire p, 3), (.rangeRepaint p, 4), (.rangeSetRights p, 5), (.rangeCmdBadOp p op, op)] →
      (s.dev.rangeBusy.isSome = true →
        exec c s = .next (wrote p (.seal 0) .sealRangeCmd (withDev s { s.dev with rangeResult := 6 })))
      ∧ (s.dev.rangeBusy = none → exec c s = .next (wrote p (.seal 0) .sealRangeCmd (withDev s
          (rangeTaken s.dev op.toNat)))))
  ∧ (∀ (s : State) (c : RangeCmd), s.dev.rangeBusy = some c →
      (rangeRefusal s.dev c ≠ 0 →
        exec .rangeCmdComplete s = .next (onDev s (raiseEvent { s.dev with rangeBusy := none, rangeResult := rangeRefusal s.dev c } (.seal 0) 0)))
      ∧ (c.op = 5 → (range s.dev c.r).state = .active →
        exec .rangeCmdComplete s = .next (onDev s (raiseEvent (rangeMod { s.dev with rangeBusy := none, rangeResult := 0 } c.r
          fun x => { x with hosts := c.new.hosts, debugRd := c.new.debugRd, test := c.new.test }) (.seal 0) 0)))
      ∧ (rangeRefusal s.dev c = 0 →
        exec .rangeCmdComplete s = .next (onDev s (raiseEvent (rangeApply { s.dev with rangeBusy := none, rangeResult := 0 } c) (.seal 0) 0))))

/-- The life of a sweep (R135 to R143): flushing over, a retired slot is zeroised and the range filled; a filled page reads zero, its poison goes and
the edge moves on; a Repaint takes the page's words, writes them to the scratch page, then to their place, each with its journal step. -/
def Obligations.SweepsProceed : Prop :=
  (∀ (s : State) (r : Fin 64), (range s.dev r).state = .flushing → (range s.dev r).flushed = 0xF →
      ∃ e, exec (.rangeFlushDone r) s = .next (onDev s e)
        ∧ ((range s.dev r).cmd = 3 → (keySlot e (range s.dev r).keySlot).bound = false ∧ (keySlot e (range s.dev r).keySlot).key = 0)
        ∧ ((range s.dev r).cmd ≠ 3 → e.slots = s.dev.slots))
  ∧ (∀ (s : State) (q k : Fin 4) (page : Nat), sweepTarget s.dev q k false = some page → sweepFree s.dev page = true → pageWrites s.dev page = false →
      (needsSeal s.dev page && sealDown s.dev q) = false →
      (tierOf (entryNow s.dev page) = .unbacked → exec (.fillSweepPage q k) s
        = .next (onDev s (advanceEdge (sweepJournal (qmod (dropPagePoison s.dev page) q fun x => { x with sweepSeq := x.sweepSeq + 1 }) q k 2 page false) q k page)))
      ∧ (tierOf (entryNow s.dev page) = .open_ → exec (.fillSweepPage q k) s
        = .next (onDev s (advanceEdge (sweepJournal (qmod (dropPagePoison (storePage s.dev page (entryNow s.dev page) fun _ => 0) page) q
            fun x => { x with sweepSeq := x.sweepSeq + 1 }) q k 2 page false) q k page)))
      ∧ (tierOf (entryNow s.dev page) = .packed ∨ tierOf (entryNow s.dev page) = .span → exec (.fillSweepPage q k) s
        = .next (onDev s (advanceEdge (sweepJournal (qmod (dropPagePoison (unbindPage s.dev page) page) q
            fun x => { x with sweepSeq := x.sweepSeq + 1 }) q k 2 page false) q k page))))
  ∧ (∀ (s : State) (q k : Fin 4) (page : Nat), sweepTarget s.dev q k true = some page → (quad s.dev q).sweepPage = none → sweepFree s.dev page = true →
      pageWrites s.dev page = false → sealDown s.dev q = false →
      (tierOf (entryNow s.dev page) = .unbacked ∨ tierOf (entryNow s.dev page) = .span →
        exec (.repaintPageStart q k) s = .next (onDev s (advanceEdge s.dev q k page)))
      ∧ (tierOf (entryNow s.dev page) = .open_ ∨ tierOf (entryNow s.dev page) = .packed → ∃ d ws,
        repaintWords s.dev page (entryNow s.dev page) (range s.dev (sweep s.dev k).range).keySlot (range s.dev (sweep s.dev k).range).nextSlot = (d, ws)
        ∧ exec (.repaintPageStart q k) s = .next (onDev s (qmod d q fun a => { a with
            sweepSeq := a.sweepSeq + 1, sweepPage := some { slot := k, page, scratch := false, words := ws } }))))
  ∧ (∀ (s : State) (q : Fin 4) (x : SweepPage), (quad s.dev q).sweepPage = some x →
      (x.scratch = false → exec (.repaintScratchWritten q) s
        = .next (onDev s (sweepJournal (qmod s.dev q fun a => { a with sweepPage := some { x with scratch := true } }) q x.slot 1 x.page true)))
      ∧ (x.scratch = true → linedOf s.dev x.page = false → ∃ e, exec (.repaintPageDone q) s = .next (onDev s e)
        ∧ e = advanceEdge (qmod (sweepJournal (x.words.foldl (fun d w => pushWrite d (unitLoc d x.page (entryNow s.dev x.page) w.1) w.2) s.dev) q x.slot 2 x.page true)
            q fun a => { a with sweepPage := none }) q x.slot x.page))

/-- The scheduler of a sub-channel (R187, R188, R189, R191): a read whose row is open, with nothing else queued, goes on its way with the word DRAM
holds; a write whose row is open, with no read queued, stands in DRAM afterwards, and every other place is as it was. A read that comes back is handed
to the request that waits for it, with the errors of the channel in its word. The upkeep of a sub-channel (R192, R194): a refresh is postponed while
reads wait, within the limits; the temperature poll raises its event and its source when they begin and ends the source when no rank is over; an RFM
lowers the bank's activate count; calibration and tracking change nothing a register shows. -/
def Obligations.DramCommands : Prop :=
  ((∀ (s : State) (u : Fin 32) (ready : List Nat) (x : RdEnt), subRuns s.dev u = true → (subc s.dev u).rq = [x] → (subc s.dev u).wq = [] →
      (subc s.dev u).mode = .read → (subc s.dev u).panic = false → panicRead s.dev x = false → 0 < rfld s.dev (.dmc (u / 2)) .dmcWqHi 6 0 → (bankOf s.dev x.loc).1 ∈ ready →
      (bank s.dev u (bankOf s.dev x.loc).1).openRow = some (bankOf s.dev x.loc).2 →
      ∃ e, exec (.dramCommandIssue u ready) s = .next (onDev s e) ∧ (subc e u).rq = []
        ∧ (subc e u).flight = (subc s.dev u).flight ++ [{ x with word := some (dramGet s.dev x.loc) }] ∧ e.dram = s.dev.dram
        ∧ ∀ k : Nat, k ≠ u → subc e k = subc s.dev k)
  ∧ (∀ (s : State) (u : Fin 32) (ready : List Nat) (x : WqEnt), subRuns s.dev u = true → (subc s.dev u).rq = [] → (subc s.dev u).wq = [x] →
      (subc s.dev u).mode = .idleWrite → (subc s.dev u).panic = false → 1 < rfld s.dev (.dmc (u / 2)) .dmcWqHi 6 0 →
      locSub x.loc = u → (bankOf s.dev x.loc).1 ∈ ready → (bank s.dev u (bankOf s.dev x.loc).1).openRow = some (bankOf s.dev x.loc).2 →
      ∃ e, exec (.dramCommandIssue u ready) s = .next (onDev s e) ∧ (subc e u).wq = [] ∧ dramGet e x.loc = x.word
        ∧ ∀ k, k ≠ x.loc → dramGet e k = dramGet s.dev k)
  ∧ (∀ (s : State) (u : Fin 32) (err w : Stored) (x : RdEnt) (rest : List RdEnt) (r : Req), (subc s.dev u).flight = x :: rest →
      (subc s.dev u).alert = false → x.purpose = .req r → x.word = some w →
      exec (.dramReadComplete u err) s = .next (onDev s (retry (wordArrived (umod s.dev u fun a => { a with flight := rest }) r (w ^^^ err))
        fun a => a.wait = .queue && a.req.line = x.line))))
  ∧ ((∀ (s : State) (u : Fin 32) (rank : Fin 8), subFenced s.dev u = false → (subc s.dev u).selfRefresh = false → (subc s.dev u).alert = false →
      let p := (subc s.dev u).postponed.getD rank 0
      let limit := min (rfld s.dev (.dmc (u / 2)) .dmcCfg 14 12) Config.dimmPostpone
      ((subc s.dev u).rq ≠ [] → p < limit →
        exec (.refreshDue u rank) s = .next (onDev s (umod s.dev u fun a => { a with postponed := a.postponed.set rank (p + 1) })))
      ∧ ((subc s.dev u).rq = [] ∨ limit ≤ p →
        exec (.refreshDue u rank) s = .next (onDev s (umod ((List.range (p + 1)).foldl (fun d _ => refreshOne d u rank) s.dev) u
          fun a => { a with postponed := a.postponed.set rank 0 }))))
  ∧ (∀ (s : State) (u : Fin 32) (rank : Fin 8), subFenced s.dev u = false → (subc s.dev u).selfRefresh = false →
      ((subc s.dev u).twice.getLsbD rank = false → (subc s.dev u).hot.getLsbD rank = false →
        exec (.mr4Poll u rank true true) s = .next (onDev s (raise (raiseEvent (umod s.dev u fun a => { a with
          twice := a.twice ||| BitVec.ofNat 8 (2 ^ rank.val), hot := a.hot ||| BitVec.ofNat 8 (2 ^ rank.val) }) (.dmc (u / 2)) 1)
          (.dmc (u / 2)) 2 .none (ctxKind 0 (.dmc (u / 2))) true)))
      ∧ ((∀ k : Nat, k ≠ u → k / 2 = u / 2 → (subc s.dev k).hot = 0) → (subc s.dev u).hot = BitVec.ofNat 8 (2 ^ rank.val) →
        exec (.mr4Poll u rank false false) s = .next (onDev s (deassert (umod s.dev u fun a => { a with
          twice := a.twice &&& ~~~BitVec.ofNat 8 (2 ^ rank.val), hot := a.hot &&& ~~~BitVec.ofNat 8 (2 ^ rank.val) }) (.dmc (u / 2)) 2))))
  ∧ (∀ (s : State) (c : Fin 16), exec (.zqCalibration c) s = .next s ∧ exec (.dqsOscTracking c) s = .next s)
  ∧ (∀ (s : State) (u : Fin 32) (i : Nat), subRuns s.dev u = true → (dimmCfg s.dev (u / 2)).getLsbD 17 = true → Config.raaimt ≤ (bank s.dev u i).raa →
      (bank s.dev u i).openRow = none →
      ∃ e, exec (.rfmIssue u i) s = .next (onDev s e) ∧ (bank e u i).raa = (bank s.dev u i).raa - Config.raaimt
        ∧ (subc e u).retry.getLast? = some (.rfm i) ∧ e = { s.dev with subs := e.subs, banks := e.banks }))

/-- Command retry, self-refresh, power-down and training (R195, R196, R360, R468, R204): ALERT_N asserted holds the last commands for replay, its
third assertion in a row fences the sub-channel; a replay done is counted; self-refresh closes the banks; training reports in TRAIN_STAT. -/
def Obligations.DramRetryAndSleep : Prop :=
  (∀ (s : State) (u : Fin 32) (span : Nat), subFenced s.dev u = false → (subc s.dev u).alert = false →
      ((subc s.dev u).inRetry = false → exec (.alertNAssert u span) s = .next (onDev s (umod s.dev u fun a => { a with
        alert := true, inRetry := true, failedReplays := 0, replays := a.retry.drop (a.retry.length - span) })))
      ∧ ((subc s.dev u).inRetry = true → (subc s.dev u).failedReplays < 2 → exec (.alertNAssert u span) s
        = .next (onDev s (umod s.dev u fun a => { a with alert := true, failedReplays := a.failedReplays + 1 })))
      ∧ ((subc s.dev u).inRetry = true → 2 ≤ (subc s.dev u).failedReplays → (∀ c ∈ (subc s.dev u).replays, ∀ l w, c ≠ .write l w) →
        exec (.alertNAssert u span) s = .next (onDev s (raise (umod s.dev u fun a => { a with alert := false, inRetry := false, failedReplays := 0 })
          (.dmc (u / 2)) 1 (.sub (Fin.ofNat 32 u)) (ctxKind 0 (.dmc (u / 2)))))))
  ∧ (∀ (s : State) (u : Fin 32), (subc s.dev u).alert = true →
      exec (.alertNDeassert u) s = .next (onDev s (closeBanks (umod s.dev u fun a => { a with alert := false }) u)))
  ∧ (∀ (s : State) (u : Fin 32), (subc s.dev u).inRetry = true → (subc s.dev u).alert = false → (subc s.dev u).replays = [] →
      exec (.commandReplayDone u) s = .next (onDev s (raise0 (rbump (umod s.dev u fun a => { a with inRetry := false, failedReplays := 0, replays := [] })
        (.dmc (u / 2)) .dmcCaparCount) (.dmc (u / 2)) 0)))
  ∧ (∀ (s : State) (u : Fin 32), sleepDue s = true → (subc s.dev u).selfRefresh = false → (subc s.dev u).wq = [] →
      ∃ e, exec (.selfRefreshEntry u) s = .next (onDev s e) ∧ (subc e u).selfRefresh = true ∧ (∀ i, i < 4096 → (bank e u i).openRow = none)
        ∧ e = { s.dev with subs := e.subs, banks := e.banks } ∧ ∀ k : Nat, k ≠ u → subc e k = subc s.dev k)
  ∧ (∀ (s : State) (u : Fin 32), s.dev.pwr.sub = 2 → (subc s.dev u).rq = [] → (subc s.dev u).wq = [] → (subc s.dev u).flight = [] → subRuns s.dev u = true →
      ∃ e, exec (.prechargePowerDown u) s = .next (onDev s e) ∧ (subc e u).powerDown = true ∧ (∀ i, i < 4096 → (bank e u i).openRow = none)
        ∧ e = { s.dev with subs := e.subs, banks := e.banks })
  ∧ (∀ (s : State) (c : Fin 16), s.dev.pwr.dom.getLsbD (Block.dphy c).domain = true → s.dev.pwr.pads.getLsbD (c / 4) = false →
      exec (.ddrTrainingDone c .stored) s = .next (onDev s (rput s.dev (.dphy c) .dphyTrainStat 5))
      ∧ exec (.ddrTrainingDone c .full) s = .next (onDev s (trainingRecord (rput s.dev (.dphy c) .dphyTrainStat 6) c))
      ∧ ∀ step rank, exec (.ddrTrainingDone c (.fail step rank)) s
        = .next (onDev s (rput s.dev (.dphy c) .dphyTrainStat (packW [(3, 1), (4, step.toNat), (8, rank.toNat)]))))

/-- Registers of Coat that act (R160, R162, R180): a mark put in DEV_FAIL raises "DRAM device failed" unless it asserts already, and taking the last
mark away ends it; REGION_SEL loads the extent's entry; SET is taken once at a time; ARM arms the flip mask and a write without it disarms it. That a
mark written in DEV_FAIL counts at once is the model's reading (log entry 51). -/
def Obligations.CoatRegisters : Prop :=
  (∀ (s : State) (p : Path) (q : Fin 4) (n : Fin 2) (v : Word) (d : Dev), admitted s p (.coat q) (if n = 0 then .coatDevFail0 else .coatDevFail1) = true →
      profileLoad s.dev p (.coat q) (if n = 0 then .coatDevFail0 else .coatDevFail1) = false →
      codedWrite s.dev true (.coat q) (if n = 0 then .coatDevFail0 else .coatDevFail1) 0 v = d →
      exec (.devFailWrite p q n v) s = .next (wrote p (.coat q) (if n = 0 then .coatDevFail0 else .coatDevFail1) (withDev s (
        if (rget d (.coat q) .coatDevFail0 ||| rget d (.coat q) .coatDevFail1) &&& 0x80808080 = 0 then deassert d (.coat q) 3
        else if d.flt.asserting.getLsbD (srcId (.coat q) 3) then d
        else raise d (.coat q) 3 .none (ctxKind 0 (.coat q)) true))))
  ∧ (∀ (s : State) (p : Path) (v : Word), admitted s p (.coat 0) .coatRegionSel = true →
      ∃ e, exec (.regionSel p v) s = .next (wrote p (.coat 0) .coatRegionSel (withDev s e)) ∧ e = { s.dev with regs := e.regs }
        ∧ rget e (.coat 0) .coatRegionSel = v &&& 0x7FFF
        ∧ (rget e (.coat 0) .coatRegionCfg).getLsbD 0 = (tabGet (false, false) s.dev.regions (fld v 14 0)).1
        ∧ (rget e (.coat 0) .coatRegionCfg).getLsbD 1 = (tabGet (false, false) s.dev.regions (fld v 14 0)).2)
  ∧ (∀ (s : State) (p : Path) (v : Word), admitted s p (.coat 0) .coatRegionCmd = true →
      (s.dev.regionBusy = none → exec (.regionSet p v) s = .next (wrote p (.coat 0) .coatRegionCmd (withDev s
        { s.dev with regionBusy := some (rfld s.dev (.coat 0) .coatRegionSel 14 0, rget s.dev (.coat 0) .coatRegionCfg) })))
      ∧ (s.dev.regionBusy.isSome = true → exec (.regionSet p v) s = .next (wrote p (.coat 0) .coatRegionCmd (withDev s { s.dev with regionResult := 4 }))))
  ∧ (∀ (s : State) (x : Nat) (cfg : Word), s.dev.regionBusy = some (x, cfg) →
      (regionRefusal s.dev x cfg ≠ 0 → exec .regionCmdComplete s
        = .next (onDev s (raiseEvent { s.dev with regionBusy := none, regionResult := regionRefusal s.dev x cfg } (.coat 0) 2)))
      ∧ (regionRefusal s.dev x cfg = 0 → (tabGet (false, false) s.dev.regions x).2 = cfg.getLsbD 1 → ∃ e, exec .regionCmdComplete s = .next (onDev s (raiseEvent e (.coat 0) 2))
        ∧ e = { s.dev with regionBusy := none, regionResult := 0, regions := e.regions } ∧ tabGet (false, false) e.regions x = (cfg.getLsbD 0, cfg.getLsbD 1)
        ∧ ∀ k, k ≠ x → tabGet (false, false) e.regions k = tabGet (false, false) s.dev.regions k))
  ∧ (∀ (s : State) (p : Path) (q : Fin 4) (v : Word), admitted s p (.coat q) .coatFlipCtl = true →
      exec (.flipArm p q v) s = .next (wrote p (.coat q) .coatFlipCtl (withDev s (qmod (codedWrite s.dev true (.coat q) .coatFlipCtl 0 (v ||| 0x80000000)) q
        fun a => { a with flip := some 0 })))
      ∧ exec (.flipDisarm p q v) s = .next (wrote p (.coat q) .coatFlipCtl (withDev s (qmod (codedWrite s.dev true (.coat q) .coatFlipCtl 0 (v &&& 0x7FFFFFFF)) q
        fun a => { a with flip := none }))))

/-- The Sander and the Patch table (R166, R173, R175 to R179): a read enters the queue of an idle sub-channel; after part 1 comes the parity; a lap
ends with its time, cleared counts and an event; an overdue lap raises its source and forces reads; watching expires; a soft repair frees the
sub-channel and its entry; a rebuild that ends serves what waited for it. -/
def Obligations.SanderAndPatch : Prop :=
  (∀ (s : State) (q : Fin 4), sanderRuns s.dev q = true →
      (∀ lp i, (quad s.dev q).sander.part = 0 → sanderNext s.dev q = some (lp, i) →
        let page := pageOfLocal q lp
        let loc := unitLoc s.dev page (entryNow s.dev page) i
        (subc s.dev (locSub loc)).rq = [] → (subc s.dev (locSub loc)).mode ≠ .drain → subRuns s.dev (locSub loc) = true →
        (∀ w ∈ (subc s.dev (locSub loc)).wq, w.loc ≠ loc) →
        exec (.sanderRead q) s = .next (onDev s (umod (sanderMod s.dev q fun a => { a with part := 0, pos := lp, line := i + 1 }) (locSub loc)
          fun a => { a with rq := a.rq ++ [{ loc, line := page * 64 + i, purpose := .sander, panic := false }] })))
      ∧ ((quad s.dev q).sander.part = 0 → sanderNext s.dev q = none →
        exec (.sanderRead q) s = .next (onDev s (sanderMod s.dev q fun a => { a with part := 1, pos := 0, line := 0 })))
      ∧ ((quad s.dev q).sander.part = 1 → (rget s.dev (.coat q) .coatEccCfg).getLsbD 8 = false →
        exec (.sanderRead q) s = .next (onDev s (sanderMod s.dev q fun a => { a with part := 2, pos := 0 })))
      ∧ ((quad s.dev q).sander.part = 2 → ∃ e, exec (.sanderRead q) s = .next (onDev s (raiseEvent e (.coat q) 0))
        ∧ (quad e q).devCounts = [] ∧ (quad e q).sander = { lapStart := s.dev.pwr.now, laps := (quad s.dev q).sander.laps + 1 }
        ∧ rget e (.coat q) .coatLapTime = BitVec.ofNat 32 ((s.dev.pwr.now.toNat - (quad s.dev q).sander.lapStart.toNat) / 1000000000)
        ∧ e.dram = s.dev.dram))
  ∧ (∀ (s : State) (u : Fin 32) (lp i : Nat), (quad s.dev (u / 8)).sander.overdue = true → (rget s.dev (.coat (u / 8)) .coatSandCfg).getLsbD 0 = true →
      subRuns s.dev u = true → (quad s.dev (u / 8)).sander.part = 0 → sanderNext s.dev (u / 8) = some (lp, i) →
      let page := pageOfLocal (u / 8) lp
      let loc := unitLoc s.dev page (entryNow s.dev page) i
      locSub loc = u → (subc s.dev u).rq.length < 128 → (∀ w ∈ (subc s.dev u).wq, w.loc ≠ loc) →
      exec (.forcedSanderRead u) s = .next (onDev s (umod (sanderMod s.dev (u / 8) fun a => { a with part := 0, pos := lp, line := i + 1 }) u
        fun a => { a with rq := a.rq ++ [{ loc, line := page * 64 + i, purpose := .sander, panic := false }] })))
  ∧ (∀ (s : State) (q : Fin 4), (quad s.dev q).sander.overdue = false → (rget s.dev (.coat q) .coatSandCfg).getLsbD 0 = true →
      exec (.scrubLapOverdue q) s = .next (onDev s (raise (sanderMod s.dev q fun a => { a with overdue := true }) (.coat q) 2 .none (ctxKind 0 (.coat q)) true)))
  ∧ (∀ (s : State) (q : Fin 4) (mpa : DWord), exec (.watchingExpiry q mpa) s = .next (onDev s (qmod s.dev q
      fun a => { a with patch := a.patch.filter fun x => !(x.state = .watching && decide (mpaOf s.dev x.loc = mpa.toNat)) })))
  ∧ (∀ (s : State) (u : Fin 32), (subc s.dev u).ppr = true →
      (∀ x ∈ (quad s.dev (u / 8)).patch, ¬ (x.state = .hard ∧ locSub x.loc = u)) →
      exec (.softPprDone u) s = .next (onDev s (retry (umod s.dev u fun a => { a with ppr := false })
        fun w => w.q.val = u / 8 && (w.wait = .readQueue || w.wait = .stage))))
  ∧ (∀ (s : State) (q : Fin 4) (x : RdEnt) (rest : List RdEnt), (quad s.dev q).rebuilds = x :: rest →
      exec (.liningRebuildDone q) s = .next (onDev s (retry (match x.purpose with
        | .req r => wordServe (qmod s.dev q fun a => { a with rebuilds := rest }) r (x.word.getD 0)
        | .sander => sanderArrived (qmod s.dev q fun a => { a with rebuilds := rest }) x (x.word.getD 0) true)
        fun w => w.wait = .queue && w.req.line = x.line)))

/-- The commands of the SLATE page (R234): a command is taken, or refused with RESULT 1 while another runs; LOAD copies the context into the four
registers; the two writes change the context's rights words, one by any path that may write, one from the secure world only; an entry of the fall-back
table is read or put in where its extent is good; another operation has RESULT 3; the event is raised each time. A regulation window starts (R236 to
R241): the settings are taken, oversubscription begins when the floor is below eight times what is committed and ends only when the floor is a
thirty-second above it, with an event at either change; then what waited at the gates goes on. -/
def Obligations.SlateAndWindows : Prop :=
  ((∀ (s : State) (p : Path) (op : BitVec 2) (c : Instr) (n : RName) (cmd : SlateCmd),
      (c, n, cmd) ∈ [(Instr.ctxLoad p, RName.slateCtxCmd, SlateCmd.ctx 1 (decide (p = .secure))), (.ctxWriteWord3 p, .slateCtxCmd, .ctx 2 (decide (p = .secure))),
        (.ctxWriteRights p, .slateCtxCmd, .ctx 3 (decide (p = .secure))), (.ctxCmdOp0 p, .slateCtxCmd, .ctx 0 (decide (p = .secure))),
        (.fbLoad p, .slateFbCmd, .fb 1), (.fbWrite p, .slateFbCmd, .fb 2), (.fbCmdBadOp p op, .slateFbCmd, .fb op.toNat)] →
      admitted s p .slate n = true →
      (s.dev.slateBusy = none → exec c s = .next (wrote p .slate n (withDev s { s.dev with slateBusy := some cmd })))
      ∧ (s.dev.slateBusy.isSome = true → exec c s = .next (wrote p .slate n (withDev s { s.dev with slateResult := 1 }))))
  ∧ (∀ (s : State) (sec : Bool), s.dev.slateBusy = some (.ctx 1 sec) → ∃ e, exec .slateCmdComplete s = .next (onDev s (raiseEvent e .slate 2))
      ∧ e = { s.dev with regs := e.regs, slateBusy := none, slateResult := 0 }
      ∧ (∀ i, i < 3 → rget e .slate .slateCtxW i = (ctxOfSlate s.dev (rfld s.dev .slate .slateCtxSel 17 0) >>> (32 * i)).setWidth 32)
      ∧ rget e .slate .slateCtxW3 = (ctxOfSlate s.dev (rfld s.dev .slate .slateCtxSel 17 0) >>> 96).setWidth 32)
  ∧ (∀ (s : State) (op : Nat) (sec : Bool), s.dev.slateBusy = some (.ctx op sec) → (op = 2 ∨ op = 3 ∧ sec = true) →
      let k := rfld s.dev .slate .slateCtxSel 17 0
      let c := ctxOfSlate s.dev k
      let new := rget s.dev .slate .slateCtxW3
      let old : Word := (c >>> 96).setWidth 32
      ∃ v : BitVec 128, exec .slateCmdComplete s
        = .next (onDev s (raiseEvent { s.dev with ctxs := tabPut 0 s.dev.ctxs k v, ctxBad := s.dev.ctxBad.filter (· ≠ k), slateBusy := none, slateResult := 0 } .slate 2))
        ∧ (op = 2 → v.setWidth 64 = c.setWidth 64 ∧ (v >>> 96).setWidth 32 = ((new &&& ~~~rightsMask) ||| (old &&& rightsMask)) &&& word3Mask)
        ∧ (op = 3 → v.setWidth 32 = rget s.dev .slate .slateCtxW 0 ∧ (v >>> 32).setWidth 32 = rget s.dev .slate .slateCtxW 1
          ∧ (v >>> 96).setWidth 32 = ((old &&& ~~~rightsMask) ||| (new &&& rightsMask)) &&& word3Mask))
  ∧ (∀ (s : State) (c : SlateCmd) (r : Nat), s.dev.slateBusy = some c → (c, r) ∈ [(SlateCmd.ctx 3 false, 2), (.ctx 0 false, 3), (.ctx 0 true, 3), (.fb 0, 3), (.fb 3, 3)] →
      exec .slateCmdComplete s = .next (onDev s (raiseEvent { s.dev with slateBusy := none, slateResult := r } .slate 2)))
  ∧ (∀ (s : State), s.dev.slateBusy = some (.fb 1) → ∃ e, exec .slateCmdComplete s = .next (onDev s (raiseEvent e .slate 2))
      ∧ e = { s.dev with regs := e.regs, slateBusy := none, slateResult := 0 }
      ∧ rget e .slate .slateFbBase = (tabGet 0 s.dev.fbs (rfld s.dev .slate .slateFbSel 11 0)).setWidth 32)
  ∧ (∀ (s : State), s.dev.slateBusy = some (.fb 2) →
      let base := rget s.dev .slate .slateFbBase
      let len := rget s.dev .slate .slateFbLen
      (base.getLsbD 31 = true → (fld len 24 0 = 0 ∨ limitPages s.dev 0 / 512 < fld base 23 0 + fld len 24 0) →
        exec .slateCmdComplete s = .next (onDev s (raiseEvent { s.dev with slateBusy := none, slateResult := 3 } .slate 2)))
      ∧ ((base.getLsbD 31 = false ∨ fld len 24 0 ≠ 0 ∧ fld base 23 0 + fld len 24 0 ≤ limitPages s.dev 0 / 512) →
        ∃ v : BitVec 96, exec .slateCmdComplete s = .next (onDev s (raiseEvent { s.dev with fbs := tabPut 0 s.dev.fbs (rfld s.dev .slate .slateFbSel 11 0) v, slateBusy := none, slateResult := 0 } .slate 2))
          ∧ v.setWidth 32 = base ∧ (v >>> 32).setWidth 32 = len ∧ (v >>> 64).setWidth 32 = rget s.dev .slate .slateFbSlate)))
  ∧ (∀ s : State, s.dev.pwr.dom.getLsbD 3 = true → (∀ w ∈ s.dev.waits, w.wait ≠ .portGate ∧ w.wait ≠ .dramGate) →
    let d := { s.dev with reg := { s.dev.reg with cfg := slateSettings s.dev } }
    ∃ e, exec .regulationWindowStart s = .next (onDev s (gatesRun e)) ∧ e.reg.cfg = slateSettings s.dev ∧ e.reg.floor = floorOf d false
      ∧ (s.dev.reg.oversub = false → e.reg.oversub = decide (floorOf d false < committed d * 8)
        ∧ (pget e .slate).eventStat = if floorOf d false < committed d * 8 then (pget s.dev .slate).eventStat ||| 1 else (pget s.dev .slate).eventStat)
      ∧ (s.dev.reg.oversub = true → e.reg.oversub = decide (floorOf d false * 31 < committed d * 8 * 32)
        ∧ (pget e .slate).eventStat = if floorOf d false * 31 < committed d * 8 * 32 then (pget s.dev .slate).eventStat else (pget s.dev .slate).eventStat ||| 2)
      ∧ e.waits = s.dev.waits ∧ e.dram = s.dev.dram ∧ e.ctxs = s.dev.ctxs)

/-- Job rings (R248, R259, R260, R263): a doorbell below the ring's size is TAIL, another is recorded; a fetch appends the descriptor to the queue and
moves HEAD; a free lane takes the job that passes its checks, and a job that fails them completes with its status; ring commands leave their RESULT.
That a doorbell which R249 refuses is not recorded is the model's reading (log entry 96). -/
def Obligations.RingsAndLanes : Prop :=
  (∀ (s : State) (p : Path) (q : Fin 4) (i : BitVec 8) (v : Word), admitted s p (.nme q) .nmeDoorbell i.toNat = true →
      (fld v 15 0 < ringSize (ringOf s.dev q i.toNat) →
        exec (.doorbell p q i v) s = .next (wrote p (.nme q) .nmeDoorbell (withDev s (ringMod s.dev q i.toNat fun r => { r with tail := fld v 15 0 })) i.toNat))
      ∧ (ringSize (ringOf s.dev q i.toNat) ≤ fld v 15 0 → bitOf (rget s.dev (.nme q) .nmeDbErr) 31 = true →
        exec (.doorbell p q i v) s = .next (wrote p (.nme q) .nmeDoorbell (withDev s (raiseEvent s.dev (.nme q) 2)) i.toNat))
      ∧ (ringSize (ringOf s.dev q i.toNat) ≤ fld v 15 0 → bitOf (rget s.dev (.nme q) .nmeDbErr) 31 = false →
        exec (.doorbell p q i v) s = .next (wrote p (.nme q) .nmeDoorbell (withDev s (raiseEvent (rput s.dev (.nme q) .nmeDbErr
          (packW [(0, i.toNat), (8, fld v 15 0), (24, Path.code p), (27, match p with | .host k => k.val | _ => 0), (31, 1)])) (.nme q) 2)) i.toNat)))
  ∧ (∀ (s : State) (q : Fin 4) (i : Nat) (d : Dev) (b : List Byte), nextRing s.dev q = some i → (pget s.dev (.nme q)).run = .rolling →
      (quad s.dev q).cluster.queue.length < 64 → ctxValid s.dev (ringOf s.dev q i).owner = true →
      engRead s.dev { q := q, lane := 0, slate := (ringOf s.dev q i).owner, late := false } ((ringOf s.dev q i).descPage * 4096 + 64 * (ringOf s.dev q i).head) 64 = .ok d b →
      ∃ e, exec (.descriptorFetch q) s = .next (onDev s e)
        ∧ (quad e q).cluster.queue = (quad d q).cluster.queue ++ [{ ring := i, index := (ringOf s.dev q i).head, phase := decide ((ringOf s.dev q i).pass % 2 = 1), desc := b, slate := (ringOf s.dev q i).owner }]
        ∧ (ringOf e q i).head = (if (ringOf s.dev q i).head + 1 = ringSize (ringOf s.dev q i) then 0 else (ringOf d q i).head + 1)
        ∧ e = { d with quads := e.quads })
  ∧ (∀ (s : State) (q : Fin 4) (l : Fin 8) (j : Job), clusterRuns s.dev q = true → (rget s.dev (.nme q) .nmeCfg).getLsbD l = true → laneJob s.dev q l = none →
      pickJob s.dev q = some j →
      let d := cmod s.dev q fun c => { c with queue := c.queue.erase j }
      (jobCheck d j = 0 → exec (.laneTakeJob q l) s = .next (onDev s (setLane d q l (some j))))
      ∧ (jobCheck d j = 0x0A ∨ jobCheck d j = 0x0B → exec (.laneTakeJob q l) s = .next (onDev s (completeJob d q j (jobCheck d j) 0 0 0)))
      ∧ (jobCheck d j = 8 → exec (.laneTakeJob q l) s = .next (onDev s (completeJob (slateRefused d j.slate) q j 8 0 0 0))))
  ∧ (∀ (s : State) (p : Path) (q : Fin 4) (c : Instr) (op : Nat), admitted s p (.nme q) .nmeRingCmd = true →
      (c, op) ∈ [(Instr.ringLoad p q, 1), (.ringEnable p q, 2), (.ringDisable p q, 3), (.ringResume p q, 4), (.ringSetOwner p q, 5)] →
      exec c s = .next (wrote p (.nme q) .nmeRingCmd (withDev s (ringCommand s.dev q op (decide (p = .secure))))))
  ∧ (∀ (d : Dev) (q op : Nat) (sec : Bool),
      let i := ringSel d q
      let cfg := rget d (.nme q) .nmeRingCfg
      ((ringOf d q i).state = .stopping → ringCommand d q op sec = ringResult d q 1)
      ∧ ((ringOf d q i).state = .off → 4 ≤ fld cfg 4 0 → fld cfg 4 0 ≤ 16 → stagedPage d q .nmeRingDescLo .nmeRingDescHi < limitPages d 0 →
        stagedPage d q .nmeRingCompLo .nmeRingCompHi < limitPages d 0 → ringCommand d q 2 sec = ringResult (ringMod d q i fun r => { r with
          descPage := stagedPage d q .nmeRingDescLo .nmeRingDescHi, compPage := stagedPage d q .nmeRingCompLo .nmeRingCompHi, cfg, head := 0, tail := 0, pass := 1, state := .running }) q 0)
      ∧ ((ringOf d q i).state = .running → (∀ j ∈ (quad d q).cluster.queue, j.ring ≠ i) → (ringOf (ringCommand d q 3 sec) q i).state = .stopping)
      ∧ ((ringOf d q i).state = .error → ringCommand d q 4 sec = ringResult (ringMod d q i fun r => { r with state := .running }) q 0)
      ∧ ((ringOf d q i).state = .off → ringCommand d q 5 false = ringResult d q 4)
      ∧ ((ringOf d q i).state = .off → ringCommand d q 5 true = ringResult (ringMod d q i fun r => { r with
          owner := rfld d (.nme q) .nmeRingOwner 17 0, hosts := (rget d (.nme q) .nmeRingHosts).setWidth 16 }) q 0))
  ∧ (∀ (s : State) (q : Fin 4) (i : BitVec 8), (ringOf s.dev q i.toNat).state = .stopping → (∀ l ∈ runningJobs s.dev q, l.2.ring ≠ i.toNat) →
      exec (.ringStopped q i) s = .next (onDev s (ringResult (ringMod s.dev q i.toNat fun r => { r with state := .off }) q 0)))

/-- The operations of a lane (R254 to R257): each runs the job of its lane, and the job ends with the status and the results its operation gives: what
the operation read decides the result of a compare (the first difference), of a checksum and of a reduction; a job that overlaps itself has status 6.
-/
def Obligations.JobsRun : Prop :=
  (∀ (s : State) (q : Fin 4) (l : Fin 8) (j : Job) (c : Instr) (op : Nat) (run : Dev → Agent → Job → EngRun JobRes),
      clusterRuns s.dev q = true → laneJob s.dev q l = some j → j.op = op →
      (c, op, run) ∈ [(Instr.copy q l, 1, copyRun), (.fill q l, 2, fillRun), (.cmp q l, 3, cmpRun), (.crc q l, 4, crcRun), (.scan q l, 5, scanRun),
        (.reduce q l, 6, reduceRun), (.pack q l, 7, packRun true), (.unpack q l, 8, packRun false), (.atom q l, 9, atomRun)] →
      (op = 7 ∨ op = 8 → packTurn s.dev q l = true) →
      ∀ (d : Dev) (r : JobRes),
        (run s.dev { q := q, lane := l, slate := j.slate, late := j.late } j = .ok d r → exec c s = .next (onDev s (finishJob d q l j 0 r)))
        ∧ ∀ st, run s.dev { q := q, lane := l, slate := j.slate, late := j.late } j = .stop d r st → exec c s = .next (onDev s (finishJob d q l j st r)))
  ∧ (∀ (d e : Dev) (a : Agent) (j : Job) (b : List Byte), engRead d a j.src j.len = .ok e b →
      (overlaps (j.src, j.len) (j.dst, j.len) = false → ∀ f n, engWrite e a j.dst b = .ok f n → copyRun d a j = .ok f (0, n, 0))
      ∧ (crcRun d a j = .ok e (0, j.len, b.foldl (crcRByte 0x82F63B78) (j.aux1 ^^^ 0xFFFFFFFF) ^^^ 0xFFFFFFFF))
      ∧ (∀ f y, engRead e a j.aux1 j.len = .ok f y →
        cmpRun d a j = .ok f (b2n (((b.zip y).findIdx? fun x => x.1 ≠ x.2).getD j.len < j.len), j.len, ((b.zip y).findIdx? fun x => x.1 ≠ x.2).getD j.len)))
  ∧ (∀ (d : Dev) (a : Agent) (j : Job), overlaps (j.src, j.len) (j.dst, j.len) = true → copyRun d a j = .stop d (0, 0, 0) 6)
  ∧ (∀ (s : State) (q : Fin 4) (l : Fin 8) (j : Job), clusterRuns s.dev q = true → laneJob s.dev q l = some j → j.op = 10 → j.xfer.open_ = 0 →
      (j.xfer.bad ≠ 0 → exec (.xfer q l) s = .next (onDev s (finishJob s.dev q l j j.xfer.bad (0, j.xfer.pos, 0))))
      ∧ (j.xfer.bad = 0 → j.len ≤ j.xfer.pos → exec (.xfer q l) s = .next (onDev s (finishJob s.dev q l j 0 (0, j.len, 0))))
      ∧ (j.xfer.bad = 0 → j.xfer.pos < j.len → (routeOf s.dev (j.opf % 64)).isSome = true → ∀ d x,
        xferSend s.dev { q := q, lane := l, slate := j.slate, late := j.late } q l j = .ok d x → exec (.xfer q l) s = .next (onDev s x)))

/-- Host ports (R45, R202, R270, R275, R277, R447): a link comes up at the highest rate both ends and the configuration allow, at no more lanes than
its layout has, with its event; it goes down with its event and source, no rate and no width, and what waited for its answers is dropped; PERST_N
takes the link down and its end wakes a sleeping device; a decoder commits where its ways, granularity, size and tracking rule allow, and shows an
error where not; a width change up to the trained width is taken. -/
def Obligations.HostPorts : Prop :=
  (∀ (s : State) (p : Fin 16) (r : Fin 7) (w : Fin 17) (sets : List (List (Option Nat))), mayTrain s.dev p = true → (port s.dev p).up = false → 0 < w.val →
      ∃ e, exec (.hostLinkUp p r w sets) s = .next (onDev s (send (raiseEvent e (.hpt (p / 2)) (p % 2)) (.hostLinkUp p)))
        ∧ (port e p).up = true ∧ (port e p).rate = trainRate s.dev p r ∧ (port e p).trained = min w.val (portLanes s.dev p)
        ∧ ((port e p).memActive = true ↔ s.dev.pwr.mode ≠ .boot) ∧ e.dram = s.dev.dram
        ∧ ∀ k : Nat, k ≠ p → port e k = port s.dev k)
  ∧ (∀ (s : State) (p : Fin 16), (port s.dev p).up = false → exec (.hostLinkDown p) s = .next (onDev s s.dev)
      ∧ exec (.perstNAssert p) s = .next (onDev s (portMod s.dev p fun x => { x with perst := true, wasReset := true })))
  ∧ (∀ (s : State) (p : Fin 16), (port s.dev p).up = true →
      ∃ e, exec (.hostLinkDown p) s = .next (onDev s (raise (raiseEvent (unansweredAll (send e (.hostLinkDown p)) p) (.hpt (p / 2)) (p % 2)) (.hpt (p / 2)) 0 .none (ctxLink (.hpt (p / 2)) p 0 0 0 0 0)))
        ∧ exec (.perstNAssert p) s = .next (onDev s (portMod (raise (raiseEvent (unansweredAll (send e (.hostLinkDown p)) p) (.hpt (p / 2)) (p % 2)) (.hpt (p / 2)) 0 .none (ctxLink (.hpt (p / 2)) p 0 0 0 0 0)) p
          fun x => { x with perst := true, wasReset := true }))
        ∧ (port e p).up = false ∧ (port e p).rate = 0 ∧ (port e p).width = 0 ∧ (∀ k : Nat, k ≠ p → port e k = port s.dev k) ∧ e.quads = s.dev.quads ∧ e.regs = s.dev.regs)
  ∧ (∀ (s : State) (p : Fin 16), exec (.perstNDeassert p) s = .next (onDev s (wakeEvent (portMod s.dev p fun x => { x with perst := false }) 2)))
  ∧ (∀ (s : State) (p : Fin 16) (i : Fin 4) (base size : BitVec 64) (ways gran pos : Nat) (dpa : Dpa) (db : Bool), (port s.dev p).up = true →
      let h : Hdm := { base := base.toNat, size := size.toNat, ways, gran, pos, dpaBase := dpa.toNat, db }
      exec (.hdmDecoderCommit p i base size ways gran pos dpa db) s = .next (onDev s (portMod s.dev p fun x => { x with hdm := tabPut {} x.hdm i { h with committed := hdmOk s.dev h, error := !hdmOk s.dev h } }))
      ∧ (ways ∉ [1, 2, 3, 4, 6, 8, 12, 16] ∨ gran ∉ [256, 512, 1024, 2048, 4096, 8192, 16384] ∨ size = 0 → hdmOk s.dev h = false)
      ∧ (db = false → hdmOk s.dev h = true → noneTracked s.dev (hdmFrames h).1 (hdmFrames h).2 = true))
  ∧ (∀ (s : State) (p : Fin 16) (w : Fin 17), (port s.dev p).up = true → 0 < w.val → w.val ≤ (port s.dev p).trained →
      exec (.l0pWidthChange p w) s = .next (onDev s (portMod s.dev p fun x => { x with width := w })))

/-- Lane hardware and SPDM (R148, R272, R279, R280): START clears DONE and a count begins; its end stores the counts and offsets of a host brick, with
the levels that NRZ does not have at zero, sets DONE and raises the event; the checker of a lane under test keeps its lock and a saturated error
count; the secure island's answer goes out over DOE or MCTP. -/
def Obligations.LaneHardware : Prop :=
  (∀ (s : State) (p : Path) (b : Fin 8) (v : Word), admitted s p (.hpt b) .hptHistCtl = true →
      exec (.histStart p b v) s = .next (wrote p (.hpt b) .hptHistCtl (withDev s (histBegin (codedWrite s.dev true (.hpt b) .hptHistCtl 0 (v ||| 0x80000000)) b))))
  ∧ (∀ (s : State) (b : Fin 8) (c0 c1 c2 c3 o : Word), (brick s.dev b).histRun = true → s.dev.marwen.getLsbD b = false →
      ∃ e, exec (.histDone b [c0, c1, c2, c3] o) s = .next (onDev s (raiseEvent e (brickBlock s.dev b) 2))
        ∧ (brick e b).histDone = true ∧ (brick e b).histRun = false
        ∧ rget e (.hpt b) .hptHistCnt 0 = c0 ∧ rget e (.hpt b) .hptHistCnt 3 = c3
        ∧ (brickNrz s.dev b = true → rget e (.hpt b) .hptHistCnt 1 = 0 ∧ rget e (.hpt b) .hptHistCnt 2 = 0 ∧ rget e (.hpt b) .hptHistOfs = o &&& 0xFF0000FF)
        ∧ (brickNrz s.dev b = false → rget e (.hpt b) .hptHistCnt 1 = c1 ∧ rget e (.hpt b) .hptHistCnt 2 = c2 ∧ rget e (.hpt b) .hptHistOfs = o)
        ∧ e = { s.dev with regs := e.regs, bricks := e.bricks })
  ∧ (∀ (s : State) (b lane : Fin 8) (locked : Bool) (n : BitVec 48), (brick s.dev b).testing = true → (prbsCtl s.dev b).getLsbD 3 = true →
      ∃ e, exec (.prbsCheckerLock b lane locked n) s = .next (onDev s e) ∧ (brick e b).lock.getLsbD lane = locked
        ∧ (∀ k, k < 8 → k ≠ lane.val → (brick e b).lock.getLsbD k = (brick s.dev b).lock.getLsbD k)
        ∧ (tabGet 0 (brick e b).errs lane).toNat = min ((tabGet 0 (brick s.dev b).errs lane).toNat + n.toNat) (2 ^ 48 - 1)
        ∧ e = { s.dev with bricks := e.bricks })
  ∧ (∀ (s : State) (p : Fin 16) (msg answer : List Byte), (port s.dev p).up = true → s.dev.pwr.dom.getLsbD 2 = true →
      exec (.spdmDoe p msg answer) s = .next (onDev s (send s.dev (.spdm (some p) answer))))
  ∧ (∀ (s : State) (msg answer : List Byte), s.dev.pwr.dom.getLsbD 2 = true →
      exec (.spdmOverMctp msg answer) s = .next (onDev s (send s.dev (.spdm none answer))))

/-- Mailbox commands that report (R169, R170, R276): each answers with what the head or the device holds, and changes nothing but what is sent.
Opcodes and codes are CXL 3.1's, taken over by the model (log entries 15, 16). -/
def Obligations.MailboxReports : Prop :=
  ∀ (s : State) (p : Fin 16), mbServed s.dev p = true →
    (∀ log : Fin 5, exec (.getEventRecords p log) s = .next (onDev s (mbAnswer s.dev p 0x0100 (.records ((head s.dev p).logs.getD log []) ((head s.dev p).lost.getD log 0)))))
    ∧ exec (.getEventInterruptPolicy p) s = .next (onDev s (mbAnswer s.dev p 0x0102 (.bytes (head s.dev p).policy)))
    ∧ ((head s.dev p).fwOk = true → exec (.getFwInfo p) s = .next (onDev s (mbAnswer s.dev p 0x0200
      (.firmware (bitOf (rget s.dev .mgt .mgtFwStat) 0) (bitOf (rget s.dev .mgt .mgtFwStat) 1) (s.dev.bootFlag.getLsbD 0) (s.dev.bootFlag.getLsbD 1)))))
    ∧ exec (.getTimestamp p) s = .next (onDev s (mbAnswer s.dev p 0x0300 (.time s.dev.pwr.now)))
    ∧ exec (.getSupportedLogs p) s = .next (onDev s (mbAnswer s.dev p 0x0400 .logs))
    ∧ (∃ l, exec (.getLog p true) s = .next (onDev s (mbAnswer s.dev p 0x0401 (.effects l))) ∧ 0x0100 ∈ l ∧ 0x4803 ∈ l ∧ 0x4400 ∉ l ∧ 0x4401 ∉ l)
    ∧ exec (.getLog p false) s = .next (onDev s (mbAnswer s.dev p 0x0401 .none 2))
    ∧ exec (.identifyMemoryDevice p) s = .next (onDev s (mbAnswer s.dev p 0x4000 (.identity Config.staticExtents Config.identity)))
    ∧ exec (.getPartitionInfo p) s = .next (onDev s (mbAnswer s.dev p 0x4100 (.capacity Config.staticExtents)))
    ∧ (∃ x, exec (.getHealthInfo p) s = .next (onDev s (mbAnswer (bumpFree s.dev) p 0x4200 (.health (decide (s.dev.pwr.mode = .degraded)) x))))
    ∧ (∃ l, exec (.getAlertConfiguration p) s = .next (onDev s (mbAnswer (bumpFree s.dev) p 0x4201 (.bytes ((head s.dev p).alerts ++ l)))))
    ∧ exec (.getPoisonList p) s = .next (onDev s (mbAnswer s.dev p 0x4300 (.poison s.dev.poison s.dev.poisonOverflow s.dev.poisonLost)))
    ∧ exec (.getDynamicCapacityConfiguration p) s = .next (onDev s (mbAnswer s.dev p 0x4800
      (.region Config.staticExtents (rfld s.dev (.map 0) .mapLimit 15 0 - Config.staticExtents) (2 ^ 30))))
    ∧ exec (.getDynamicCapacityExtentList p) s = .next (onDev s (mbAnswer s.dev p 0x4801 (.extents ((s.dev.cap.granted.filter fun e => e.2 = p.val).map (·.1)))))
    ∧ exec (.sanitize p) s = .next (onDev s (mbAnswer s.dev p 0x4400 .none 3))
    ∧ exec (.secureErase p) s = .next (onDev s (mbAnswer s.dev p 0x4401 .none 3))
    ∧ (∀ op, exec (.unsupportedOpcode p op) s = .next (onDev s (mbAnswer s.dev p op.toNat .none 3)))

/-- Mailbox commands that change something (R85, R86, R168, R169, R276, R348, R362). Clear Event Records takes the oldest records, in their order, and
no others; a transfer of firmware is kept from another head while it is incomplete; an image that does not verify is not activated; a host accepts an
extent on offer to it and gives back one granted to it; poison is injected and cleared where the head may write. Opcodes and codes are CXL 3.1's,
taken over by the model (log entry 15). -/
def Obligations.MailboxChanges : Prop :=
  ∀ (s : State) (p : Fin 16), mbServed s.dev p = true →
    (∀ log : Fin 5, exec (.clearEventRecords p log none) s = .next (onDev s (mbAnswer (headMod s.dev p fun h => { h with logs := h.logs.set log [], lost := h.lost.set log 0 }) p 0x0101 .none)))
    ∧ (∀ (log : Fin 5) (hs : List Nat), let l := (head s.dev p).logs.getD log []
        ((l.take hs.length).map (·.handle) = hs → exec (.clearEventRecords p log (some hs)) s
          = .next (onDev s (mbAnswer (headMod s.dev p fun h => { h with logs := h.logs.set log (l.drop hs.length), lost := h.lost.set log 0 }) p 0x0101 .none)))
        ∧ ((l.take hs.length).map (·.handle) ≠ hs → exec (.clearEventRecords p log (some hs)) s = .next (onDev s (mbAnswer s.dev p 0x0101 .none 0xE))))
    ∧ (∀ policy, exec (.setEventInterruptPolicy p policy) s = .next (onDev s (mbAnswer (headMod s.dev p fun h => { h with policy }) p 0x0103 .none)))
    ∧ (∀ cfg, exec (.setAlertConfiguration p cfg) s = .next (onDev s (mbAnswer (headMod s.dev p fun h => { h with alerts := cfg }) p 0x4202 .none)))
    ∧ (∀ ns, exec (.setTimestamp p ns) s = .next (onDev s (mbAnswer (timeLoad s.dev ns) p 0x0301 .none)))
    ∧ (∀ (sec last : Bool) (chunk : List Byte),
        ((head s.dev p).fwOk = false → exec (.transferFw p sec last chunk) s = .next (onDev s (mbAnswer s.dev p 0x0201 .none 3)))
        ∧ ((head s.dev p).fwOk = true → s.dev.fwXfer = none → exec (.transferFw p sec last chunk) s
          = .next (onDev s (mbAnswer { s.dev with fwXfer := some { head := p, secure := sec, bytes := chunk.length, complete := last } } p 0x0201 .none)))
        ∧ (∀ x, (head s.dev p).fwOk = true → s.dev.fwXfer = some x → x.complete = false → x.head ≠ p.val →
          exec (.transferFw p sec last chunk) s = .next (onDev s (mbAnswer s.dev p 0x0201 .none 6)))
        ∧ (∀ x, (head s.dev p).fwOk = true → s.dev.fwXfer = some x → x.complete = false → x.head = p.val → exec (.transferFw p sec last chunk) s
          = .next (onDev s (mbAnswer { s.dev with fwXfer := some { x with secure := sec, bytes := x.bytes + chunk.length, complete := last } } p 0x0201 .none))))
    ∧ (∀ (ok : Bool) (x : FwXfer), (head s.dev p).fwOk = true → s.dev.fwXfer = some x →
        (x.complete = false → exec (.activateFw p ok) s = .next (onDev s (mbAnswer s.dev p 0x0202 .none 8)))
        ∧ (x.complete = true → ok = false → exec (.activateFw p ok) s = .next (onDev s (mbAnswer s.dev p 0x0202 .none 2)))
        ∧ (x.complete = true → ok = true → x.secure = true → ∃ e, exec (.activateFw p ok) s = .next (onDev s (mbAnswer e p 0x0202 .none))
          ∧ e = { s.dev with fwXfer := none, bootFlag := e.bootFlag } ∧ e.bootFlag.getLsbD 1 = s.dev.bootFlag.getLsbD 1
          ∧ (e.bootFlag.getLsbD 0 = !bitOf (rget s.dev .mgt .mgtFwStat) 0)))
    ∧ (∀ x : BitVec 15, ((x.toNat, p.val) ∈ s.dev.cap.offers → ∃ e, exec (.addDynamicCapacityResponse p x) s = .next (onDev s (mbAnswer (raiseEvent e (.dolly 1) 1) p 0x4802 .none))
          ∧ e = { s.dev with cap := e.cap } ∧ e.cap.granted = s.dev.cap.granted ++ [(x.toNat, p.val)] ∧ (x.toNat, p.val) ∉ e.cap.offers)
        ∧ ((x.toNat, p.val) ∉ s.dev.cap.offers → exec (.addDynamicCapacityResponse p x) s = .next (onDev s (mbAnswer s.dev p 0x4802 .none 0xF)))
        ∧ ((x.toNat, p.val) ∈ s.dev.cap.granted → exec (.releaseDynamicCapacity p x) s = .next (onDev s (mbAnswer (releaseEnded (releaseExtent s.dev x.toNat) p) p 0x4803 .none)))
        ∧ ((x.toNat, p.val) ∉ s.dev.cap.granted → exec (.releaseDynamicCapacity p x) s = .next (onDev s (mbAnswer s.dev p 0x4803 .none 0xF))))
    ∧ (∀ (dpa : Dpa) (data : Line), outsideCapacity s.dev p (pageOfLine (dpa.toNat / 64)) = false → hostRight s.dev p (pageOfLine (dpa.toNat / 64)) = true →
        quadFenced s.dev (homeOf (pageOfLine (dpa.toNat / 64))) = false →
        exec (.injectPoison p dpa) s = .next (onDev s (mbAnswer (poisonLine s.dev (dpa.toNat / 64) .injected).1 p 0x4301 .none))
        ∧ exec (.clearPoison p dpa data) s = .next (onDev s (mbAnswer (ioLine s.dev p 0 none {} .wr (.write data) (dpa.toNat / 64) 0 64) p 0x4302 .none)))

/-- Bring-up of a Marwen link (R284, R285, R286): a trained port with lanes in lock goes to Init at the widest group of them and owes its INIT; the
expected peer's INIT is kept with its credits and INIT_DONE is owed; another peer's takes the port down until the retry; INIT_DONE, with both ends'
exchanged, makes the link Active with fresh numbers and the peer's credits, and raises the event. -/
def Obligations.LinkBringUp : Prop :=
  (∀ (s : State) (b : Fin 8) (lanes : BitVec 8), s.dev.marwen.getLsbD b = true → (mport s.dev b).state = 1 →
      let mask := chooseLanes (lanes &&& (mport s.dev b).lock)
      (mask = 0 → exec (.linkTrained b lanes []) s = .next (onDev s s.dev))
      ∧ (mask ≠ 0 → exec (.linkTrained b lanes []) s = .next (onDev s (lctlDue (mportMod s.dev b fun m => { m with
          state := 2, mask, width := laneCount mask, leader := decide (selfId s.dev < expectedPeer s.dev b), since := s.dev.pwr.now }) b (lctlInit s.dev)))))
  ∧ (∀ (s : State) (b : Fin 8) (f : BitVec 2048) (h : Hdr) (x : BitVec 128) (rest : List (BitVec 128)), inSequence s b f (.lctl 1) h (x :: rest) →
      (mport s.dev b).state = 2 →
      (lctlField x 9 1 % 64 = expectedPeer s.dev b → (∀ i, i < 5 → 14 ≤ lctlField x (10 + 2 * i) 2) → (mport s.dev b).initGot = false →
        ∃ e, exec (.init b f) s = .next (onDev s e) ∧ (mport e b).initGot = true ∧ (mport e b).state = 2
          ∧ (∀ i, i < 5 → (mport e b).peerInit.getD i 0 = lctlField x (10 + 2 * i) 2) ∧ (∃ y ∈ (mport e b).lctl, lctlOp y = 2) ∧ (∀ y ∈ (mport e b).lctl, lctlOp y ≠ 1)
          ∧ e = { s.dev with mports := e.mports })
      ∧ (lctlField x 9 1 % 64 ≠ expectedPeer s.dev b → ∃ e, exec (.init b f) s = .next (onDev s e) ∧ (mport e b).state = 0 ∧ (mport e b).initRetry = true))
  ∧ (∀ (s : State) (b : Fin 8) (f : BitVec 2048) (h : Hdr) (slots : List (BitVec 128)), inSequence s b f (.lctl 2) h slots → (mport s.dev b).state = 2 →
      ((mport s.dev b).doneSent = true → (mport s.dev b).initGot = true → ∃ e, exec (.initDone b f) s = .next (onDev s (raiseEvent e (.mwl b) 0))
        ∧ (mport e b).state = 3 ∧ (mport e b).credits = (mport s.dev b).peerInit ∧ (mport e b).rxE = 0 ∧ (mport e b).txN = 0 ∧ (mport e b).cce = 0 ∧ (mport e b).ccN = 0
        ∧ (mport e b).replayBuf = [] ∧ e = { s.dev with mports := e.mports })
      ∧ ((mport s.dev b).doneSent = false → exec (.initDone b f) s = .next (onDev s (mportMod s.dev b fun m => { m with doneGot := true }))))
  ∧ (∀ (s : State) (b : Fin 8), (mport s.dev b).initRetry = true →
      exec (.initRetry b) s = .next (onDev s (linkTry (mportMod s.dev b fun m => { m with initRetry := false }) b)))
  ∧ (∀ (s : State) (b : Fin 8), linkReceives s.dev b = true → (mport s.dev b).state = 2 → (mport s.dev b).want = none → (mport s.dev b).resumeSent = false →
      (mport s.dev b).switch = none →
      exec (.lctlRepeat b) s = .next (onDev s (lctlDue s.dev b (if (mport s.dev b).initGot then lctlInitDone s.dev else lctlInit s.dev))))

/-- Retrains, width changes, lost lock and the end of a link (R304): a request in Active starts recovery and is counted once; a width request is
answered with the widest group that both ends and the locks allow, and one without such a group takes the link down; RESUME exchanged, the link is
Active again and sends again what the peer does not have; a port without any lane in lock for too long, and a retrain for too long, go down. That
either end answers a width request is the model's reading (log entry 57). -/
def Obligations.LinkRecovery : Prop :=
  (∀ (s : State) (b : Fin 8) (f : BitVec 2048) (h : Hdr) (x : BitVec 128) (rest : List (BitVec 128)), inSequence s b f (.lctl 3) h (x :: rest) →
      (mport s.dev b).state = 3 → (mport s.dev b).resumeSent = false →
      ∃ e, exec (.retrainReq b f) s = .next (onDev s e) ∧ (mport e b).state = 4 ∧ (mport e b).peerWant = some (false, BitVec.ofNat 8 (lctlField x 10 1))
        ∧ (mport e b).recovering = true ∧ e = { rbump s.dev (.mwl b) .mwlRetrains with mports := e.mports })
  ∧ (∀ (s : State) (b : Fin 8) (f : BitVec 2048) (h : Hdr) (x : BitVec 128) (rest : List (BitVec 128)), inSequence s b f (.lctl 4) h (x :: rest) →
      (mport s.dev b).state = 3 → (mport s.dev b).resumeSent = false → (mport s.dev b).want = none → (mport s.dev b).lctl = [] →
      let mask := chooseLanes (BitVec.ofNat 8 (lctlField x 10 1) &&& (mport s.dev b).lock)
      (mask ≠ 0 → ∃ e, exec (.widthReq b f) s = .next (onDev s e) ∧ (mport e b).state = 5 ∧ (mport e b).lctl = [lctlMask s.dev 5 mask]
        ∧ e = { rbump s.dev (.mwl b) .mwlRetrains with mports := e.mports })
      ∧ (mask = 0 → exec (.widthReq b f) s = .next (onDev s (mwDown (mportMod (rbump s.dev (.mwl b) .mwlRetrains) b fun m => { m with
          state := 5, peerWant := some (true, BitVec.ofNat 8 (lctlField x 10 1)), since := s.dev.pwr.now }) b false))))
  ∧ (∀ (s : State) (b : Fin 8) (f : BitVec 2048) (h : Hdr) (x : BitVec 128) (rest : List (BitVec 128)), inSequence s b f (.lctl 5) h (x :: rest) →
      (mport s.dev b).state = 5 → (mport s.dev b).want.isSome = true → (mport s.dev b).resumeSent = false → BitVec.ofNat 8 (lctlField x 10 1) ≠ 0 →
      exec (.widthAck b f) s = .next (onDev s (mportMod s.dev b fun m => { m with
        peerWant := some (true, BitVec.ofNat 8 (lctlField x 10 1)), recovering := true, lctl := m.lctl.filter fun y => lctlOp y ≠ 4 ∧ lctlOp y ≠ 5 })))
  ∧ (∀ (s : State) (b : Fin 8), 4 ≤ (mport s.dev b).state → (mport s.dev b).resumeSent = false →
      (exec (.retrainLimitExpiry b) s = .next (onDev s (mwDown s.dev b false)))
      ∧ (chooseLanes (proposedLanes s.dev b) = 0 → exec (.recoveryComplete b []) s = .next (onDev s (mwDown s.dev b false)))
      ∧ (chooseLanes (proposedLanes s.dev b) ≠ 0 → (mport s.dev b).resumeGot = false → ∃ e, exec (.recoveryComplete b []) s = .next (onDev s e)
        ∧ (mport e b).mask = chooseLanes (proposedLanes s.dev b) ∧ (mport e b).width = laneCount (mport e b).mask ∧ (mport e b).resumeSent = true
        ∧ (mport e b).lctl = [lctlResume s.dev (mport s.dev b).rxE.toNat (mport s.dev b).cce.toNat] ∧ e = { s.dev with mports := e.mports, pages := e.pages }))
  ∧ (∀ (s : State) (b : Fin 8) (f : BitVec 2048) (h : Hdr) (x : BitVec 128) (rest : List (BitVec 128)), inSequence s b f (.lctl 6) h (x :: rest) →
      4 ≤ (mport s.dev b).state → (mport s.dev b).resumeSent = true → (mport s.dev b).replayBuf = [] → (mport s.dev b).ccOut = [] →
      lctlField x 10 2 % 4096 = (mport s.dev b).txN.toNat →
      ∃ e, exec (.resume b f) s = .next (onDev s e) ∧ (mport e b).state = 3 ∧ (mport e b).want = none ∧ (mport e b).peerWant = none
        ∧ (mport e b).txN = (mport s.dev b).txN ∧ e = { s.dev with mports := e.mports })
  ∧ (∀ (s : State) (b : Fin 8) (lanes : BitVec 8), s.dev.marwen.getLsbD b = true → (mport s.dev b).state = 3 →
      let lock := (mport s.dev b).lock &&& ~~~lanes
      let d := mportMod s.dev b fun m => { m with lock }
      ((mport s.dev b).mask &&& lock = (mport s.dev b).mask → (mport s.dev b).mask ≠ 0 → exec (.blockLockLost b lanes) s = .next (onDev s d))
      ∧ ((mport s.dev b).mask &&& lock ≠ (mport s.dev b).mask → (mport s.dev b).mask &&& lock ≠ 0 → exec (.blockLockLost b lanes) s = .next (onDev s (widthStart d b lock)))
      ∧ ((mport s.dev b).mask &&& lock = 0 → exec (.blockLockLost b lanes) s = .next (onDev s (mportMod d b fun m => { m with lockLost := some s.dev.pwr.now }))))
  ∧ (∀ (s : State) (b : Fin 8) (lanes : BitVec 8), s.dev.marwen.getLsbD b = true →
      ((mport s.dev b).lockLost = none → exec (.blockLockRegained b lanes) s = .next (onDev s (mportMod s.dev b fun m => { m with lock := m.lock ||| lanes })))
      ∧ ((mport s.dev b).lockLost.isSome = true → (mport s.dev b).mask &&& ((mport s.dev b).lock ||| lanes) ≠ 0 → exec (.blockLockRegained b lanes) s
        = .next (onDev s (retrainStart (mportMod (mportMod s.dev b fun m => { m with lock := m.lock ||| lanes }) b fun m => { m with lockLost := none }) b))))
  ∧ (∀ (s : State) (b : Fin 8), (mport s.dev b).lockLost.isSome = true →
      exec (.downTimeExpiry b) s = .next (onDev s (mportMod (mwDown s.dev b false) b fun m => { m with lockLost := none })))
  ∧ (∀ (s : State) (b : Fin 8) (f : BitVec 2048) (h : Hdr) (slots : List (BitVec 128)), inSequence s b f (.lctl 9) h slots →
      exec (.down b f) s = .next (onDev s (mwDown s.dev b false)))
  ∧ (∀ (s : State) (p : Path) (b : Fin 8) (mask : BitVec 8), admitted s p (.mwl b) .mwlWidthCtl = true →
      exec (.widthCtlRetrain p b) s = .next (wrote p (.mwl b) .mwlWidthCtl (withDev s (retrainStart (rput s.dev (.mwl b) .mwlWidthCtl (rget s.dev (.mwl b) .mwlWidthCtl &&& 0xFF)) b)))
      ∧ exec (.widthCtlReq p b mask) s = .next (wrote p (.mwl b) .mwlWidthCtl (withDev s (widthStart (rput s.dev (.mwl b) .mwlWidthCtl (mask.setWidth 32)) b mask))))

/-- Flits received in Active (R295 to R302, R306, R308): a DATA flit that is next is delivered and E moves on, one ahead of E asks for a NAK once and
is not delivered; a CC flit that is next is delivered and CCE moves on, one ahead within the window is held; a NAK for the oldest flit replays all; a
SACK frees what it names; a bad flit is counted, a reserved one is an error; KEYSW sets the new set's counters and is acknowledged, KEYSW_ACK of the
switch under way puts the new set in use. -/
def Obligations.FlitsReceived : Prop :=
  (∀ (s : State) (b : Fin 8) (f : BitVec 2048) (h : Hdr) (slots : List (BitVec 128)),
      (inSequence s b f .data h slots → ∃ e, exec (.dataFlit b f) s = .next (onDev s e) ∧ e = acceptGeneral (deliverFlit s.dev b h slots false) b)
      ∧ (inSequence s b f .idle h slots → exec (.idleFlit b f) s = .next (onDev s s.dev))
      ∧ (inSequence s b f .cc h slots → h.ccseq = (mport s.dev b).cce.toNat → (mport s.dev b).reorder = [] →
        (mport (acceptCc (deliverFlit s.dev b h slots true) b) b).reorder = [] → exec (.ccFlit b f) s = .next (onDev s (acceptCc (deliverFlit s.dev b h slots true) b)))
      ∧ (inSequence s b f .cc h slots → 0 < ccDist h.ccseq (mport s.dev b).cce.toNat → ccDist h.ccseq (mport s.dev b).cce.toNat < 64 →
        (∀ x ∈ (mport s.dev b).reorder, x.1.toNat ≠ h.ccseq) →
        exec (.ccFlit b f) s = .next (onDev s (mportMod s.dev b fun m => { m with reorder := m.reorder ++ [(BitVec.ofNat 10 h.ccseq, f)], sackDue := true })))
      ∧ (inSequence s b f .nak h slots → ∀ x rest, (mport s.dev b).replayBuf = x :: rest → h.ack = x.1.toNat →
        exec (.nakFlit b f) s = .next (onDev s (replayStart s.dev b true)))
      ∧ (inSequence s b f .sack h slots → exec (.sackFlit b f) s = .next (onDev s (sackReceive s.dev b (slots.headD 0))))
      ∧ (inSequence s b f .reserved h slots → exec (.reservedFlit b f) s = .next (onDev s (mwlRaise s.dev b 1 h.seq)))
      ∧ (inSequence s b f (.lctl 8) h slots → ∀ k, (mport s.dev b).switch = some k → decide (lctlField (slots.headD 0) 10 1 % 2 = 1) = k →
        exec (.keyswAck b f) s = .next (onDev s (mportMod s.dev b fun m => { m with
          ks := some k, switch := none, txCtr := 0, ccCtr := 0, rekeyed := false, lctl := m.lctl.filter fun x => lctlOp x ≠ 7 })))
      ∧ (inSequence s b f (.lctl 7) h slots → (mport s.dev b).rxStart = [] → lctlField (slots.headD 0) 12 2 % 4096 = (mport s.dev b).rxE.toNat →
        lctlField (slots.headD 0) 14 2 % 1024 = (mport s.dev b).cce.toNat → (∀ x ∈ (mport s.dev b).lctl, lctlOp x ≠ 8) →
        ∃ e, exec (.keysw b f) s = .next (onDev s e) ∧ tabGet (1, 1) (mport e b).rxCtr (lctlField (slots.headD 0) 10 1 % 2) = (0, 0)
          ∧ (mport e b).lctl = (mport s.dev b).lctl ++ [lctlKeyswAck s.dev (decide (lctlField (slots.headD 0) 10 1 % 2 = 1))] ∧ e = { s.dev with mports := e.mports }))
  ∧ (∀ (s : State) (b : Fin 8) (f : BitVec 2048) (h : Hdr) (slots : List (BitVec 128)), linkReceives s.dev b = true →
      (openFlit s.dev b f = (.data, h, slots) → h.ackv = false → 0 < seqDist h.seq (mport s.dev b).rxE.toNat → seqDist h.seq (mport s.dev b).rxE.toNat < 2048 →
        ((mport s.dev b).nakSent = false → exec (.dataFlit b f) s = .next (onDev s (mportMod s.dev b fun m => { m with nakSent := true, nakDue := true, nakCount := m.nakCount + 1 })))
        ∧ ((mport s.dev b).nakSent = true → exec (.dataFlit b f) s = .next (onDev s s.dev)))
      ∧ (openFlit s.dev b f = (.bad false, h, slots) → exec (.badFlit b f) s = .next (onDev s (countMarwen (rbump s.dev (.mwl b) .mwlBadFlits) b 5 1)))
      ∧ (openFlit s.dev b f = (.bad true, h, slots) → exec (.badFlit b f) s
        = .next (onDev s (mwlRaise (rbump (countMarwen (rbump s.dev (.mwl b) .mwlBadFlits) b 5 1) (.mwl b) .mwlTagFails) b 2 h.seq))))

/-- The timers of a link and the choice of the next flit (R295 to R303): a NAK without answer is asked for again, and the eighth starts a retrain; an
acknowledgement that does not come replays; what a timer asks for is due; a slot sends what is due first: LCTL, then NAK or SACK, then replay, then a
CC flit to be sent again, and an IDLE flit where there is nothing. -/
def Obligations.LinkTimersAndSlots : Prop :=
  (∀ (s : State) (b : Fin 8), (mport s.dev b).nakSent = true →
      ((mport s.dev b).nakCount < 8 → exec (.nakTimer b) s = .next (onDev s (mportMod s.dev b fun m => { m with nakSent := true, nakDue := true, nakCount := m.nakCount + 1 })))
      ∧ (8 ≤ (mport s.dev b).nakCount → exec (.nakTimer b) s = .next (onDev s (retrainStart s.dev b))))
  ∧ (∀ (s : State) (b : Fin 8) (x : BitVec 12 × BitVec 2048) (rest : List (BitVec 12 × BitVec 2048)), (mport s.dev b).replayBuf = x :: rest → (mport s.dev b).replayTries < 3 →
      ∃ e, exec (.replayTimer b) s = .next (onDev s e) ∧ (mport e b).replayAt = some 0 ∧ (mport e b).replayTries = (mport s.dev b).replayTries + 1
        ∧ (mport e b).state = (mport s.dev b).state ∧ rget e (.mwl b) .mwlReplays = rget (rbump s.dev (.mwl b) .mwlReplays) (.mwl b) .mwlReplays)
  ∧ (∀ (s : State) (b : Fin 8) (x : CcOut), (mport s.dev b).ccOut = [x] →
      exec (.ccRtxTimer b) s = .next (onDev s (mportMod s.dev b fun m => { m with ccOut := [{ x with again := true }] })))
  ∧ (∀ (s : State) (b : Fin 8), (mport s.dev b).reorder ≠ [] → exec (.sackTimer b) s = .next (onDev s (mportMod s.dev b fun m => { m with sackDue := true })))
  ∧ (∀ (s : State) (b : Fin 8), 0 < (mport s.dev b).ackCount → exec (.ackCoalesceTimer b) s = .next (onDev s (mportMod s.dev b fun m => { m with ackDue := true })))
  ∧ (∀ (s : State) (b : Fin 8), linkReceives s.dev b = true → (mport s.dev b).recovering = false →
      (∀ x rest, (mport s.dev b).lctl = x :: rest → exec (.flitSlotOpen b) s = .next (onDev s (sendLctl s.dev b x)))
      ∧ ((mport s.dev b).lctl = [] → ((mport s.dev b).nakDue = true ∨ (mport s.dev b).sackDue = true) → exec (.flitSlotOpen b) s = .next (onDev s (sendNak s.dev b)))
      ∧ (∀ i x, (mport s.dev b).lctl = [] → (mport s.dev b).nakDue = false → (mport s.dev b).sackDue = false → (mport s.dev b).replayAt = some i →
        (mport s.dev b).replayBuf[i]? = some x → exec (.flitSlotOpen b) s = .next (onDev s (sendReplay s.dev b i x.2)))
      ∧ (∀ x rest, (mport s.dev b).lctl = [] → (mport s.dev b).nakDue = false → (mport s.dev b).sackDue = false → (mport s.dev b).replayAt = none →
        (mport s.dev b).ccOut = x :: rest → x.again = true → exec (.flitSlotOpen b) s = .next (onDev s (sendAgain s.dev b x)))
      ∧ ((mport s.dev b).lctl = [] → (mport s.dev b).nakDue = false → (mport s.dev b).sackDue = false → (mport s.dev b).replayAt = none → (mport s.dev b).ccOut = [] →
        (mport s.dev b).state ≠ 3 → exec (.flitSlotOpen b) s = .next (onDev s (sentFlit s.dev b (sendHdr s.dev b 0) (mkFlit (sendHdr s.dev b 0) [] none)))))

/-- Requests of peers (R212, R219, R315 to R317, R409): each that passes the checks and names a line inside MAP.LIMIT arrives at the home as its kind
of request, with its payload; beyond it, it is answered with status 5, and an atomic that R256 does not have with status 6; a packet that fails the
checks is captured and raised and does nothing else. Grants of pages, management packets, transit and unlisted opcodes (R315, R318, R320, R325, R326,
R328): without a donor window a grant is answered with status 4; a page goes back from the peer that has it alone; an ECHO returns its payload; a
packet for another device goes on with HOP one higher, and one at its last hop does not; an unlisted opcode is discarded and raised. That a misaligned
atomic counts among those R256 does not have is the model's reading (log entry 23). -/
def Obligations.PeerRequestsAndPackets : Prop :=
  ((∀ (s : State) (b : Fin 8) (slots : List (BitVec 128)) (env : Env) (c : Instr) (op : Nat) (kind : Kind) (o : Op) (keep : Nat),
      (c, op, kind, o, keep) ∈ [(Instr.mwRd b slots env, 0x01, Kind.rc, Op.read, 0), (.mwWr b slots env, 0x02, .wr, .write (lineOf slots), 0),
        (.mwWrp b slots env, 0x03, .wr, ptlOf slots, 0), (.mwRds b slots env, 0x40, .rs, .read, 0), (.mwRde b slots env, 0x41, .re, .read, 0),
        (.mwRdcur b slots env, 0x42, .rc, .read, 0), (.mwOwn b slots env, 0x43, .own, .none, 0), (.mwWrc b slots env, 0x44, .wr, .write (lineOf slots), 0),
        (.mwWrcp b slots env, 0x45, .wr, ptlOf slots, 0), (.mwWbd b slots env, 0x46, .wb, .write (lineOf slots), if pkFlag slots then 2 else 0),
        (.mwEvc b slots env, 0x47, .evc, .none, 0)] →
      (mwArrives s b slots op → envClean env = true →
        let d := mwOcc (mwTaken s.dev b slots op) b env.occ
        let r := mwReqOf d b slots kind o keep
        r.line = pkAddr slots / 64 ∧ r.kind = kind ∧ r.op = o
        ∧ (pageOfLine r.line < limitPages d (homeOf (pageOfLine r.line)) → exec c s = .next (onDev s (arrive d r (16 + b.val))))
        ∧ (limitPages d (homeOf (pageOfLine r.line)) ≤ pageOfLine r.line → exec c s = .next (onDev s (respondRefused d r 5))))
      ∧ (linkReceives s.dev b = true → pkOp slots = op → pkDst slots = selfId s.dev → ∀ cause, packetCheck s.dev b slots = some cause →
        exec c s = .next (onDev s (packetRefused (takeIn s.dev b slots true) b cause slots))))
  ∧ (∀ (s : State) (b : Fin 8) (slots : List (BitVec 128)) (env : Env),
      (mwArrives s b slots 0x04 → (∀ o, mwAtomic slots = some o → exec (.mwAtom b slots env) s = .next (onDev s (mwServe (mwTaken s.dev b slots 0x04) b slots env .atm o)))
        ∧ (mwAtomic slots = none → exec (.mwAtom b slots env) s
          = .next (onDev s (respondRefused (mwTaken s.dev b slots 0x04) (mwReqOf (mwTaken s.dev b slots 0x04) b slots .atm (.atomic .add 32 0 0 0) 0) 6))))
      ∧ (mwArrives s b slots 0x48 → ∀ o, mwAtomic slots = some o →
        let d := mwTaken s.dev b slots 0x48
        ((tracked d (pkAddr slots / 64) = false ∨ atmHome d (pkAddr slots / 64) = true) → exec (.mwAtmc b slots env) s = .next (onDev s (mwServe d b slots env .atm o)))
        ∧ (tracked d (pkAddr slots / 64) = true → atmHome d (pkAddr slots / 64) = false → exec (.mwAtmc b slots env) s = .next (onDev s (mwServe d b slots env .re .read))))))
  ∧ ((∀ (s : State) (b : Fin 8) (slots : List (BitVec 128)), mwArrives s b slots 0x05 →
      let d := mwTaken s.dev b slots 0x05
      ((rget d (.mwt 0) .mwtDonorBase).getLsbD 31 = false → exec (.mwPgrant b slots) s = .next (onDev s (mwSend d (pkSrc slots) 0x21 (pkSlate slots) (pkTag slots) 4 [])))
      ∧ (∀ page e, (rget d (.mwt 0) .mwtDonorBase).getLsbD 31 = true →
        donorPage d (rfld d (.mwt 0) .mwtDonorLen 24 0) (fld (rget d (.mwt 0) .mwtDonorBase) 23 0) = some page → slateRight d (pkSlate slots) page = true →
        bindNow d page = some e → exec (.mwPgrant b slots) s
          = .next (onDev s (mwSend { e with grantee := tabPut none e.grantee page (some (pkSrc slots)) } (pkSrc slots) 0x21 (pkSlate slots) (pkTag slots) (page * 2 ^ 8) []))))
  ∧ (∀ (s : State) (b : Fin 8) (slots : List (BitVec 128)), mwArrives s b slots 0x06 →
      let d := mwTaken s.dev b slots 0x06
      let page := pkAddr slots / 4096
      (tabGet none d.grantee page = some (pkSrc slots) → exec (.mwPrel b slots) s
        = .next (onDev s (mwSend (unbindPage { d with grantee := tabPut none d.grantee page none } page) (pkSrc slots) 0x20 (pkSlate slots) (pkTag slots) 0 [])))
      ∧ (tabGet none d.grantee page ≠ some (pkSrc slots) → exec (.mwPrel b slots) s = .next (onDev s (mwSend d (pkSrc slots) 0x20 (pkSlate slots) (pkTag slots) 1 []))))
  ∧ (∀ (s : State) (b : Fin 8) (slots answer : List (BitVec 128)), mwArrives s b slots 0x70 → hdrFld (slots.headD 0) 75 73 = 1 →
      exec (.mwMgt b slots answer) s = .next (onDev s (mwSend (mwTaken s.dev b slots 0x70) (pkSrc slots) 0x70 (pkSlate slots) (pkTag slots) (hdrFld (slots.headD 0) 127 64) (slots.drop 1))))
  ∧ (∀ (s : State) (b : Fin 8) (slots : List (BitVec 128)), linkReceives s.dev b = true → pkDst slots ≠ selfId s.dev → packetCheck s.dev b slots = none →
      (packetCheck (takeIn s.dev b slots true) b slots = none) →
      (∀ d, pkHop slots ≠ 4 → queueTx (takeIn s.dev b slots true) (nextHop slots) = some d → exec (.transitPacket b slots) s = .next (onDev s (countMarwen d b 2 1)))
      ∧ ((pkHop slots = 4 ∨ queueTx (takeIn s.dev b slots true) (nextHop slots) = none) → exec (.transitPacket b slots) s = .next (onDev s (notForwarded (takeIn s.dev b slots true) slots))))
  ∧ (∀ (s : State) (b : Fin 8) (slots : List (BitVec 128)), linkReceives s.dev b = true → listed slots = false → pkHop slots ≠ 0 → pkHop slots ≤ 4 → pkHop slots ≠ 1 →
      exec (.mwUnknownOpcode b slots) s = .next (onDev s (packetRefused (takeIn s.dev b slots true) b 6 slots))))

/-- Answers of peers to this device's requests (R214, R221, R257, R316, R318, R323, R325, R327): one that its tag expects frees the tag and does what
the tag is for; one that no tag expects is counted as a stray and captured, and changes nothing else. -/
def Obligations.PeerAnswers : Prop :=
  (∀ (s : State) (b : Fin 8) (slots : List (BitVec 128)) (u : TagUse),
      (mwExpected s b slots 0x20 u → pkStatus slots = 3 → exec (.mwCmp b slots) s = .next (onDev s (retryPeer (unserved (mwFreed s.dev b slots 0x20) u))))
      ∧ (∀ q l o, mwExpected s b slots 0x20 u → pkStatus slots ≠ 3 → u.opcode = 2 ∨ u.opcode = 3 → u.use = .xfer q l o →
        exec (.mwCmp b slots) s = .next (onDev s (retryPeer (xferAnswer (mwFreed s.dev b slots 0x20) q l (pkStatus slots) none))))
      ∧ (∀ q i, mwExpected s b slots 0x21 u → u.opcode = 5 → u.use = .dolly q i → ∀ m, (quad (mwFreed s.dev b slots 0x21) q).move = some m →
        (pkStatus slots ≠ 0 → exec (.mwGranted b slots) s = .next (onDev s (retryPeer (abandonMove (mwFreed s.dev b slots 0x21) q false))))
        ∧ (pkStatus slots = 0 → let page := hdrFld (slots.headD 0) 104 72
          exec (.mwGranted b slots) s = .next (onDev s (retryPeer (sendLines (moveTaken (mwFreed s.dev b slots 0x21) q m (spanEntry u.peer page (heatOf m.oldEntry)) m.data)
            q u.peer page m.data (BitVec.allOnes 64))))))
      ∧ (∀ q l o, mwExpected s b slots 0x30 u → u.opcode = 1 → u.use = .xfer q l o →
        exec (.mwData b slots) s = .next (onDev s (retryPeer (xferAnswer (mwFreed s.dev b slots 0x30) q l (pkStatus slots) (some (lineOf slots))))))
      ∧ (mwExpected s b slots 0x31 u → u.opcode = 4 → exec (.mwAdata b slots) s = .next (onDev s (retryPeer (mwFreed s.dev b slots 0x31))))
      ∧ (∀ line, mwExpected s b slots 0x60 u → u.opcode = 0x42 → u.use = .span line → exec (.mwGnti b slots) s
        = .next (onDev s (retryPeer (peerEnd (mwFreed s.dev b slots 0x60) line (if pkStatus slots = 2 then none else some (lineOf slots))))))
      ∧ (∀ line, mwExpected s b slots 0x61 u → u.opcode = 0x40 → u.use = .span line → exec (.mwGnts b slots) s
        = .next (onDev s (retryPeer (peerGrant (mwFreed s.dev b slots 0x61) line 1 (pkStatus slots) (some (lineOf slots))))))
      ∧ (∀ line, mwExpected s b slots 0x62 u → u.opcode ∈ [0x40, 0x41, 0x43, 0x48] → u.use = .span line → exec (.mwGnte b slots) s
        = .next (onDev s (retryPeer (peerGrant (mwFreed s.dev b slots 0x62) line 2 (pkStatus slots) (if slots.length = 5 then some (lineOf slots) else none)))))
      ∧ (∀ line, mwExpected s b slots 0x63 u → u.opcode = 0x63 → u.use = .span line → exec (.mwFwddata b slots) s
        = .next (onDev s (retryPeer (forwarded (mwFreed s.dev b slots 0x63) line (if pkStatus slots = 2 then none else some (lineOf slots))))))
      ∧ (∀ q i, mwExpected s b slots 0x64 u → 0x44 ≤ u.opcode → u.opcode ≤ 0x47 → u.use = .dolly q i →
        (pkStatus slots = 0 → exec (.mwWcmp b slots) s = .next (onDev s (retryPeer (mwFreed s.dev b slots 0x64))))
        ∧ (pkStatus slots ≠ 0 → exec (.mwWcmp b slots) s = .next (onDev s (retryPeer (abandonMove (mwFreed s.dev b slots 0x64) q false)))))
      ∧ (mwExpected s b slots 0x65 u → u.opcode = 0x48 → exec (.mwAcmp b slots) s = .next (onDev s (retryPeer (mwFreed s.dev b slots 0x65)))))
  ∧ (∀ (s : State) (b : Fin 8) (slots : List (BitVec 128)) (c : Instr) (op : Nat), tabGet none s.dev.tags (pkTag slots) = none → mwArrives s b slots op →
      (c, op) ∈ [(Instr.mwCmp b slots, 0x20), (.mwGranted b slots, 0x21), (.mwData b slots, 0x30), (.mwAdata b slots, 0x31), (.mwGnti b slots, 0x60), (.mwGnts b slots, 0x61),
        (.mwGnte b slots, 0x62), (.mwFwddata b slots, 0x63), (.mwWcmp b slots, 0x64), (.mwAcmp b slots, 0x65), (.mwRspi b slots, 0x58), (.mwRsps b slots, 0x59), (.mwRspfwd b slots, 0x5A)] →
      exec c s = .next (onDev s (mwtErr (rbump (mwTaken s.dev b slots op) (.mwt 0) .mwtStrayCount) b 5 op (pkSrc slots) (pkDst slots))))

/-- Snoops between devices and tags (R213, R222, R323): a gate's answer counts for the agent of its sender, with its data; a peer's snoop of a line
that no Span page of this device holds is answered at once that nothing is held, and one of a held line without local holders from Stage; a tag
without answer is held back, counted and raised once, and free again when the hold ends. -/
def Obligations.PeerSnoopsAndTags : Prop :=
  (∀ (s : State) (b : Fin 8) (slots : List (BitVec 128)) (u : TagUse) (line : Nat) (c : Instr) (op : Nat) (keepS fwd : Bool),
      (c, op, keepS, fwd) ∈ [(Instr.mwRspi b slots, 0x58, false, false), (.mwRsps b slots, 0x59, true, false), (.mwRspfwd b slots, 0x5A, false, true)] →
      mwExpected s b slots op u → 0x50 ≤ u.opcode → u.opcode ≤ 0x53 → u.use = .span line →
      (slots.length = 1 → exec c s = .next (onDev s (retryPeer (snoopAnswer (mwFreed s.dev b slots op) line (20 + gateOf (mwFreed s.dev b slots op) (pkSrc slots)) (pkSrc slots) keepS (pkFlag slots) fwd none))))
      ∧ (slots.length = 5 → pkStatus slots ≠ 2 → exec c s
        = .next (onDev s (retryPeer (snoopAnswer (mwFreed s.dev b slots op) line (20 + gateOf (mwFreed s.dev b slots op) (pkSrc slots)) (pkSrc slots) keepS (pkFlag slots) fwd (some (lineOf slots)))))))
  ∧ (∀ (s : State) (b : Fin 8) (slots : List (BitVec 128)) (c : Instr) (op : Nat),
      (c, op) ∈ [(Instr.mwSnpinv b slots, 0x50), (.mwSnpdata b slots, 0x51), (.mwSnpfwds b slots, 0x52), (.mwSnpfwde b slots, 0x53)] → mwArrives s b slots op →
      let d := mwTaken s.dev b slots op
      (spanPage d (pkSrc slots) (pkAddr slots / 4096) = none → exec c s = .next (onDev s (mwSend d (pkSrc slots) 0x58 0 (pkTag slots) (2 ^ 63) [])))
      ∧ (∀ page, spanPage d (pkSrc slots) (pkAddr slots / 4096) = some page →
        let line := page * 64 + pkAddr slots / 64 % 64
        ((dirEnt d line).pg = 0 → exec c s = .next (onDev s (mwSend d (pkSrc slots) 0x58 0 (pkTag slots) (2 ^ 63) [])))
        ∧ ((dirEnt d line).pg ≠ 0 → op = 0x51 → (dirEnt d line).state ≠ .e → agentsOf (dirEnt d line).vector = [] → exec c s
          = .next (onDev s (peerSnoopEnd d { line, port := b, peer := pkSrc slots, tag := pkTag slots, opcode := op, fwdPeer := hdrFld (slots.headD 0) 114 109, fwdTag := hdrFld (slots.headD 0) 126 115, await := [], data := none } false false)))))
  ∧ (∀ (s : State) (tag : BitVec 12) (u : TagUse), tabGet none s.dev.tags tag.toNat = some u →
      (u.held = true → exec (.responseTimeout tag) s = .next (onDev s s.dev)
        ∧ exec (.tagHoldbackEnd tag) s = .next (onDev s (retryPeer { s.dev with tags := tabPut none s.dev.tags tag.toNat none })))
      ∧ (u.held = false → ∃ e, exec (.responseTimeout tag) s = .next (onDev s e) ∧ (u.use = .note → ∃ x, e = mwtRaise (rbump x (.mwt 0) .mwtTimeoutCount) u.port 0 1 u.opcode (selfId s.dev) u.peer
          ∧ tabGet none x.tags tag.toNat = some { u with held := true, since := s.dev.pwr.now } ∧ x = { s.dev with tags := x.tags })
        ∧ (∀ q l o, u.use = .xfer q l o → ∃ x, e = xferFail x q l 0x0C)))

/-- The passages between the worlds (R336, R337, R338, R340, R333). A GATE in machine mode of the normal world whose checks pass enters the secure
world behind the ENTRY at its target with the address of the next instruction in SEPC; the first check that fails, in the order the rule gives, is a
gate fault. GRET returns to SEPC in the normal world; ENTRY in the secure world is a no-op; any other use, and any other word of custom-0, is an
illegal instruction (cause 2). A secure interrupt enters at STVEC with the interrupted pc in SEPC. The bits of CORE_RELEASE stay, and a core newly
released starts in the normal world. -/
def Obligations.WorldSwitches : Prop :=
  (∀ (s : State) (k : Fin 4) (pc target : DWord) (word at_ : Word), coreRuns s k = true → (coreAt s k).secure = false → isGate word = true →
      let fault (reason : Nat) : State :=
        let d := if (rget s.dev .mgt .mgtGateErr).getLsbD 31 then s.dev
          else rput (rput s.dev .mgt .mgtGateErr (packW [(0, k.val), (2, reason), (31, 1)])) .mgt .mgtGateErrAddr (target.setWidth 32)
        onDev (coreSet s k { coreAt s k with mepc := pc, mcause := 24, mtval := target, pc := (coreAt s k).mtvec }) (raise0 d .mgt 1)
      (secureAddr target = true → fld target 1 0 = 0 → domOn s.dev 2 = true → at_ = entryWord →
        exec (.gate k pc word target at_ false) s = .next (coreSet s k { coreAt s k with sepc := pc + 4, secure := true, pc := target + 4 }))
      ∧ (secureAddr target = false → exec (.gate k pc word target at_ false) s = .next (fault 1))
      ∧ (secureAddr target = true → fld target 1 0 ≠ 0 → exec (.gate k pc word target at_ false) s = .next (fault 2))
      ∧ (secureAddr target = true → fld target 1 0 = 0 → domOn s.dev 2 = false → exec (.gate k pc word target at_ false) s = .next (fault 4))
      ∧ (secureAddr target = true → fld target 1 0 = 0 → domOn s.dev 2 = true → at_ ≠ entryWord → exec (.gate k pc word target at_ false) s = .next (fault 3)))
  ∧ (∀ (s : State) (k : Fin 4) (pc : DWord), coreRuns s k = true → (coreAt s k).secure = true →
      exec (.gret k pc 0x0000100B false) s = .next (coreSet s k { coreAt s k with secure := false, pc := (coreAt s k).sepc })
      ∧ exec (.entry k pc 0x0000200B) s = .next (coreSet s k { coreAt s k with pc := pc + 4 }))
  ∧ (∀ (s : State) (k : Fin 4) (pc target : DWord) (word at_ : Word) (user : Bool), coreRuns s k = true →
      let trapped : State := coreSet (withDev s (bumpFree s.dev)) k (trap (coreAt s k) pc 2 (BitVec.ofNat 64 (Config.free (fresh s.dev))))
      ((coreAt s k).secure = true ∨ user = true → exec (.gate k pc word target at_ user) s = .next trapped)
      ∧ ((coreAt s k).secure = false ∨ user = true → exec (.gret k pc word user) s = .next trapped)
      ∧ ((coreAt s k).secure = false → exec (.entry k pc word) s = .next trapped)
      ∧ (fld word 6 0 = 0x0B → isGate word = false → word ≠ 0x0000100B → word ≠ 0x0000200B → exec (.illegalCustom0 k pc word) s = .next trapped))
  ∧ (∀ (s : State) (pc : DWord) (enabled : Bool) (k : Fin 4), rfld s.dev .seci .seciSirqRoute 1 0 = k.val → coreRuns s k = true → domOn s.dev 2 = true →
      ((coreAt s k).secure = false → exec (.secureInterrupt pc enabled) s = .next (coreSet s k { coreAt s k with sepc := pc, secure := true, pc := (coreAt s k).stvec }))
      ∧ ((coreAt s k).secure = true → exec (.secureInterrupt pc true) s
          = .next (coreSet s k { coreAt s k with mepc := pc, mcause := 0x800000000000000B, mtval := 0, pc := (coreAt s k).stvec }))
      ∧ ((coreAt s k).secure = true → exec (.secureInterrupt pc false) s = .next s))
  ∧ (∀ (s : State) (p : Path) (v : Word), admitted s p .seci .seciCoreRelease = true → s.life.cores.length = 4 →
      ∃ t, exec (.coreRelease p v) s = .next (wrote p .seci .seciCoreRelease t)
        ∧ rget t.dev .seci .seciCoreRelease = rget s.dev .seci .seciCoreRelease ||| (v &&& 0xE)
        ∧ ∀ k : Fin 4, (k.val ≠ 0 → v.getLsbD k = true → (rget s.dev .seci .seciCoreRelease).getLsbD k = false → (coreAt t k).running = true ∧ (coreAt t k).secure = false)
          ∧ (k.val = 0 ∨ v.getLsbD k = false ∨ (rget s.dev .seci .seciCoreRelease).getLsbD k = true → coreAt t k = coreAt s k))

/-- The start of key commands (R342): one whose block has a length runs with the bytes read, marked when the source is misaligned or leaves the secure
SRAM; one written while another runs is refused at once with RESULT 1, and the one that runs goes on. A derive whose lengths are too large and an OP
of no operation run to RESULT 4. The end of key commands (R132, R342, R344, R305): RESULT, BUSY at 0 and bit 0 of SECI's EVENT_STAT, and beside them
only what an operation without an error does to its target. The order in which the errors are looked for is the model's choice (log entry 108); their
conditions are the rule's. -/
def Obligations.KeyCommands : Prop :=
  (∀ (s : State) (t : BitVec 2) (i : BitVec 12) (block : List Byte), domOn s.dev 2 = true →
    let src := rfld s.dev .seci .seciKeySrc 17 0
    let runs (op : Nat) (b : List Byte) : State :=
      onDev s { s.dev with keyRun := some { op, target := t.toNat, index := i.toNat, block := b, srcBad := decide (src % 16 ≠ 0 ∨ 2 ^ 18 < src + b.length) } }
    let busy : State := onDev s (rputFld s.dev .seci .seciKeyStat 3 1 1)
    (s.dev.keyRun = none →
      (block.length = 104 → exec (.keyUnwrap t i block) s = .next (runs 1 block))
      ∧ (∀ l c, block.length = 4 + l + c → ofBytes (block.take 2) = l → ofBytes ((block.drop 2).take 2) = c →
          (l ≤ 64 → c ≤ 64 → exec (.keyDerive t i block) s = .next (runs 2 block))
          ∧ ((64 < l ∨ 64 < c) → exec (.keyDerive t i block) s = .next (onDev s { s.dev with keyRun := some { op := 0, target := t.toNat, index := i.toNat, block := [], srcBad := false } })))
      ∧ exec (.keyZeroise t i) s = .next (runs 3 [])
      ∧ (block.length = 32 → exec (.keyLoadPlain t i block) s = .next (runs 4 block))
      ∧ (∀ op : BitVec 3, 4 < op.toNat → exec (.keyCmdBadOp op t i) s = .next (runs op.toNat [])))
    ∧ (s.dev.keyRun.isSome = true →
      exec (.keyUnwrap t i block) s = .next busy ∧ exec (.keyDerive t i block) s = .next busy ∧ exec (.keyZeroise t i) s = .next busy
      ∧ exec (.keyLoadPlain t i block) s = .next busy ∧ ∀ op : BitVec 3, 4 < op.toNat → exec (.keyCmdBadOp op t i) s = .next busy))
  ∧ ((∀ (s : State) (r : KeyRun), s.dev.keyRun = some r →
    let ends (d : Dev) (result : Nat) : State := onDev s (raiseEvent (rputFld { d with keyRun := none } .seci .seciKeyStat 3 1 result) .seci 0)
    let fails (result : Nat) : Prop := exec .keyCmdComplete s = .next (ends s.dev result)
    let used : Bool := r.op ≠ 3 && (decide (r.target = 1) && ideInUse s.dev r.index || decide (r.target = 2) && mwSetActive s.dev r.index)
    (s.life.state = 3 → fails 6)
    ∧ (s.life.state ≠ 3 → keyArgsOk r.op r.target r.index = false ∨ used = true → fails 4)
    ∧ (s.life.state ≠ 3 → keyArgsOk r.op r.target r.index = true → used = false →
        (r.op ≠ 3 → r.srcBad = true → fails 5)
        ∧ ((r.op = 3 ∨ r.srcBad = false) → r.target = 0 → slotInUse s.dev r.index = true → fails 2)
        ∧ ((r.op = 3 ∨ r.srcBad = false) → (r.target ≠ 0 ∨ slotInUse s.dev r.index = false) →
          (r.op = 1 → Config.keyUnwrap r.block = none → fails 3)
          ∧ (∀ k, r.op = 1 → Config.keyUnwrap r.block = some k → exec .keyCmdComplete s = .next (ends (slotBind s.dev r.index k false) 0))
          ∧ (r.op = 2 → r.target = 0 → exec .keyCmdComplete s = .next (ends (slotBind s.dev r.index (Config.keyDerive r.block) true) 0))
          ∧ (r.op = 2 → r.target = 1 → exec .keyCmdComplete s = .next (ends (ideLoad s.dev r.index (some ((Config.keyDerive r.block).setWidth 256))) 0))
          ∧ (r.op = 2 → r.target = 2 → exec .keyCmdComplete s = .next (ends (mwLoad s.dev r.index (some ((Config.keyDerive r.block).setWidth 256))) 0))
          ∧ (r.op = 3 → r.target = 0 → exec .keyCmdComplete s = .next (ends (slotZero s.dev r.index) 0))
          ∧ (r.op = 3 → r.target = 1 → exec .keyCmdComplete s = .next (ends (ideLoad s.dev r.index none) 0))
          ∧ (r.op = 3 → r.target = 2 → exec .keyCmdComplete s = .next (ends (mwLoad s.dev r.index none) 0))
          ∧ (r.op = 4 → r.target = 1 → exec .keyCmdComplete s = .next (ends (ideLoad s.dev r.index (some (BitVec.ofNat 256 (ofBytes r.block)))) 0))
          ∧ (r.op = 4 → r.target = 2 → exec .keyCmdComplete s = .next (ends (mwLoad s.dev r.index (some (BitVec.ofNat 256 (ofBytes r.block)))) 0)))))
  ∧ (∀ (d : Dev) (k : Nat) (key : BitVec 768) (derived : Bool),
      tabGet {} (slotBind d k key derived).slots k = { bound := true, derived, generation := (tabGet {} d.slots k).generation + 1, key }
      ∧ tabGet {} (slotZero d k).slots k = { bound := false, derived := false, generation := (tabGet {} d.slots k).generation, key := 0 }
      ∧ ∀ j, j ≠ k → tabGet {} (slotBind d k key derived).slots j = tabGet {} d.slots j ∧ tabGet {} (slotZero d k).slots j = tabGet {} d.slots j)
  ∧ (∀ (d : Dev) (i : Nat) (key : Option (BitVec 256)), tabGet none (ideLoad d i key).ideKeys i = key ∧ tabGet none (mwLoad d i key).mwKeys i = key
      ∧ ∀ j, j ≠ i → tabGet none (ideLoad d i key).ideKeys j = tabGet none d.ideKeys j ∧ tabGet none (mwLoad d i key).mwKeys j = tabGet none d.mwKeys j)
  ∧ (∀ (d : Dev) (i : Nat) (key : BitVec 256), i / 16 % 2 = 1 → (mport (mwLoad d i (some key)) (i % 8)).switch = some (decide (i / 8 % 2 = 1))))

/-- The life cycle and the debug enables (R343, R344, R345): the secure world burns only the next code; a nonce is handed out, kept, used up by the
token that presents it and dropped when it expires; a token with a good signature, a nonce that is kept and no enable beyond what the state has or
lets its key unlock is granted, and any other token raises "debug unlock refused" and grants nothing; RELOCK withdraws what was granted. What a key
may unlock is as the table says. That a refused token too uses up its nonce is the model's reading (log entry 62). -/
def Obligations.LifeAndDebug : Prop :=
  (∀ (s : State) (p : Path) (v : Word), admitted s p .seci .seciLifecycle = true →
      (fld v 17 16 = s.life.state.toNat + 1 → exec (.lifecycleAdvance p v) s
        = .next (wrote p .seci .seciLifecycle { s with life := { s.life with burn := some (s.life.state + 1) } }))
      ∧ (fld v 17 16 ≠ s.life.state.toNat + 1 → exec (.lifecycleAdvance p v) s = .next (wrote p .seci .seciLifecycle s)))
  ∧ (∀ (s : State) (p : Path) (nonce : BitVec 256), domOn s.dev 2 = true → p = .sideband ∨ p = .debug →
      exec (.debugNonceRequest p nonce) s = .next { withDev s (send s.dev (.nonce p nonce)) with life := { s.life with nonces := s.life.nonces ++ [nonce] } })
  ∧ (∀ (s : State) (nonce : BitVec 256), ∃ l, exec (.nonceExpiry nonce) s = .next { s with life := { s.life with nonces := l } }
      ∧ ∀ n, n ∈ l ↔ n ∈ s.life.nonces ∧ n ≠ nonce)
  ∧ (∀ (s : State) (t : Token), domOn s.dev 2 = true →
      let kept : Life := { s.life with nonces := s.life.nonces.filter (· ≠ t.nonce) }
      let may : BitVec 4 := unlockable s.life.state t.vendor
      let asks : Prop := ∀ i, t.enables.getLsbD i = true → (baseEnables s.life.state).getLsbD i = true ∨ may.getLsbD i = true
      (t.sigValid = true → t.nonce ∈ s.life.nonces → asks →
        exec (.debugUnlockToken t) s = .next { s with life := { kept with unlocked := s.life.unlocked ||| (t.enables &&& may) } })
      ∧ (t.sigValid = false ∨ t.nonce ∉ s.life.nonces ∨ ¬ asks → exec (.debugUnlockToken t) s = .next { onDev s (raise0 s.dev .seci 1) with life := kept }))
  ∧ (∀ vendor, unlockable 0 vendor = 0 ∧ unlockable 3 vendor = 0 ∧ unlockable 1 true = 0xF ∧ unlockable 1 false = 0x3 ∧ unlockable 2 true = 0xC ∧ unlockable 2 false = 0)
  ∧ (∀ (s : State) (p : Path) (v : Word), admitted s p .seci .seciDebugEn = true → ∃ l, exec (.relock p v) s = .next (wrote p .seci .seciDebugEn { s with life := l })
      ∧ l = { s.life with unlocked := 0, cores := l.cores } ∧ l.cores.length = s.life.cores.length
      ∧ enables l = enablesOf (baseEnables s.life.state)
      ∧ ∀ k, k < s.life.cores.length → let c := s.life.cores.getD k {}
          l.cores.getD k {} = if (enables l).getLsbD (if c.secure = true then 3 else 1) = true then c else { c with halted := false })

/-- A read over the debug port (R146, R343): a line of the capacity that Stage holds, in a range that lets debug read it, is returned; without the
enable NNID nothing is read: the answer is all ones and the access is recorded. That a read by debug samples no heat and moves no line is the model's
choice (log entry 66). Claims, the TEST right and the watchdog (R349, R351, R352, R355): a claim is applied for domains that are on and not going off,
never for AO and SI; TEST_EN holds its four bits but in Decommissioned; a kick restarts the watchdog's count, and a count that reaches MS while it is
enabled and its page is not Cut raises the source and restarts. -/
def Obligations.DebugClaimsWatchdog : Prop :=
  (∀ (s : State) (dpa : Dpa), let line := dpa.toNat / 64
    domOn s.dev 3 = true → domOn s.dev (4 + homeOf (pageOfLine line)) = true → s.dev.pwr.mode ∈ [Mode.service, .degraded, .maintain] →
    (∀ x, pageOfLine line < limitPages s.dev (homeOf (pageOfLine line)) → (enables s.life).getLsbD 0 = true → homeClear s.dev line = true →
      debugRight s.dev (pageOfLine line) = true → stageFind s.dev line = some x →
      ∃ e, exec (.debugDpaRead dpa) s = .next (onDev s e) ∧ Served s.dev e ∧ SameStage s.dev e ∧ e.out = .debugData x false :: s.dev.out)
    ∧ (pageOfLine line < limitPages s.dev (homeOf (pageOfLine line)) → (enables s.life).getLsbD 0 = false →
      exec (.debugDpaRead dpa) s = .next (onDev s (send (accessRefused s.dev (pageOfLine line) 3 0 0) (.debugData (BitVec.allOnes 512) true))))
    ∧ (limitPages s.dev (homeOf (pageOfLine line)) ≤ pageOfLine line →
      exec (.debugDpaRead dpa) s = .next (onDev s (send s.dev (.debugData (BitVec.allOnes 512) true)))))
  ∧ ((∀ (s : State) (p : Path) (v : Word), admitted s p .seci .seciClaim = true → ∃ c, exec (.claim p v) s = .next (wrote p .seci .seciClaim (withDev s (rput s.dev .seci .seciClaim c)))
      ∧ ∀ i, c.getLsbD i = true ↔ v.getLsbD i = true ∧ i < 20 ∧ i ≠ 0 ∧ i ≠ 2 ∧ domOn s.dev i = true ∧ s.dev.pwr.domReq ≠ some (i, 1))
  ∧ (∀ (s : State) (p : Path) (v : Word), admitted s p .seci .seciTestEn = true →
      (s.life.state ≠ 3 → exec (.testEn p v) s = .next (wrote p .seci .seciTestEn (withDev s (rput s.dev .seci .seciTestEn (v &&& 0xF)))))
      ∧ (s.life.state = 3 → exec (.testEn p v) s = .next (wrote p .seci .seciTestEn s)))
  ∧ (∀ (s : State) (p : Path) (v : Word), admitted s p .mgt .mgtWdogKick = true →
      exec (.wdogKick p v) s = .next (wrote p .mgt .mgtWdogKick (withDev s { s.dev with wdogSince := s.dev.pwr.now })))
  ∧ (∀ s : State, domOn s.dev 1 = true → (rget s.dev .mgt .mgtWdogCfg).getLsbD 16 = true → (pget s.dev .mgt).run ≠ .cut →
      exec .managementWatchdog s = .next (onDev s (raise0 { s.dev with wdogSince := s.dev.pwr.now } .mgt 0)))
  ∧ (∀ s : State, (rget s.dev .mgt .mgtWdogCfg).getLsbD 16 = false ∨ (pget s.dev .mgt).run = .cut → exec .managementWatchdog s = .next s))

/-- Requests on a domain (R357, R358, R349): the checks in the rule's order and their results, each raising bit 2 of EVENT_STAT; a request that passes
them is under way. A claim refuses power off and clock stop on every path but the secure one. The end of a domain request (R44, R349, R358): the
domain is on after a power on, off and without its claim after a power off, its clocks stop or run, and no other domain changes; the event is raised
with RESULT 0. A power-up of a quadrant brings its DMC pages up with their reset values. That the conditions are the same on every path is the model's
reading (log entry 68). -/
def Obligations.DomainRequests : Prop :=
  ((∀ (s : State) (p : Path) (c : Instr) (dom : BitVec 5) (op : Nat), let k := dom.toNat
      (c, op) ∈ [(Instr.domainPowerOn p dom, 0), (.domainPowerOff p dom, 1), (.domainClockStop p dom, 2), (.domainClockStart p dom, 3)] →
      admitted s p .pwr .pwrDomReq = true →
      let ends (d : Dev) (r : Nat) : Prop := exec c s = .next (wrote p .pwr .pwrDomReq (withDev s (raiseEvent { d with pwr := { d.pwr with domResult := r } } .pwr 2)))
      (s.dev.pwr.domReq.isSome = true → ends s.dev 1)
      ∧ (s.dev.pwr.domReq = none →
        (k < 4 → ends s.dev 4)
        ∧ (20 ≤ k → ends s.dev 3)
        ∧ (4 ≤ k → k < 20 →
          (p ≠ .secure → claimed s.dev k = true → op = 1 ∨ op = 2 → ends (claimRefused s.dev k (op - 1) (Path.code p)) 2)
          ∧ (p = .secure ∨ claimed s.dev k = false ∨ op = 0 ∨ op = 3 →
            (domAllowed s.dev k op = false → ends s.dev 3)
            ∧ (domAllowed s.dev k op = true → exec c s
              = .next (wrote p .pwr .pwrDomReq (withDev s { s.dev with pwr := { s.dev.pwr with domReq := some (k, op) } })))))))
  ∧ (∀ (d : Dev) (k : Nat), 4 ≤ k → k < 20 → domAllowed d k 0 = true
      ∧ (domAllowed d k 1 = true ↔ 12 ≤ k ∨ (k < 8 ∧ quadFenced d (k - 4) = true)
        ∨ (8 ≤ k ∧ k < 12 ∧ (domOn d (k - 4) = false ∨ ∀ u, 8 * (k - 8) ≤ u → u < 8 * (k - 8) + 8 → subFenced d u = true)))
      ∧ (domAllowed d k 2 = true ↔ 8 ≤ k ∧ domOn d k = true ∧ domAllowed d k 1 = true)
      ∧ (domAllowed d k 3 = true ↔ 8 ≤ k ∧ domOn d k = true))
  ∧ (∀ (d : Dev) (dom kind path : Nat), rget (claimRefused d dom kind path) .seci .seciClaimRefused
      = if (rget d .seci .seciClaimRefused).getLsbD 31 then rget d .seci .seciClaimRefused else packW [(0, dom), (5, kind), (8, path), (31, 1)]))
  ∧ (∀ (s : State) (k op : Nat), s.dev.pwr.domReq = some (k, op) → 4 ≤ k → k < 20 → op ≤ 3 →
    ∃ e, exec .domainRequestDone s = .next (onDev s (raiseEvent { e with pwr := { e.pwr with domResult := 0 } } .pwr 2))
      ∧ e.pwr.domReq = none
      ∧ domOn e k = (if op = 0 then true else if op = 1 then false else domOn s.dev k)
      ∧ (∀ j, j ≠ k → domOn e j = domOn s.dev j ∧ e.pwr.clkStop.getLsbD j = s.dev.pwr.clkStop.getLsbD j)
      ∧ (op = 2 → e.pwr.clkStop.getLsbD k = true) ∧ (op = 3 → e.pwr.clkStop.getLsbD k = false)
      ∧ (op = 1 → domOn s.dev k = true → e.pwr.clkStop.getLsbD k = false)
      ∧ (op = 0 → domOn s.dev k = false → ∀ (m : Fin 16) (n : RName) (i : Nat), (Block.dmc m).domain = k → n ∈ regsHeader ++ (Block.dmc m).regs → i < n.row.count →
          n.row.persist = false → rget e (.dmc m) n i = resetAt n i))

/-- Requests on the mode (R359, R360, R361, R367, R349): the sub-state in Service and Degraded, the way back from Maintain, the entries to Maintain,
Retain and Factory; a request the mode does not allow, and a REQ of none, completes with RESULT 3, one written while another is under way with RESULT
1, one of Retain with a domain claimed with RESULT 2. What entering and leaving Maintain does (R41, R359, R361, R362): admission stops and rolling
engine clusters are cut; the mode changes once nothing admitted is in flight; the way back admits again and lets those clusters roll, and after
MAINT_LIMIT it also raises "Maintain overrun". An activation sends the cores that run to the secure world, and one that is over is answered: with
success at the request, and as rolled back at the limit. That a claim refuses a Retain request on every path is the model's reading (log entry 67). -/
def Obligations.ModeRequests : Prop :=
  (∀ (s : State) (p : Path), admitted s p .pwr .pwrModeReq = true →
    let then_ (c : Instr) (d : Dev) : Prop := exec c s = .next (wrote p .pwr .pwrModeReq (withDev s d))
    let ends (c : Instr) (d : Dev) (r : Nat) : Prop := then_ c (raiseEvent { d with pwr := { d.pwr with reqResult := r } } .pwr 3)
    let serves : Prop := s.dev.pwr.mode = .service ∨ s.dev.pwr.mode = .degraded
    (s.dev.pwr.req.isSome = true → (∀ v, ends (.subStateSet p v) s.dev 1) ∧ ends (.leaveMaintain p) s.dev 1 ∧ ends (.maintainRequest p) s.dev 1
      ∧ ends (.retainRequest p) s.dev 1 ∧ ends (.factoryRequest p) s.dev 1)
    ∧ (s.dev.pwr.req = none →
      (∀ v : BitVec 2, (serves → v ≠ 3 → ends (.subStateSet p v) (applySub { s.dev with pwr := { s.dev.pwr with subReq := v.toNat } }) 0)
        ∧ (¬ serves ∨ v = 3 → ends (.subStateSet p v) s.dev 3))
      ∧ (s.dev.pwr.mode = .maintain → ends (.leaveMaintain p) (leaveMaintain s.dev) 0)
      ∧ (s.dev.pwr.mode ≠ .maintain → ends (.leaveMaintain p) s.dev 3)
      ∧ (serves → then_ (.maintainRequest p) (stopIntake s.dev .maintain))
      ∧ (¬ serves → ends (.maintainRequest p) s.dev 3)
      ∧ ((∀ i, i < 20 → i ≠ 0 → claimed s.dev i = false) →
        (serves → then_ (.retainRequest p) (stopIntake s.dev .retain)) ∧ (¬ serves → ends (.retainRequest p) s.dev 3))
      ∧ (∀ i, i < 20 → i ≠ 0 → claimed s.dev i = true → (∀ j, 0 < j → j < i → claimed s.dev j = false) →
        ends (.retainRequest p) (claimRefused s.dev i 2 (Path.code p)) 2)
      ∧ (p = .secure → s.dev.pwr.mode = .boot → s.life.state = 0 → ends (.factoryRequest p) (modeTo s.dev .factory) 0)
      ∧ (p ≠ .secure ∨ s.dev.pwr.mode ≠ .boot ∨ s.life.state ≠ 0 → ends (.factoryRequest p) s.dev 3)
      ∧ (∀ req : BitVec 3, req = 2 ∨ req = 6 ∨ req = 7 → ends (.modeReqNotAllowed p req) s.dev 3)))
  ∧ ((∀ (d : Dev) (r : ModeReq), (stopIntake d r).pwr.req = some r ∧ admitting (stopIntake d r) = false
      ∧ ∀ q : Fin 4, (pget d (.nme q)).run = .rolling → (pget (stopIntake d r) (.nme q)).run = .cutting ∧ (stopIntake d r).pwr.cutBy.getLsbD q = true)
  ∧ (∀ s : State, s.dev.pwr.req = some .maintain → maintainReady s.dev = true → s.dev.pwr.holdUp = false →
      (s.dev.pwr.activating = none → ∃ e, exec .maintainReached s = .next (onDev s e) ∧ e.pwr.mode = .maintain ∧ e.pwr.req = none ∧ e.pwr.reqResult = 0
        ∧ (∀ q : Fin 4, (pget s.dev (.nme q)).run = .cutting → (pget e (.nme q)).run = .cut) ∧ e = { s.dev with pages := e.pages, pwr := e.pwr })
      ∧ (s.dev.pwr.activating.isSome = true → ∃ t, exec .maintainReached s = .next (settled t) ∧ t.dev.pwr.mode = .maintain ∧ t.life.cores.length = s.life.cores.length
        ∧ ∀ k, k < s.life.cores.length → ((coreAt s k).running = true → (coreAt t k).secure = true ∧ (coreAt t k).pc = (coreAt s k).stvec)
          ∧ ((coreAt s k).running = false → coreAt t k = coreAt s k)))
  ∧ (∀ s : State, s.dev.pwr.mode = .maintain → s.dev.pwr.holdUp = false →
      let late := raise (resumeIntake (toService s.dev)) .pwr 1 .none (pwrCtx s.dev)
      (late.pwr.activating = none → exec .maintainOverrun s = .next (onDev s late))
      ∧ (∀ p : Fin 16, late.pwr.activating = some p.val → ∃ t, exec .maintainOverrun s = .next (settled t) ∧ t.dev.pwr.activating = none
        ∧ t.dev.out = .mailbox p 0x0202 0x000C .none :: late.out))
  ∧ (∀ d : Dev, let back := resumeIntake (toService d)
      (toService d).pwr.mode = (if anyFenced d then .degraded else .service)
      ∧ (back.pwr.activating = none → leaveMaintain d = back)
      ∧ (∀ p : Fin 16, back.pwr.activating = some p.val → (leaveMaintain d).out = .mailbox p 0x0202 0 .none :: back.out ∧ (leaveMaintain d).pwr.activating = none)))

/-- The entry to Retain and the events that wake (R367, R368, R369, R370, R372): once the flushes are done the sub-channels sleep, and that is the
point of no return; behind it every domain but AO is off, the pads are held and the regulator is off. A wake event is recorded whatever the enables;
an enabled one starts a wake in Retain, aborts an entry before that point and is kept, with LATE, behind it. Pads are let go group by group. That a
wake behind the point of no return waits for the end is the model's reading (log entry 70). -/
def Obligations.RetainAndWakeEvents : Prop :=
  (∀ s : State, s.dev.pwr.req = some .retain → s.dev.pwr.ponr = false → s.dev.pwr.holdUp = false → drained s.dev = true →
      let d := subsToSleep (flushAllQuads s.dev .orderly).1
      exec .retainFlushDone s = .next (onDev s { d with pwr := { d.pwr with ponr := true } }))
  ∧ (∀ s : State, s.dev.pwr.req = some .retain → s.dev.pwr.ponr = true → s.dev.pwr.holdUp = false →
      ∃ e, exec .retainPointOfNoReturn s = .next (onDev s e) ∧ e.pwr.mode = .retain ∧ e.pwr.req = none ∧ e.pwr.pads = 0x7F ∧ e.pwr.reqResult = 0
        ∧ (∀ i, i < 20 → domOn e i = (decide (i = 0) && domOn s.dev 0)) ∧ e.waits = [] ∧ (e.pwr.vrEn = true → e.pwr.wakeStep = 1))
  ∧ (∀ (s : State) (k : Nat) (c : Instr) (d : Dev),
      (c, k, d) ∈ [(Instr.sidebandAddressMatch, 0, if s.dev.pwr.mode = .retain then send s.dev .nack else s.dev), (.wakeNLow, 1, s.dev), (.wakeTimerExpiry, 4, s.dev)] →
      s.dev.pwr.mode = .retain ∨ (k ≠ 4 ∧ s.dev.pwr.req = some .retain) → (k = 4 → rget s.dev .pwr .pwrWakeTimer ≠ 0) →
      let seen : Dev := rput d .pwr .pwrWakeSrc (rget d .pwr .pwrWakeSrc ||| BitVec.ofNat 32 (2 ^ k))
      let enabled : Bool := (rget s.dev .pwr .pwrWakeEn).getLsbD k
      (enabled = false → exec c s = .next (onDev s seen))
      ∧ (enabled = true → s.dev.pwr.holdUp = true ∨ (s.dev.pwr.req = some .retain ∧ s.dev.pwr.ponr = true) →
        exec c s = .next (onDev s (rput { seen with pwr := { seen.pwr with wakeLatched := true } } .pwr .pwrWakeSrc (rget seen .pwr .pwrWakeSrc ||| 0x80000000))))
      ∧ (enabled = true → s.dev.pwr.holdUp = false → s.dev.pwr.req = some .retain → s.dev.pwr.ponr = false → exec c s = .next (onDev s (retainAbort seen)))
      ∧ (enabled = true → s.dev.pwr.holdUp = false → s.dev.pwr.req = none → s.dev.pwr.mode = .retain →
        (s.dev.pwr.wakeStep = 0 → s.dev.pwr.wakeFail = false → s.dev.pwr.regOff = false →
          exec c s = .next (onDev s { seen with pwr := { seen.pwr with wakeStep := 1, wakeAttempts := 0, vrEn := true, wakeLatched := false } }))
        ∧ (s.dev.pwr.wakeStep ≠ 0 ∨ s.dev.pwr.wakeFail = true ∨ s.dev.pwr.regOff = true → exec c s = .next (onDev s seen))))
  ∧ (∀ (s : State) (p : Path) (v : Word), admitted s p .pwr .pwrPadRelease = true →
      exec (.padRelease p v) s = .next (wrote p .pwr .pwrPadRelease (withDev s { s.dev with pwr := { s.dev.pwr with pads := s.dev.pwr.pads &&& ~~~(v.setWidth 7) } })))

/-- The wake sequence (R371, R359, R453, R333): a step that is done hands on to the next, and the last to Boot on its warm path with MG, SI and XB on;
a step that times out takes the regulator off and the attempt begins again, at most three times, and then the wake has failed, which is latched.
Device time (R373): a write of SET_HI loads NOW with both halves, valid and exact, and reads back; a window in Service gives the ratio of the
always-on counter. Across sleep the kept time grows by the ticks times the ratio, and the uncertainty by 5 ppm of that, or 100 ppm without a
calibrated ratio; without a kept value the time starts afresh. That Boot's start moves with a load of the time, and what SET_HI reads, is the model's
choice (log entries 72, 73). -/
def Obligations.WakeAndTime : Prop :=
  ((∀ s : State, s.dev.pwr.regOff = false →
      (0 < s.dev.pwr.wakeStep → s.dev.pwr.wakeStep < 4 → exec .wakeStepDone s = .next (onDev s { s.dev with pwr := { s.dev.pwr with wakeStep := s.dev.pwr.wakeStep + 1 } }))
      ∧ (s.dev.pwr.wakeStep = 4 → ∃ e, exec .wakeStepDone s = .next { onDev s e with life := { s.life with cores := coresReset, unlocked := 0, nonces := [] } }
        ∧ e.pwr.mode = .boot ∧ e.boot.active = true ∧ e.pwr.wakeStep = 0 ∧ domOn e 1 = true ∧ domOn e 2 = true ∧ domOn e 3 = true
        ∧ rfld e .sbi .sbiBootStat 3 0 = 4 ∧ bitOf (rget e .sbi .sbiBootStat) 5 = true
        ∧ ∀ i, 4 ≤ i → domOn e i = domOn s.dev i)
      ∧ (s.dev.pwr.wakeStep ≠ 0 → s.dev.pwr.wakeAttempts < 3 → exec .wakeStepTimeout s
        = .next (onDev s { s.dev with pwr := { s.dev.pwr with wakeAttempts := s.dev.pwr.wakeAttempts + 1, regOff := true, vrEn := false } }))
      ∧ (s.dev.pwr.wakeStep ≠ 0 → 3 ≤ s.dev.pwr.wakeAttempts → ∃ e, exec .wakeStepTimeout s = .next (onDev s e) ∧ e.pwr.wakeFail = true ∧ e.pwr.failStep = s.dev.pwr.wakeStep
        ∧ e.pwr.wakeStep = 0 ∧ e.pwr.vrEn = false ∧ e.pwr.mode = s.dev.pwr.mode ∧ e.flt.latched.getLsbD (srcId .pwr 0) = true ∧ e.flt.asserting.getLsbD (srcId .pwr 0) = true))
  ∧ (∀ s : State, s.dev.pwr.regOff = true →
      exec .wakeRegulatorOffEnd s = .next (onDev s { s.dev with pwr := { s.dev.pwr with regOff := false, wakeStep := 1, vrEn := true } })))
  ∧ ((∀ (s : State) (p : Path) (v lo : Word), admitted s p .time .timeSetHi = true → let wr := (latchGet s.dev (latchKey p Block.time.page)).wr
      wr = some (regKey .time .timeSetLo 0, lo) ∨ (wr = none ∧ lo = rget s.dev .time .timeSetLo) →
      ∃ e, exec (.timeSet p v) s = .next (wrote p .time .timeSetHi (withDev s e))
        ∧ e.pwr.now = BitVec.ofNat 64 (lo.toNat + v.toNat * 2 ^ 32) ∧ e.pwr.valid = true ∧ e.pwr.unc = 0
        ∧ rget e .time .timeSetHi = v ∧ rget e .time .timeSetLo = lo ∧ (latchGet e (latchKey p Block.time.page)).wr = none
        ∧ e = { s.dev with regs := e.regs, latches := e.latches, pwr := { s.dev.pwr with now := e.pwr.now, valid := true, unc := 0 }, boot := { s.dev.boot with began := e.boot.began } }
        ∧ ∀ b n i, regKey b n i ≠ regKey .time .timeSetHi 0 → regKey b n i ≠ regKey .time .timeSetLo 0 → rget e b n i = rget s.dev b n i)
  ∧ (∀ (s : State) (ratio : Word), s.dev.pwr.mode = .service →
      exec (.aoRatioWindow ratio) s = .next (onDev s { s.dev with pwr := { s.dev.pwr with ratio, calValid := true } }))
  ∧ (∀ (d : Dev) (slept : Nat), slept = d.pwr.aoTicks.toNat * d.pwr.ratio.toNat / 2 ^ 16 →
      (∀ k, d.pwr.kept = some k → (timeRestore d).pwr.now = k + BitVec.ofNat 64 slept
        ∧ (timeRestore d).pwr.unc = d.pwr.unc + BitVec.ofNat 64 (slept * (if d.pwr.calValid = true then 5 else 100) / 1000000))
      ∧ (d.pwr.kept = none → (timeRestore d).pwr.now = 0)
      ∧ (timeRestore d).pwr.kept = none ∧ (timeRestore d).pwr.aoTicks = 0))

/-- The end of a Gaffer epoch (R363, R364, R365): the estimate is kept; item 1 is granted, and of the items in their order each one with work that is
not barred is granted while its allowance and those granted before it fit under the cap, and none behind the first that does not fit. The voltage
steps by 10 mV, one step at a time. An acknowledgement puts the step in force and ends the fault. Voltage and heat (R365, R366): where a step down and
up is asked for; Trim is forced from 115 degrees on until every sensor reads below 110 and gives way to a request of Doze; from 125 degrees on the
hottest quadrant that is not fenced, the lowest-numbered of several, is fenced and raised, no sooner than 10 ms after the last such fence. How the
estimate is rounded is the model's choice (log entry 76), and that a Gaffer whose page is cut grants item 1 alone is its reading (log entry 75). -/
def Obligations.Gaffer : Prop :=
  ((∀ (s : State) (temps : List Int) (counts : List Nat) (work : BitVec 7), domOn s.dev 3 = true → temps.length = 6 →
      ∃ e, exec (.gafferEpoch temps counts work) s = .next (onDev s e) ∧ e.gaffer.est = gafferEst s.dev temps counts ∧ e.gaffer.temps = temps
        ∧ e.gaffer.vcore = s.dev.gaffer.vcore ∧ e.gaffer.grants.getLsbD 0 = true
        ∧ (s.dev.gaffer.step.isSome = true → e.gaffer.step = s.dev.gaffer.step)
        ∧ (∀ mv, s.dev.gaffer.step = none → e.gaffer.step = some mv → (mv = s.dev.gaffer.vcore - 10 ∨ mv = s.dev.gaffer.vcore + 10) ∧ e.gaffer.upCount = 0))
  ∧ (∀ (d : Dev) (est : Nat) (work : BitVec 7) (k : Fin 7), k.val ≠ 0 →
      let wants (j : Nat) : Bool := !barred d.pwr.sub (j + 1) && work.getLsbD j
      let need : Nat := (((List.range 7).filter fun j => j ≠ 0 ∧ j ≤ k.val ∧ wants j).map fun j => allowance (j + 1)).sum
      (gafferGrants d est work).getLsbD k = true ↔ (pget d .gaffer).run = .rolling ∧ wants k.val = true ∧ est + need ≤ gafferCap d)
  ∧ (∀ (s : State) (mv : Nat), s.dev.gaffer.step = some mv → ∃ e, exec .avsbusAck s = .next (onDev s e)
        ∧ e.gaffer = { s.dev.gaffer with vcore := mv, step := none, avsFault := false } ∧ e.flt.asserting.getLsbD (srcId .gaffer 1) = false)
  ∧ (∀ s : State, s.dev.gaffer.step = none → exec .avsbusAck s = .next s)
  ∧ (∀ s : State, s.dev.gaffer.step.isSome = true → s.dev.gaffer.avsFault = false → ∃ e, exec .avsbusFault s = .next (onDev s e)
        ∧ e.gaffer = { s.dev.gaffer with avsFault := true } ∧ e.flt.asserting.getLsbD (srcId .gaffer 1) = true))
  ∧ ((∀ (d : Dev) (est : Nat), d.gaffer.step = none →
      ((gafferCap d < est ∧ 600 < d.gaffer.vcore) ∨ vcoreTarget d < d.gaffer.vcore →
        (vcoreStep d est).gaffer.step = some (d.gaffer.vcore - 10) ∧ (vcoreStep d est).out = .avsbus (d.gaffer.vcore - 10) :: d.out)
      ∧ (est + 16 * rfld d .gaffer .gafferCfg 7 0 < gafferCap d → d.gaffer.vcore < vcoreTarget d →
        ((vcoreStep d est).gaffer.step = if rfld d .gaffer .gafferCfg 15 8 ≤ d.gaffer.upCount + 1 then some (d.gaffer.vcore + 10) else none)
        ∧ (d.gaffer.upCount + 1 < rfld d .gaffer .gafferCfg 15 8 → (vcoreStep d est).gaffer.upCount = d.gaffer.upCount + 1)))
  ∧ (∀ (d : Dev) (hot : Int), (thermTrim d hot).gaffer.trimForced = (if 115 ≤ hot then true else if hot < 110 then false else d.gaffer.trimForced))
  ∧ (∀ d : Dev, (applySub d).pwr.sub = if d.gaffer.trimForced = true ∧ d.pwr.subReq ≠ 2 then 1 else d.pwr.subReq)
  ∧ (∀ (d : Dev) (temps : List Int) (hot : Int) (q : Fin 4), 125 ≤ hot → quadFenced d q = false →
      (∀ j : Fin 4, quadFenced d j = false → temps.getD j 0 ≤ temps.getD q 0 ∧ (j < q → temps.getD j 0 < temps.getD q 0)) →
      (d.gaffer.lastThermal = none ∨ ∃ t, d.gaffer.lastThermal = some t ∧ tenMs d t = true) →
      ∃ e, thermAct d temps hot = raise e .gaffer 2 (.quadrant (quadOf q)) (gafferCtx e) ∧ e.gaffer.lastThermal = some d.pwr.now
        ∧ e.gaffer.thermFenced = d.gaffer.thermFenced ||| BitVec.ofNat 4 (2 ^ q.val) ∧ e.pages = d.pages
        ∧ (sevOf d thermalSource < 2 → e.react = d.react ++ [.fence (.quadrant (quadOf q)) thermalSource]) ∧ (2 ≤ sevOf d thermalSource → e.react = d.react))
  ∧ (∀ (d : Dev) (temps : List Int) (hot : Int) (q : Fin 4) (t : DWord), 125 ≤ hot → quadFenced d q = false → d.gaffer.lastThermal = some t → tenMs d t = false →
      thermAct d temps hot = d))

/-- The feeds (R380, R381, R382, R369): a feed at INSERT_MV or above is admitted, healthy at WARN_MV or above, and with Off left for Pre-charge; one
that stops being healthy raises "feed degraded", and where none is healthy with POWER_GOOD high the early warning asserts; one that is lost is no
longer admitted, and without any the controller is Off unless Latched. A pair whose current reverses is off and counted. Admission and a rise of
POWER_GOOD are wake events. When a feed's pair is on and when its warning is set is the model's reading (log entries 77, 79). -/
def Obligations.FeedsComeAndGo : Prop :=
  (∀ (s : State) (b : Bool) (mv : Nat), s.feed.admitted &&& feedBit b = 0 → rfld s.dev .feed .feedLevels 13 0 ≤ mv →
      ∃ t, exec (.feedAdmit b mv) s = .next (settled t) ∧ t.life = s.life ∧ t.feed.admitted = s.feed.admitted ||| feedBit b
        ∧ (s.feed.st = 0 → t.feed.st = 1 ∧ t.feed.pairs = t.feed.admitted) ∧ (s.feed.st ≠ 0 → t.feed.st = s.feed.st ∧ t.feed.pairs = s.feed.pairs ||| feedBit b)
        ∧ t.feed.healthy = (if rfld s.dev .feed .feedWarn 13 0 ≤ mv then s.feed.healthy ||| feedBit b else s.feed.healthy)
        ∧ (s.dev.pwr.mode = .retain → s.dev.pwr.req = none → s.dev.pwr.holdUp = false → s.dev.pwr.wakeStep = 0 → s.dev.pwr.wakeFail = false → s.dev.pwr.regOff = false →
          (rget s.dev .pwr .pwrWakeEn).getLsbD 3 = true → t.dev.pwr.wakeStep = 1))
  ∧ (∀ (s : State) (b : Bool) (mv : Nat), s.feed.admitted &&& feedBit b ≠ 0 ∨ mv < rfld s.dev .feed .feedLevels 13 0 → exec (.feedAdmit b mv) s = .next s)
  ∧ (∀ (s : State) (b : Bool), s.feed.admitted &&& feedBit b ≠ 0 → ∃ t, exec (.feedLost b) s = .next (settled t)
        ∧ t.feed.admitted = s.feed.admitted &&& ~~~(feedBit b) ∧ t.feed.healthy = s.feed.healthy &&& ~~~(feedBit b)
        ∧ (t.feed.admitted = 0 → s.feed.st ≠ 6 → t.feed.st = 0 ∧ t.feed.powerGood = false ∧ t.feed.pairs = 0 ∧ t.feed.timerRun = false)
        ∧ (t.feed.admitted ≠ 0 → t.feed.st = s.feed.st ∧ t.feed.powerGood = s.feed.powerGood ∧ t.feed.pairs = s.feed.pairs &&& ~~~(feedBit b)))
  ∧ (∀ (s : State) (b : Bool), s.feed.healthy &&& feedBit b ≠ 0 →
      let off : Feed := { s.feed with healthy := s.feed.healthy &&& ~~~(feedBit b), degraded := s.feed.degraded ||| feedBit b }
      let sick : State := { s with feed := off, dev := raise s.dev .feed 3 .none (feedCtx s.dev off) true }
      (off.healthy ≠ 0 ∨ s.feed.powerGood = false ∨ s.feed.warnPin = true → exec (.feedUnhealthy b) s = .next (settled sick))
      ∧ (off.healthy = 0 → s.feed.powerGood = true → s.feed.warnPin = false →
        exec (.feedUnhealthy b) s = .next (settled (holdUpStart { sick with feed := { off with warnPin := true }, dev := raiseEvent sick.dev .feed 3 }))))
  ∧ (∀ (s : State) (b : Bool), s.feed.admitted &&& feedBit b ≠ 0 → s.feed.healthy &&& feedBit b = 0 → ∃ t, exec (.feedHealthy b) s = .next (settled t)
        ∧ t.feed = { s.feed with healthy := s.feed.healthy ||| feedBit b, degraded := s.feed.degraded &&& ~~~(feedBit b), pairs := s.feed.pairs ||| feedBit b }
        ∧ t.dev = if s.feed.degraded &&& ~~~(feedBit b) = 0 then deassert s.dev .feed 3 else s.dev)
  ∧ (∀ (s : State) (b : Bool), s.feed.rev.length = 2 → let i := if b then 1 else 0
      ∃ t, exec (.reverseCurrent b) s = .next (settled t) ∧ t.dev = raise s.dev .feed 5 .none (feedCtx s.dev t.feed)
        ∧ t.feed = { s.feed with pairs := s.feed.pairs &&& ~~~(feedBit b), rev := t.feed.rev }
        ∧ t.feed.rev.getD i 0 = satInc (s.feed.rev.getD i 0) ∧ t.feed.rev.getD (1 - i) 0 = s.feed.rev.getD (1 - i) 0)

/-- The states of insertion and protection (R383, R384, R385): each way from one state to the next, with what a trip records: its cause, one more of
TRIPS, all gates off, POWER_GOOD low, the sources raised, and Latched where TRIPS has reached RETRIES. That a clear of the latch keeps TRIPS is the
model's reading (log entry 78). -/
def Obligations.FeedStates : Prop :=
  (∀ s : State, (s.feed.st = 1 → exec .prechargeReached s = .next { s with feed := { s.feed with st := 2 } })
      ∧ (s.feed.st = 2 → exec .rampDone s = .next { s with feed := { s.feed with st := 3 } })
      ∧ (s.feed.st = 3 ∨ s.feed.st = 4 → exec .overcurrent s = .next { s with feed := { s.feed with timerRun := true } })
      ∧ exec .faultTimerIdle s = .next { s with feed := { s.feed with timerRun := false } }
      ∧ (s.feed.powerGood = true → exec .tripsReset s = .next { s with feed := { s.feed with trips := 0 } })
      ∧ (s.feed.st = 3 → s.feed.timerRun = true → exec .stableIdleDone s = .next s)
      ∧ (s.feed.st = 3 → s.feed.timerRun = false → s.feed.healthy ≠ 0 → exec .stableIdleDone s
        = .next (settled { s with feed := { s.feed with st := 4, powerGood := true, warnPin := false }, dev := wakeEvent (raiseEvent s.dev .feed 0) 3 }))
      ∧ (s.feed.st = 5 → s.feed.trips < rfld s.dev .feed .feedCfg 25 24 → exec .retryWaitEnd s = .next { s with feed := { s.feed with st := 1, pairs := s.feed.admitted } })
      ∧ (s.feed.st = 5 → rfld s.dev .feed .feedCfg 25 24 ≤ s.feed.trips → ∃ t, exec .retryWaitEnd s = .next (settled t) ∧ t.feed = { s.feed with st := 6 }
        ∧ t.dev.flt.latched.getLsbD (srcId .feed 0) = true))
  ∧ (∀ (s : State) (c : Instr) (cause bit : Nat),
      (c, cause, bit) ∈ (if s.feed.st = 1 then [(Instr.prechargeTimeout, 1, 1)] else []) ++ (if s.feed.st = 2 ∨ s.feed.st = 3 ∨ s.feed.st = 4 then [(.fastTrip, 3, 2)] else [])
        ++ (if s.feed.timerRun = true then [(.faultTimerExpiry, 2, 2)] else []) →
      ∃ t, exec c s = .next (settled t) ∧ t.feed = { s.feed with
            st := if rfld s.dev .feed .feedCfg 25 24 ≤ s.feed.trips + 1 then 6 else 5, trips := s.feed.trips + 1, lastFault := cause
            timerRun := false, pairs := 0, powerGood := false }
        ∧ t.dev.flt.latched.getLsbD (srcId .feed bit) = true
        ∧ (rfld s.dev .feed .feedCfg 25 24 ≤ s.feed.trips + 1 → t.dev.flt.latched.getLsbD (srcId .feed 0) = true))
  ∧ (∀ (s : State) (p : Path) (v : Word), admitted s p .feed .feedCtl = true →
      let unlatched (u : Word) (f : Feed) : Prop := s.feed.st = 6 → ∃ t, exec (.clearLatch p u) s = .next (wrote p .feed .feedCtl t) ∧ t.dev = deassert s.dev .feed 0
        ∧ t.feed = if f.admitted = 0 then { f with st := 0 } else { f with st := 1, pairs := f.admitted }
      (v.getLsbD 1 = false → unlatched v s.feed)
      ∧ (v.getLsbD 1 = true → unlatched v { s.feed with energy := [0, 0, 0] })
      ∧ (v.getLsbD 0 = false ∨ s.feed.st ≠ 6 → exec (.energyClr p v) s = .next (wrote p .feed .feedCtl { s with feed := { s.feed with energy := [0, 0, 0] } })))

/-- Telemetry and the hold-up flush (R386, R388, R389, R390): a sample adds voltage times current to each energy count, and a window's end shows the
means of its samples. The end of the flush writes the status record, and outside Retain the quadrants flush and the sub-channels sleep first, if DRAM
was trained, and Retain is entered; while it runs the records raised since are written. How means are rounded is the model's choice (log entry 80),
and what the flush does to a warm reset and to Span lines is its reading (log entries 44, 82). -/
def Obligations.MetersAndHoldUp : Prop :=
  (∀ (s : State) (mv ma : List Int), ∃ f, exec (.feedSample mv ma) s = .next { s with feed := f }
      ∧ (∀ i, i < 3 → f.energy.getD i 0 = s.feed.energy.getD i 0 + mv.getD i 0 * ma.getD i 0
        ∧ f.sumMv.getD i 0 = s.feed.sumMv.getD i 0 + mv.getD i 0 ∧ f.sumMa.getD i 0 = s.feed.sumMa.getD i 0 + ma.getD i 0
        ∧ f.sumUw.getD i 0 = s.feed.sumUw.getD i 0 + mv.getD i 0 * ma.getD i 0)
      ∧ f = { s.feed with energy := f.energy, sumMv := f.sumMv, sumMa := f.sumMa, sumUw := f.sumUw, samples := s.feed.samples + 1 })
  ∧ (∀ s : State, s.feed.samples ≠ 0 → ∃ f, exec .telemetryWindow s = .next { s with feed := f }
      ∧ (∀ i, f.meanMv.getD i 0 = s.feed.sumMv.getD i 0 / (s.feed.samples : Int) ∧ f.meanMa.getD i 0 = s.feed.sumMa.getD i 0 / (s.feed.samples : Int)
        ∧ f.meanMw.getD i 0 = s.feed.sumUw.getD i 0 / (1000 * (s.feed.samples : Int)))
      ∧ f = { s.feed with meanMv := f.meanMv, meanMa := f.meanMa, meanMw := f.meanMw, sumMv := [0, 0, 0], sumMa := [0, 0, 0], sumUw := [0, 0, 0], samples := 0 })
  ∧ (∀ s : State, s.dev.pwr.holdUp = false → (holdUpStart s).dev.pwr.holdUp = true ∧ (holdUpStart s).dev.pwr.warm = none ∧ admitting (holdUpStart s).dev = false
      ∧ (holdUpStart s).feed.ran = true ∧ (holdUpStart s).feed.done = false ∧ (holdUpStart s).dev.flt.latched.getLsbD (srcId .feed 4) = true
      ∧ (holdUpStart s).dev.flash.length = s.dev.flash.length + 1)
  ∧ (∀ s : State, s.dev.pwr.holdUp = true → holdUpStart s = s)
  ∧ (∀ s : State, s.dev.pwr.holdUp = true →
      let us : Nat := (clockNs s.dev - s.feed.began) / 1000
      let ended : Feed := { s.feed with done := true, flushUs := us }
      (s.dev.pwr.mode = .retain → ∃ e, exec .holdUpFlushDone s = .next { onDev s e with feed := ended } ∧ e.pwr.holdUp = false ∧ e.pwr.mode = .retain
        ∧ (∀ h ∈ e.flash.getLast?, h.prev = 1 ∧ h.us = us) ∧ (s.dev.pwr.wakeLatched = true → s.dev.pwr.wakeFail = false → s.dev.pwr.wakeStep = 0 → e.pwr.wakeStep = 1))
      ∧ (s.dev.pwr.mode ≠ .retain → s.dev.flt.haltRunning = false →
        let d : Dev := if dramTrained s.dev = true then subsToSleep (flushAllQuads s.dev .orderly).1 else s.dev
        d.flt.haltRunning = false → exec .holdUpFlushDone s = .next { onDev s (enterRetain (holdUpStatus (holdUpTail d) us)) with feed := ended }))
  ∧ (∀ (s : State) (h : HoldRec) (older : List HoldRec), s.dev.pwr.holdUp = true → s.dev.pwr.mode ≠ .retain → s.dev.flash = older ++ [h] →
      ∃ records, exec .holdUpEventRecordWrite s = .next (onDev s { s.dev with flash := older ++ [{ h with records }] })
        ∧ (∀ r, r ∈ records ↔ r ∈ h.records ∨ r ∈ s.dev.flt.ring))

/-- What Continuity does beside recording (R396, R403, R404, R405, R409, R460): LATCHED bits of sources that do not assert are cleared, a clear of one
that asserts is refused and shown; so with the first-error record. ALIVE toggles while no LATCHED source is at or above ALIVE_SEV. An injection raises
its source once, marked; a checker's mismatch raises that checker; a supply fault asserts until its last condition ends. Of a stage stall no state
says whether its request is still held: the model leaves that free, so it stands aside here. The end of a halt's flush, and BIST (R399, R410): HALTED
is set, with HALT_FLUSHED where every unfenced quadrant could flush; a way is taken out of use for its test, a dirty line of it written back first;
one that passes comes back, one that fails stays out and raises "SRAM BIST failure". The index of a checker and the arrays of BIST are the model's
choice (log entries 40, 41, 42). -/
def Obligations.ContinuityUpkeep : Prop :=
  ((∀ (s : State) (p : Path) (w : Fin 16) (v : Word), admitted s p .flt .fltLatched w = true → ¬ (w.val = 0 ∧ v.getLsbD 0 = true ∧ s.dev.flt.latched.getLsbD 0 = true) →
      ∃ e, exec (.latchedClear p w v) s = .next (wrote p .flt .fltLatched (withDev s e) w)
        ∧ e = { s.dev with flt := { s.dev.flt with latched := e.flt.latched, clearRefused := e.flt.clearRefused } }
        ∧ (∀ i, i < 512 → e.flt.latched.getLsbD i = (s.dev.flt.latched.getLsbD i && !(decide (i / 32 = w.val) && v.getLsbD (i % 32) && !s.dev.flt.asserting.getLsbD i)))
        ∧ (e.flt.clearRefused = true ↔ s.dev.flt.clearRefused = true ∨ ∃ j, j < 32 ∧ v.getLsbD j = true ∧ s.dev.flt.latched.getLsbD (32 * w.val + j) = true
          ∧ s.dev.flt.asserting.getLsbD (32 * w.val + j) = true))
  ∧ (∀ (s : State) (p : Path) (v : Word), admitted s p .flt .fltFeCtl = true →
      let clears (d : Dev) : Prop := exec (.firstErrorClear p v) s = .next (wrote p .flt .fltFeCtl (withDev s d))
      (s.dev.flt.fe = none → clears s.dev)
      ∧ (∀ r, s.dev.flt.fe = some r → r.source ≠ 0 →
        (s.dev.flt.asserting.getLsbD r.source = true → clears { s.dev with flt := { s.dev.flt with clearRefused := true } })
        ∧ (s.dev.flt.asserting.getLsbD r.source = false → clears { s.dev with flt := { s.dev.flt with fe := none, feOverflow := false, feCount := 0 } })))
  ∧ (∀ s : State, domOn s.dev 0 = true →
      ((∀ i, i < 420 → s.dev.flt.latched.getLsbD i = true → sevOf s.dev i < max 1 (rfld s.dev .flt .fltCfg 1 0)) →
        exec .aliveToggle s = .next (onDev s { s.dev with flt := { s.dev.flt with alive := !s.dev.flt.alive } }))
      ∧ (∀ i, i < 420 → s.dev.flt.latched.getLsbD i = true → max 1 (rfld s.dev .flt .fltCfg 1 0) ≤ sevOf s.dev i → exec .aliveToggle s = .next s))
  ∧ (∀ (s : State) (p : Path) (v : Word) (b : Block) (bit : Nat), admitted s p .flt .fltInj = true → srcOf s.dev.marwen (fld v 8 0) = some (b, bit) → bit < b.sources →
      let d := bumpFree (rput s.dev .flt .fltInj (v &&& 0x1FF))
      exec (.sourceInject p v) s = .next (wrote p .flt .fltInj (withDev s (raise d b bit (srcUnit b bit (Config.free (fresh s.dev))) (ctxKind 0 b) false true))))
  ∧ (∀ (s : State) (m : BitVec 9) (b : Block) (bit : Nat), domOn s.dev 3 = true → srcOf s.dev.marwen m.toNat = some (b, bit) → isChecker b bit = true →
      let n := Config.free (fresh s.dev)
      exec (.checkerSample [m]) s = .next (onDev s (raise (bumpFree s.dev) b bit (srcUnit b bit n) (ctxChecker b (n / 4) (n % 4)))))
  ∧ (∀ (s : State), domOn s.dev 3 = true → exec (.checkerSample []) s = .next (onDev s s.dev))
  ∧ (∀ (s : State) (c : Fin 3), let on : BitVec 3 := s.dev.supply ||| BitVec.ofNat 3 (2 ^ c.val)
      let off : BitVec 3 := s.dev.supply &&& ~~~(BitVec.ofNat 3 (2 ^ c.val))
      (s.dev.pwr.mode ≠ .retain → domOn s.dev 0 = true → ∃ e, exec (.supplyFault c) s = .next (onDev s e) ∧ e.supply = on
        ∧ e.flt.latched.getLsbD (srcId .flt 3) = true ∧ e.flt.asserting.getLsbD (srcId .flt 3) = true)
      ∧ (off = 0 → ∃ e, exec (.supplyFaultEnd c) s = .next (onDev s e) ∧ e.supply = 0 ∧ e.flt.asserting.getLsbD (srcId .flt 3) = false ∧ e.flt.latched = s.dev.flt.latched)
      ∧ (off ≠ 0 → exec (.supplyFaultEnd c) s = .next (onDev s { s.dev with supply := off }))))
  ∧ ((∀ s : State, s.dev.flt.haltRunning = true → s.dev.pwr.holdUp = false →
      (dramTrained s.dev = true → let r := flushAllQuads s.dev .dead
        exec .haltFlushDone s = .next (onDev s (let d := calStop (subsToSleep r.1)
          { d with flt := { d.flt with haltRunning := false, haltOn := true, halted := true, haltFlushed := r.2 } })))
      ∧ (dramTrained s.dev = false → exec .haltFlushDone s = .next (onDev s (let d := calStop s.dev
          { d with flt := { d.flt with haltRunning := false, haltOn := true, halted := true, haltFlushed := true } }))))
  ∧ (∀ (s : State) (q : Fin 4) (array : Nat) (way : Fin 16), granted s.dev 7 = true → quadFenced s.dev q = false → array < 12288 → (array, way.val) ∉ (quad s.dev q).waysOut →
      let out (d : Dev) : Dev := qmod d q fun x => { x with waysOut := x.waysOut ++ [(array, way.val)] }
      (wayLine s.dev q array way = none → exec (.sramBist q array way) s = .next (onDev s (out s.dev)))
      ∧ (∀ line x, wayLine s.dev q array way = some (line, x) →
        (lineLocked s.dev line = true → exec (.sramBist q array way) s = .next s)
        ∧ (lineLocked s.dev line = false → x.dirty = false → exec (.sramBist q array way) s = .next (onDev s (out (stageDrop s.dev line))))
        ∧ (lineLocked s.dev line = false → x.dirty = true → (flushLine s.dev .orderly line x.data).2 = true →
          exec (.sramBist q array way) s = .next (onDev s (out (stageDrop (flushLine s.dev .orderly line x.data).1 line))))))
  ∧ (∀ (s : State) (q : Fin 4) (array : Nat) (way : Fin 16), (array, way.val) ∈ (quad s.dev q).waysOut → (array, way.val) ∉ (quad s.dev q).bistFail →
      exec (.sramBistDone q array way true) s = .next (onDev s (qmod s.dev q fun x => { x with waysOut := x.waysOut.filter (· ≠ (array, way.val)) }))
      ∧ exec (.sramBistDone q array way false) s = .next (onDev s (raise0 (qmod s.dev q fun x => { x with bistFail := x.bistFail ++ [(array, way.val)] }) (.qctl q) 1))))

/-- Cold resets (R44, R333, R344, R345, R411, R416, R459): the one that software asks for, after the records are written to the flash, the one at the
power-up of AO, and the loss of auxiliary power. Nothing is left but what the flash, the fuses and the feed controller hold: the DRAM contents and
every register but RESET_CAUSE and BOOT_STAT read as at reset; a burnt life-cycle code takes effect; the unlocks end. That the FEED page keeps its
registers while a feed powers it is R391's. Warm resets (R411, R412, R399): asked for in any mode but Retain, unless one or a hold-up flush is under
way, the links go down; after the flush every domain but AO is off and Boot follows on its warm path with the cause kept, and a halt is over; with a
bit of LOSS_Q set, or past WARM_MS, it becomes a cold reset that says why. That a warm reset drops pending requests, and what the feed controller
keeps without auxiliary power, is the model's reading (log entries 45, 81). -/
def Obligations.Resets : Prop :=
  ((∀ (s : State) (p : Path) (v : Word), admitted s p .flt .fltResetCtl = true →
      exec (.coldReset p v) s = .next (wrote p .flt .fltResetCtl (coldReset { s with dev := flashRecords s.dev 3 } (packW [(0, 1), (2, Path.code p), (5, 0)]) true)))
  ∧ (∀ s : State, exec .aoPowerUp s = .next (settled (coldReset s (packW [(0, 0), (2, 0), (5, 0)]) (decide (s.feed.admitted ≠ 0)))))
  ∧ (∀ s : State, ∃ t, exec .vauxLoss s = .next t ∧ t.dev.pwr.dom = 0 ∧ t.dev.boot.active = false ∧ t.dev.dram = [] ∧ (∀ i, domOn t.dev i = false)
      ∧ t.feed = (if s.feed.admitted = 0 then {} else s.feed) ∧ t.dev.flash = s.dev.flash ∧ t.life.cores.length = 4)
  ∧ (∀ (s : State) (cause : Word) (kept : Bool), let t := coldReset s cause kept
      t.dev.dram = [] ∧ t.dev.flash = s.dev.flash ∧ t.dev.cal.sectors = s.dev.cal.sectors ∧ t.dev.pwr = ({} : Pwr) ∧ t.dev.boot.active = true
      ∧ t.dev.flt.latched = 0 ∧ t.dev.flt.fe = none ∧ t.dev.flt.ring = [] ∧ t.dev.quads = [] ∧ t.dev.ranges = [] ∧ t.dev.poison = [] ∧ t.dev.waits = []
      ∧ (∀ b n i, b ≠ .feed → n ∈ regsHeader ++ b.regs → i < n.row.count → regKey b n i ≠ regKey .flt .fltResetCause 0 → regKey b n i ≠ regKey .sbi .sbiBootStat 0 →
        rget t.dev b n i = resetAt n i)
      ∧ rget t.dev .flt .fltResetCause = cause ∧ rget t.dev .sbi .sbiBootStat = 1
      ∧ (∀ n i, n ∈ regsHeader ++ Block.feed.regs → i < n.row.count → rget t.dev .feed n i = if kept = true then rget s.dev .feed n i else resetAt n i)
      ∧ t.feed = (if kept = true then s.feed else {})
      ∧ t.life.state = s.life.burn.getD s.life.state ∧ t.life.burn = none ∧ t.life.unlocked = 0 ∧ t.life.nonces = []
      ∧ t.life.testSecret = (s.life.testSecret || decide (s.life.burn = some 2))))
  ∧ ((∀ (s : State) (p : Path) (v : Word), admitted s p .flt .fltResetCtl = true → v.getLsbD 1 = false →
      (s.dev.pwr.holdUp = false → s.dev.pwr.warm = none → s.dev.pwr.mode ≠ .retain → exec (.warmReset p v) s
        = .next (wrote p .flt .fltResetCtl (withDev s (allLinksDown { s.dev with pwr := { s.dev.pwr with warm := some (Path.code p) } }))))
      ∧ (s.dev.pwr.holdUp = true ∨ s.dev.pwr.warm.isSome = true → exec (.warmReset p v) s = .next (wrote p .flt .fltResetCtl s)))
  ∧ (∀ (s : State) (path : Nat), s.dev.pwr.warm = some path → path < 5 →
      (exec .warmResetTimeout s = .next (settled (coldReset s (packW [(0, 3), (2, path), (5, 2)]) true)))
      ∧ (let d := warmFlush s.dev
        (d.flt.lossQ ≠ 0 → exec .warmResetFlushDone s = .next (settled (coldReset { s with dev := d } (packW [(0, 3), (2, path), (5, 1)]) true)))
        ∧ (d.flt.lossQ = 0 → ∃ e, exec .warmResetFlushDone s = .next (onDev s e) ∧ e.pwr.mode = .boot ∧ e.boot.active = true ∧ e.pwr.warm = none ∧ e.pwr.req = none
          ∧ (∀ i, 0 < i → i < 20 → domOn e i = false) ∧ domOn e 0 = domOn s.dev 0 ∧ e.flt.haltOn = false ∧ e.flt.haltRunning = false
          ∧ rget e .flt .fltResetCause = packW [(0, 2), (2, path), (5, 0)] ∧ rfld e .sbi .sbiBootStat 3 0 = 1 ∧ bitOf (rget e .sbi .sbiBootStat) 5 = true ∧ e.waits = [] ∧ e.dram = d.dram)))
  ∧ (∀ s : State, s.dev.pwr.warm = none → exec .warmResetFlushDone s = .next s ∧ exec .warmResetTimeout s = .next s)
  ∧ (∀ s : State, s.dev.pwr.mode = .boot → s.dev.boot.active = true → let b := rget s.dev .sbi .sbiBootStat
      b.getLsbD 5 = true → b.getLsbD 4 = false → fld b 3 0 = 7 → s.dev.boot.reconciled = false → s.dev.pwr.pads &&& 0xF = 0 →
      exec .warmPathReconcile s = .next (onDev s (warmReconcile { (List.range 32).foldl (fun d u => umod d u fun x => { x with selfRefresh := false }) s.dev with
        boot := { s.dev.boot with reconciled := true } }))))

/-- Slicer sets (R419, R420): in training a lane takes the eligible set with the lowest score, the lower index on a tie; in service, with SLICER_AUTO,
a better set by 8 or more waits for the next retrain and raises the event; a lane without an eligible set counts as out of lock and raises the source.
Matched delays (R421, R422, R423): the masks are tried in their order, the first without a near-miss is taken with the lowest unused segment as its
guard, and after the last the stage takes all segments and the source is raised; a stored setting is checked without its guard and kept, or the search
begins. A near-miss in service is counted and has a segment added at the stage's next empty moment. -/
def Obligations.SlicersAndDelays : Prop :=
  ((∀ (s : State) (lane : Fin 64) (scores : List (Option Nat)) (k : Nat), bestSet scores = some k →
      let sl := slicer s.dev lane
      let took : Slicer := { slicerScored sl k scores with set := k, pending := false }
      let seen : Slicer := slicerScored sl k scores
      (laneTrains s.dev lane = true → k = sl.set → exec (.slicerRescore lane scores) s = .next (onDev s (slicerMod s.dev lane fun _ => took)))
      ∧ (laneTrains s.dev lane = true → k ≠ sl.set → exec (.slicerRescore lane scores) s = .next (onDev s (slicerRecord (slicerMod s.dev lane fun _ => took) (lane / 8))))
      ∧ (laneTrains s.dev lane = false → slicerAuto s.dev = true →
        (k = sl.set → exec (.slicerRescore lane scores) s = .next (onDev s (slicerMod s.dev lane fun _ => seen)))
        ∧ (∀ v, k ≠ sl.set → scores.getD k none = some v →
          ((∀ cur, scores.getD sl.set none = some cur → v + 8 ≤ cur) → ∃ e, exec (.slicerRescore lane scores) s = .next (onDev s (raiseEvent e .cal 2))
            ∧ slicer e lane = { seen with pending := true } ∧ (∀ j, j ≠ lane.val → slicer e j = slicer s.dev j) ∧ e = { s.dev with cal := { s.dev.cal with lanes := e.cal.lanes } })
          ∧ (∀ cur, scores.getD sl.set none = some cur → cur < v + 8 → exec (.slicerRescore lane scores) s = .next (onDev s (slicerMod s.dev lane fun _ => seen)))))
      ∧ (laneTrains s.dev lane = false → slicerAuto s.dev = false → exec (.slicerRescore lane scores) s = .next s))
  ∧ (∀ (scores : List (Option Nat)) (k : Nat), bestSet scores = some k ↔ ∃ v, scores[k]? = some (some v) ∧ ∀ j u, scores[j]? = some (some u) → v ≤ u ∧ (j < k → v < u))
  ∧ (∀ (s : State) (lane : Fin 64) (scores : List (Option Nat)), bestSet scores = none → laneTrains s.dev lane = true → s.dev.marwen.getLsbD (lane / 8) = false →
      exec (.slicerRescore lane scores) s = .next (onDev s (raise s.dev .cal 4 .none (ctxChecker .cal 0 lane)))))
  ∧ ((∀ (s : State) (stage m : Nat), (delay s.dev stage).done = false → (delay s.dev stage).trying = some m →
      (∀ misses, (delay s.dev stage).checking = true → misses ≠ 0 → exec (.delayTrialDone stage misses) s = .next (onDev s (delayPut s.dev stage { trying := some 1 })))
      ∧ ((delay s.dev stage).checking = true → exec (.delayTrialDone stage 0) s
        = .next (onDev s (delayPut s.dev stage { mask := (delay s.dev stage).mask, guard := (delay s.dev stage).guard, done := true })))
      ∧ ((delay s.dev stage).checking = false →
        (∀ g, g < 8 → m.testBit g = false → (∀ j, j < g → m.testBit j = true) →
          exec (.delayTrialDone stage 0) s = .next (onDev s (delayRecord (delayPut s.dev stage { mask := m ||| 2 ^ g, guard := some g, done := true }) stage)))
        ∧ (∀ misses m', misses ≠ 0 → nextMask m = some m' → exec (.delayTrialDone stage misses) s = .next (onDev s (delayPut s.dev stage { trying := some m' })))
        ∧ (∀ misses, misses ≠ 0 → nextMask m = none → exec (.delayTrialDone stage misses) s
          = .next (onDev s (raise (delayRecord (delayPut s.dev stage { mask := 0xFF, guard := none, done := true }) stage) .cal 5 (stageUnit s.dev stage) (ctxChecker .cal stage 0))))))
  ∧ (∀ (s : State) (stage misses : Nat), (delay s.dev stage).done = false → (delay s.dev stage).trying = none →
      let stored := (storedDelays s.dev (stageGroup stage))[stage % 2 ^ 8]?
      (∀ m g, stored = some (m, g) →
        exec (.delayTrialDone stage misses) s = .next (onDev s (delayPut s.dev stage (if misses = 0 then { mask := m, guard := g, done := true } else { trying := some 1 }))))
      ∧ (stored = none → misses = 0 → exec (.delayTrialDone stage misses) s = .next (onDev s (delayRecord (delayPut s.dev stage { mask := 3, guard := some 1, done := true }) stage)))
      ∧ (stored = none → misses ≠ 0 → exec (.delayTrialDone stage misses) s = .next (onDev s (delayPut s.dev stage { trying := some 2 }))))
  ∧ (searchOrder.Pairwise fun a b => bits8 a < bits8 b ∨ bits8 a = bits8 b ∧ a < b)
  ∧ (∀ m, m ∈ searchOrder ↔ 0 < m ∧ m < 255)
  ∧ (∀ before m m' after, searchOrder = before ++ m :: m' :: after → nextMask m = some m')
  ∧ (∀ (s : State) (stage : Nat), let d := rbump s.dev .cal .calNearMiss
      let x := delay s.dev stage
      (delayTrim s.dev = false ∨ x.done = false → exec (.nearMiss stage) s = .next (onDev s d))
      ∧ (delayTrim s.dev = true → x.done = true → x.mask ≠ 0xFF → exec (.nearMiss stage) s = .next (onDev s (delayPut d stage { x with trim := true })))
      ∧ (delayTrim s.dev = true → x.done = true → x.mask = 0xFF → exec (.nearMiss stage) s = .next (onDev s (raise d .cal 5 (stageUnit s.dev stage) (ctxChecker .cal stage 0)))))
  ∧ (∀ (s : State) (stage g : Nat), (delay s.dev stage).trim = true → g < 8 → (delay s.dev stage).mask.testBit g = false → (∀ j, j < g → (delay s.dev stage).mask.testBit j = true) →
      exec (.matchedDelayTrim stage) s = .next (onDev s (delayRecord
        (rbump (delayPut s.dev stage { delay s.dev stage with mask := (delay s.dev stage).mask ||| 2 ^ g, trim := false }) .cal .calTrimCount) stage))))

/-- The calibration store (R425, R427, R428, R429): the record that waits longest is programmed where it fits behind the write point, with the next
write counter of its key, and raises the event; a key whose counter is at its end takes no more, which is raised once. An erase that is done empties
its sector and counts. The layout of a record's body is the model's choice (log entry 89). -/
def Obligations.CalibrationStore : Prop :=
  (∀ (s : State) (r : CalRec) (rest : List CalRec), calWrites s.dev = true → s.dev.cal.queue = r :: rest →
      (newestCount s.dev.cal r.kind r.key < 0xFFFFFFFF → unitsUsed (calSector s.dev.cal s.dev.cal.writeAt) + r.units ≤ 255 → s.dev.cal.writeAt < s.dev.cal.sectors.length →
        ∃ c, exec .calRecordProgrammed s = .next (onDev s (raiseEvent { s.dev with cal := c } .cal 0))
          ∧ c = { s.dev.cal with queue := rest, sectors := c.sectors } ∧ c.sectors.length = s.dev.cal.sectors.length
          ∧ (∀ i, calSector c i = if i = s.dev.cal.writeAt
              then { calSector s.dev.cal i with recs := (calSector s.dev.cal i).recs ++ [(r, newestCount s.dev.cal r.kind r.key + 1)] } else calSector s.dev.cal i))
      ∧ (0xFFFFFFFF ≤ newestCount s.dev.cal r.kind r.key →
        ((r.kind, r.key) ∈ s.dev.cal.ended → exec .calRecordProgrammed s = .next (onDev s { s.dev with cal := { s.dev.cal with queue := rest } }))
        ∧ ((r.kind, r.key) ∉ s.dev.cal.ended → exec .calRecordProgrammed s
          = .next (onDev s (raise0 { s.dev with cal := { s.dev.cal with queue := rest, ended := (r.kind, r.key) :: s.dev.cal.ended } } .cal 3)))))
  ∧ (∀ s : State, calWrites s.dev = false → exec .calRecordProgrammed s = .next s)
  ∧ (∀ (s : State) (i : Nat), s.dev.cal.erasing = some i → i < s.dev.cal.sectors.length →
      ∃ c, exec .calSectorEraseDone s = .next (onDev s { s.dev with cal := c }) ∧ c = { s.dev.cal with erasing := none, sectors := c.sectors }
        ∧ ∀ j, calSector c j = if j = i then { calSector s.dev.cal j with recs := [], erases := (calSector s.dev.cal j).erases + 1 } else calSector s.dev.cal j)

/-- Dailies (R438, R439): a snapshot is taken at the tick after the write that asked for it: it keeps every live counter, the time, and adds one to
SNAP_SEQ. The end of a bandwidth window shows what each active port moved in it, in sixteenths of 10⁹ bytes a second, zero for a port that is not
active, adds one to BW_SEQ and begins the next window. -/
def Obligations.DailyCounters : Prop :=
  (∀ (s : State) (p : Path) (v : Word), admitted s p (.daily 0) .daily0SnapCtl = true →
      exec (.snap p v) s = .next (wrote p (.daily 0) .daily0SnapCtl (withDev s { s.dev with daily := { s.dev.daily with snapDue := true } })))
  ∧ (∀ s : State, domOn s.dev 3 = true → s.dev.daily.snapDue = true → ∃ e, exec .snapshotTick s = .next (onDev s e)
      ∧ e.daily.snap = s.dev.daily.live ∧ e.daily.live = s.dev.daily.live ∧ e.daily.snapDue = false
      ∧ rget e (.daily 0) .daily0SnapTimeLo = s.dev.pwr.now.setWidth 32 ∧ rget e (.daily 0) .daily0SnapTimeHi = (s.dev.pwr.now >>> 32).setWidth 32
      ∧ rget e (.daily 0) .daily0SnapSeq = rget s.dev (.daily 0) .daily0SnapSeq + 1
      ∧ e = { s.dev with regs := e.regs, daily := e.daily, freeCtr := e.freeCtr })
  ∧ (∀ s : State, s.dev.daily.snapDue = false → exec .snapshotTick s = .next s)
  ∧ (∀ s : State, domOn s.dev 3 = true → ∃ e, exec .bwWindowEnd s = .next (onDev s e)
      ∧ (∀ (p : Nat) (b : Block) (n : RName) (i : Nat), (p < 16 ∧ b = .daily 0 ∧ n = .daily0BwHp ∧ i = p) ∨ (16 ≤ p ∧ p < 24 ∧ b = .daily 0 ∧ n = .daily0BwMp ∧ i = p - 16) →
        let rate (t : Tab Nat) : Nat := min 0xFFFF (16 * tabGet 0 t p / (s.dev.daily.winUs * 1000))
        rget e b n i = if portActive s.dev p = true then packW [(0, rate s.dev.daily.winOut), (16, rate s.dev.daily.winIn)] else 0)
      ∧ rget e (.daily 0) .daily0BwSeq = rget s.dev (.daily 0) .daily0BwSeq + 1
      ∧ e.daily.winOut = [] ∧ e.daily.winIn = [] ∧ e.daily.winUs = max 1 (min 1000000 (rfld s.dev (.daily 0) .daily0BwWindow 19 0))
      ∧ e.daily.live = s.dev.daily.live ∧ e.daily.snap = s.dev.daily.snap)

/-- The steps of Boot (R446, R447, R448, R449, R451, R452, R333, R347, R444): what ends each of them and what it leaves, and the stops with their
codes. A step does nothing with the input of another; a stopped Boot stays stopped until a reset. The order of the checks within a step, the end of
step 8, the spread of MAP.LIMIT and the moment of CORE_RELEASE are the model's reading (log entries 84, 87, 90, 91, 92). -/
def Obligations.BootSteps : Prop :=
  (∀ (s : State) (i : BootInput), bootRuns s.dev = false → exec (.bootStepDone i) s = .next s ∧ exec .bootPortTimeout s = .next s)
  ∧ (∀ (s : State), bootRuns s.dev = true → let step := bootStep s.dev
      let stops (i : BootInput) (code detail : Nat) : Prop := ∃ t, exec (.bootStepDone i) s = .next (settled t) ∧ bitOf (rget t.dev .sbi .sbiBootStat) 4 = true
        ∧ rfld t.dev .sbi .sbiBootStat 15 8 = code ∧ rget t.dev .sbi .sbiBootDetail = BitVec.ofNat 32 detail ∧ bootRuns t.dev = false ∧ t.dev.pwr.mode = .boot
      (step = 1 → ∃ e, exec (.bootStepDone .ok) s = .next (onDev s e) ∧ bootStep e = (if bootWarm s.dev = true ∧ s.feed.powerGood = true then 3 else 2)
        ∧ e.flash = s.dev.flash.map (fun h => { h with fresh := false })
        ∧ (∀ h, (s.dev.flash.filter (·.fresh)).getLast? = some h → h.prev < 4 → rfld e .sbi .sbiBootStat 17 16 = h.prev)
        ∧ (s.dev.flash.filter (·.fresh) = [] → rfld e .sbi .sbiBootStat 17 16 = 0))
      ∧ (step = 2 → s.feed.st = 6 → stops .ok 1 (feedStat s.feed).toNat)
      ∧ (step = 2 → s.feed.st ≠ 6 → s.feed.powerGood = true → exec (.bootStepDone .ok) s = .next (onDev s (rputFld s.dev .sbi .sbiBootStat 3 0 3)))
      ∧ (step = 3 → ∃ e, exec (.bootStepDone .ok) s = .next { onDev s e with life := { s.life with cores := coresReset, unlocked := 0, nonces := [] } }
        ∧ bootStep e = 4 ∧ e.pwr.vrEn = true ∧ domOn e 1 = true ∧ domOn e 2 = true ∧ domOn e 3 = true)
      ∧ (step = 3 → ∀ c : Fin 5, stops (.supplyFail c) 2 c)
      ∧ (∀ secA secB normA normB svn, step = 4 → s.life.state ≠ 3 →
        let rej (a b flag : Bool) : Bool := if flag then b else a
        let fs := s.dev.bootFlag.getLsbD 0
        let fn := s.dev.bootFlag.getLsbD 1
        (rej secA secB fs = false → rej normA normB fn = false →
          ∃ t, exec (.bootStepDone (.images secA secB normA normB svn)) s = .next (settled t) ∧ bootStep t.dev = 5
            ∧ (rget t.dev .mgt .mgtFwStat).getLsbD 0 = fs ∧ (rget t.dev .mgt .mgtFwStat).getLsbD 1 = fn ∧ rfld t.dev .mgt .mgtFwStat 31 16 = svn.toNat
            ∧ (rget t.dev .mgt .mgtFwStat).getLsbD 2 = (rget s.dev .mgt .mgtFwStat).getLsbD 2
            ∧ rget t.dev .seci .seciCoreRelease = rget s.dev .seci .seciCoreRelease ||| 0xE)
        ∧ (secA = true → secB = true → stops (.images secA secB normA normB svn) 3 1)
        ∧ (rej secA secB fs = false → normA = true → normB = true → stops (.images secA secB normA normB svn) 3 2))
      ∧ (∀ secA secB normA normB svn, step = 4 → s.life.state = 3 → exec (.bootStepDone (.images secA secB normA normB svn)) s = .next (onDev s s.dev))
      ∧ (∀ a b : ProfileCopy, step = 5 → a.valid = false → b.valid = false → stops (.profile a b) 4 0)
      ∧ (∀ (a b c : ProfileCopy) (copyB : Bool), step = 5 → (a.valid = true ∨ b.valid = true) →
        (copyB = true ↔ b.valid = true ∧ (a.valid = false ∨ a.seq.toNat < b.seq.toNat)) → c = (if copyB = true then b else a) →
        let d := rput s.dev .sbi .sbiProfile (packW [(0, c.seq.toNat), (16, b2n copyB)])
        let t := c.items.foldl profileItem { s with dev := profileBefore d c.items }
        let e := limitSpread t.dev
        (∀ n rest, profileBad e c = n :: rest → exec (.bootStepDone (.profile a b)) s = .next (settled { t with dev := bootStop e 5 n }))
        ∧ (profileBad e c = [] → exec (.bootStepDone (.profile a b)) s = .next (settled (withDev t
          (bootTo (restart { e with regions := profileRegions c.items, profileWas := some (rget e (.map 0) .mapLimit, rget e .cal .calArea) } [0, 1, 3, 12, 13, 14, 15, 16, 17, 18, 19]) 6)))))
      ∧ (∀ bad, step = 6 → exec (.bootStepDone (.calib bad)) s = .next (onDev s (bootCalib s.dev bad)))
      ∧ (∀ (l : List DimmInfo) (rsv : BitVec 30) (c v : Nat), step = 7 → dimmRefused l = some (c, v) → stops (.dimms l rsv) 6 (c + v * 256))
      ∧ (∀ (l : List DimmInfo) (rsv : BitVec 30), step = 7 → dimmRefused l = none →
        (∀ c, c < 16 → trainFailed s.dev c = true → chanFenced s.dev c = false → (∀ j, j < c → trainFailed s.dev j = false ∨ chanFenced s.dev j = true) →
          stops (.dimms l rsv) 7 (c + fld (trainStat s.dev c) 10 0 * 65536))
        ∧ ((∀ c, c < 16 → trainFailed s.dev c = false ∨ chanFenced s.dev c = true) →
          (∃ c, c < 16 ∧ (trainStat s.dev c).getLsbD 2 = false ∧ chanFenced s.dev c = false) → exec (.bootStepDone (.dimms l rsv)) s = .next (onDev s s.dev)))
      ∧ (step = 8 → portsUp s.dev = true → exec (.bootStepDone .ok) s = .next (onDev s (bootEnd s.dev)))
      ∧ (step = 8 → portsUp s.dev = false → exec (.bootStepDone .ok) s = .next (onDev s s.dev))
      ∧ (step = 8 → exec .bootPortTimeout s = .next (onDev s (bootEnd s.dev)))
      ∧ (step ≠ 8 → exec .bootPortTimeout s = .next s))
  ∧ (∀ d : Dev, d.waits = [] → (bootEnd d).pwr.mode = (if anyFenced d then .degraded else .service) ∧ (bootEnd d).boot.active = false
      ∧ (∀ p : Fin 16, (port (bootEnd d) p).memActive = true) ∧ bootStep (bootEnd d) = 9)

/-- Every step keeps the feed controller legal (R383): whatever the command, On and POWER_GOOD go together, no feed conducts that is not admitted, and
the fault timer runs in Stable and On alone. -/
def Obligations.FeedStaysLegal : Prop :=
  ∀ s t : State, feedLegal s.feed = true → step s = .next t → feedLegal t.feed = true

/-- The life cycle advances one way, one code at a time, and only as it was burnt (R344): from a legal state every step goes to a legal one, whose
code is the one before or the burnt next one; whatever is unlocked was unlocked by the token at the front of the queue or was so before. -/
def Obligations.LifeCycleOneWay : Prop :=
  ∀ s t : State, lifeLegal s.life = true → step s = .next t →
    lifeLegal t.life = true
    ∧ (t.life.state ≠ s.life.state → t.life.state.toNat = s.life.state.toNat + 1 ∧ s.life.burn = some t.life.state)
    ∧ (∀ i, t.life.unlocked.getLsbD i = true → s.life.unlocked.getLsbD i = false →
        ∃ k, s.pending.head? = some (.debugUnlockToken k) ∧ tokenOk s.life k = true ∧ k.enables.getLsbD i = true)

/-- Key bits never enter a readable register (R342): two states that differ in keys alone read the same in every register, on every path. -/
def Obligations.KeysAreNotReadable : Prop :=
  ∀ (s : State) (slot : Nat → BitVec 768) (ide mw : Nat → BitVec 256) (block : List Byte) (p : Path) (b : Block) (n : RName) (i : Nat),
    readReg (withDev s (rekeyed s.dev slot ide mw block)) p b n i = readReg s p b n i
end

