-- ==== Sys2Proof/Laws/State.lean ====
section
/-! SUPPORT. One lemma for each field of the device and each named update of it that leaves the field alone, and what a `finish`ed,
a stuttering and a conditional command answer. -/

namespace Sys2Proof.Machine

/-! ## What a command answers -/

theorem done_eq (s : State) (d : Dev) : done s d = .next { s with dev := finish d } := rfl
@[simp] theorem still_eq (s : State) : still s = .next s := rfl
theorem doneIf_pos (s : State) (c : Bool) (f : Dev → Dev) (h : c = true) : doneIf s c f = .next { s with dev := finish (f s.dev) } := by simp [doneIf, done, h]
theorem doneIf_neg (s : State) (c : Bool) (f : Dev → Dev) (h : c = false) : doneIf s c f = .next s := by simp [doneIf, h]

/-! ## `rput` -/

section
variable (d : Dev) (b : Block) (n : RName) (v : Word) (i : Nat)

@[simp] theorem rput_staged : (rput d b n v i).staged = d.staged := rfl
@[simp] theorem rput_pages : (rput d b n v i).pages = d.pages := rfl
@[simp] theorem rput_latches : (rput d b n v i).latches = d.latches := rfl
@[simp] theorem rput_flt : (rput d b n v i).flt = d.flt := rfl
@[simp] theorem rput_pwr : (rput d b n v i).pwr = d.pwr := rfl
@[simp] theorem rput_gaffer : (rput d b n v i).gaffer = d.gaffer := rfl
@[simp] theorem rput_quads : (rput d b n v i).quads = d.quads := rfl
@[simp] theorem rput_subs : (rput d b n v i).subs = d.subs := rfl
@[simp] theorem rput_banks : (rput d b n v i).banks = d.banks := rfl
@[simp] theorem rput_dram : (rput d b n v i).dram = d.dram := rfl
@[simp] theorem rput_subFill : (rput d b n v i).subFill = d.subFill := rfl
@[simp] theorem rput_mapShare : (rput d b n v i).mapShare = d.mapShare := rfl
@[simp] theorem rput_dimm : (rput d b n v i).dimm = d.dimm := rfl
@[simp] theorem rput_ranges : (rput d b n v i).ranges = d.ranges := rfl
@[simp] theorem rput_slots : (rput d b n v i).slots = d.slots := rfl
@[simp] theorem rput_sweeps : (rput d b n v i).sweeps = d.sweeps := rfl
@[simp] theorem rput_rangeBusy : (rput d b n v i).rangeBusy = d.rangeBusy := rfl
@[simp] theorem rput_rangeResult : (rput d b n v i).rangeResult = d.rangeResult := rfl
@[simp] theorem rput_rangeLast : (rput d b n v i).rangeLast = d.rangeLast := rfl
@[simp] theorem rput_regions : (rput d b n v i).regions = d.regions := rfl
@[simp] theorem rput_linings : (rput d b n v i).linings = d.linings := rfl
@[simp] theorem rput_backed : (rput d b n v i).backed = d.backed := rfl
@[simp] theorem rput_regionBusy : (rput d b n v i).regionBusy = d.regionBusy := rfl
@[simp] theorem rput_regionResult : (rput d b n v i).regionResult = d.regionResult := rfl
@[simp] theorem rput_poison : (rput d b n v i).poison = d.poison := rfl
@[simp] theorem rput_poisonOverflow : (rput d b n v i).poisonOverflow = d.poisonOverflow := rfl
@[simp] theorem rput_poisonLost : (rput d b n v i).poisonLost = d.poisonLost := rfl
@[simp] theorem rput_ctxs : (rput d b n v i).ctxs = d.ctxs := rfl
@[simp] theorem rput_ctxBad : (rput d b n v i).ctxBad = d.ctxBad := rfl
@[simp] theorem rput_fbs : (rput d b n v i).fbs = d.fbs := rfl
@[simp] theorem rput_slateBusy : (rput d b n v i).slateBusy = d.slateBusy := rfl
@[simp] theorem rput_slateResult : (rput d b n v i).slateResult = d.slateResult := rfl
@[simp] theorem rput_reg : (rput d b n v i).reg = d.reg := rfl
@[simp] theorem rput_cap : (rput d b n v i).cap = d.cap := rfl
@[simp] theorem rput_marwen : (rput d b n v i).marwen = d.marwen := rfl
@[simp] theorem rput_ports : (rput d b n v i).ports = d.ports := rfl
@[simp] theorem rput_heads : (rput d b n v i).heads = d.heads := rfl
@[simp] theorem rput_bricks : (rput d b n v i).bricks = d.bricks := rfl
@[simp] theorem rput_mports : (rput d b n v i).mports = d.mports := rfl
@[simp] theorem rput_tags : (rput d b n v i).tags = d.tags := rfl
@[simp] theorem rput_grantee : (rput d b n v i).grantee = d.grantee := rfl
@[simp] theorem rput_mgt : (rput d b n v i).mgt = d.mgt := rfl
@[simp] theorem rput_ideKeys : (rput d b n v i).ideKeys = d.ideKeys := rfl
@[simp] theorem rput_mwKeys : (rput d b n v i).mwKeys = d.mwKeys := rfl
@[simp] theorem rput_keyRun : (rput d b n v i).keyRun = d.keyRun := rfl
@[simp] theorem rput_cal : (rput d b n v i).cal = d.cal := rfl
@[simp] theorem rput_daily : (rput d b n v i).daily = d.daily := rfl
@[simp] theorem rput_boot : (rput d b n v i).boot = d.boot := rfl
@[simp] theorem rput_profileWas : (rput d b n v i).profileWas = d.profileWas := rfl
@[simp] theorem rput_flash : (rput d b n v i).flash = d.flash := rfl
@[simp] theorem rput_supply : (rput d b n v i).supply = d.supply := rfl
@[simp] theorem rput_wdogSince : (rput d b n v i).wdogSince = d.wdogSince := rfl
@[simp] theorem rput_fwXfer : (rput d b n v i).fwXfer = d.fwXfer := rfl
@[simp] theorem rput_bootFlag : (rput d b n v i).bootFlag = d.bootFlag := rfl
@[simp] theorem rput_streams : (rput d b n v i).streams = d.streams := rfl
@[simp] theorem rput_waits : (rput d b n v i).waits = d.waits := rfl
@[simp] theorem rput_ioReads : (rput d b n v i).ioReads = d.ioReads := rfl
@[simp] theorem rput_nextId : (rput d b n v i).nextId = d.nextId := rfl
@[simp] theorem rput_react : (rput d b n v i).react = d.react := rfl
@[simp] theorem rput_out : (rput d b n v i).out = d.out := rfl
@[simp] theorem rput_freeCtr : (rput d b n v i).freeCtr = d.freeCtr := rfl

end

/-! ## `pmod` -/

section
variable (d : Dev) (b : Block) (f : PageSt → PageSt)

@[simp] theorem pmod_regs : (pmod d b f).regs = d.regs := rfl
@[simp] theorem pmod_staged : (pmod d b f).staged = d.staged := rfl
@[simp] theorem pmod_latches : (pmod d b f).latches = d.latches := rfl
@[simp] theorem pmod_flt : (pmod d b f).flt = d.flt := rfl
@[simp] theorem pmod_pwr : (pmod d b f).pwr = d.pwr := rfl
@[simp] theorem pmod_gaffer : (pmod d b f).gaffer = d.gaffer := rfl
@[simp] theorem pmod_quads : (pmod d b f).quads = d.quads := rfl
@[simp] theorem pmod_subs : (pmod d b f).subs = d.subs := rfl
@[simp] theorem pmod_banks : (pmod d b f).banks = d.banks := rfl
@[simp] theorem pmod_dram : (pmod d b f).dram = d.dram := rfl
@[simp] theorem pmod_subFill : (pmod d b f).subFill = d.subFill := rfl
@[simp] theorem pmod_mapShare : (pmod d b f).mapShare = d.mapShare := rfl
@[simp] theorem pmod_dimm : (pmod d b f).dimm = d.dimm := rfl
@[simp] theorem pmod_ranges : (pmod d b f).ranges = d.ranges := rfl
@[simp] theorem pmod_slots : (pmod d b f).slots = d.slots := rfl
@[simp] theorem pmod_sweeps : (pmod d b f).sweeps = d.sweeps := rfl
@[simp] theorem pmod_rangeBusy : (pmod d b f).rangeBusy = d.rangeBusy := rfl
@[simp] theorem pmod_rangeResult : (pmod d b f).rangeResult = d.rangeResult := rfl
@[simp] theorem pmod_rangeLast : (pmod d b f).rangeLast = d.rangeLast := rfl
@[simp] theorem pmod_regions : (pmod d b f).regions = d.regions := rfl
@[simp] theorem pmod_linings : (pmod d b f).linings = d.linings := rfl
@[simp] theorem pmod_backed : (pmod d b f).backed = d.backed := rfl
@[simp] theorem pmod_regionBusy : (pmod d b f).regionBusy = d.regionBusy := rfl
@[simp] theorem pmod_regionResult : (pmod d b f).regionResult = d.regionResult := rfl
@[simp] theorem pmod_poison : (pmod d b f).poison = d.poison := rfl
@[simp] theorem pmod_poisonOverflow : (pmod d b f).poisonOverflow = d.poisonOverflow := rfl
@[simp] theorem pmod_poisonLost : (pmod d b f).poisonLost = d.poisonLost := rfl
@[simp] theorem pmod_ctxs : (pmod d b f).ctxs = d.ctxs := rfl
@[simp] theorem pmod_ctxBad : (pmod d b f).ctxBad = d.ctxBad := rfl
@[simp] theorem pmod_fbs : (pmod d b f).fbs = d.fbs := rfl
@[simp] theorem pmod_slateBusy : (pmod d b f).slateBusy = d.slateBusy := rfl
@[simp] theorem pmod_slateResult : (pmod d b f).slateResult = d.slateResult := rfl
@[simp] theorem pmod_reg : (pmod d b f).reg = d.reg := rfl
@[simp] theorem pmod_cap : (pmod d b f).cap = d.cap := rfl
@[simp] theorem pmod_marwen : (pmod d b f).marwen = d.marwen := rfl
@[simp] theorem pmod_ports : (pmod d b f).ports = d.ports := rfl
@[simp] theorem pmod_heads : (pmod d b f).heads = d.heads := rfl
@[simp] theorem pmod_bricks : (pmod d b f).bricks = d.bricks := rfl
@[simp] theorem pmod_mports : (pmod d b f).mports = d.mports := rfl
@[simp] theorem pmod_tags : (pmod d b f).tags = d.tags := rfl
@[simp] theorem pmod_grantee : (pmod d b f).grantee = d.grantee := rfl
@[simp] theorem pmod_mgt : (pmod d b f).mgt = d.mgt := rfl
@[simp] theorem pmod_ideKeys : (pmod d b f).ideKeys = d.ideKeys := rfl
@[simp] theorem pmod_mwKeys : (pmod d b f).mwKeys = d.mwKeys := rfl
@[simp] theorem pmod_keyRun : (pmod d b f).keyRun = d.keyRun := rfl
@[simp] theorem pmod_cal : (pmod d b f).cal = d.cal := rfl
@[simp] theorem pmod_daily : (pmod d b f).daily = d.daily := rfl
@[simp] theorem pmod_boot : (pmod d b f).boot = d.boot := rfl
@[simp] theorem pmod_profileWas : (pmod d b f).profileWas = d.profileWas := rfl
@[simp] theorem pmod_flash : (pmod d b f).flash = d.flash := rfl
@[simp] theorem pmod_supply : (pmod d b f).supply = d.supply := rfl
@[simp] theorem pmod_wdogSince : (pmod d b f).wdogSince = d.wdogSince := rfl
@[simp] theorem pmod_fwXfer : (pmod d b f).fwXfer = d.fwXfer := rfl
@[simp] theorem pmod_bootFlag : (pmod d b f).bootFlag = d.bootFlag := rfl
@[simp] theorem pmod_streams : (pmod d b f).streams = d.streams := rfl
@[simp] theorem pmod_waits : (pmod d b f).waits = d.waits := rfl
@[simp] theorem pmod_ioReads : (pmod d b f).ioReads = d.ioReads := rfl
@[simp] theorem pmod_nextId : (pmod d b f).nextId = d.nextId := rfl
@[simp] theorem pmod_react : (pmod d b f).react = d.react := rfl
@[simp] theorem pmod_out : (pmod d b f).out = d.out := rfl
@[simp] theorem pmod_freeCtr : (pmod d b f).freeCtr = d.freeCtr := rfl

end

/-! ## `raiseEvent` -/

section
variable (d : Dev) (b : Block) (i : Nat)

@[simp] theorem raiseEvent_regs : (raiseEvent d b i).regs = d.regs := rfl
@[simp] theorem raiseEvent_staged : (raiseEvent d b i).staged = d.staged := rfl
@[simp] theorem raiseEvent_latches : (raiseEvent d b i).latches = d.latches := rfl
@[simp] theorem raiseEvent_flt : (raiseEvent d b i).flt = d.flt := rfl
@[simp] theorem raiseEvent_pwr : (raiseEvent d b i).pwr = d.pwr := rfl
@[simp] theorem raiseEvent_gaffer : (raiseEvent d b i).gaffer = d.gaffer := rfl
@[simp] theorem raiseEvent_quads : (raiseEvent d b i).quads = d.quads := rfl
@[simp] theorem raiseEvent_subs : (raiseEvent d b i).subs = d.subs := rfl
@[simp] theorem raiseEvent_banks : (raiseEvent d b i).banks = d.banks := rfl
@[simp] theorem raiseEvent_dram : (raiseEvent d b i).dram = d.dram := rfl
@[simp] theorem raiseEvent_subFill : (raiseEvent d b i).subFill = d.subFill := rfl
@[simp] theorem raiseEvent_mapShare : (raiseEvent d b i).mapShare = d.mapShare := rfl
@[simp] theorem raiseEvent_dimm : (raiseEvent d b i).dimm = d.dimm := rfl
@[simp] theorem raiseEvent_ranges : (raiseEvent d b i).ranges = d.ranges := rfl
@[simp] theorem raiseEvent_slots : (raiseEvent d b i).slots = d.slots := rfl
@[simp] theorem raiseEvent_sweeps : (raiseEvent d b i).sweeps = d.sweeps := rfl
@[simp] theorem raiseEvent_rangeBusy : (raiseEvent d b i).rangeBusy = d.rangeBusy := rfl
@[simp] theorem raiseEvent_rangeResult : (raiseEvent d b i).rangeResult = d.rangeResult := rfl
@[simp] theorem raiseEvent_rangeLast : (raiseEvent d b i).rangeLast = d.rangeLast := rfl
@[simp] theorem raiseEvent_regions : (raiseEvent d b i).regions = d.regions := rfl
@[simp] theorem raiseEvent_linings : (raiseEvent d b i).linings = d.linings := rfl
@[simp] theorem raiseEvent_backed : (raiseEvent d b i).backed = d.backed := rfl
@[simp] theorem raiseEvent_regionBusy : (raiseEvent d b i).regionBusy = d.regionBusy := rfl
@[simp] theorem raiseEvent_regionResult : (raiseEvent d b i).regionResult = d.regionResult := rfl
@[simp] theorem raiseEvent_poison : (raiseEvent d b i).poison = d.poison := rfl
@[simp] theorem raiseEvent_poisonOverflow : (raiseEvent d b i).poisonOverflow = d.poisonOverflow := rfl
@[simp] theorem raiseEvent_poisonLost : (raiseEvent d b i).poisonLost = d.poisonLost := rfl
@[simp] theorem raiseEvent_ctxs : (raiseEvent d b i).ctxs = d.ctxs := rfl
@[simp] theorem raiseEvent_ctxBad : (raiseEvent d b i).ctxBad = d.ctxBad := rfl
@[simp] theorem raiseEvent_fbs : (raiseEvent d b i).fbs = d.fbs := rfl
@[simp] theorem raiseEvent_slateBusy : (raiseEvent d b i).slateBusy = d.slateBusy := rfl
@[simp] theorem raiseEvent_slateResult : (raiseEvent d b i).slateResult = d.slateResult := rfl
@[simp] theorem raiseEvent_reg : (raiseEvent d b i).reg = d.reg := rfl
@[simp] theorem raiseEvent_cap : (raiseEvent d b i).cap = d.cap := rfl
@[simp] theorem raiseEvent_marwen : (raiseEvent d b i).marwen = d.marwen := rfl
@[simp] theorem raiseEvent_ports : (raiseEvent d b i).ports = d.ports := rfl
@[simp] theorem raiseEvent_heads : (raiseEvent d b i).heads = d.heads := rfl
@[simp] theorem raiseEvent_bricks : (raiseEvent d b i).bricks = d.bricks := rfl
@[simp] theorem raiseEvent_mports : (raiseEvent d b i).mports = d.mports := rfl
@[simp] theorem raiseEvent_tags : (raiseEvent d b i).tags = d.tags := rfl
@[simp] theorem raiseEvent_grantee : (raiseEvent d b i).grantee = d.grantee := rfl
@[simp] theorem raiseEvent_mgt : (raiseEvent d b i).mgt = d.mgt := rfl
@[simp] theorem raiseEvent_ideKeys : (raiseEvent d b i).ideKeys = d.ideKeys := rfl
@[simp] theorem raiseEvent_mwKeys : (raiseEvent d b i).mwKeys = d.mwKeys := rfl
@[simp] theorem raiseEvent_keyRun : (raiseEvent d b i).keyRun = d.keyRun := rfl
@[simp] theorem raiseEvent_cal : (raiseEvent d b i).cal = d.cal := rfl
@[simp] theorem raiseEvent_daily : (raiseEvent d b i).daily = d.daily := rfl
@[simp] theorem raiseEvent_boot : (raiseEvent d b i).boot = d.boot := rfl
@[simp] theorem raiseEvent_profileWas : (raiseEvent d b i).profileWas = d.profileWas := rfl
@[simp] theorem raiseEvent_flash : (raiseEvent d b i).flash = d.flash := rfl
@[simp] theorem raiseEvent_supply : (raiseEvent d b i).supply = d.supply := rfl
@[simp] theorem raiseEvent_wdogSince : (raiseEvent d b i).wdogSince = d.wdogSince := rfl
@[simp] theorem raiseEvent_fwXfer : (raiseEvent d b i).fwXfer = d.fwXfer := rfl
@[simp] theorem raiseEvent_bootFlag : (raiseEvent d b i).bootFlag = d.bootFlag := rfl
@[simp] theorem raiseEvent_streams : (raiseEvent d b i).streams = d.streams := rfl
@[simp] theorem raiseEvent_waits : (raiseEvent d b i).waits = d.waits := rfl
@[simp] theorem raiseEvent_ioReads : (raiseEvent d b i).ioReads = d.ioReads := rfl
@[simp] theorem raiseEvent_nextId : (raiseEvent d b i).nextId = d.nextId := rfl
@[simp] theorem raiseEvent_react : (raiseEvent d b i).react = d.react := rfl
@[simp] theorem raiseEvent_out : (raiseEvent d b i).out = d.out := rfl
@[simp] theorem raiseEvent_freeCtr : (raiseEvent d b i).freeCtr = d.freeCtr := rfl

end

/-! ## `qmod` -/

section
variable (d : Dev) (q : Nat) (f : Quad → Quad)

@[simp] theorem qmod_regs : (qmod d q f).regs = d.regs := rfl
@[simp] theorem qmod_staged : (qmod d q f).staged = d.staged := rfl
@[simp] theorem qmod_pages : (qmod d q f).pages = d.pages := rfl
@[simp] theorem qmod_latches : (qmod d q f).latches = d.latches := rfl
@[simp] theorem qmod_flt : (qmod d q f).flt = d.flt := rfl
@[simp] theorem qmod_pwr : (qmod d q f).pwr = d.pwr := rfl
@[simp] theorem qmod_gaffer : (qmod d q f).gaffer = d.gaffer := rfl
@[simp] theorem qmod_subs : (qmod d q f).subs = d.subs := rfl
@[simp] theorem qmod_banks : (qmod d q f).banks = d.banks := rfl
@[simp] theorem qmod_dram : (qmod d q f).dram = d.dram := rfl
@[simp] theorem qmod_subFill : (qmod d q f).subFill = d.subFill := rfl
@[simp] theorem qmod_mapShare : (qmod d q f).mapShare = d.mapShare := rfl
@[simp] theorem qmod_dimm : (qmod d q f).dimm = d.dimm := rfl
@[simp] theorem qmod_ranges : (qmod d q f).ranges = d.ranges := rfl
@[simp] theorem qmod_slots : (qmod d q f).slots = d.slots := rfl
@[simp] theorem qmod_sweeps : (qmod d q f).sweeps = d.sweeps := rfl
@[simp] theorem qmod_rangeBusy : (qmod d q f).rangeBusy = d.rangeBusy := rfl
@[simp] theorem qmod_rangeResult : (qmod d q f).rangeResult = d.rangeResult := rfl
@[simp] theorem qmod_rangeLast : (qmod d q f).rangeLast = d.rangeLast := rfl
@[simp] theorem qmod_regions : (qmod d q f).regions = d.regions := rfl
@[simp] theorem qmod_linings : (qmod d q f).linings = d.linings := rfl
@[simp] theorem qmod_backed : (qmod d q f).backed = d.backed := rfl
@[simp] theorem qmod_regionBusy : (qmod d q f).regionBusy = d.regionBusy := rfl
@[simp] theorem qmod_regionResult : (qmod d q f).regionResult = d.regionResult := rfl
@[simp] theorem qmod_poison : (qmod d q f).poison = d.poison := rfl
@[simp] theorem qmod_poisonOverflow : (qmod d q f).poisonOverflow = d.poisonOverflow := rfl
@[simp] theorem qmod_poisonLost : (qmod d q f).poisonLost = d.poisonLost := rfl
@[simp] theorem qmod_ctxs : (qmod d q f).ctxs = d.ctxs := rfl
@[simp] theorem qmod_ctxBad : (qmod d q f).ctxBad = d.ctxBad := rfl
@[simp] theorem qmod_fbs : (qmod d q f).fbs = d.fbs := rfl
@[simp] theorem qmod_slateBusy : (qmod d q f).slateBusy = d.slateBusy := rfl
@[simp] theorem qmod_slateResult : (qmod d q f).slateResult = d.slateResult := rfl
@[simp] theorem qmod_reg : (qmod d q f).reg = d.reg := rfl
@[simp] theorem qmod_cap : (qmod d q f).cap = d.cap := rfl
@[simp] theorem qmod_marwen : (qmod d q f).marwen = d.marwen := rfl
@[simp] theorem qmod_ports : (qmod d q f).ports = d.ports := rfl
@[simp] theorem qmod_heads : (qmod d q f).heads = d.heads := rfl
@[simp] theorem qmod_bricks : (qmod d q f).bricks = d.bricks := rfl
@[simp] theorem qmod_mports : (qmod d q f).mports = d.mports := rfl
@[simp] theorem qmod_tags : (qmod d q f).tags = d.tags := rfl
@[simp] theorem qmod_grantee : (qmod d q f).grantee = d.grantee := rfl
@[simp] theorem qmod_mgt : (qmod d q f).mgt = d.mgt := rfl
@[simp] theorem qmod_ideKeys : (qmod d q f).ideKeys = d.ideKeys := rfl
@[simp] theorem qmod_mwKeys : (qmod d q f).mwKeys = d.mwKeys := rfl
@[simp] theorem qmod_keyRun : (qmod d q f).keyRun = d.keyRun := rfl
@[simp] theorem qmod_cal : (qmod d q f).cal = d.cal := rfl
@[simp] theorem qmod_daily : (qmod d q f).daily = d.daily := rfl
@[simp] theorem qmod_boot : (qmod d q f).boot = d.boot := rfl
@[simp] theorem qmod_profileWas : (qmod d q f).profileWas = d.profileWas := rfl
@[simp] theorem qmod_flash : (qmod d q f).flash = d.flash := rfl
@[simp] theorem qmod_supply : (qmod d q f).supply = d.supply := rfl
@[simp] theorem qmod_wdogSince : (qmod d q f).wdogSince = d.wdogSince := rfl
@[simp] theorem qmod_fwXfer : (qmod d q f).fwXfer = d.fwXfer := rfl
@[simp] theorem qmod_bootFlag : (qmod d q f).bootFlag = d.bootFlag := rfl
@[simp] theorem qmod_streams : (qmod d q f).streams = d.streams := rfl
@[simp] theorem qmod_waits : (qmod d q f).waits = d.waits := rfl
@[simp] theorem qmod_ioReads : (qmod d q f).ioReads = d.ioReads := rfl
@[simp] theorem qmod_nextId : (qmod d q f).nextId = d.nextId := rfl
@[simp] theorem qmod_react : (qmod d q f).react = d.react := rfl
@[simp] theorem qmod_out : (qmod d q f).out = d.out := rfl
@[simp] theorem qmod_freeCtr : (qmod d q f).freeCtr = d.freeCtr := rfl

end

/-! ## `umod` -/

section
variable (d : Dev) (u : Nat) (f : Sub → Sub)

@[simp] theorem umod_regs : (umod d u f).regs = d.regs := rfl
@[simp] theorem umod_staged : (umod d u f).staged = d.staged := rfl
@[simp] theorem umod_pages : (umod d u f).pages = d.pages := rfl
@[simp] theorem umod_latches : (umod d u f).latches = d.latches := rfl
@[simp] theorem umod_flt : (umod d u f).flt = d.flt := rfl
@[simp] theorem umod_pwr : (umod d u f).pwr = d.pwr := rfl
@[simp] theorem umod_gaffer : (umod d u f).gaffer = d.gaffer := rfl
@[simp] theorem umod_quads : (umod d u f).quads = d.quads := rfl
@[simp] theorem umod_banks : (umod d u f).banks = d.banks := rfl
@[simp] theorem umod_dram : (umod d u f).dram = d.dram := rfl
@[simp] theorem umod_subFill : (umod d u f).subFill = d.subFill := rfl
@[simp] theorem umod_mapShare : (umod d u f).mapShare = d.mapShare := rfl
@[simp] theorem umod_dimm : (umod d u f).dimm = d.dimm := rfl
@[simp] theorem umod_ranges : (umod d u f).ranges = d.ranges := rfl
@[simp] theorem umod_slots : (umod d u f).slots = d.slots := rfl
@[simp] theorem umod_sweeps : (umod d u f).sweeps = d.sweeps := rfl
@[simp] theorem umod_rangeBusy : (umod d u f).rangeBusy = d.rangeBusy := rfl
@[simp] theorem umod_rangeResult : (umod d u f).rangeResult = d.rangeResult := rfl
@[simp] theorem umod_rangeLast : (umod d u f).rangeLast = d.rangeLast := rfl
@[simp] theorem umod_regions : (umod d u f).regions = d.regions := rfl
@[simp] theorem umod_linings : (umod d u f).linings = d.linings := rfl
@[simp] theorem umod_backed : (umod d u f).backed = d.backed := rfl
@[simp] theorem umod_regionBusy : (umod d u f).regionBusy = d.regionBusy := rfl
@[simp] theorem umod_regionResult : (umod d u f).regionResult = d.regionResult := rfl
@[simp] theorem umod_poison : (umod d u f).poison = d.poison := rfl
@[simp] theorem umod_poisonOverflow : (umod d u f).poisonOverflow = d.poisonOverflow := rfl
@[simp] theorem umod_poisonLost : (umod d u f).poisonLost = d.poisonLost := rfl
@[simp] theorem umod_ctxs : (umod d u f).ctxs = d.ctxs := rfl
@[simp] theorem umod_ctxBad : (umod d u f).ctxBad = d.ctxBad := rfl
@[simp] theorem umod_fbs : (umod d u f).fbs = d.fbs := rfl
@[simp] theorem umod_slateBusy : (umod d u f).slateBusy = d.slateBusy := rfl
@[simp] theorem umod_slateResult : (umod d u f).slateResult = d.slateResult := rfl
@[simp] theorem umod_reg : (umod d u f).reg = d.reg := rfl
@[simp] theorem umod_cap : (umod d u f).cap = d.cap := rfl
@[simp] theorem umod_marwen : (umod d u f).marwen = d.marwen := rfl
@[simp] theorem umod_ports : (umod d u f).ports = d.ports := rfl
@[simp] theorem umod_heads : (umod d u f).heads = d.heads := rfl
@[simp] theorem umod_bricks : (umod d u f).bricks = d.bricks := rfl
@[simp] theorem umod_mports : (umod d u f).mports = d.mports := rfl
@[simp] theorem umod_tags : (umod d u f).tags = d.tags := rfl
@[simp] theorem umod_grantee : (umod d u f).grantee = d.grantee := rfl
@[simp] theorem umod_mgt : (umod d u f).mgt = d.mgt := rfl
@[simp] theorem umod_ideKeys : (umod d u f).ideKeys = d.ideKeys := rfl
@[simp] theorem umod_mwKeys : (umod d u f).mwKeys = d.mwKeys := rfl
@[simp] theorem umod_keyRun : (umod d u f).keyRun = d.keyRun := rfl
@[simp] theorem umod_cal : (umod d u f).cal = d.cal := rfl
@[simp] theorem umod_daily : (umod d u f).daily = d.daily := rfl
@[simp] theorem umod_boot : (umod d u f).boot = d.boot := rfl
@[simp] theorem umod_profileWas : (umod d u f).profileWas = d.profileWas := rfl
@[simp] theorem umod_flash : (umod d u f).flash = d.flash := rfl
@[simp] theorem umod_supply : (umod d u f).supply = d.supply := rfl
@[simp] theorem umod_wdogSince : (umod d u f).wdogSince = d.wdogSince := rfl
@[simp] theorem umod_fwXfer : (umod d u f).fwXfer = d.fwXfer := rfl
@[simp] theorem umod_bootFlag : (umod d u f).bootFlag = d.bootFlag := rfl
@[simp] theorem umod_streams : (umod d u f).streams = d.streams := rfl
@[simp] theorem umod_waits : (umod d u f).waits = d.waits := rfl
@[simp] theorem umod_ioReads : (umod d u f).ioReads = d.ioReads := rfl
@[simp] theorem umod_nextId : (umod d u f).nextId = d.nextId := rfl
@[simp] theorem umod_react : (umod d u f).react = d.react := rfl
@[simp] theorem umod_out : (umod d u f).out = d.out := rfl
@[simp] theorem umod_freeCtr : (umod d u f).freeCtr = d.freeCtr := rfl

end

/-! ## `portMod` -/

section
variable (d : Dev) (p : Nat) (f : HPort → HPort)

@[simp] theorem portMod_regs : (portMod d p f).regs = d.regs := rfl
@[simp] theorem portMod_staged : (portMod d p f).staged = d.staged := rfl
@[simp] theorem portMod_pages : (portMod d p f).pages = d.pages := rfl
@[simp] theorem portMod_latches : (portMod d p f).latches = d.latches := rfl
@[simp] theorem portMod_flt : (portMod d p f).flt = d.flt := rfl
@[simp] theorem portMod_pwr : (portMod d p f).pwr = d.pwr := rfl
@[simp] theorem portMod_gaffer : (portMod d p f).gaffer = d.gaffer := rfl
@[simp] theorem portMod_quads : (portMod d p f).quads = d.quads := rfl
@[simp] theorem portMod_subs : (portMod d p f).subs = d.subs := rfl
@[simp] theorem portMod_banks : (portMod d p f).banks = d.banks := rfl
@[simp] theorem portMod_dram : (portMod d p f).dram = d.dram := rfl
@[simp] theorem portMod_subFill : (portMod d p f).subFill = d.subFill := rfl
@[simp] theorem portMod_mapShare : (portMod d p f).mapShare = d.mapShare := rfl
@[simp] theorem portMod_dimm : (portMod d p f).dimm = d.dimm := rfl
@[simp] theorem portMod_ranges : (portMod d p f).ranges = d.ranges := rfl
@[simp] theorem portMod_slots : (portMod d p f).slots = d.slots := rfl
@[simp] theorem portMod_sweeps : (portMod d p f).sweeps = d.sweeps := rfl
@[simp] theorem portMod_rangeBusy : (portMod d p f).rangeBusy = d.rangeBusy := rfl
@[simp] theorem portMod_rangeResult : (portMod d p f).rangeResult = d.rangeResult := rfl
@[simp] theorem portMod_rangeLast : (portMod d p f).rangeLast = d.rangeLast := rfl
@[simp] theorem portMod_regions : (portMod d p f).regions = d.regions := rfl
@[simp] theorem portMod_linings : (portMod d p f).linings = d.linings := rfl
@[simp] theorem portMod_backed : (portMod d p f).backed = d.backed := rfl
@[simp] theorem portMod_regionBusy : (portMod d p f).regionBusy = d.regionBusy := rfl
@[simp] theorem portMod_regionResult : (portMod d p f).regionResult = d.regionResult := rfl
@[simp] theorem portMod_poison : (portMod d p f).poison = d.poison := rfl
@[simp] theorem portMod_poisonOverflow : (portMod d p f).poisonOverflow = d.poisonOverflow := rfl
@[simp] theorem portMod_poisonLost : (portMod d p f).poisonLost = d.poisonLost := rfl
@[simp] theorem portMod_ctxs : (portMod d p f).ctxs = d.ctxs := rfl
@[simp] theorem portMod_ctxBad : (portMod d p f).ctxBad = d.ctxBad := rfl
@[simp] theorem portMod_fbs : (portMod d p f).fbs = d.fbs := rfl
@[simp] theorem portMod_slateBusy : (portMod d p f).slateBusy = d.slateBusy := rfl
@[simp] theorem portMod_slateResult : (portMod d p f).slateResult = d.slateResult := rfl
@[simp] theorem portMod_reg : (portMod d p f).reg = d.reg := rfl
@[simp] theorem portMod_cap : (portMod d p f).cap = d.cap := rfl
@[simp] theorem portMod_marwen : (portMod d p f).marwen = d.marwen := rfl
@[simp] theorem portMod_heads : (portMod d p f).heads = d.heads := rfl
@[simp] theorem portMod_bricks : (portMod d p f).bricks = d.bricks := rfl
@[simp] theorem portMod_mports : (portMod d p f).mports = d.mports := rfl
@[simp] theorem portMod_tags : (portMod d p f).tags = d.tags := rfl
@[simp] theorem portMod_grantee : (portMod d p f).grantee = d.grantee := rfl
@[simp] theorem portMod_mgt : (portMod d p f).mgt = d.mgt := rfl
@[simp] theorem portMod_ideKeys : (portMod d p f).ideKeys = d.ideKeys := rfl
@[simp] theorem portMod_mwKeys : (portMod d p f).mwKeys = d.mwKeys := rfl
@[simp] theorem portMod_keyRun : (portMod d p f).keyRun = d.keyRun := rfl
@[simp] theorem portMod_cal : (portMod d p f).cal = d.cal := rfl
@[simp] theorem portMod_daily : (portMod d p f).daily = d.daily := rfl
@[simp] theorem portMod_boot : (portMod d p f).boot = d.boot := rfl
@[simp] theorem portMod_profileWas : (portMod d p f).profileWas = d.profileWas := rfl
@[simp] theorem portMod_flash : (portMod d p f).flash = d.flash := rfl
@[simp] theorem portMod_supply : (portMod d p f).supply = d.supply := rfl
@[simp] theorem portMod_wdogSince : (portMod d p f).wdogSince = d.wdogSince := rfl
@[simp] theorem portMod_fwXfer : (portMod d p f).fwXfer = d.fwXfer := rfl
@[simp] theorem portMod_bootFlag : (portMod d p f).bootFlag = d.bootFlag := rfl
@[simp] theorem portMod_streams : (portMod d p f).streams = d.streams := rfl
@[simp] theorem portMod_waits : (portMod d p f).waits = d.waits := rfl
@[simp] theorem portMod_ioReads : (portMod d p f).ioReads = d.ioReads := rfl
@[simp] theorem portMod_nextId : (portMod d p f).nextId = d.nextId := rfl
@[simp] theorem portMod_react : (portMod d p f).react = d.react := rfl
@[simp] theorem portMod_out : (portMod d p f).out = d.out := rfl
@[simp] theorem portMod_freeCtr : (portMod d p f).freeCtr = d.freeCtr := rfl

end

/-! ## `mportMod` -/

section
variable (d : Dev) (b : Nat) (f : MPort → MPort)

@[simp] theorem mportMod_regs : (mportMod d b f).regs = d.regs := rfl
@[simp] theorem mportMod_staged : (mportMod d b f).staged = d.staged := rfl
@[simp] theorem mportMod_pages : (mportMod d b f).pages = d.pages := rfl
@[simp] theorem mportMod_latches : (mportMod d b f).latches = d.latches := rfl
@[simp] theorem mportMod_flt : (mportMod d b f).flt = d.flt := rfl
@[simp] theorem mportMod_pwr : (mportMod d b f).pwr = d.pwr := rfl
@[simp] theorem mportMod_gaffer : (mportMod d b f).gaffer = d.gaffer := rfl
@[simp] theorem mportMod_quads : (mportMod d b f).quads = d.quads := rfl
@[simp] theorem mportMod_subs : (mportMod d b f).subs = d.subs := rfl
@[simp] theorem mportMod_banks : (mportMod d b f).banks = d.banks := rfl
@[simp] theorem mportMod_dram : (mportMod d b f).dram = d.dram := rfl
@[simp] theorem mportMod_subFill : (mportMod d b f).subFill = d.subFill := rfl
@[simp] theorem mportMod_mapShare : (mportMod d b f).mapShare = d.mapShare := rfl
@[simp] theorem mportMod_dimm : (mportMod d b f).dimm = d.dimm := rfl
@[simp] theorem mportMod_ranges : (mportMod d b f).ranges = d.ranges := rfl
@[simp] theorem mportMod_slots : (mportMod d b f).slots = d.slots := rfl
@[simp] theorem mportMod_sweeps : (mportMod d b f).sweeps = d.sweeps := rfl
@[simp] theorem mportMod_rangeBusy : (mportMod d b f).rangeBusy = d.rangeBusy := rfl
@[simp] theorem mportMod_rangeResult : (mportMod d b f).rangeResult = d.rangeResult := rfl
@[simp] theorem mportMod_rangeLast : (mportMod d b f).rangeLast = d.rangeLast := rfl
@[simp] theorem mportMod_regions : (mportMod d b f).regions = d.regions := rfl
@[simp] theorem mportMod_linings : (mportMod d b f).linings = d.linings := rfl
@[simp] theorem mportMod_backed : (mportMod d b f).backed = d.backed := rfl
@[simp] theorem mportMod_regionBusy : (mportMod d b f).regionBusy = d.regionBusy := rfl
@[simp] theorem mportMod_regionResult : (mportMod d b f).regionResult = d.regionResult := rfl
@[simp] theorem mportMod_poison : (mportMod d b f).poison = d.poison := rfl
@[simp] theorem mportMod_poisonOverflow : (mportMod d b f).poisonOverflow = d.poisonOverflow := rfl
@[simp] theorem mportMod_poisonLost : (mportMod d b f).poisonLost = d.poisonLost := rfl
@[simp] theorem mportMod_ctxs : (mportMod d b f).ctxs = d.ctxs := rfl
@[simp] theorem mportMod_ctxBad : (mportMod d b f).ctxBad = d.ctxBad := rfl
@[simp] theorem mportMod_fbs : (mportMod d b f).fbs = d.fbs := rfl
@[simp] theorem mportMod_slateBusy : (mportMod d b f).slateBusy = d.slateBusy := rfl
@[simp] theorem mportMod_slateResult : (mportMod d b f).slateResult = d.slateResult := rfl
@[simp] theorem mportMod_reg : (mportMod d b f).reg = d.reg := rfl
@[simp] theorem mportMod_cap : (mportMod d b f).cap = d.cap := rfl
@[simp] theorem mportMod_marwen : (mportMod d b f).marwen = d.marwen := rfl
@[simp] theorem mportMod_ports : (mportMod d b f).ports = d.ports := rfl
@[simp] theorem mportMod_heads : (mportMod d b f).heads = d.heads := rfl
@[simp] theorem mportMod_bricks : (mportMod d b f).bricks = d.bricks := rfl
@[simp] theorem mportMod_tags : (mportMod d b f).tags = d.tags := rfl
@[simp] theorem mportMod_grantee : (mportMod d b f).grantee = d.grantee := rfl
@[simp] theorem mportMod_mgt : (mportMod d b f).mgt = d.mgt := rfl
@[simp] theorem mportMod_ideKeys : (mportMod d b f).ideKeys = d.ideKeys := rfl
@[simp] theorem mportMod_mwKeys : (mportMod d b f).mwKeys = d.mwKeys := rfl
@[simp] theorem mportMod_keyRun : (mportMod d b f).keyRun = d.keyRun := rfl
@[simp] theorem mportMod_cal : (mportMod d b f).cal = d.cal := rfl
@[simp] theorem mportMod_daily : (mportMod d b f).daily = d.daily := rfl
@[simp] theorem mportMod_boot : (mportMod d b f).boot = d.boot := rfl
@[simp] theorem mportMod_profileWas : (mportMod d b f).profileWas = d.profileWas := rfl
@[simp] theorem mportMod_flash : (mportMod d b f).flash = d.flash := rfl
@[simp] theorem mportMod_supply : (mportMod d b f).supply = d.supply := rfl
@[simp] theorem mportMod_wdogSince : (mportMod d b f).wdogSince = d.wdogSince := rfl
@[simp] theorem mportMod_fwXfer : (mportMod d b f).fwXfer = d.fwXfer := rfl
@[simp] theorem mportMod_bootFlag : (mportMod d b f).bootFlag = d.bootFlag := rfl
@[simp] theorem mportMod_streams : (mportMod d b f).streams = d.streams := rfl
@[simp] theorem mportMod_waits : (mportMod d b f).waits = d.waits := rfl
@[simp] theorem mportMod_ioReads : (mportMod d b f).ioReads = d.ioReads := rfl
@[simp] theorem mportMod_nextId : (mportMod d b f).nextId = d.nextId := rfl
@[simp] theorem mportMod_react : (mportMod d b f).react = d.react := rfl
@[simp] theorem mportMod_out : (mportMod d b f).out = d.out := rfl
@[simp] theorem mportMod_freeCtr : (mportMod d b f).freeCtr = d.freeCtr := rfl

end

/-! ## `brickMod` -/

section
variable (d : Dev) (b : Nat) (f : Brick → Brick)

@[simp] theorem brickMod_regs : (brickMod d b f).regs = d.regs := rfl
@[simp] theorem brickMod_staged : (brickMod d b f).staged = d.staged := rfl
@[simp] theorem brickMod_pages : (brickMod d b f).pages = d.pages := rfl
@[simp] theorem brickMod_latches : (brickMod d b f).latches = d.latches := rfl
@[simp] theorem brickMod_flt : (brickMod d b f).flt = d.flt := rfl
@[simp] theorem brickMod_pwr : (brickMod d b f).pwr = d.pwr := rfl
@[simp] theorem brickMod_gaffer : (brickMod d b f).gaffer = d.gaffer := rfl
@[simp] theorem brickMod_quads : (brickMod d b f).quads = d.quads := rfl
@[simp] theorem brickMod_subs : (brickMod d b f).subs = d.subs := rfl
@[simp] theorem brickMod_banks : (brickMod d b f).banks = d.banks := rfl
@[simp] theorem brickMod_dram : (brickMod d b f).dram = d.dram := rfl
@[simp] theorem brickMod_subFill : (brickMod d b f).subFill = d.subFill := rfl
@[simp] theorem brickMod_mapShare : (brickMod d b f).mapShare = d.mapShare := rfl
@[simp] theorem brickMod_dimm : (brickMod d b f).dimm = d.dimm := rfl
@[simp] theorem brickMod_ranges : (brickMod d b f).ranges = d.ranges := rfl
@[simp] theorem brickMod_slots : (brickMod d b f).slots = d.slots := rfl
@[simp] theorem brickMod_sweeps : (brickMod d b f).sweeps = d.sweeps := rfl
@[simp] theorem brickMod_rangeBusy : (brickMod d b f).rangeBusy = d.rangeBusy := rfl
@[simp] theorem brickMod_rangeResult : (brickMod d b f).rangeResult = d.rangeResult := rfl
@[simp] theorem brickMod_rangeLast : (brickMod d b f).rangeLast = d.rangeLast := rfl
@[simp] theorem brickMod_regions : (brickMod d b f).regions = d.regions := rfl
@[simp] theorem brickMod_linings : (brickMod d b f).linings = d.linings := rfl
@[simp] theorem brickMod_backed : (brickMod d b f).backed = d.backed := rfl
@[simp] theorem brickMod_regionBusy : (brickMod d b f).regionBusy = d.regionBusy := rfl
@[simp] theorem brickMod_regionResult : (brickMod d b f).regionResult = d.regionResult := rfl
@[simp] theorem brickMod_poison : (brickMod d b f).poison = d.poison := rfl
@[simp] theorem brickMod_poisonOverflow : (brickMod d b f).poisonOverflow = d.poisonOverflow := rfl
@[simp] theorem brickMod_poisonLost : (brickMod d b f).poisonLost = d.poisonLost := rfl
@[simp] theorem brickMod_ctxs : (brickMod d b f).ctxs = d.ctxs := rfl
@[simp] theorem brickMod_ctxBad : (brickMod d b f).ctxBad = d.ctxBad := rfl
@[simp] theorem brickMod_fbs : (brickMod d b f).fbs = d.fbs := rfl
@[simp] theorem brickMod_slateBusy : (brickMod d b f).slateBusy = d.slateBusy := rfl
@[simp] theorem brickMod_slateResult : (brickMod d b f).slateResult = d.slateResult := rfl
@[simp] theorem brickMod_reg : (brickMod d b f).reg = d.reg := rfl
@[simp] theorem brickMod_cap : (brickMod d b f).cap = d.cap := rfl
@[simp] theorem brickMod_marwen : (brickMod d b f).marwen = d.marwen := rfl
@[simp] theorem brickMod_ports : (brickMod d b f).ports = d.ports := rfl
@[simp] theorem brickMod_heads : (brickMod d b f).heads = d.heads := rfl
@[simp] theorem brickMod_mports : (brickMod d b f).mports = d.mports := rfl
@[simp] theorem brickMod_tags : (brickMod d b f).tags = d.tags := rfl
@[simp] theorem brickMod_grantee : (brickMod d b f).grantee = d.grantee := rfl
@[simp] theorem brickMod_mgt : (brickMod d b f).mgt = d.mgt := rfl
@[simp] theorem brickMod_ideKeys : (brickMod d b f).ideKeys = d.ideKeys := rfl
@[simp] theorem brickMod_mwKeys : (brickMod d b f).mwKeys = d.mwKeys := rfl
@[simp] theorem brickMod_keyRun : (brickMod d b f).keyRun = d.keyRun := rfl
@[simp] theorem brickMod_cal : (brickMod d b f).cal = d.cal := rfl
@[simp] theorem brickMod_daily : (brickMod d b f).daily = d.daily := rfl
@[simp] theorem brickMod_boot : (brickMod d b f).boot = d.boot := rfl
@[simp] theorem brickMod_profileWas : (brickMod d b f).profileWas = d.profileWas := rfl
@[simp] theorem brickMod_flash : (brickMod d b f).flash = d.flash := rfl
@[simp] theorem brickMod_supply : (brickMod d b f).supply = d.supply := rfl
@[simp] theorem brickMod_wdogSince : (brickMod d b f).wdogSince = d.wdogSince := rfl
@[simp] theorem brickMod_fwXfer : (brickMod d b f).fwXfer = d.fwXfer := rfl
@[simp] theorem brickMod_bootFlag : (brickMod d b f).bootFlag = d.bootFlag := rfl
@[simp] theorem brickMod_streams : (brickMod d b f).streams = d.streams := rfl
@[simp] theorem brickMod_waits : (brickMod d b f).waits = d.waits := rfl
@[simp] theorem brickMod_ioReads : (brickMod d b f).ioReads = d.ioReads := rfl
@[simp] theorem brickMod_nextId : (brickMod d b f).nextId = d.nextId := rfl
@[simp] theorem brickMod_react : (brickMod d b f).react = d.react := rfl
@[simp] theorem brickMod_out : (brickMod d b f).out = d.out := rfl
@[simp] theorem brickMod_freeCtr : (brickMod d b f).freeCtr = d.freeCtr := rfl

end

/-! ## `headMod` -/

section
variable (d : Dev) (p : Nat) (f : Head → Head)

@[simp] theorem headMod_regs : (headMod d p f).regs = d.regs := rfl
@[simp] theorem headMod_staged : (headMod d p f).staged = d.staged := rfl
@[simp] theorem headMod_pages : (headMod d p f).pages = d.pages := rfl
@[simp] theorem headMod_latches : (headMod d p f).latches = d.latches := rfl
@[simp] theorem headMod_flt : (headMod d p f).flt = d.flt := rfl
@[simp] theorem headMod_pwr : (headMod d p f).pwr = d.pwr := rfl
@[simp] theorem headMod_gaffer : (headMod d p f).gaffer = d.gaffer := rfl
@[simp] theorem headMod_quads : (headMod d p f).quads = d.quads := rfl
@[simp] theorem headMod_subs : (headMod d p f).subs = d.subs := rfl
@[simp] theorem headMod_banks : (headMod d p f).banks = d.banks := rfl
@[simp] theorem headMod_dram : (headMod d p f).dram = d.dram := rfl
@[simp] theorem headMod_subFill : (headMod d p f).subFill = d.subFill := rfl
@[simp] theorem headMod_mapShare : (headMod d p f).mapShare = d.mapShare := rfl
@[simp] theorem headMod_dimm : (headMod d p f).dimm = d.dimm := rfl
@[simp] theorem headMod_ranges : (headMod d p f).ranges = d.ranges := rfl
@[simp] theorem headMod_slots : (headMod d p f).slots = d.slots := rfl
@[simp] theorem headMod_sweeps : (headMod d p f).sweeps = d.sweeps := rfl
@[simp] theorem headMod_rangeBusy : (headMod d p f).rangeBusy = d.rangeBusy := rfl
@[simp] theorem headMod_rangeResult : (headMod d p f).rangeResult = d.rangeResult := rfl
@[simp] theorem headMod_rangeLast : (headMod d p f).rangeLast = d.rangeLast := rfl
@[simp] theorem headMod_regions : (headMod d p f).regions = d.regions := rfl
@[simp] theorem headMod_linings : (headMod d p f).linings = d.linings := rfl
@[simp] theorem headMod_backed : (headMod d p f).backed = d.backed := rfl
@[simp] theorem headMod_regionBusy : (headMod d p f).regionBusy = d.regionBusy := rfl
@[simp] theorem headMod_regionResult : (headMod d p f).regionResult = d.regionResult := rfl
@[simp] theorem headMod_poison : (headMod d p f).poison = d.poison := rfl
@[simp] theorem headMod_poisonOverflow : (headMod d p f).poisonOverflow = d.poisonOverflow := rfl
@[simp] theorem headMod_poisonLost : (headMod d p f).poisonLost = d.poisonLost := rfl
@[simp] theorem headMod_ctxs : (headMod d p f).ctxs = d.ctxs := rfl
@[simp] theorem headMod_ctxBad : (headMod d p f).ctxBad = d.ctxBad := rfl
@[simp] theorem headMod_fbs : (headMod d p f).fbs = d.fbs := rfl
@[simp] theorem headMod_slateBusy : (headMod d p f).slateBusy = d.slateBusy := rfl
@[simp] theorem headMod_slateResult : (headMod d p f).slateResult = d.slateResult := rfl
@[simp] theorem headMod_reg : (headMod d p f).reg = d.reg := rfl
@[simp] theorem headMod_cap : (headMod d p f).cap = d.cap := rfl
@[simp] theorem headMod_marwen : (headMod d p f).marwen = d.marwen := rfl
@[simp] theorem headMod_ports : (headMod d p f).ports = d.ports := rfl
@[simp] theorem headMod_bricks : (headMod d p f).bricks = d.bricks := rfl
@[simp] theorem headMod_mports : (headMod d p f).mports = d.mports := rfl
@[simp] theorem headMod_tags : (headMod d p f).tags = d.tags := rfl
@[simp] theorem headMod_grantee : (headMod d p f).grantee = d.grantee := rfl
@[simp] theorem headMod_mgt : (headMod d p f).mgt = d.mgt := rfl
@[simp] theorem headMod_ideKeys : (headMod d p f).ideKeys = d.ideKeys := rfl
@[simp] theorem headMod_mwKeys : (headMod d p f).mwKeys = d.mwKeys := rfl
@[simp] theorem headMod_keyRun : (headMod d p f).keyRun = d.keyRun := rfl
@[simp] theorem headMod_cal : (headMod d p f).cal = d.cal := rfl
@[simp] theorem headMod_daily : (headMod d p f).daily = d.daily := rfl
@[simp] theorem headMod_boot : (headMod d p f).boot = d.boot := rfl
@[simp] theorem headMod_profileWas : (headMod d p f).profileWas = d.profileWas := rfl
@[simp] theorem headMod_flash : (headMod d p f).flash = d.flash := rfl
@[simp] theorem headMod_supply : (headMod d p f).supply = d.supply := rfl
@[simp] theorem headMod_wdogSince : (headMod d p f).wdogSince = d.wdogSince := rfl
@[simp] theorem headMod_fwXfer : (headMod d p f).fwXfer = d.fwXfer := rfl
@[simp] theorem headMod_bootFlag : (headMod d p f).bootFlag = d.bootFlag := rfl
@[simp] theorem headMod_streams : (headMod d p f).streams = d.streams := rfl
@[simp] theorem headMod_waits : (headMod d p f).waits = d.waits := rfl
@[simp] theorem headMod_ioReads : (headMod d p f).ioReads = d.ioReads := rfl
@[simp] theorem headMod_nextId : (headMod d p f).nextId = d.nextId := rfl
@[simp] theorem headMod_react : (headMod d p f).react = d.react := rfl
@[simp] theorem headMod_out : (headMod d p f).out = d.out := rfl
@[simp] theorem headMod_freeCtr : (headMod d p f).freeCtr = d.freeCtr := rfl

end

/-! ## `rangeMod` -/

section
variable (d : Dev) (r : Nat) (f : Range → Range)

@[simp] theorem rangeMod_regs : (rangeMod d r f).regs = d.regs := rfl
@[simp] theorem rangeMod_staged : (rangeMod d r f).staged = d.staged := rfl
@[simp] theorem rangeMod_pages : (rangeMod d r f).pages = d.pages := rfl
@[simp] theorem rangeMod_latches : (rangeMod d r f).latches = d.latches := rfl
@[simp] theorem rangeMod_flt : (rangeMod d r f).flt = d.flt := rfl
@[simp] theorem rangeMod_pwr : (rangeMod d r f).pwr = d.pwr := rfl
@[simp] theorem rangeMod_gaffer : (rangeMod d r f).gaffer = d.gaffer := rfl
@[simp] theorem rangeMod_quads : (rangeMod d r f).quads = d.quads := rfl
@[simp] theorem rangeMod_subs : (rangeMod d r f).subs = d.subs := rfl
@[simp] theorem rangeMod_banks : (rangeMod d r f).banks = d.banks := rfl
@[simp] theorem rangeMod_dram : (rangeMod d r f).dram = d.dram := rfl
@[simp] theorem rangeMod_subFill : (rangeMod d r f).subFill = d.subFill := rfl
@[simp] theorem rangeMod_mapShare : (rangeMod d r f).mapShare = d.mapShare := rfl
@[simp] theorem rangeMod_dimm : (rangeMod d r f).dimm = d.dimm := rfl
@[simp] theorem rangeMod_slots : (rangeMod d r f).slots = d.slots := rfl
@[simp] theorem rangeMod_sweeps : (rangeMod d r f).sweeps = d.sweeps := rfl
@[simp] theorem rangeMod_rangeBusy : (rangeMod d r f).rangeBusy = d.rangeBusy := rfl
@[simp] theorem rangeMod_rangeResult : (rangeMod d r f).rangeResult = d.rangeResult := rfl
@[simp] theorem rangeMod_rangeLast : (rangeMod d r f).rangeLast = d.rangeLast := rfl
@[simp] theorem rangeMod_regions : (rangeMod d r f).regions = d.regions := rfl
@[simp] theorem rangeMod_linings : (rangeMod d r f).linings = d.linings := rfl
@[simp] theorem rangeMod_backed : (rangeMod d r f).backed = d.backed := rfl
@[simp] theorem rangeMod_regionBusy : (rangeMod d r f).regionBusy = d.regionBusy := rfl
@[simp] theorem rangeMod_regionResult : (rangeMod d r f).regionResult = d.regionResult := rfl
@[simp] theorem rangeMod_poison : (rangeMod d r f).poison = d.poison := rfl
@[simp] theorem rangeMod_poisonOverflow : (rangeMod d r f).poisonOverflow = d.poisonOverflow := rfl
@[simp] theorem rangeMod_poisonLost : (rangeMod d r f).poisonLost = d.poisonLost := rfl
@[simp] theorem rangeMod_ctxs : (rangeMod d r f).ctxs = d.ctxs := rfl
@[simp] theorem rangeMod_ctxBad : (rangeMod d r f).ctxBad = d.ctxBad := rfl
@[simp] theorem rangeMod_fbs : (rangeMod d r f).fbs = d.fbs := rfl
@[simp] theorem rangeMod_slateBusy : (rangeMod d r f).slateBusy = d.slateBusy := rfl
@[simp] theorem rangeMod_slateResult : (rangeMod d r f).slateResult = d.slateResult := rfl
@[simp] theorem rangeMod_reg : (rangeMod d r f).reg = d.reg := rfl
@[simp] theorem rangeMod_cap : (rangeMod d r f).cap = d.cap := rfl
@[simp] theorem rangeMod_marwen : (rangeMod d r f).marwen = d.marwen := rfl
@[simp] theorem rangeMod_ports : (rangeMod d r f).ports = d.ports := rfl
@[simp] theorem rangeMod_heads : (rangeMod d r f).heads = d.heads := rfl
@[simp] theorem rangeMod_bricks : (rangeMod d r f).bricks = d.bricks := rfl
@[simp] theorem rangeMod_mports : (rangeMod d r f).mports = d.mports := rfl
@[simp] theorem rangeMod_tags : (rangeMod d r f).tags = d.tags := rfl
@[simp] theorem rangeMod_grantee : (rangeMod d r f).grantee = d.grantee := rfl
@[simp] theorem rangeMod_mgt : (rangeMod d r f).mgt = d.mgt := rfl
@[simp] theorem rangeMod_ideKeys : (rangeMod d r f).ideKeys = d.ideKeys := rfl
@[simp] theorem rangeMod_mwKeys : (rangeMod d r f).mwKeys = d.mwKeys := rfl
@[simp] theorem rangeMod_keyRun : (rangeMod d r f).keyRun = d.keyRun := rfl
@[simp] theorem rangeMod_cal : (rangeMod d r f).cal = d.cal := rfl
@[simp] theorem rangeMod_daily : (rangeMod d r f).daily = d.daily := rfl
@[simp] theorem rangeMod_boot : (rangeMod d r f).boot = d.boot := rfl
@[simp] theorem rangeMod_profileWas : (rangeMod d r f).profileWas = d.profileWas := rfl
@[simp] theorem rangeMod_flash : (rangeMod d r f).flash = d.flash := rfl
@[simp] theorem rangeMod_supply : (rangeMod d r f).supply = d.supply := rfl
@[simp] theorem rangeMod_wdogSince : (rangeMod d r f).wdogSince = d.wdogSince := rfl
@[simp] theorem rangeMod_fwXfer : (rangeMod d r f).fwXfer = d.fwXfer := rfl
@[simp] theorem rangeMod_bootFlag : (rangeMod d r f).bootFlag = d.bootFlag := rfl
@[simp] theorem rangeMod_streams : (rangeMod d r f).streams = d.streams := rfl
@[simp] theorem rangeMod_waits : (rangeMod d r f).waits = d.waits := rfl
@[simp] theorem rangeMod_ioReads : (rangeMod d r f).ioReads = d.ioReads := rfl
@[simp] theorem rangeMod_nextId : (rangeMod d r f).nextId = d.nextId := rfl
@[simp] theorem rangeMod_react : (rangeMod d r f).react = d.react := rfl
@[simp] theorem rangeMod_out : (rangeMod d r f).out = d.out := rfl
@[simp] theorem rangeMod_freeCtr : (rangeMod d r f).freeCtr = d.freeCtr := rfl

end

/-! ## `dramPut` -/

section
variable (d : Dev) (loc : Nat) (w : Stored)

@[simp] theorem dramPut_regs : (dramPut d loc w).regs = d.regs := rfl
@[simp] theorem dramPut_staged : (dramPut d loc w).staged = d.staged := rfl
@[simp] theorem dramPut_pages : (dramPut d loc w).pages = d.pages := rfl
@[simp] theorem dramPut_latches : (dramPut d loc w).latches = d.latches := rfl
@[simp] theorem dramPut_flt : (dramPut d loc w).flt = d.flt := rfl
@[simp] theorem dramPut_pwr : (dramPut d loc w).pwr = d.pwr := rfl
@[simp] theorem dramPut_gaffer : (dramPut d loc w).gaffer = d.gaffer := rfl
@[simp] theorem dramPut_quads : (dramPut d loc w).quads = d.quads := rfl
@[simp] theorem dramPut_subs : (dramPut d loc w).subs = d.subs := rfl
@[simp] theorem dramPut_banks : (dramPut d loc w).banks = d.banks := rfl
@[simp] theorem dramPut_subFill : (dramPut d loc w).subFill = d.subFill := rfl
@[simp] theorem dramPut_mapShare : (dramPut d loc w).mapShare = d.mapShare := rfl
@[simp] theorem dramPut_dimm : (dramPut d loc w).dimm = d.dimm := rfl
@[simp] theorem dramPut_ranges : (dramPut d loc w).ranges = d.ranges := rfl
@[simp] theorem dramPut_slots : (dramPut d loc w).slots = d.slots := rfl
@[simp] theorem dramPut_sweeps : (dramPut d loc w).sweeps = d.sweeps := rfl
@[simp] theorem dramPut_rangeBusy : (dramPut d loc w).rangeBusy = d.rangeBusy := rfl
@[simp] theorem dramPut_rangeResult : (dramPut d loc w).rangeResult = d.rangeResult := rfl
@[simp] theorem dramPut_rangeLast : (dramPut d loc w).rangeLast = d.rangeLast := rfl
@[simp] theorem dramPut_regions : (dramPut d loc w).regions = d.regions := rfl
@[simp] theorem dramPut_linings : (dramPut d loc w).linings = d.linings := rfl
@[simp] theorem dramPut_backed : (dramPut d loc w).backed = d.backed := rfl
@[simp] theorem dramPut_regionBusy : (dramPut d loc w).regionBusy = d.regionBusy := rfl
@[simp] theorem dramPut_regionResult : (dramPut d loc w).regionResult = d.regionResult := rfl
@[simp] theorem dramPut_poison : (dramPut d loc w).poison = d.poison := rfl
@[simp] theorem dramPut_poisonOverflow : (dramPut d loc w).poisonOverflow = d.poisonOverflow := rfl
@[simp] theorem dramPut_poisonLost : (dramPut d loc w).poisonLost = d.poisonLost := rfl
@[simp] theorem dramPut_ctxs : (dramPut d loc w).ctxs = d.ctxs := rfl
@[simp] theorem dramPut_ctxBad : (dramPut d loc w).ctxBad = d.ctxBad := rfl
@[simp] theorem dramPut_fbs : (dramPut d loc w).fbs = d.fbs := rfl
@[simp] theorem dramPut_slateBusy : (dramPut d loc w).slateBusy = d.slateBusy := rfl
@[simp] theorem dramPut_slateResult : (dramPut d loc w).slateResult = d.slateResult := rfl
@[simp] theorem dramPut_reg : (dramPut d loc w).reg = d.reg := rfl
@[simp] theorem dramPut_cap : (dramPut d loc w).cap = d.cap := rfl
@[simp] theorem dramPut_marwen : (dramPut d loc w).marwen = d.marwen := rfl
@[simp] theorem dramPut_ports : (dramPut d loc w).ports = d.ports := rfl
@[simp] theorem dramPut_heads : (dramPut d loc w).heads = d.heads := rfl
@[simp] theorem dramPut_bricks : (dramPut d loc w).bricks = d.bricks := rfl
@[simp] theorem dramPut_mports : (dramPut d loc w).mports = d.mports := rfl
@[simp] theorem dramPut_tags : (dramPut d loc w).tags = d.tags := rfl
@[simp] theorem dramPut_grantee : (dramPut d loc w).grantee = d.grantee := rfl
@[simp] theorem dramPut_mgt : (dramPut d loc w).mgt = d.mgt := rfl
@[simp] theorem dramPut_ideKeys : (dramPut d loc w).ideKeys = d.ideKeys := rfl
@[simp] theorem dramPut_mwKeys : (dramPut d loc w).mwKeys = d.mwKeys := rfl
@[simp] theorem dramPut_keyRun : (dramPut d loc w).keyRun = d.keyRun := rfl
@[simp] theorem dramPut_cal : (dramPut d loc w).cal = d.cal := rfl
@[simp] theorem dramPut_daily : (dramPut d loc w).daily = d.daily := rfl
@[simp] theorem dramPut_boot : (dramPut d loc w).boot = d.boot := rfl
@[simp] theorem dramPut_profileWas : (dramPut d loc w).profileWas = d.profileWas := rfl
@[simp] theorem dramPut_flash : (dramPut d loc w).flash = d.flash := rfl
@[simp] theorem dramPut_supply : (dramPut d loc w).supply = d.supply := rfl
@[simp] theorem dramPut_wdogSince : (dramPut d loc w).wdogSince = d.wdogSince := rfl
@[simp] theorem dramPut_fwXfer : (dramPut d loc w).fwXfer = d.fwXfer := rfl
@[simp] theorem dramPut_bootFlag : (dramPut d loc w).bootFlag = d.bootFlag := rfl
@[simp] theorem dramPut_streams : (dramPut d loc w).streams = d.streams := rfl
@[simp] theorem dramPut_waits : (dramPut d loc w).waits = d.waits := rfl
@[simp] theorem dramPut_ioReads : (dramPut d loc w).ioReads = d.ioReads := rfl
@[simp] theorem dramPut_nextId : (dramPut d loc w).nextId = d.nextId := rfl
@[simp] theorem dramPut_react : (dramPut d loc w).react = d.react := rfl
@[simp] theorem dramPut_out : (dramPut d loc w).out = d.out := rfl
@[simp] theorem dramPut_freeCtr : (dramPut d loc w).freeCtr = d.freeCtr := rfl

end

/-! ## `send` -/

section
variable (d : Dev) (o : Out)

@[simp] theorem send_regs : (send d o).regs = d.regs := rfl
@[simp] theorem send_staged : (send d o).staged = d.staged := rfl
@[simp] theorem send_pages : (send d o).pages = d.pages := rfl
@[simp] theorem send_latches : (send d o).latches = d.latches := rfl
@[simp] theorem send_flt : (send d o).flt = d.flt := rfl
@[simp] theorem send_pwr : (send d o).pwr = d.pwr := rfl
@[simp] theorem send_gaffer : (send d o).gaffer = d.gaffer := rfl
@[simp] theorem send_quads : (send d o).quads = d.quads := rfl
@[simp] theorem send_subs : (send d o).subs = d.subs := rfl
@[simp] theorem send_banks : (send d o).banks = d.banks := rfl
@[simp] theorem send_dram : (send d o).dram = d.dram := rfl
@[simp] theorem send_subFill : (send d o).subFill = d.subFill := rfl
@[simp] theorem send_mapShare : (send d o).mapShare = d.mapShare := rfl
@[simp] theorem send_dimm : (send d o).dimm = d.dimm := rfl
@[simp] theorem send_ranges : (send d o).ranges = d.ranges := rfl
@[simp] theorem send_slots : (send d o).slots = d.slots := rfl
@[simp] theorem send_sweeps : (send d o).sweeps = d.sweeps := rfl
@[simp] theorem send_rangeBusy : (send d o).rangeBusy = d.rangeBusy := rfl
@[simp] theorem send_rangeResult : (send d o).rangeResult = d.rangeResult := rfl
@[simp] theorem send_rangeLast : (send d o).rangeLast = d.rangeLast := rfl
@[simp] theorem send_regions : (send d o).regions = d.regions := rfl
@[simp] theorem send_linings : (send d o).linings = d.linings := rfl
@[simp] theorem send_backed : (send d o).backed = d.backed := rfl
@[simp] theorem send_regionBusy : (send d o).regionBusy = d.regionBusy := rfl
@[simp] theorem send_regionResult : (send d o).regionResult = d.regionResult := rfl
@[simp] theorem send_poison : (send d o).poison = d.poison := rfl
@[simp] theorem send_poisonOverflow : (send d o).poisonOverflow = d.poisonOverflow := rfl
@[simp] theorem send_poisonLost : (send d o).poisonLost = d.poisonLost := rfl
@[simp] theorem send_ctxs : (send d o).ctxs = d.ctxs := rfl
@[simp] theorem send_ctxBad : (send d o).ctxBad = d.ctxBad := rfl
@[simp] theorem send_fbs : (send d o).fbs = d.fbs := rfl
@[simp] theorem send_slateBusy : (send d o).slateBusy = d.slateBusy := rfl
@[simp] theorem send_slateResult : (send d o).slateResult = d.slateResult := rfl
@[simp] theorem send_reg : (send d o).reg = d.reg := rfl
@[simp] theorem send_cap : (send d o).cap = d.cap := rfl
@[simp] theorem send_marwen : (send d o).marwen = d.marwen := rfl
@[simp] theorem send_ports : (send d o).ports = d.ports := rfl
@[simp] theorem send_heads : (send d o).heads = d.heads := rfl
@[simp] theorem send_bricks : (send d o).bricks = d.bricks := rfl
@[simp] theorem send_mports : (send d o).mports = d.mports := rfl
@[simp] theorem send_tags : (send d o).tags = d.tags := rfl
@[simp] theorem send_grantee : (send d o).grantee = d.grantee := rfl
@[simp] theorem send_mgt : (send d o).mgt = d.mgt := rfl
@[simp] theorem send_ideKeys : (send d o).ideKeys = d.ideKeys := rfl
@[simp] theorem send_mwKeys : (send d o).mwKeys = d.mwKeys := rfl
@[simp] theorem send_keyRun : (send d o).keyRun = d.keyRun := rfl
@[simp] theorem send_cal : (send d o).cal = d.cal := rfl
@[simp] theorem send_daily : (send d o).daily = d.daily := rfl
@[simp] theorem send_boot : (send d o).boot = d.boot := rfl
@[simp] theorem send_profileWas : (send d o).profileWas = d.profileWas := rfl
@[simp] theorem send_flash : (send d o).flash = d.flash := rfl
@[simp] theorem send_supply : (send d o).supply = d.supply := rfl
@[simp] theorem send_wdogSince : (send d o).wdogSince = d.wdogSince := rfl
@[simp] theorem send_fwXfer : (send d o).fwXfer = d.fwXfer := rfl
@[simp] theorem send_bootFlag : (send d o).bootFlag = d.bootFlag := rfl
@[simp] theorem send_streams : (send d o).streams = d.streams := rfl
@[simp] theorem send_waits : (send d o).waits = d.waits := rfl
@[simp] theorem send_ioReads : (send d o).ioReads = d.ioReads := rfl
@[simp] theorem send_nextId : (send d o).nextId = d.nextId := rfl
@[simp] theorem send_react : (send d o).react = d.react := rfl
@[simp] theorem send_freeCtr : (send d o).freeCtr = d.freeCtr := rfl

end

/-! ## `bumpFree` -/

section
variable (d : Dev)

@[simp] theorem bumpFree_regs : (bumpFree d).regs = d.regs := rfl
@[simp] theorem bumpFree_staged : (bumpFree d).staged = d.staged := rfl
@[simp] theorem bumpFree_pages : (bumpFree d).pages = d.pages := rfl
@[simp] theorem bumpFree_latches : (bumpFree d).latches = d.latches := rfl
@[simp] theorem bumpFree_flt : (bumpFree d).flt = d.flt := rfl
@[simp] theorem bumpFree_pwr : (bumpFree d).pwr = d.pwr := rfl
@[simp] theorem bumpFree_gaffer : (bumpFree d).gaffer = d.gaffer := rfl
@[simp] theorem bumpFree_quads : (bumpFree d).quads = d.quads := rfl
@[simp] theorem bumpFree_subs : (bumpFree d).subs = d.subs := rfl
@[simp] theorem bumpFree_banks : (bumpFree d).banks = d.banks := rfl
@[simp] theorem bumpFree_dram : (bumpFree d).dram = d.dram := rfl
@[simp] theorem bumpFree_subFill : (bumpFree d).subFill = d.subFill := rfl
@[simp] theorem bumpFree_mapShare : (bumpFree d).mapShare = d.mapShare := rfl
@[simp] theorem bumpFree_dimm : (bumpFree d).dimm = d.dimm := rfl
@[simp] theorem bumpFree_ranges : (bumpFree d).ranges = d.ranges := rfl
@[simp] theorem bumpFree_slots : (bumpFree d).slots = d.slots := rfl
@[simp] theorem bumpFree_sweeps : (bumpFree d).sweeps = d.sweeps := rfl
@[simp] theorem bumpFree_rangeBusy : (bumpFree d).rangeBusy = d.rangeBusy := rfl
@[simp] theorem bumpFree_rangeResult : (bumpFree d).rangeResult = d.rangeResult := rfl
@[simp] theorem bumpFree_rangeLast : (bumpFree d).rangeLast = d.rangeLast := rfl
@[simp] theorem bumpFree_regions : (bumpFree d).regions = d.regions := rfl
@[simp] theorem bumpFree_linings : (bumpFree d).linings = d.linings := rfl
@[simp] theorem bumpFree_backed : (bumpFree d).backed = d.backed := rfl
@[simp] theorem bumpFree_regionBusy : (bumpFree d).regionBusy = d.regionBusy := rfl
@[simp] theorem bumpFree_regionResult : (bumpFree d).regionResult = d.regionResult := rfl
@[simp] theorem bumpFree_poison : (bumpFree d).poison = d.poison := rfl
@[simp] theorem bumpFree_poisonOverflow : (bumpFree d).poisonOverflow = d.poisonOverflow := rfl
@[simp] theorem bumpFree_poisonLost : (bumpFree d).poisonLost = d.poisonLost := rfl
@[simp] theorem bumpFree_ctxs : (bumpFree d).ctxs = d.ctxs := rfl
@[simp] theorem bumpFree_ctxBad : (bumpFree d).ctxBad = d.ctxBad := rfl
@[simp] theorem bumpFree_fbs : (bumpFree d).fbs = d.fbs := rfl
@[simp] theorem bumpFree_slateBusy : (bumpFree d).slateBusy = d.slateBusy := rfl
@[simp] theorem bumpFree_slateResult : (bumpFree d).slateResult = d.slateResult := rfl
@[simp] theorem bumpFree_reg : (bumpFree d).reg = d.reg := rfl
@[simp] theorem bumpFree_cap : (bumpFree d).cap = d.cap := rfl
@[simp] theorem bumpFree_marwen : (bumpFree d).marwen = d.marwen := rfl
@[simp] theorem bumpFree_ports : (bumpFree d).ports = d.ports := rfl
@[simp] theorem bumpFree_heads : (bumpFree d).heads = d.heads := rfl
@[simp] theorem bumpFree_bricks : (bumpFree d).bricks = d.bricks := rfl
@[simp] theorem bumpFree_mports : (bumpFree d).mports = d.mports := rfl
@[simp] theorem bumpFree_tags : (bumpFree d).tags = d.tags := rfl
@[simp] theorem bumpFree_grantee : (bumpFree d).grantee = d.grantee := rfl
@[simp] theorem bumpFree_mgt : (bumpFree d).mgt = d.mgt := rfl
@[simp] theorem bumpFree_ideKeys : (bumpFree d).ideKeys = d.ideKeys := rfl
@[simp] theorem bumpFree_mwKeys : (bumpFree d).mwKeys = d.mwKeys := rfl
@[simp] theorem bumpFree_keyRun : (bumpFree d).keyRun = d.keyRun := rfl
@[simp] theorem bumpFree_cal : (bumpFree d).cal = d.cal := rfl
@[simp] theorem bumpFree_daily : (bumpFree d).daily = d.daily := rfl
@[simp] theorem bumpFree_boot : (bumpFree d).boot = d.boot := rfl
@[simp] theorem bumpFree_profileWas : (bumpFree d).profileWas = d.profileWas := rfl
@[simp] theorem bumpFree_flash : (bumpFree d).flash = d.flash := rfl
@[simp] theorem bumpFree_supply : (bumpFree d).supply = d.supply := rfl
@[simp] theorem bumpFree_wdogSince : (bumpFree d).wdogSince = d.wdogSince := rfl
@[simp] theorem bumpFree_fwXfer : (bumpFree d).fwXfer = d.fwXfer := rfl
@[simp] theorem bumpFree_bootFlag : (bumpFree d).bootFlag = d.bootFlag := rfl
@[simp] theorem bumpFree_streams : (bumpFree d).streams = d.streams := rfl
@[simp] theorem bumpFree_waits : (bumpFree d).waits = d.waits := rfl
@[simp] theorem bumpFree_ioReads : (bumpFree d).ioReads = d.ioReads := rfl
@[simp] theorem bumpFree_nextId : (bumpFree d).nextId = d.nextId := rfl
@[simp] theorem bumpFree_react : (bumpFree d).react = d.react := rfl
@[simp] theorem bumpFree_out : (bumpFree d).out = d.out := rfl

end

end Sys2Proof.Machine
end

