-- ==== Sys2Proof/Laws/Tab.lean ====
section
/-! SUPPORT. The laws of sparse tables: a read after a write, and the canonical form that every table operation keeps. -/

namespace Sys2Proof.Machine

variable {α : Type}

@[simp] theorem tabGet_nil (d : α) (k : Nat) : tabGet d [] k = d := rfl

theorem tabGet_tabIns_self (d : α) (t : Tab α) (k : Nat) (v : α) : tabGet d (tabIns t k v) k = v := by
  induction t with
  | nil => simp [tabIns, tabGet]
  | cons e t ih =>
    obtain ⟨i, w⟩ := e
    unfold tabIns
    by_cases h : k < i
    · simp [h, tabGet]
    · by_cases h' : k = i
      · simp [h', tabGet]
      · simp [h, h', tabGet, Ne.symm h', ih]

theorem tabGet_tabIns_ne (d : α) (t : Tab α) {k j : Nat} (v : α) (hj : j ≠ k) : tabGet d (tabIns t k v) j = tabGet d t j := by
  induction t with
  | nil => simp [tabIns, tabGet, hj.symm]
  | cons e t ih =>
    obtain ⟨i, w⟩ := e
    unfold tabIns
    by_cases h : k < i
    · simp [h, tabGet, hj.symm]
    · by_cases h' : k = i
      · subst h'; simp [tabGet, hj.symm]
      · simp [h, h', tabGet, ih]

theorem tabGet_filter (d : α) (t : Tab α) (p : Nat → Bool) (j : Nat) :
    tabGet d (t.filter fun e => p e.1) j = if p j then tabGet d t j else d := by
  induction t with
  | nil => simp
  | cons e t ih =>
    obtain ⟨i, w⟩ := e
    by_cases hp : p i = true
    · by_cases hij : i = j
      · subst hij; simp [List.filter, hp, tabGet]
      · simp [List.filter, hp, tabGet, hij, ih]
    · simp only [Bool.not_eq_true] at hp
      by_cases hij : i = j
      · subst hij; simp [List.filter, hp, ih]
      · simp [List.filter, hp, tabGet, hij, ih]

theorem tabGet_tabDel_self (d : α) (t : Tab α) (k : Nat) : tabGet d (tabDel t k) k = d := by
  simp [tabDel, tabGet_filter (p := fun i => i != k)]

theorem tabGet_tabDel_ne (d : α) (t : Tab α) {k j : Nat} (hj : j ≠ k) : tabGet d (tabDel t k) j = tabGet d t j := by
  simp [tabDel, tabGet_filter (p := fun i => i != k), hj]

/-- A read of the key just written gives the value written, whatever the table. -/
@[simp] theorem tabGet_tabPut_self [DecidableEq α] (d : α) (t : Tab α) (k : Nat) (v : α) : tabGet d (tabPut d t k v) k = v := by
  unfold tabPut
  split
  · rename_i h; rw [tabGet_tabDel_self, h]
  · exact tabGet_tabIns_self d t k v

/-- A write leaves every other key as it was, whatever value either key falls back to. -/
theorem tabGet_tabPut_ne [DecidableEq α] (d d' : α) (t : Tab α) {k j : Nat} (v : α) (hj : j ≠ k) :
    tabGet d' (tabPut d t k v) j = tabGet d' t j := by
  unfold tabPut
  split
  · exact tabGet_tabDel_ne d' t hj
  · exact tabGet_tabIns_ne d' t v hj

@[simp] theorem tabGet_tabMod_self [DecidableEq α] (d : α) (t : Tab α) (k : Nat) (f : α → α) :
    tabGet d (tabMod d t k f) k = f (tabGet d t k) := by simp [tabMod]

theorem tabGet_tabMod_ne [DecidableEq α] (d : α) (t : Tab α) {k j : Nat} (f : α → α) (hj : j ≠ k) :
    tabGet d (tabMod d t k f) j = tabGet d t j := by simp [tabMod, tabGet_tabPut_ne _ _ _ _ hj]

theorem tabGet_tabDrop (d : α) (p : Nat → Bool) (t : Tab α) (j : Nat) :
    tabGet d (tabDrop p t) j = if p j then d else tabGet d t j := by
  have := tabGet_filter d t (fun i => !p i) j
  unfold tabDrop
  rw [this]
  cases p j <;> simp

/-! ## The canonical form -/

theorem tabAbove_filter (k : Nat) (p : Nat × α → Bool) (t : Tab α) (h : tabAbove k t = true) : tabAbove k (t.filter p) = true := by
  induction t with
  | nil => rfl
  | cons e t ih =>
    obtain ⟨i, w⟩ := e
    simp only [tabAbove, Bool.and_eq_true, decide_eq_true_eq] at h
    by_cases hp : p (i, w) = true
    · simp [List.filter, hp, tabAbove, h.1, ih h.2]
    · simp [List.filter, hp, ih h.2]

/-- Taking entries out keeps the canonical form. -/
theorem tabWf_filter [DecidableEq α] (d : α) (p : Nat × α → Bool) (t : Tab α) (h : tabWf d t = true) : tabWf d (t.filter p) = true := by
  induction t with
  | nil => rfl
  | cons e t ih =>
    obtain ⟨i, w⟩ := e
    simp only [tabWf, Bool.and_eq_true, decide_eq_true_eq] at h
    by_cases hp : p (i, w) = true
    · simp [List.filter, hp, tabWf, h.1.2, ih h.2, tabAbove_filter i p t h.1.1]
    · simp [List.filter, hp, ih h.2]

theorem tabAbove_mono {a b : Nat} (hab : a ≤ b) (t : Tab α) (h : tabAbove b t = true) : tabAbove a t = true := by
  induction t with
  | nil => rfl
  | cons e t ih =>
    obtain ⟨i, w⟩ := e
    simp only [tabAbove, Bool.and_eq_true, decide_eq_true_eq] at h ⊢
    exact ⟨by omega, ih h.2⟩

theorem tabAbove_tabIns {a k : Nat} (t : Tab α) (v : α) (hk : a < k) (h : tabAbove a t = true) : tabAbove a (tabIns t k v) = true := by
  induction t with
  | nil => simp [tabIns, tabAbove, hk]
  | cons e t ih =>
    obtain ⟨i, w⟩ := e
    simp only [tabAbove, Bool.and_eq_true, decide_eq_true_eq] at h
    unfold tabIns
    split
    · simp [tabAbove, hk, h.1, h.2]
    · split
      · simp [tabAbove, hk, h.2]
      · simp [tabAbove, h.1, ih h.2]

theorem tabWf_tabIns [DecidableEq α] (d : α) (t : Tab α) (k : Nat) (v : α) (hv : v ≠ d) (h : tabWf d t = true) :
    tabWf d (tabIns t k v) = true := by
  induction t with
  | nil => simp [tabIns, tabWf, tabAbove, hv]
  | cons e t ih =>
    obtain ⟨i, w⟩ := e
    simp only [tabWf, Bool.and_eq_true, decide_eq_true_eq] at h
    unfold tabIns
    by_cases h1 : k < i
    · simp [h1, tabWf, tabAbove, hv, h.1.1, h.1.2, h.2, tabAbove_mono (Nat.le_of_lt h1) t h.1.1]
    · by_cases h2 : k = i
      · subst h2; simp [tabWf, hv, h.1.1, h.2]
      · have h3 : i < k := by omega
        simp [h1, h2, tabWf, h.1.2, ih h.2, tabAbove_tabIns t v h3 h.1.1]

/-- A write keeps the canonical form. -/
theorem tabWf_tabPut [DecidableEq α] (d : α) (t : Tab α) (k : Nat) (v : α) (h : tabWf d t = true) : tabWf d (tabPut d t k v) = true := by
  unfold tabPut
  split
  · exact tabWf_filter d _ t h
  · rename_i hv; exact tabWf_tabIns d t k v hv h

theorem tabWf_tabMod [DecidableEq α] (d : α) (t : Tab α) (k : Nat) (f : α → α) (h : tabWf d t = true) : tabWf d (tabMod d t k f) = true :=
  tabWf_tabPut d t k _ h

theorem tabWf_tabDrop [DecidableEq α] (d : α) (p : Nat → Bool) (t : Tab α) (h : tabWf d t = true) : tabWf d (tabDrop p t) = true :=
  tabWf_filter d _ t h

end Sys2Proof.Machine
end

