-- ==== Sys2Proof/Laws/Access.lean ====
section
/-! SUPPORT. Reads of the parts of the device after their named updates: the part written reads as the value written, and every
other part reads as before. -/

namespace Sys2Proof.Machine

/-! ## Registers, by window offset -/

@[simp] theorem rget_rput_self (d : Dev) (b : Block) (n : RName) (v : Word) (i : Nat) : rget (rput d b n v i) b n i = v := by
  simp [rget, rput]

theorem rget_rput_ne (d : Dev) {b c : Block} {n m : RName} (v : Word) {i j : Nat} (h : regKey c m j ≠ regKey b n i) :
    rget (rput d b n v i) c m j = rget d c m j := by
  simp [rget, rput, tabGet_tabPut_ne _ _ _ _ h]

/-- A device with the same register table reads the same registers. -/
theorem rget_congr {d e : Dev} (h : e.regs = d.regs) (b : Block) (n : RName) (i : Nat) : rget e b n i = rget d b n i := by
  simp [rget, h]

theorem rfld_congr {d e : Dev} (h : e.regs = d.regs) (b : Block) (n : RName) (hi lo i : Nat) : rfld e b n hi lo i = rfld d b n hi lo i := by
  simp [rfld, rget, h]

/-! ## Pages -/

@[simp] theorem pget_pmod_self (d : Dev) (b : Block) (f : PageSt → PageSt) : pget (pmod d b f) b = f (pget d b) := by
  simp [pget, pmod]

theorem pget_pmod_ne (d : Dev) {b c : Block} (f : PageSt → PageSt) (h : c.page ≠ b.page) : pget (pmod d b f) c = pget d c := by
  simp [pget, pmod, tabGet_tabPut_ne _ _ _ _ h]

theorem pget_congr {d e : Dev} (h : e.pages = d.pages) (b : Block) : pget e b = pget d b := by simp [pget, h]

/-! ## Quadrants, sub-channels, ports, bricks, heads, ranges -/

@[simp] theorem quad_qmod_self (d : Dev) (q : Nat) (f : Quad → Quad) : quad (qmod d q f) q = f (quad d q) := by simp [quad, qmod]
theorem quad_qmod_ne (d : Dev) {q k : Nat} (f : Quad → Quad) (h : k ≠ q) : quad (qmod d q f) k = quad d k := by
  simp [quad, qmod, tabGet_tabMod_ne _ _ _ h]
theorem quad_congr {d e : Dev} (h : e.quads = d.quads) (q : Nat) : quad e q = quad d q := by simp [quad, h]

@[simp] theorem subc_umod_self (d : Dev) (u : Nat) (f : Sub → Sub) : subc (umod d u f) u = f (subc d u) := by simp [subc, umod]
theorem subc_umod_ne (d : Dev) {u k : Nat} (f : Sub → Sub) (h : k ≠ u) : subc (umod d u f) k = subc d k := by
  simp [subc, umod, tabGet_tabMod_ne _ _ _ h]

@[simp] theorem port_portMod_self (d : Dev) (p : Nat) (f : HPort → HPort) : port (portMod d p f) p = f (port d p) := by simp [port, portMod]
theorem port_portMod_ne (d : Dev) {p k : Nat} (f : HPort → HPort) (h : k ≠ p) : port (portMod d p f) k = port d k := by
  simp [port, portMod, tabGet_tabMod_ne _ _ _ h]

@[simp] theorem mport_mportMod_self (d : Dev) (b : Nat) (f : MPort → MPort) : mport (mportMod d b f) b = f (mport d b) := by
  simp [mport, mportMod]
theorem mport_mportMod_ne (d : Dev) {b k : Nat} (f : MPort → MPort) (h : k ≠ b) : mport (mportMod d b f) k = mport d k := by
  simp [mport, mportMod, tabGet_tabMod_ne _ _ _ h]

@[simp] theorem brick_brickMod_self (d : Dev) (b : Nat) (f : Brick → Brick) : brick (brickMod d b f) b = f (brick d b) := by
  simp [brick, brickMod]
@[simp] theorem head_headMod_self (d : Dev) (p : Nat) (f : Head → Head) : head (headMod d p f) p = f (head d p) := by
  simp [head, headMod]
@[simp] theorem range_rangeMod_self (d : Dev) (r : Nat) (f : Range → Range) : range (rangeMod d r f) r = f (range d r) := by
  simp [range, rangeMod]

end Sys2Proof.Machine
end

