-- ==== Sys2Proof/Laws/Settle.lean ====
section
/-! SUPPORT. What raising a source may change (R397), and what the end of a step settles. -/

namespace Sys2Proof.Machine

/-! ## What a command answers -/

theorem done_next (s : State) (d : Dev) : done s d = .next (onDev s d) := rfl
theorem doneIf_next {s : State} {c : Bool} {f : Dev → Dev} (h : c = true) : doneIf s c f = .next (onDev s (f s.dev)) := by
  subst h; rfl

/-! ## Sources (R397, R400, R401) -/

theorem logEvents_unreported (d : Dev) (ps : List Nat) (log : Nat) (ev : Ev) : (logEvents d ps log ev).unreported = d.unreported := by
  unfold logEvents
  induction ps generalizing d with
  | nil => rfl
  | cons a ps ih => exact (ih (logEvent d a log ev)).trans rfl

theorem logEvents_flt (d : Dev) (ps : List Nat) (log : Nat) (ev : Ev) : (logEvents d ps log ev).flt = d.flt := by
  unfold logEvents
  induction ps generalizing d with
  | nil => rfl
  | cons a ps ih => exact (ih (logEvent d a log ev)).trans rfl

/-- Writing a record touches the Continuity state, the counter of records and the events of the FLT page alone. -/
theorem record_unreported (d : Dev) (id sev : Nat) (ctx : BitVec 256) (inj : Bool) :
    (record d id sev ctx inj).unreported = d.unreported := by
  unfold record
  extract_lets r s d1
  have h1 : d1.unreported = d.unreported := rfl
  split
  · exact h1
  · split
    · exact h1
    · split <;> rfl

/-- Raising a source touches what a report touches and nothing else. -/
theorem raise_unreported (d : Dev) (b : Block) (bit : Nat) (u : FUnit) (ctx : BitVec 256) (cond inj : Bool) (named : List Nat) :
    (raise d b bit u ctx cond inj named).unreported = d.unreported := by
  unfold raise
  extract_lets id sev m xb d1 s d2 d3 d4
  have h1 : d1.unreported = d.unreported := by
    unfold d1; split
    · exact record_unreported ..
    · rfl
  have h2 : d2.unreported = d1.unreported := rfl
  have h3 : d3.unreported = d2.unreported := by
    unfold d3; repeat' split
    · exact logEvents_unreported ..
    all_goals rfl
  have h4 : d4.unreported = d3.unreported := by
    unfold d4; split <;> rfl
  have h : d4.unreported = d.unreported := h4.trans (h3.trans (h2.trans h1))
  split
  · exact h
  · exact h

/-- A source raised is latched (R397). -/
theorem raise_latched (d : Dev) (b : Block) (bit : Nat) (u : FUnit) (ctx : BitVec 256) (cond inj : Bool) (named : List Nat)
    (h : srcId b bit < 512) : (raise d b bit u ctx cond inj named).flt.latched.getLsbD (srcId b bit) = true := by
  unfold raise
  extract_lets id sev m xb d1 s d2 d3 d4
  have h2 : d2.flt.latched.getLsbD id = true := by
    show (d1.flt.latched ||| m).getLsbD id = true
    rw [BitVec.getLsbD_or]
    unfold m
    rw [BitVec.getLsbD_ofNat, Nat.testBit_two_pow_self]
    simp [id, h]
  have h3 : d3.flt = d2.flt := by
    unfold d3; repeat' split
    · exact logEvents_flt ..
    all_goals rfl
  have h4 : d4.flt = d3.flt := by
    unfold d4; split <;> rfl
  have h5 : d4.flt.latched.getLsbD id = true := by rw [h4, h3]; exact h2
  split
  · exact h5
  · exact h5

/-! ## The end of a step -/

/-- Settling the mode touches the mode and the page events alone (R359). -/
theorem settleMode_eq (d : Dev) :
    settleMode d = { d with pwr := { d.pwr with mode := (settleMode d).pwr.mode }, pages := (settleMode d).pages } := by
  unfold settleMode
  extract_lets want
  split
  · rfl
  · rfl

theorem qmods_eq (g : Nat → Quad → Quad) (l : List Nat) (d : Dev) :
    l.foldl (fun d k => qmod d k (g k)) d = { d with quads := (l.foldl (fun d k => qmod d k (g k)) d).quads } := by
  induction l generalizing d with
  | nil => rfl
  | cons a l ih => exact ih (qmod d a (g a))

/-- Settling the capacity levels touches the quadrants and the page events alone (R84). -/
theorem settleLevels_eq (d : Dev) :
    settleLevels d = { d with quads := (settleLevels d).quads, pages := (settleLevels d).pages } := by
  unfold settleLevels
  extract_lets b was now
  split
  · rfl
  · rename_i d1 moved d2 d3 _
    have h1 : d1 = { d with quads := d1.quads } := qmods_eq _ (List.range 4) d
    have h2 : d2 = { d with quads := d2.quads, pages := d2.pages } := by
      unfold d2; rw [h1]; split <;> rfl
    have h3 : d3 = { d with quads := d3.quads, pages := d3.pages } := by
      unfold d3; rw [h2]; split <;> rfl
    rw [h3]
    split <;> rfl

theorem runReacts_nil (n : Nat) (d : Dev) (h : d.react = []) : runReacts n d = d := by
  cases n with
  | zero => rfl
  | succ n => simp [runReacts, h]

theorem finish_owed (d : Dev) (hr : d.react = []) (hw : ∀ w ∈ d.waits, w.wait ≠ .line) : finish d = settleLevels (settleMode d) := by
  have hany : (d.waits.any fun w => w.wait = .line) = false := by simpa using hw
  unfold finish
  simp only [hany, Bool.false_eq_true, if_false, runReacts_nil 64 d hr]

/-- The end of a step in which nothing was asserted and no request waits for a line: only the mode, the capacity levels with the
reservations they end, and the page events that report them can change. -/
theorem finish_quiet (d : Dev) (hr : d.react = []) (hw : ∀ w ∈ d.waits, w.wait ≠ .line) :
    finish d = { d with pwr := { d.pwr with mode := (finish d).pwr.mode }, quads := (finish d).quads, pages := (finish d).pages } := by
  rw [finish_owed d hr hw, settleLevels_eq (settleMode d), settleMode_eq d]

/-- In Boot and Retain, and wherever the mode follows the fences and the levels the free pages, a step that owes nothing settles
nothing. -/
theorem finish_calm (d : Dev) (hr : d.react = []) (hw : ∀ w ∈ d.waits, w.wait ≠ .line) (hm : settleMode d = d) (hl : settleLevels d = d) :
    finish d = d := by rw [finish_owed d hr hw, hm, hl]

theorem settleMode_off (d : Dev) (h : d.pwr.mode ≠ .service) (h' : d.pwr.mode ≠ .degraded) : settleMode d = d := by
  simp [settleMode, h, h']

theorem settleLevels_off (d : Dev) (h : d.pwr.mode = .boot ∨ d.pwr.mode = .retain) : settleLevels d = d := by
  unfold settleLevels; rcases h with h | h <;> simp [h]

end Sys2Proof.Machine
end

