-- ==== Sys2Proof/Laws/Path.lean ====
section
/-! SUPPORT. The way of a request that nothing holds: from the port to its home, with the device otherwise as it was (R45, R231, R236). -/

namespace Sys2Proof.Machine

/-- The device after requests have come in: only the ports' occupancies, the Dailies, the request numbers and the ports' gates differ. -/
def met (d : Dev) (P : Tab HPort) (D : Daily) (n : Nat) (R : Tab Gate) : Dev :=
  { d with ports := P, daily := D, nextId := n, reg := { d.reg with ports := R } }

/-- A class with tokens passes its port gate. -/
theorem portGate_clear (d : Dev) (p c b : Nat) (h : 0 < tabGet 0 (tabGet {} d.reg.ports p).tokens c) :
    ∃ D R, portGate d p c b = some { d with daily := D, reg := { d.reg with ports := R } } := by
  unfold portGate gateCharge
  simp only [h, if_true]
  exact ⟨_, _, rfl⟩

/-- A clear request goes home under the next number. -/
theorem arrive_clear (d : Dev) (r : Req) (p : Nat) (ha : admitting d = true) (ho : portOpen d p = true) (hs : slateClear d p r.slate = true) :
    ∃ D R, arrive d r p = enterHome { d with daily := D, nextId := d.nextId + 1, reg := { d.reg with ports := R } }
      { r with id := d.nextId, cls := (slatePolicy d r.slate).1, noStage := (slatePolicy d r.slate).2.1, heatW := (slatePolicy d r.slate).2.2 } := by
  simp only [slateClear, Bool.and_eq_true, decide_eq_true_eq] at hs
  obtain ⟨hv, hg⟩ := hs
  unfold arrive
  have ha' : admitting { d with nextId := d.nextId + 1 } = true := ha
  have ho' : portOpen { d with nextId := d.nextId + 1 } p = true := ho
  obtain ⟨D, R, e⟩ := portGate_clear { d with nextId := d.nextId + 1 } p (slatePolicy d r.slate).1 64 hg
  refine ⟨D, R, ?_⟩
  simp only [hv, if_true, ha', ho', not_true_eq_false, or_self, if_false]
  rw [e]

/-- A request that meets nothing at its home goes on there; a notice and a request without data are answered at once. -/
theorem enterHome_clear (d : Dev) (r : Req) (hh : homeClear d r.line = true) (hr : reqRight d r = true) :
    enterHome d r = if r.kind = .evc ∨ r.op = .none then respondWrite d r else atHome d r := by
  simp only [homeClear, Bool.and_eq_true, Bool.not_eq_true', decide_eq_true_eq, List.all_eq_true] at hh
  obtain ⟨⟨⟨⟨⟨⟨h1, h2⟩, h3⟩, h4⟩, h5⟩, h6⟩, _⟩ := hh
  have hw : (d.waits.any fun w => decide (w.wait = .queue) && decide (w.req.line = r.line) && decide (w.req.id < r.id)) = false := by
    rw [List.any_eq_false]
    intro w hw
    simp [h6 w hw]
  unfold enterHome
  simp only [h1, h2, h3, h4, h5, hr, hw, Bool.false_eq_true, not_true_eq_false, if_false, false_and, or_self]

/-- A clear message of a host is let in. -/
theorem hostGate_clear (d : Dev) (p : Nat) (env : Env) (mem : Bool) (hp : portClear d p = true) (he : envClean env = true)
    (hb : (if mem then (port d p).memBroken else (port d p).ioBroken) = false) :
    ∃ D, hostGate d p env mem = ({ d with ports := tabMod {} d.ports p fun x => { x with occ := env.occ, panic := false }, daily := D }, true) := by
  simp only [portClear, Bool.and_eq_true, Bool.not_eq_true'] at hp
  obtain ⟨⟨⟨⟨⟨p1, p2⟩, p3⟩, _⟩, _⟩, _⟩ := hp
  simp only [envClean, Bool.and_eq_true] at he
  have hocc : hostOcc d p env.occ = portMod d p fun x => { x with occ := env.occ, panic := false } := by
    unfold hostOcc
    unfold bitOf at p3
    simp only [p2, p3, Bool.false_and, if_true]
  unfold hostGate
  simp only [p1, not_true_eq_false, if_false, hb, Bool.false_eq_true, he.1.1.1, false_and]
  rw [hocc]
  exact ⟨_, rfl⟩

/-- A clear request inside capacity arrives. -/
theorem hostEnter_clear (d : Dev) (p : Nat) (r : Req) (env : Env) (he : envClean env = true)
    (hc : outsideCapacity d p (pageOfLine r.line) = false) : hostEnter d p r env = arrive d { r with id := d.nextId } p := by
  simp only [envClean, Bool.and_eq_true, Bool.not_eq_true', decide_eq_true_eq] at he
  obtain ⟨⟨⟨_, h2⟩, h3⟩, h4⟩ := he
  unfold hostEnter
  simp only [hc, h2, h3, h4, Bool.false_eq_true, if_false, false_and, or_self, sramMet]

/-- A clear CXL.mem request reaches its home with the device otherwise as it was. -/
theorem memReq_clear (d : Dev) (p : Fin 16) (tag hpa : Nat) (k : Kind) (op : Op) (keep : Nat) (env : Env) (dpa : Nat) (h : Hdm)
    (hp : portClear d p = true) (he : envClean env = true) (hb : (port d p).memBroken = false) (hd : hpaToDpa d p hpa = some (dpa, h))
    (hc : outsideCapacity d p (pageOfLine (dpa / 64)) = false)
    (hs : slateClear d p (fallbackSlate d p (frameOf (pageOfLine (dpa / 64)))) = true) :
    ∃ P D R, memReq d p tag hpa k op keep env = enterHome (met d P D (d.nextId + 1) R)
      { id := d.nextId, src := .host p tag, kind := k, op, line := dpa / 64, agent := p, keep,
        slate := fallbackSlate d p (frameOf (pageOfLine (dpa / 64))),
        cls := (slatePolicy d (fallbackSlate d p (frameOf (pageOfLine (dpa / 64))))).1,
        noStage := (slatePolicy d (fallbackSlate d p (frameOf (pageOfLine (dpa / 64))))).2.1,
        heatW := (slatePolicy d (fallbackSlate d p (frameOf (pageOfLine (dpa / 64))))).2.2 }
      ∧ tabGet {} P p = { port d p with occ := env.occ, panic := false } := by
  obtain ⟨D, hg⟩ := hostGate_clear d p env true hp he hb
  have hp' := hp
  simp only [portClear, Bool.and_eq_true] at hp'
  obtain ⟨⟨⟨⟨⟨p1, p2⟩, p3⟩, p4⟩, p5⟩, p6⟩ := hp'
  have key : ∀ D, let e := { d with ports := tabMod {} d.ports p fun x => { x with occ := env.occ, panic := false }, daily := D }
      port e p = { port d p with occ := env.occ, panic := false } := fun D => by
    intro e
    simp [e, port]
  have hdm : ∀ D, hpaToDpa { d with ports := tabMod {} d.ports p fun x => { x with occ := env.occ, panic := false }, daily := D } p hpa = some (dpa, h) := fun D => by
    rw [← hd]; unfold hpaToDpa; simp only [key D]
  have tail : ∀ D', ∃ P D R, (match hpaToDpa { d with ports := tabMod {} d.ports p fun x => { x with occ := env.occ, panic := false }, daily := D' } p hpa with
      | none => respondLost { d with ports := tabMod {} d.ports p fun x => { x with occ := env.occ, panic := false }, daily := D' } { id := 0, src := .host p tag, kind := k, op, line := 0, agent := p, keep }
      | some (dpa, _) =>
        hostEnter { d with ports := tabMod {} d.ports p fun x => { x with occ := env.occ, panic := false }, daily := D' } p
          { id := 0, src := .host p tag, kind := k, op, line := dpa / 64, agent := p, keep,
            slate := fallbackSlate { d with ports := tabMod {} d.ports p fun x => { x with occ := env.occ, panic := false }, daily := D' } p (frameOf (pageOfLine (dpa / 64))),
            panic := (port { d with ports := tabMod {} d.ports p fun x => { x with occ := env.occ, panic := false }, daily := D' } p).panic } env)
      = enterHome (met d P D (d.nextId + 1) R)
      { id := d.nextId, src := .host p tag, kind := k, op, line := dpa / 64, agent := p, keep,
        slate := fallbackSlate d p (frameOf (pageOfLine (dpa / 64))),
        cls := (slatePolicy d (fallbackSlate d p (frameOf (pageOfLine (dpa / 64))))).1,
        noStage := (slatePolicy d (fallbackSlate d p (frameOf (pageOfLine (dpa / 64))))).2.1,
        heatW := (slatePolicy d (fallbackSlate d p (frameOf (pageOfLine (dpa / 64))))).2.2 }
      ∧ tabGet {} P p = { port d p with occ := env.occ, panic := false } := fun D' => by
    rw [hdm D']
    dsimp only
    rw [hostEnter_clear _ _ _ _ he (by exact hc)]
    obtain ⟨D2, R, ha⟩ := arrive_clear { d with ports := tabMod {} d.ports p fun x => { x with occ := env.occ, panic := false }, daily := D' }
      { id := d.nextId, src := .host p tag, kind := k, op, line := dpa / 64, agent := p, keep,
        slate := fallbackSlate d p (frameOf (pageOfLine (dpa / 64))) } p p4 p5 hs
    refine ⟨_, D2, R, ?_, key D'⟩
    have hpan : (port { d with ports := tabMod {} d.ports p fun x => { x with occ := env.occ, panic := false }, daily := D' } p).panic = false := by rw [key D']
    rw [hpan]
    exact ha
  unfold memReq
  rw [hg]
  dsimp only
  cases op <;> exact tail _

/-- The same, of the request what matters at its home. -/
theorem memReq_home (d : Dev) (p : Fin 16) (tag hpa : Nat) (k : Kind) (op : Op) (keep : Nat) (env : Env) (dpa : Nat) (h : Hdm)
    (hp : portClear d p = true) (he : envClean env = true) (hb : (port d p).memBroken = false) (hd : hpaToDpa d p hpa = some (dpa, h))
    (hc : outsideCapacity d p (pageOfLine (dpa / 64)) = false)
    (hs : slateClear d p (fallbackSlate d p (frameOf (pageOfLine (dpa / 64)))) = true) :
    ∃ P D R r, memReq d p tag hpa k op keep env = enterHome (met d P D (d.nextId + 1) R) r
      ∧ port (met d P D (d.nextId + 1) R) p = { port d p with occ := env.occ, panic := false }
      ∧ r.id = d.nextId ∧ r.src = .host p tag ∧ r.kind = k ∧ r.op = op ∧ r.line = dpa / 64 :=
  let ⟨P, D, R, h1, h2⟩ := memReq_clear d p tag hpa k op keep env dpa h hp he hb hd hc hs
  ⟨P, D, R, _, h1, h2, rfl, rfl, rfl, rfl, rfl⟩

/-- A clear CXL.io request of one line reaches its home with the device otherwise as it was, from a device in which only counters differ. -/
theorem ioLine_home (d : Dev) (p : Fin 16) (tag : Nat) (pasid : Option (BitVec 20)) (env : Env) (k : Kind) (op : Op) (line lo n : Nat) (D0 : Daily)
    (hp : portClear d p = true) (he : envClean env = true) (hc : outsideCapacity d p (pageOfLine line) = false)
    (hs : slateClear d p (ioSlate d p pasid (pageOfLine line)) = true) :
    ∃ D R r, ioLine { d with ports := tabMod {} d.ports p fun x => { x with occ := env.occ, panic := false }, daily := D0 } p tag pasid env k op line lo n
        = enterHome (met d (tabMod {} d.ports p fun x => { x with occ := env.occ, panic := false }) D (d.nextId + 1) R) r
      ∧ r.id = d.nextId ∧ r.src = .io p tag lo n ∧ r.kind = k ∧ r.op = op ∧ r.line = line := by
  simp only [portClear, Bool.and_eq_true] at hp
  obtain ⟨⟨⟨⟨⟨p1, p2⟩, p3⟩, p4⟩, p5⟩, p6⟩ := hp
  unfold ioLine
  simp only
  rw [hostEnter_clear _ _ _ _ he (by exact hc)]
  obtain ⟨D2, R, ha⟩ := arrive_clear { d with ports := tabMod {} d.ports p fun x => { x with occ := env.occ, panic := false }, daily := D0 }
    { id := d.nextId, src := .io p tag lo n, kind := k, op, line, agent := p, slate := ioSlate d p pasid (pageOfLine line),
      panic := (port { d with ports := tabMod {} d.ports p fun x => { x with occ := env.occ, panic := false }, daily := D0 } p).panic } p p4 p5 hs
  exact ⟨D2, R, _, ha, rfl, rfl, rfl, rfl, rfl⟩

theorem wayClear_all {d : Dev} {p : Fin 16} {env : Env} {b : Bool} {line slate : Nat} (h : wayClear d p env b line slate = true) :
    portClear d p = true ∧ envClean env = true ∧ b = false ∧ outsideCapacity d p (pageOfLine line) = false ∧ slateClear d p slate = true
      ∧ homeClear d line = true ∧ hostRight d p (pageOfLine line) = true := by
  simp only [wayClear, Bool.and_eq_true, Bool.not_eq_true'] at h
  obtain ⟨⟨⟨⟨⟨⟨h1, h2⟩, h3⟩, h4⟩, h5⟩, h6⟩, h7⟩ := h
  exact ⟨h1, h2, h3, h4, h5, h6, h7⟩

theorem portClear_up {d : Dev} {p : Nat} (h : portClear d p = true) : (port d p).up = true ∧ (port d p).upId ≤ d.nextId := by
  simp only [portClear, Bool.and_eq_true, decide_eq_true_eq] at h
  exact ⟨h.1.1.1.1.1, h.2⟩

end Sys2Proof.Machine
end

