-- ==== Sys2Proof/Laws/Home.lean ====
section
/-! SUPPORT. A request at its home that Stage answers: what it answers, what it leaves alone, and what a write leaves in Stage (R20, R64, R74). -/

namespace Sys2Proof.Machine

/-! ## Heat and counts -/

theorem countSet_daily (d : Dev) (slate t n : Nat) : ∃ D, countSet d slate t n = { d with daily := D } := by
  unfold countSet; split
  · exact ⟨_, rfl⟩
  · exact ⟨d.daily, rfl⟩

theorem setEntry_eq (d : Dev) (page : Nat) (e : DWord) :
    setEntry d page e = { d with quads := (setEntry d page e).quads, mapShare := (setEntry d page e).mapShare } := by
  unfold setEntry
  extract_lets q lp
  split <;> rfl

theorem addHeat_eq (d : Dev) (page inc : Nat) :
    addHeat d page inc = { d with quads := (addHeat d page inc).quads, mapShare := (addHeat d page inc).mapShare } := by
  unfold addHeat
  extract_lets q lp
  split
  · exact setEntry_eq ..
  · rfl
  · exact setEntry_eq ..

/-- A quadrant changed in its map cache, sample count and promotion list alone holds the same lines in Stage. -/
def sameLines (s t : Quad) : Prop := t.stage = s.stage ∧ t.wb = s.wb ∧ t.trans = s.trans ∧ t.move = s.move

theorem quads_setEntry (d : Dev) (page : Nat) (e : DWord) (q : Nat) : sameLines (quad d q) (quad (setEntry d page e) q) := by
  unfold setEntry
  extract_lets q0 lp
  split
  · by_cases h : q = q0
    · subst h; rw [quad_qmod_self]; exact ⟨rfl, rfl, rfl, rfl⟩
    · rw [quad_qmod_ne _ _ h]; exact ⟨rfl, rfl, rfl, rfl⟩
  · exact ⟨rfl, rfl, rfl, rfl⟩

theorem sameLines_trans {a b c : Quad} (h : sameLines a b) (h' : sameLines b c) : sameLines a c :=
  ⟨h'.1.trans h.1, h'.2.1.trans h.2.1, h'.2.2.1.trans h.2.2.1, h'.2.2.2.trans h.2.2.2⟩

theorem sameLines_qmod (d : Dev) (q0 : Nat) (f : Quad → Quad) (hf : ∀ s, sameLines s (f s)) (q : Nat) :
    sameLines (quad d q) (quad (qmod d q0 f) q) := by
  by_cases h : q = q0
  · subst h; rw [quad_qmod_self]; exact hf _
  · rw [quad_qmod_ne _ _ h]; exact ⟨rfl, rfl, rfl, rfl⟩

theorem quads_addHeat (d : Dev) (page inc : Nat) (q : Nat) : sameLines (quad d q) (quad (addHeat d page inc) q) := by
  unfold addHeat
  extract_lets q0 lp
  split
  · exact quads_setEntry ..
  · refine sameLines_qmod d q0 _ ?_ q
    intro s; exact ⟨rfl, rfl, rfl, rfl⟩
  · exact quads_setEntry ..

theorem heatSample_eq (d : Dev) (page : Nat) (hit : Bool) (w : Nat) :
    heatSample d page hit w = { d with quads := (heatSample d page hit w).quads, mapShare := (heatSample d page hit w).mapShare } := by
  unfold heatSample
  extract_lets q n d1
  split
  · rfl
  · rename_i inc d2 t s _
    have h2 : d2 = { d1 with quads := d2.quads, mapShare := d2.mapShare } := addHeat_eq ..
    split <;> (rw [h2]; rfl)

theorem quads_heatSample (d : Dev) (page : Nat) (hit : Bool) (w : Nat) (q : Nat) : sameLines (quad d q) (quad (heatSample d page hit w) q) := by
  unfold heatSample
  extract_lets q0 n d1
  have h1 : sameLines (quad d q) (quad d1 q) := sameLines_qmod d _ (fun s => { s with samples := n }) (fun s => ⟨rfl, rfl, rfl, rfl⟩) q
  split
  · exact h1
  · rename_i inc d2 t s _
    have h2 : sameLines (quad d q) (quad d2 q) := sameLines_trans h1 (quads_addHeat ..)
    split
    · exact sameLines_trans h2 (sameLines_qmod d2 _ (fun s => { s with promo := s.promo ++ [page] }) (fun s => ⟨rfl, rfl, rfl, rfl⟩) q)
    · exact h2

/-! ## Frames -/

/-- A device in which only what is sent, the counters, the samples of heat and the order of use differ. -/
def Inner (d e : Dev) : Prop := e = { d with out := e.out, daily := e.daily, quads := e.quads, mapShare := e.mapShare }

theorem Inner.trans {a b c : Dev} (h1 : Inner a b) (h2 : Inner b c) : Inner a c := by
  unfold Inner at *
  refine h2.trans ?_
  rw [h1]

theorem Served.refl (d : Dev) : Served d d := rfl

theorem Served.trans {a b c : Dev} (h1 : Served a b) (h2 : Served b c) : Served a c := by
  unfold Served at *
  refine h2.trans ?_
  rw [h1]

theorem Inner.served {a b : Dev} (h : Inner a b) : Served a b := by
  unfold Served; rw [h]

theorem served_met (d : Dev) (P : Tab HPort) (D : Daily) (n : Nat) (R : Tab Gate) : Served d (met d P D n R) := rfl

theorem inner_heatSample (d : Dev) (page : Nat) (hit : Bool) (w : Nat) : Inner d (heatSample d page hit w) := by
  unfold Inner; rw [heatSample_eq d page hit w]

theorem inner_countSet (d : Dev) (slate t n : Nat) : Inner d (countSet d slate t n) := by
  obtain ⟨D, h⟩ := countSet_daily d slate t n
  rw [h]; rfl

theorem inner_mapTouch (d : Dev) (page : Nat) : Inner d (mapTouch d page) := rfl

theorem inner_stageMod (d : Dev) (line : Nat) (f : ASet SLine → ASet SLine) : Inner d (stageMod d line f) := rfl

theorem inner_stageTouch (d : Dev) (line : Nat) : Inner d (stageTouch d line) := by
  unfold stageTouch; split <;> rfl

theorem Inner.port {d e : Dev} (h : Inner d e) (p : Nat) : port e p = port d p := by rw [h]; rfl

theorem Inner.tracked {d e : Dev} (h : Inner d e) (line : Nat) : tracked e line = tracked d line := by rw [h]; rfl

/-! ## The lines of Stage -/

theorem stageFind_congr {d e : Dev} (h : ∀ q, sameLines (quad d q) (quad e q)) (line : Nat) : stageFind e line = stageFind d line := by
  obtain ⟨h1, h2, _, _⟩ := h (homeOf (pageOfLine line))
  unfold stageFind stageWay wbEntry
  rw [h1, h2]

theorem stageWay_congr {d e : Dev} (h : ∀ q, sameLines (quad d q) (quad e q)) (line : Nat) : stageWay e line = stageWay d line := by
  obtain ⟨h1, _, _, _⟩ := h (homeOf (pageOfLine line))
  unfold stageWay; rw [h1]

theorem sameLines_quads {d e : Dev} (h : e.quads = d.quads) (q : Nat) : sameLines (quad d q) (quad e q) := by
  rw [quad_congr h q]; exact ⟨rfl, rfl, rfl, rfl⟩

theorem sameLines_mapTouch (d : Dev) (page q : Nat) : sameLines (quad d q) (quad (mapTouch d page) q) := by
  unfold mapTouch
  refine sameLines_qmod d _ _ (fun s => ?_) q
  have key : ∀ set k (s : Quad), sameLines s (match asFind (tabGet {} s.mapSets set) k with
      | some (w, _) => { s with mapSets := tabMod {} s.mapSets set fun a => asTouch a w }
      | none => s) := by
    intro set k s
    split
    · exact ⟨rfl, rfl, rfl, rfl⟩
    · exact ⟨rfl, rfl, rfl, rfl⟩
  exact sameLines_trans (key _ _ s) (key _ _ _)

theorem asFind_asTouch {α : Type} (s : ASet α) (w k : Nat) : asFind (asTouch s w) k = asFind s k := rfl

/-- Changing one set of Stage. -/
theorem quad_stageMod (d : Dev) (line : Nat) (f : ASet SLine → ASet SLine) (q : Nat) :
    quad (stageMod d line f) q = if q = homeOf (pageOfLine line) then
      { quad d q with stage := tabMod {} (quad d q).stage (stageSet line) f } else quad d q := by
  unfold stageMod
  split
  · rename_i h; subst h; rw [quad_qmod_self]
  · rename_i h; rw [quad_qmod_ne _ _ h]

theorem stageWay_stageMod (d : Dev) (line : Nat) (f : ASet SLine → ASet SLine) (l : Nat) :
    stageWay (stageMod d line f) l = if homeOf (pageOfLine l) = homeOf (pageOfLine line) ∧ stageSet l = stageSet line then
      asFind (f (tabGet {} (quad d (homeOf (pageOfLine line))).stage (stageSet line))) l else stageWay d l := by
  unfold stageWay
  rw [quad_stageMod]
  by_cases h1 : homeOf (pageOfLine l) = homeOf (pageOfLine line)
  · by_cases h2 : stageSet l = stageSet line
    · simp [h1, h2]
    · simp [h1, h2, tabGet_tabMod_ne _ _ _ h2]
  · simp [h1]

theorem wbEntry_stageMod (d : Dev) (line : Nat) (f : ASet SLine → ASet SLine) (l : Nat) : wbEntry (stageMod d line f) l = wbEntry d l := by
  unfold wbEntry; rw [quad_stageMod]; split <;> rfl

/-- The order of use of Stage holds no lines. -/
theorem stageFind_stageTouch (d : Dev) (line l : Nat) : stageFind (stageTouch d line) l = stageFind d l := by
  unfold stageTouch
  split
  · rename_i w _ _
    have : stageWay (stageMod d line fun a => asTouch a w) l = stageWay d l := by
      rw [stageWay_stageMod]
      split
      · rename_i h; rw [asFind_asTouch]; unfold stageWay; rw [h.1, h.2]
      · rfl
    unfold stageFind
    rw [this, wbEntry_stageMod]
  · rfl

/-- A line put into the way that holds it stands there, and every other line stands where it stood. -/
theorem asFind_asPut {α : Type} (s : ASet α) (w k : Nat) (v : α) (hw : ∀ z ∈ s.ways, z.1 = w → z.2.1 = k) (l : Nat)
    (hk : ∀ z ∈ s.ways, z.2.1 = k → z.1 = w) :
    asFind (asPut s w k v) l = if l = k then some (w, v) else asFind s l := by
  unfold asFind asPut
  simp only [List.find?_append]
  split
  · rename_i h; subst h
    have : (s.ways.filter fun x => decide (x.1 ≠ w)).find? (fun x => decide (x.2.1 = l)) = none := by
      rw [List.find?_eq_none]
      intro z hz
      simp only [List.mem_filter, decide_eq_true_eq] at hz
      have := hk z hz.1
      simp only [decide_eq_true_eq]
      exact fun h => hz.2 (this h)
    rw [this]; simp
  · rename_i h
    have h2 : ([(w, k, v)].find? fun x => decide (x.2.1 = l)) = none := by simp [Ne.symm h]
    rw [h2]
    simp only [Option.or_none]
    congr 1
    rw [List.find?_filter]
    have : ∀ L : List (Nat × Nat × α), (∀ z ∈ L, z.1 = w → z.2.1 = k) →
        (L.find? fun x => decide (x.1 ≠ w) && decide (x.2.1 = l)) = L.find? fun x => decide (x.2.1 = l) := by
      intro L hL
      induction L with
      | nil => rfl
      | cons a L ih =>
        have ih := ih fun z hz => hL z (List.mem_cons_of_mem _ hz)
        by_cases ha : a.1 = w
        · have := hL a List.mem_cons_self ha
          have hne : ¬ a.2.1 = l := by rw [this]; exact Ne.symm h
          simp only [List.find?_cons, ha, hne, ne_eq, not_true_eq_false, decide_false, Bool.false_and, ih]
        · by_cases hl : a.2.1 = l
          · simp [ha, hl]
          · simp only [List.find?_cons, hl, decide_false, Bool.and_false, ih]
    simpa using this s.ways hw

/-! ## Answers -/

theorem needsDir_clear {d : Dev} {line : Nat} (h : homeClear d line = true) :
    tracked d line = false ∧ tierOf (entryNow d (pageOfLine line)) ≠ .span ∧ zoneOf d (pageOfLine line) = .normal
      ∧ ∀ t ∈ (quad d (homeOf (pageOfLine line))).trans, t.line ≠ line := by
  simp only [homeClear, needsDir, Bool.and_eq_true, Bool.not_eq_true', decide_eq_true_eq, List.all_eq_true, Bool.or_eq_false_iff,
    decide_eq_false_iff_not] at h
  obtain ⟨⟨⟨⟨⟨⟨_, _⟩, h3⟩, h4⟩, _⟩, _⟩, h7⟩ := h
  exact ⟨h4.1, h4.2, h3, h7⟩

/-- A line with no transaction has none in a device whose quadrants hold the same lines. -/
theorem transById_none {d e : Dev} (r : Req) (hs : ∀ q, sameLines (quad d q) (quad e q))
    (h : ∀ t ∈ (quad d (homeOf (pageOfLine r.line))).trans, t.line ≠ r.line) : transById e r = none := by
  unfold transById lineQuad
  rw [(hs _).2.2.1, List.find?_eq_none]
  intro t ht
  simp [h t ht]

theorem hostGrant_clear {d : Dev} {r : Req} (h : tracked d r.line = false) : hostGrant d r = 0 := by simp [hostGrant, h]

/-- An inner change that leaves the lines of the quadrants alone. -/
def Calm (d e : Dev) : Prop := Inner d e ∧ ∀ q, sameLines (quad d q) (quad e q)

theorem Calm.refl (d : Dev) : Calm d d := ⟨rfl, fun _ => ⟨rfl, rfl, rfl, rfl⟩⟩

theorem Calm.trans {a b c : Dev} (h1 : Calm a b) (h2 : Calm b c) : Calm a c :=
  ⟨h1.1.trans h2.1, fun q => sameLines_trans (h1.2 q) (h2.2 q)⟩

theorem calm_heatSample (d : Dev) (page : Nat) (hit : Bool) (w : Nat) : Calm d (heatSample d page hit w) :=
  ⟨inner_heatSample .., fun q => quads_heatSample d page hit w q⟩

theorem calm_countSet (d : Dev) (slate t n : Nat) : Calm d (countSet d slate t n) := by
  refine ⟨inner_countSet .., sameLines_quads ?_⟩
  obtain ⟨D, h⟩ := countSet_daily d slate t n
  rw [h]

theorem calm_mapTouch (d : Dev) (page : Nat) : Calm d (mapTouch d page) := ⟨inner_mapTouch .., fun q => sameLines_mapTouch d page q⟩

theorem calm_countUp (d : Dev) (k n : Nat) : Calm d (countUp d k n) := ⟨rfl, sameLines_quads (e := countUp d k n) rfl⟩

theorem calm_countBw (d : Dev) (p : Nat) (o : Bool) (n : Nat) : Calm d (countBw d p o n) := by
  refine ⟨?_, sameLines_quads ?_⟩ <;> (unfold countBw; split) <;> rfl

theorem calm_send (d : Dev) (o : Out) : Calm d (send d o) := ⟨rfl, sameLines_quads (e := send d o) rfl⟩

theorem Calm.stage {d e : Dev} (h : Calm d e) : SameStage d e := fun line => stageFind_congr h.2 line

theorem out_heatSample (d : Dev) (page : Nat) (hit : Bool) (w : Nat) : (heatSample d page hit w).out = d.out := by rw [heatSample_eq]

theorem out_countSet (d : Dev) (slate t n : Nat) : (countSet d slate t n).out = d.out := by
  obtain ⟨D, h⟩ := countSet_daily d slate t n
  rw [h]

theorem out_countBw (d : Dev) (p : Nat) (o : Bool) (n : Nat) : (countBw d p o n).out = d.out := by unfold countBw; split <;> rfl

theorem out_stageTouch (d : Dev) (line : Nat) : (stageTouch d line).out = d.out := by unfold stageTouch; split <;> rfl

/-- The request at its home, where Stage holds the line. -/
theorem homeRead_hit {d : Dev} {r : Req} {x : Line} {c : Bool} (hh : homeClear d r.line = true) (ho : r.op = .read) (hx : stageFind d r.line = some x) :
    homeRead d r c = finishRead (stageTouch d r.line) r (some x) true := by
  obtain ⟨_, hsp, hz, _⟩ := needsDir_clear hh
  have hz' : ¬ zoneOf d (pageOfLine r.line) = .above := by rw [hz]; decide
  unfold homeRead
  simp only [hx, hsp, hz', false_and, if_false]
  unfold serveData
  simp only [ho, if_true]

theorem enterHome_op {d : Dev} {r : Req} (hh : homeClear d r.line = true) (hr : reqRight d r = true) (ho : r.op = .read) (hk : r.kind ≠ .evc)
    {x : Line} (hx : stageFind d r.line = some x) : enterHome d r = finishRead (stageTouch d r.line) r (some x) true := by
  rw [enterHome_clear d r hh hr]
  obtain ⟨ht, _, _, _⟩ := needsDir_clear hh
  simp only [hk, ho, false_or]
  unfold atHome
  simp only [ht, Bool.and_false, Bool.false_and, Bool.false_eq_true, if_false, ho]
  rw [homeRead_hit hh ho hx]
  simp

/-- The state before the answer to a read that Stage serves. -/
theorem finishRead_clear {d : Dev} {r : Req} {x : Line} (hh : homeClear d r.line = true) (hs : r.src ≠ .debug) :
    ∃ e, finishRead (stageTouch d r.line) r (some x) true = respondRead e r (some x) ∧ Inner d e ∧ SameStage d e ∧ e.out = d.out := by
  obtain ⟨_, _, _, hno⟩ := needsDir_clear hh
  have h1 : Calm (stageTouch d r.line) (countSet (heatSample (stageTouch d r.line) (pageOfLine r.line) true r.heatW) r.slate 2 1) :=
    (calm_heatSample ..).trans (calm_countSet ..)
  have ht : (quad (stageTouch d r.line) (homeOf (pageOfLine r.line))).trans = (quad d (homeOf (pageOfLine r.line))).trans := by
    unfold stageTouch; split
    · rw [quad_stageMod]; split <;> rfl
    · rfl
  refine ⟨countSet (heatSample (stageTouch d r.line) (pageOfLine r.line) true r.heatW) r.slate 2 1, ?_, (inner_stageTouch ..).trans h1.1, ?_, ?_⟩
  · unfold finishRead
    simp only [hs, if_false, if_true]
    rw [transById_none r h1.2 (by rw [ht]; exact hno)]
  · intro l; rw [h1.stage l, stageFind_stageTouch]
  · rw [out_countSet, out_heatSample, out_stageTouch]

/-- A read that Stage answers: the line, no poison, no grant on a line no directory tracks. -/
theorem read_hit {d : Dev} {r : Req} {p : Fin 16} {tag : Nat} {x : Line} (hh : homeClear d r.line = true) (hr : reqRight d r = true)
    (hs : r.src = .host p tag) (ho : r.op = .read) (hk : r.kind ≠ .evc) (hu : (port d p).up = true) (hi : (port d p).upId ≤ r.id)
    (hx : stageFind d r.line = some x) :
    Inner d (enterHome d r) ∧ SameStage d (enterHome d r) ∧ (enterHome d r).out = .memData p tag x false 0 :: d.out := by
  obtain ⟨ht, _, _, _⟩ := needsDir_clear hh
  obtain ⟨e, he, hin, hst, hout⟩ := finishRead_clear (x := x) hh (by rw [hs]; simp)
  rw [enterHome_op hh hr ho hk hx, he]
  have h1 : Calm e (countSet e r.slate 0 64) := calm_countSet ..
  have hi2 := hin.trans h1.1
  have hup : owedTo (countSet e r.slate 0 64) p r = true := by
    simp [owedTo, portUp, hi2.port p, hu, hi]
  have hg : hostGrant (countSet e r.slate 0 64) r = 0 := hostGrant_clear (by rw [hi2.tracked]; exact ht)
  unfold respondRead
  simp only [hs, hup, if_true, hg, Option.isNone_some]
  have h2 := ((calm_send (countSet e r.slate 0 64) (.memData p tag x false 0)).trans (calm_countUp _ (6 * p.val + 0) 64)).trans (calm_countBw _ p.val true 64)
  refine ⟨hi2.trans h2.1, fun l => ?_, ?_⟩
  · exact (h2.stage l).trans ((h1.stage l).trans (hst l))
  · rw [out_countBw]; show Out.memData p tag x false 0 :: (countSet e r.slate 0 64).out = _
    rw [out_countSet, hout]

/-- A CXL.io read that Stage answers: the bytes asked for. -/
theorem ioRead_hit {d : Dev} {r : Req} {p : Fin 16} {tag lo n : Nat} {x : Line} (hh : homeClear d r.line = true) (hr : reqRight d r = true)
    (hs : r.src = .io p tag lo n) (ho : r.op = .read) (hk : r.kind ≠ .evc) (hu : (port d p).up = true) (hi : (port d p).upId ≤ r.id)
    (hio : d.ioReads = []) (hx : stageFind d r.line = some x) :
    Inner d (enterHome d r) ∧ SameStage d (enterHome d r) ∧ (enterHome d r).out = .ioData p tag (lineBytes x lo n) false :: d.out := by
  obtain ⟨e, he, hin, hst, hout⟩ := finishRead_clear (x := x) hh (by rw [hs]; simp)
  rw [enterHome_op hh hr ho hk hx, he]
  have h1 : Calm e (countSet e r.slate 0 64) := calm_countSet ..
  have hi2 := hin.trans h1.1
  have hup : owedTo (countSet e r.slate 0 64) p r = true := by
    simp [owedTo, portUp, hi2.port p, hu, hi]
  have hq : (countSet e r.slate 0 64).ioReads = [] := by rw [hi2]; exact hio
  unfold respondRead
  simp only [hs, hup, if_true, Option.isNone_some, ioPart, hq, List.find?_nil]
  have h2 := ((calm_send (countSet e r.slate 0 64) (.ioData p tag (lineBytes x lo n) false)).trans (calm_countUp _ (6 * p.val + 0) n)).trans (calm_countBw _ p.val true n)
  refine ⟨hi2.trans h2.1, fun l => ?_, ?_⟩
  · exact (h2.stage l).trans ((h1.stage l).trans (hst l))
  · rw [out_countBw]; show Out.ioData p tag (lineBytes x lo n) false :: (countSet e r.slate 0 64).out = _
    rw [out_countSet, hout]

/-! ## Writes -/

theorem dropPoison_clear {d : Dev} {line : Nat} (h : d.poison.all (fun r => !r.covers line) = true) : dropPoison d line = d := by
  have : (d.poison.filterMap fun r =>
      if ¬ r.covers line then some r
      else if r.lines = 1 then none
      else
        let r' := { r with removed := line :: r.removed }
        if r'.removed.length < r'.lines then some r' else none) = d.poison := by
    rw [List.all_eq_true] at h
    have : ∀ L : List PRec, (∀ r ∈ L, (!r.covers line) = true) → (L.filterMap fun r =>
        if ¬ r.covers line then some r
        else if r.lines = 1 then none
        else
          let r' := { r with removed := line :: r.removed }
          if r'.removed.length < r'.lines then some r' else none) = L := by
      intro L hL
      induction L with
      | nil => rfl
      | cons a L ih =>
        have ha := hL a List.mem_cons_self
        rw [Bool.not_eq_true'] at ha
        rw [List.filterMap_cons, ih fun z hz => hL z (List.mem_cons_of_mem _ hz)]
        simp [ha]
    exact this _ h
  unfold dropPoison
  rw [this]

/-- The new content of a line that stands alone in its way. -/
theorem stagePut_own {d : Dev} {line : Nat} {x : Line} (data : Line) (cls : Option Nat) (h : stageOwn d line x = true) :
    ∃ e, stagePut d line data true cls = some e ∧ Inner d e ∧ (∀ q, (quad e q).trans = (quad d q).trans)
      ∧ (∀ l, stageFind e l = if l = line then some data else stageFind d l) ∧ e.out = d.out := by
  unfold stageOwn at h
  split at h
  · rename_i w y hw
    simp only [Bool.and_eq_true, decide_eq_true_eq, List.all_eq_true] at h
    obtain ⟨⟨_, h2⟩, h3⟩ := h
    refine ⟨_, ?_, inner_stageMod d line (fun a => asPut a w line { data, dirty := true }), ?_, ?_, rfl⟩
    · unfold stagePut
      have hf : asFind (tabGet {} (quad d (homeOf (pageOfLine line))).stage (stageSet line)) line = some (w, y) := hw
      simp only [hf, h2, not_true_eq_false, and_false, if_false, Bool.true_or]
    · intro q; rw [quad_stageMod]; split <;> rfl
    · intro l
      have key : stageWay (stageMod d line fun a => asPut a w line { data, dirty := true }) l =
          if l = line then some (w, { data, dirty := true }) else stageWay d l := by
        rw [stageWay_stageMod]
        split
        · rename_i hl
          rw [asFind_asPut _ _ _ _ (fun z hz => (h3 z hz).1) l (fun z hz => (h3 z hz).2)]
          split
          · rfl
          · unfold stageWay; rw [hl.1, hl.2]
        · rename_i hl
          have : l ≠ line := fun e => hl (by rw [e]; exact ⟨rfl, rfl⟩)
          rw [if_neg this]
      unfold stageFind
      rw [key, wbEntry_stageMod]
      by_cases hl : l = line
      · simp only [if_pos hl]
      · simp only [if_neg hl]
  · exact absurd h (by simp)

theorem stageOwn_find {d : Dev} {line : Nat} {x : Line} (h : stageOwn d line x = true) : stageFind d line = some x := by
  unfold stageOwn at h
  unfold stageFind
  split at h
  · rename_i w y hw
    simp only [Bool.and_eq_true, decide_eq_true_eq] at h
    simp [hw, h.1.1]
  · exact absurd h (by simp)

theorem stageOwn_congr {d e : Dev} {line : Nat} (x : Line) (hs : ∀ q, sameLines (quad d q) (quad e q)) (hr : e.regs = d.regs)
    (hw : ∀ q, (quad e q).waysOut = (quad d q).waysOut) : stageOwn e line x = stageOwn d line x := by
  unfold stageOwn wayEnabled rget
  rw [stageWay_congr hs, (hs _).1, hr]
  simp only [hw]

/-- What a write that is done leaves beside its line: the answer to a host. -/
theorem finishWrite_host {d e : Dev} {r : Req} {p : Fin 16} {tag : Nat} (he : Inner d e)
    (hq : (quad e (homeOf (pageOfLine r.line))).trans = (quad d (homeOf (pageOfLine r.line))).trans) (hh : homeClear d r.line = true)
    (hs : r.src = .host p tag) (hu : (port d p).up = true) (hi : (port d p).upId ≤ r.id) :
    Inner d (finishWrite e r true) ∧ SameStage e (finishWrite e r true) ∧ (finishWrite e r true).out = .memCmp p tag 0 :: e.out := by
  obtain ⟨ht, _, _, hno⟩ := needsDir_clear hh
  have h1 : Calm e (countSet (countSet (heatSample e (pageOfLine r.line) true r.heatW) r.slate 2 1) r.slate 1 64) :=
    ((calm_heatSample ..).trans (calm_countSet ..)).trans (calm_countSet ..)
  unfold finishWrite closeFor
  simp only [if_true]
  rw [transById_none r h1.2 (by rw [hq]; exact hno)]
  have hi2 := he.trans h1.1
  unfold respondWrite
  have hup : owedTo (countSet (countSet (heatSample e (pageOfLine r.line) true r.heatW) r.slate 2 1) r.slate 1 64) p r = true := by
    simp [owedTo, portUp, hi2.port p, hu, hi]
  simp only [hs, hup, if_true]
  rw [hostGrant_clear (by rw [hi2.tracked]; exact ht)]
  have h2 := calm_send (countSet (countSet (heatSample e (pageOfLine r.line) true r.heatW) r.slate 2 1) r.slate 1 64) (.memCmp p tag 0)
  refine ⟨hi2.trans h2.1, fun l => (h2.stage l).trans (h1.stage l), ?_⟩
  show Out.memCmp p tag 0 :: (countSet (countSet (heatSample e (pageOfLine r.line) true r.heatW) r.slate 2 1) r.slate 1 64).out = _
  rw [out_countSet, out_countSet, out_heatSample]

/-- A posted CXL.io write is answered by nothing. -/
theorem finishWrite_io {d e : Dev} {r : Req} {p : Fin 16} {tag lo n : Nat} (he : Inner d e)
    (hq : (quad e (homeOf (pageOfLine r.line))).trans = (quad d (homeOf (pageOfLine r.line))).trans) (hh : homeClear d r.line = true)
    (hs : r.src = .io p tag lo n) :
    Inner d (finishWrite e r true) ∧ SameStage e (finishWrite e r true) ∧ (finishWrite e r true).out = e.out := by
  obtain ⟨_, _, _, hno⟩ := needsDir_clear hh
  have h1 : Calm e (countSet (countSet (heatSample e (pageOfLine r.line) true r.heatW) r.slate 2 1) r.slate 1 64) :=
    ((calm_heatSample ..).trans (calm_countSet ..)).trans (calm_countSet ..)
  unfold finishWrite closeFor
  simp only [if_true]
  rw [transById_none r h1.2 (by rw [hq]; exact hno)]
  unfold respondWrite
  simp only [hs]
  exact ⟨he.trans h1.1, h1.stage, by rw [out_countSet, out_countSet, out_heatSample]⟩

/-- A write at its home, where the page is Open and Stage holds the line. -/
theorem atHome_write {d : Dev} {r : Req} {x : Line} (hh : homeClear d r.line = true) (ho : openLine d r.line = true) (hs : stageOwn d r.line x = true)
    (hw : r.op ≠ .read) (hn : r.op ≠ .none) (hp : r.op ≠ .poisonWrite) :
    ∃ e, atHome d r = writeOpen (mapTouch d (pageOfLine r.line)) r e false ∧ Calm d (mapTouch d (pageOfLine r.line))
      ∧ stageOwn (mapTouch d (pageOfLine r.line)) r.line x = true ∧ (mapTouch d (pageOfLine r.line)).poison.all (fun z => !z.covers r.line) = true
      ∧ (mapTouch d (pageOfLine r.line)).out = d.out := by
  obtain ⟨ht, _, hz, _⟩ := needsDir_clear hh
  unfold openLine at ho
  simp only at ho
  split at ho
  · rename_i e he
    simp only [Bool.and_eq_true, decide_eq_true_eq, Option.isNone_iff_eq_none] at ho
    obtain ⟨⟨⟨h1, h2⟩, h3⟩, h4⟩ := ho
    have hc := calm_mapTouch d (pageOfLine r.line)
    have hwo : ∀ q, (quad (mapTouch d (pageOfLine r.line)) q).waysOut = (quad d q).waysOut := by
      intro q
      unfold mapTouch
      by_cases hq : q = homeOf (pageOfLine r.line)
      · subst hq; rw [quad_qmod_self]
        have key : ∀ set k (s : Quad), (match asFind (tabGet {} s.mapSets set) k with
            | some (w, _) => { s with mapSets := tabMod {} s.mapSets set fun a => asTouch a w }
            | none => s).waysOut = s.waysOut := by
          intro set k s; split <;> rfl
        exact (key _ _ _).trans (key _ _ _)
      · rw [quad_qmod_ne _ _ hq]
    refine ⟨e, ?_, hc, by rw [stageOwn_congr x hc.2 rfl hwo]; exact hs, h4, rfl⟩
    have hz' : ¬ zoneOf d (pageOfLine r.line) = .above := by rw [hz]; decide
    have hg : entryGood (mapTouch d (pageOfLine r.line)) (pageOfLine r.line) e = true := h1
    have hm : moveOn (mapTouch d (pageOfLine r.line)) (pageOfLine r.line) = none := by
      unfold moveOn at h3 ⊢
      rw [(hc.2 _).2.2.2]; exact h3
    have hb : homeWrite d r false = writeOpen (mapTouch d (pageOfLine r.line)) r e false := by
      unfold homeWrite mapLookup
      simp only [hz', if_false, he, hg, not_true_eq_false, h2, hm]
    unfold atHome
    simp only [ht, Bool.and_false, Bool.false_and, Bool.false_eq_true, if_false]
    revert hw hn hp
    cases r.op <;> intro hw hn hp <;> first | exact hb | exact absurd rfl hw | exact absurd rfl hn | exact absurd rfl hp
  · exact absurd ho (by simp)

theorem stageOwn_stageTouch {d : Dev} {line : Nat} {x : Line} (h : stageOwn d line x = true) : stageOwn (stageTouch d line) line x = true := by
  unfold stageTouch
  split
  · rename_i w y hw
    have h1 : stageWay (stageMod d line fun a => asTouch a w) line = stageWay d line := by
      rw [stageWay_stageMod, if_pos ⟨rfl, rfl⟩, asFind_asTouch]; rfl
    have h2 : (tabGet {} (quad (stageMod d line fun a => asTouch a w) (homeOf (pageOfLine line))).stage (stageSet line)).ways
        = (tabGet {} (quad d (homeOf (pageOfLine line))).stage (stageSet line)).ways := by
      rw [quad_stageMod, if_pos rfl, tabGet_tabMod_self]; rfl
    have h3 : ∀ k, wayEnabled (stageMod d line fun a => asTouch a w) (homeOf (pageOfLine line)) (stageSet line) k
        = wayEnabled d (homeOf (pageOfLine line)) (stageSet line) k := by
      intro k; unfold wayEnabled; rw [quad_stageMod, if_pos rfl]; rfl
    unfold stageOwn at h ⊢
    simp only [h1, h2, h3]
    exact h
  · exact h

theorem trans_stageTouch (d : Dev) (line q : Nat) : (quad (stageTouch d line) q).trans = (quad d q).trans := by
  unfold stageTouch; split
  · rw [quad_stageMod]; split <;> rfl
  · rfl

/-- The line that a write leaves, from the line Stage held. -/
def written (op : Op) (x : Line) : Line := match op with
  | .write data => data
  | .writePtl data mask => mergeLine x data mask
  | .atomic o bits off operand compare => (lineAtomic x o bits off operand compare).1
  | .read | .poisonWrite | .none => x

/-- A write to an Open line that Stage holds: the new line stands in Stage, and every other line as before. -/
theorem write_hit {d : Dev} {r : Req} {x : Line} (hh : homeClear d r.line = true) (hr : reqRight d r = true) (ho : openLine d r.line = true)
    (hs : stageOwn d r.line x = true) (hk : r.kind ≠ .evc) (hw : (∃ y, r.op = .write y) ∨ ∃ y m, r.op = .writePtl y m) :
    ∃ e, enterHome d r = finishWrite e r true ∧ Inner d e ∧ (∀ q, (quad e q).trans = (quad d q).trans)
      ∧ (∀ l, stageFind e l = if l = r.line then some (written r.op x) else stageFind d l) ∧ e.out = d.out := by
  have hn : r.op ≠ .none := by rcases hw with ⟨y, h⟩ | ⟨y, m, h⟩ <;> rw [h] <;> simp
  have hrd : r.op ≠ .read := by rcases hw with ⟨y, h⟩ | ⟨y, m, h⟩ <;> rw [h] <;> simp
  have hpz : r.op ≠ .poisonWrite := by rcases hw with ⟨y, h⟩ | ⟨y, m, h⟩ <;> rw [h] <;> simp
  rw [enterHome_clear d r hh hr]
  simp only [hk, hn, or_self, if_false]
  obtain ⟨e, he, hc, hso, hpo, hout⟩ := atHome_write hh ho hs hrd hn hpz
  rw [he]
  have hf := stageOwn_find hso
  generalize mapTouch d (pageOfLine r.line) = d1 at *
  rcases hw with ⟨y, h⟩ | ⟨y, m, h⟩
  · obtain ⟨f, hf1, hf2, hf3, hf4, hf5⟩ := stagePut_own y (some r.cls) hso
    refine ⟨dropPoison f r.line, ?_, ?_, ?_, ?_, ?_⟩
    · unfold writeOpen
      simp only [h, hf, Option.isSome_some, true_or, if_true, hf1]
    all_goals rw [dropPoison_clear (by rw [hf2]; exact hpo)]
    · exact hc.1.trans hf2
    · intro q; rw [hf3, (hc.2 q).2.2.1]
    · intro l; rw [hf4, h, hc.stage l]; rfl
    · rw [hf5, hout]
  · obtain ⟨f, hf1, hf2, hf3, hf4, hf5⟩ := stagePut_own (mergeLine x y m) (some r.cls) (stageOwn_stageTouch hso)
    refine ⟨f, ?_, (hc.1.trans (inner_stageTouch ..)).trans hf2, ?_, ?_, ?_⟩
    · unfold writeOpen
      simp only [h, hf]
      unfold serveData
      simp only [h, true_or, if_true, hf1]
    · intro q; rw [hf3, trans_stageTouch, (hc.2 q).2.2.1]
    · intro l; rw [hf4, h, stageFind_stageTouch, hc.stage l]; rfl
    · rw [hf5, out_stageTouch, hout]

/-- An atomic on an Open line that Stage holds. -/
theorem atomic_hit {d : Dev} {r : Req} {x : Line} {o : AtomOp} {bits off : Nat} {operand compare : BitVec 128} (hh : homeClear d r.line = true)
    (hr : reqRight d r = true) (ho : openLine d r.line = true) (hs : stageOwn d r.line x = true) (hk : r.kind ≠ .evc)
    (h : r.op = .atomic o bits off operand compare) :
    ∃ e, enterHome d r = finishAtomic e r (lineAtomic x o bits off operand compare).2 false true ∧ Inner d e
      ∧ (∀ q, (quad e q).trans = (quad d q).trans)
      ∧ (∀ l, stageFind e l = if l = r.line then some (lineAtomic x o bits off operand compare).1 else stageFind d l) ∧ e.out = d.out := by
  rw [enterHome_clear d r hh hr]
  have hn : r.op ≠ .none := by rw [h]; simp
  simp only [hk, hn, or_self, if_false]
  obtain ⟨e, he, hc, hso, hpo, hout⟩ := atHome_write hh ho hs (by rw [h]; simp) hn (by rw [h]; simp)
  rw [he]
  have hf := stageOwn_find hso
  generalize mapTouch d (pageOfLine r.line) = d1 at *
  obtain ⟨f, hf1, hf2, hf3, hf4, hf5⟩ := stagePut_own (lineAtomic x o bits off operand compare).1 (some r.cls) (stageOwn_stageTouch hso)
  refine ⟨f, ?_, (hc.1.trans (inner_stageTouch ..)).trans hf2, ?_, ?_, ?_⟩
  · unfold writeOpen
    simp only [h, hf]
    unfold serveData
    simp only [h, true_or, if_true, hf1]
  · intro q; rw [hf3, trans_stageTouch, (hc.2 q).2.2.1]
  · intro l; rw [hf4, stageFind_stageTouch, hc.stage l]
  · rw [hf5, out_stageTouch, hout]

/-- The answer to an atomic of a host. -/
theorem finishAtomic_io {d e : Dev} {r : Req} {p : Fin 16} {tag lo n : Nat} (orig : BitVec 128) (he : Inner d e)
    (hq : (quad e (homeOf (pageOfLine r.line))).trans = (quad d (homeOf (pageOfLine r.line))).trans) (hh : homeClear d r.line = true)
    (hs : r.src = .io p tag lo n) (hu : (port d p).up = true) (hi : (port d p).upId ≤ r.id) :
    Inner d (finishAtomic e r orig false true) ∧ SameStage e (finishAtomic e r orig false true)
      ∧ (finishAtomic e r orig false true).out = .ioAtomic p tag orig :: e.out := by
  obtain ⟨_, _, _, hno⟩ := needsDir_clear hh
  have h1 := calm_heatSample e (pageOfLine r.line) true r.heatW
  unfold finishAtomic closeFor
  rw [transById_none r h1.2 (by rw [hq]; exact hno)]
  have hi2 := he.trans h1.1
  unfold respondAtomic
  have hup : owedTo (heatSample e (pageOfLine r.line) true r.heatW) p r = true := by
    simp [owedTo, portUp, hi2.port p, hu, hi]
  simp only [hs, hup, if_true]
  have h2 := calm_send (heatSample e (pageOfLine r.line) true r.heatW) (.ioAtomic p tag orig)
  refine ⟨hi2.trans h2.1, fun l => (h2.stage l).trans (h1.stage l), ?_⟩
  show Out.ioAtomic p tag orig :: (heatSample e (pageOfLine r.line) true r.heatW).out = _
  rw [out_heatSample]

end Sys2Proof.Machine
end

