-- ==== Sys2Proof/Laws/Memory.lean ====
section
/-! SUPPORT. DRAM as memory: a read after a write, the other places, and the canonical form that every operation on it keeps. -/

namespace Sys2Proof.Machine

theorem dramBase_congr {d e : Dev} (h : e.subFill = d.subFill) (loc : Nat) : dramBase e loc = dramBase d loc := by simp only [dramBase, h]

@[simp] theorem dramGet_dramPut_self (d : Dev) (loc : Nat) (w : Stored) : dramGet (dramPut d loc w) loc = w := by
  unfold dramGet
  rw [dramBase_congr (d := d) (e := dramPut d loc w) rfl]
  exact tabGet_tabPut_self _ _ _ _

theorem dramGet_dramPut_ne (d : Dev) {loc k : Nat} (w : Stored) (h : k ≠ loc) : dramGet (dramPut d loc w) k = dramGet d k := by
  unfold dramGet
  rw [dramBase_congr (d := d) (e := dramPut d loc w) rfl]
  exact tabGet_tabPut_ne _ _ _ _ h

/-- The canonical form of a table in which each unlisted key has a reading of its own. -/
def formOf (base : Nat → Stored) (t : Tab Stored) : Prop := (∀ e ∈ t, e.2 ≠ base e.1) ∧ (t.map (·.1)).Pairwise (· < ·)

theorem wf_iff (d : Dev) : Memory.wf d = true ↔ formOf (dramBase d) d.dram := by simp [Memory.wf, formOf]

theorem formOf_filter {base : Nat → Stored} {t : Tab Stored} (p : Nat × Stored → Bool) (h : formOf base t) : formOf base (t.filter p) :=
  ⟨fun e he => h.1 e (List.mem_filter.mp he).1, h.2.sublist (List.Sublist.map _ List.filter_sublist)⟩

theorem mem_tabIns {α : Type} {t : Tab α} {k : Nat} {v : α} {e : Nat × α} (h : e ∈ tabIns t k v) : e = (k, v) ∨ e ∈ t := by
  induction t with
  | nil => simpa [tabIns] using h
  | cons a t ih =>
    unfold tabIns at h
    split at h
    · simpa using h
    · split at h
      · rcases List.mem_cons.mp h with h | h
        · exact .inl h
        · exact .inr (List.mem_cons_of_mem _ h)
      · rcases List.mem_cons.mp h with h | h
        · exact .inr (h ▸ List.mem_cons_self)
        · exact (ih h).imp id (List.mem_cons_of_mem _)

theorem formOf_tabIns {base : Nat → Stored} {t : Tab Stored} {k : Nat} {v : Stored} (hv : v ≠ base k) (h : formOf base t) :
    formOf base (tabIns t k v) := by
  refine ⟨fun e he => ?_, ?_⟩
  · rcases mem_tabIns he with rfl | he
    · exact hv
    · exact h.1 e he
  · have hp := h.2
    clear h hv
    induction t with
    | nil => simp [tabIns]
    | cons a t ih =>
      obtain ⟨i, w⟩ := a
      rw [List.map_cons, List.pairwise_cons] at hp
      unfold tabIns
      split
      · rename_i hki
        rw [List.map_cons, List.map_cons, List.pairwise_cons, List.pairwise_cons]
        refine ⟨fun x hx => ?_, hp⟩
        rcases List.mem_cons.mp hx with rfl | hx
        · exact hki
        · exact Nat.lt_trans hki (hp.1 x hx)
      · split
        · rename_i hki
          subst hki
          rw [List.map_cons, List.pairwise_cons]; exact hp
        · rename_i h1 h2
          rw [List.map_cons, List.pairwise_cons]
          refine ⟨fun x hx => ?_, ih hp.2⟩
          obtain ⟨e, he, rfl⟩ := List.mem_map.mp hx
          rcases mem_tabIns he with rfl | he
          · show i < k; omega
          · exact hp.1 _ (List.mem_map.mpr ⟨e, he, rfl⟩)

/-- A write of one place keeps the canonical form. -/
theorem wf_dramPut (d : Dev) (loc : Nat) (w : Stored) (h : Memory.wf d = true) : Memory.wf (dramPut d loc w) = true := by
  rw [wf_iff] at h ⊢
  have hb : dramBase (dramPut d loc w) = dramBase d := funext fun k => dramBase_congr rfl k
  rw [hb]
  show formOf (dramBase d) (tabPut (dramBase d loc) d.dram loc w)
  unfold tabPut
  split
  · exact formOf_filter _ h
  · rename_i hw; exact formOf_tabIns hw h

/-- A device with the same places and the same filled sub-channels is in the same form. -/
theorem wf_congr {d e : Dev} (h1 : e.dram = d.dram) (h2 : e.subFill = d.subFill) : Memory.wf e = Memory.wf d := by
  have hb : dramBase e = dramBase d := funext fun k => dramBase_congr h2 k
  simp only [Memory.wf, h1, hb]

theorem wf_umod (d : Dev) (u : Nat) (f : Sub → Sub) : Memory.wf (umod d u f) = Memory.wf d := wf_congr rfl rfl

/-- A write that a fenced sub-channel may discard keeps the form. -/
theorem wf_dramWrite (d : Dev) (loc : Nat) (w : Stored) (h : Memory.wf d = true) : Memory.wf (dramWrite d loc w) = true := by
  unfold dramWrite
  dsimp only
  split
  · exact (wf_congr (d := d) rfl rfl).trans h
  · exact wf_dramPut d loc w h

/-- A write that enters the write queue keeps the form. -/
theorem wf_pushWrite (d : Dev) (loc : Nat) (w : Stored) (h : Memory.wf d = true) : Memory.wf (pushWrite d loc w) = true := by
  unfold pushWrite
  dsimp only
  repeat' split
  · exact wf_dramWrite d loc w h
  · rw [wf_umod]; exact h
  · rw [wf_umod]; exact h
  · exact wf_dramWrite d loc w h

/-- Issuing every queued write of a sub-channel keeps the form. -/
theorem wf_drainSub (d : Dev) (u : Nat) (h : Memory.wf d = true) : Memory.wf (drainSub d u) = true := by
  unfold drainSub
  generalize (subc d u).wq = ws
  have h' : Memory.wf (umod d u fun s => { s with wq := [] }) = true := by rw [wf_umod]; exact h
  revert h'
  generalize (umod d u fun s => { s with wq := [] }) = e
  induction ws generalizing e with
  | nil => exact id
  | cons a ws ih => exact fun h' => ih _ (wf_dramWrite e a.loc a.word h')

theorem logEvents_dram (d : Dev) (ps : List Nat) (log : Nat) (ev : Ev) : (logEvents d ps log ev).dram = d.dram := by
  unfold logEvents
  induction ps generalizing d with
  | nil => rfl
  | cons a ps ih => exact ih (logEvent d a log ev)

theorem logEvents_subFill (d : Dev) (ps : List Nat) (log : Nat) (ev : Ev) : (logEvents d ps log ev).subFill = d.subFill := by
  unfold logEvents
  induction ps generalizing d with
  | nil => rfl
  | cons a ps ih => exact ih (logEvent d a log ev)

theorem wf_dramPuts (l : List Nat) (w : Stored) (d : Dev) (h : Memory.wf d = true) :
    Memory.wf (l.foldl (fun d l => dramPut d l w) d) = true := by
  induction l generalizing d with
  | nil => exact h
  | cons a l ih => exact ih (dramPut d a w) (wf_dramPut d a w h)

/-- Filling a sub-channel with poison keeps the form: its places are no longer listed, and what they read as changes. -/
theorem wf_fillSub (d : Dev) (u : Nat) (h : Memory.wf d = true) : Memory.wf (fillSub d u) = true := by
  unfold fillSub
  dsimp only
  rw [wf_congr (logEvents_dram _ _ _ _) (logEvents_subFill _ _ _ _)]
  refine (wf_congr rfl rfl).trans (wf_dramPuts _ _ _ ?_)
  rw [wf_iff] at h ⊢
  refine ⟨fun e he => ?_, (formOf_filter _ h).2⟩
  obtain ⟨hm, hs⟩ := List.mem_filter.mp he
  have hs' : locSub e.1 ≠ u := by simpa using hs
  have hb := h.1 e hm
  have hbit : (d.subFill ||| BitVec.ofNat 32 (2 ^ u)).getLsbD (locSub e.1) = d.subFill.getLsbD (locSub e.1) := by
    rw [BitVec.getLsbD_or, BitVec.getLsbD_ofNat, Nat.testBit_two_pow]
    simp [Ne.symm hs']
  simpa only [dramBase, hbit] using hb

/-- The memory of the block right after reset lists nothing. -/
theorem wf_reset : Memory.wf State.reset.dev = true := by decide

end Sys2Proof.Machine
end

