-- ==== Sys2Proof/Laws/RegMap.lean ====
section
/-! SUPPORT. The register map: every register of a page is found at its own offset and lies on its page, and which pages lie outside the
device. -/

namespace Sys2Proof.Machine

/-- The search of `findReg`, over any list of registers. -/
def findIn (l : List RName) (off : Nat) : Option (RName × Nat) :=
  l.findSome? fun n =>
    let r := n.row
    if off < r.off then none
    else if r.stride = 0 then (if off = r.off then some (n, 0) else none)
    else if (off - r.off) % r.stride = 0 ∧ (off - r.off) / r.stride < r.count then some (n, (off - r.off) / r.stride)
    else none

/-- Every register of a list, at every index, lies on a page and is the one found at its offset. -/
def spread (l : List RName) : Bool :=
  l.all fun n => (List.range n.row.count).all fun i =>
    decide (n.row.off + i * n.row.stride < 4096) && decide (findIn l (n.row.off + i * n.row.stride) = some (n, i))

set_option maxRecDepth 100000 in
theorem spread_lists : [regsPgdir, regsTime, regsFlt, regsGaffer, regsPwr, regsFeed, regsCal, regsSbi, regsMgt, regsSeci, regsPace, regsSlate,
    regsDolly0, regsDolly1, regsMap, regsStage, regsPack, regsSeal, regsSeal.filter fun n => n.row.off < 0x080, regsCoat,
    regsCoat.filter fun n => n.row.off < 0x0C0, regsDir, regsDir.filter fun n => n.row.off < 0x080, regsNme, regsDmc, regsDphy, regsHpt, regsMwl,
    regsMwt, regsDaily0, regsView, []].all (fun l => spread (regsHeader ++ l)) = true := by decide +kernel

theorem spread_block (b : Block) : spread (regsHeader ++ b.regs) = true := by
  have h := spread_lists
  simp only [List.all_cons, List.all_nil, Bool.and_eq_true] at h
  cases b <;> simp only [Block.regs] <;> (repeat' split) <;> simp_all

theorem spread_at {b : Block} {n : RName} {i : Nat} (hn : n ∈ regsHeader ++ b.regs) (hi : i < n.row.count) :
    n.row.off + i * n.row.stride < 4096 ∧ findIn (regsHeader ++ b.regs) (n.row.off + i * n.row.stride) = some (n, i) := by
  have h := spread_block b
  simp only [spread, List.all_eq_true, List.mem_range, Bool.and_eq_true, decide_eq_true_eq] at h
  exact h n hn i hi

/-- A register lies on the page of its block. -/
theorem regKey_page {b : Block} {n : RName} {i : Nat} (hn : n ∈ regsHeader ++ b.regs) (hi : i < n.row.count) :
    regKey b n i / 4096 = b.page := by
  have h := (spread_at hn hi).1
  unfold regKey; omega

/-- A register is the one found at its offset. -/
theorem findReg_regKey {b : Block} {n : RName} {i : Nat} (hn : n ∈ regsHeader ++ b.regs) (hi : i < n.row.count) :
    findReg b (regKey b n i % 4096) = some (n, i) := by
  obtain ⟨h, hf⟩ := spread_at hn hi
  have : regKey b n i % 4096 = n.row.off + i * n.row.stride := by unfold regKey; omega
  rw [this]; exact hf

/-- The block of a page that is not a brick's, a fabric table's or outside a quadrant is the one whose page it is. -/
theorem blockAt_ne {mw : BitVec 8} {p : Nat} {b : Block} (h : blockAt mw p = some b) (h2 : p ≠ 2) (h5 : p ≠ 5) (h9 : p ≠ 9) :
    b ≠ .flt ∧ b ≠ .feed ∧ b ≠ .seci := by
  unfold blockAt at h
  split at h
  · rename_i hp
    have : p = 0 ∨ p = 1 ∨ p = 3 ∨ p = 4 ∨ p = 6 ∨ p = 7 ∨ p = 8 := by omega
    rcases this with rfl | rfl | rfl | rfl | rfl | rfl | rfl <;> cases h <;> decide
  · repeat' split at h
    all_goals first
      | (cases h; simp; done)
      | (cases h; split <;> simp; done)
      | (try dsimp only at h
         have hlt : p % 8 < 8 := Nat.mod_lt _ (by decide)
         generalize p % 8 = k at h hlt
         have : k = 0 ∨ k = 1 ∨ k = 2 ∨ k = 3 ∨ k = 4 ∨ k = 5 ∨ k = 6 ∨ k = 7 := by omega
         rcases this with rfl | rfl | rfl | rfl | rfl | rfl | rfl | rfl <;> cases h <;> simp)

end Sys2Proof.Machine
end

