-- ==== Sys2Proof/Laws/Window.lean ====
section
/-! SUPPORT. What an admitted write of a register does, said once for every register command (R25, R35, R36). -/

namespace Sys2Proof.Machine

theorem admitted_presents {s : State} {p : Path} {b : Block} {n : RName} {i : Nat} (h : admitted s p b n i = true) :
    presents s.dev p = true := by
  simp only [admitted, Bool.and_eq_true] at h; exact h.1.1

/-- An admitted write of a register that is not part of a 64-bit pair does what `writeReg` says, then the step settles. -/
theorem writeCmd_admitted {s : State} {p : Path} {b : Block} {n : RName} {i : Nat} (w : Word) (h : admitted s p b n i = true)
    (hf : findReg b (regKey b n i % 4096) = some (n, i)) (hh : highOf n = none) (hl : lowOf n = none) :
    writeCmd s p (regKey b n i) w = .next (wrote p b n (writeReg s p b n i w) i) := by
  simp only [admitted, Bool.and_eq_true, decide_eq_true_eq] at h
  obtain ⟨⟨hp, hb⟩, hr⟩ := h
  have hw : winWrite s { path := p, off := regKey b n i, bytes := 4, write := true } w = (writeReg s p b n i w, none) := by
    unfold winWrite
    simp only [hr, hb, writeAt, hf, hh, hl]
  unfold writeCmd
  simp only [hp, not_true_eq_false, if_false, hw, winDone, wrote, answered, settled]
  split <;> rfl

/-- A write that the window refuses records the refusal and does nothing else (R30, R36). -/
theorem writeCmd_refused {s : State} {p : Path} {off : Nat} {bytes c : Nat} (w : Word) (hp : presents s.dev p = true)
    (hc : refusal s { path := p, off, bytes, write := true } = some c) (hs : p ≠ .sideband) :
    writeCmd s p off w bytes = .next (onDev s (winRefuse s.dev { path := p, off, bytes, write := true } c)) := by
  have hw : winWrite s { path := p, off, bytes, write := true } w =
      ({ s with dev := winRefuse s.dev { path := p, off, bytes, write := true } c }, some c) := by
    unfold winWrite; simp only [hc]
  unfold writeCmd
  simp only [hp, not_true_eq_false, if_false, hw, winDone, onDev, settled, hs]

end Sys2Proof.Machine
end

