-- ==== Sys2Proof/Laws/Outside.lean ====
section
/-! SUPPORT. What lies outside the device (the queue, the feed controller, the life-cycle store): which operations leave it alone. -/

namespace Sys2Proof.Machine

/-- The answer is a next state in which only the device differs. -/
def DeviceOnly (s : State) (o : Host.Outcome State Fault Refusal) : Prop := ∃ d, o = .next { s with dev := d }

theorem deviceOnly_next (s : State) (d : Dev) : DeviceOnly s (.next { s with dev := d }) := ⟨d, rfl⟩
theorem deviceOnly_done (s : State) (d : Dev) : DeviceOnly s (done s d) := ⟨_, rfl⟩
theorem deviceOnly_still (s : State) : DeviceOnly s (still s) := ⟨s.dev, rfl⟩
theorem deviceOnly_doneIf (s : State) (c : Bool) (f : Dev → Dev) : DeviceOnly s (doneIf s c f) := by
  unfold doneIf; split
  · exact deviceOnly_done s _
  · exact deviceOnly_still s
theorem deviceOnly_ite (s : State) (c : Prop) [Decidable c] {a b : Host.Outcome State Fault Refusal} (ha : DeviceOnly s a) (hb : DeviceOnly s b) :
    DeviceOnly s (if c then a else b) := by split <;> assumption

/-- A read through the window changes the device alone. -/
theorem deviceOnly_readCmd (s : State) (p : Path) (off bytes : Nat) (slate : Option Nat) : DeviceOnly s (readCmd s p off bytes slate) := by
  have hr : ∀ a, ∃ d, (winRead s a).1 = { s with dev := d } := fun a => by
    unfold winRead
    split
    · exact ⟨_, rfl⟩
    · exact ⟨s.dev, rfl⟩
    · exact ⟨_, rfl⟩
  unfold readCmd
  split
  · exact deviceOnly_still s
  · obtain ⟨d, e⟩ := hr { path := p, off, bytes, slate }
    generalize winRead s { path := p, off, bytes, slate } = x at e
    obtain ⟨x1, x2⟩ := x
    subst e
    exact ⟨_, rfl⟩

/-- The blocks whose registers reach beyond the device. -/
def outerBlock (b : Block) : Bool := b = .seci || b = .feed || b = .flt

theorem writeReg_inner (s : State) (p : Path) (b : Block) (n : RName) (i : Nat) (w : Word) (h : outerBlock b = false) :
    ∃ d, writeReg s p b n i w = { s with dev := d } := by
  have hs : ∀ t, stateWrite s p b n w = some t → ∃ d, t = { s with dev := d } := by
    unfold stateWrite
    intro t ht
    split at ht
    case h_5 => exact ⟨_, (Option.some.inj ht).symm⟩
    all_goals first | (exfalso; revert h; decide) | exact absurd ht (by simp)
  unfold writeReg
  extract_lets d
  split
  · exact ⟨_, rfl⟩
  · split
    · exact ⟨_, rfl⟩
    · split
      · exact ⟨_, rfl⟩
      · split
        · exact ⟨_, rfl⟩
        · split
          · exact ⟨_, rfl⟩
          · split
            · rename_i t ht; exact hs t ht
            · exact ⟨_, rfl⟩

theorem writeAt_inner (s : State) (p : Path) (b : Block) (off : Nat) (w : Word) (h : outerBlock b = false) :
    ∃ d, writeAt s p b off w = { s with dev := d } := by
  unfold writeAt
  extract_lets k
  split
  · exact ⟨s.dev, rfl⟩
  · split
    · exact ⟨_, rfl⟩
    · split
      · split
        · rename_i t _ n i _ _ _ lo _ _ _ o x _ _
          obtain ⟨d1, e1⟩ := writeReg_inner t p b lo i x h
          rw [e1]
          obtain ⟨d2, e2⟩ := writeReg_inner { t with dev := d1 } p b n i w h
          exact ⟨d2, e2⟩
        · exact writeReg_inner s p b _ _ w h
      · exact writeReg_inner s p b _ _ w h
    · exact writeReg_inner s p b _ _ w h

/-- A write through the window of a page whose registers all lie in the device changes the device alone. -/
theorem deviceOnly_writeCmd (s : State) (p : Path) (off : Nat) (w : Word) (bytes : Nat)
    (h : ∀ b, blockOf s.dev (off / 4096) = some b → outerBlock b = false) : DeviceOnly s (writeCmd s p off w bytes) := by
  have hw : ∃ d, (winWrite s { path := p, off, bytes, write := true } w).1 = { s with dev := d } := by
    unfold winWrite
    split
    · rename_i b _ hb; exact writeAt_inner s p b off w (h b hb)
    · exact ⟨s.dev, rfl⟩
    · exact ⟨_, rfl⟩
  unfold writeCmd
  split
  · exact deviceOnly_still s
  · obtain ⟨d, e⟩ := hw
    generalize winWrite s { path := p, off, bytes, write := true } w = x at e
    obtain ⟨x1, x2⟩ := x
    subst e
    dsimp only
    split <;> exact ⟨_, rfl⟩

/-- A register command on a page whose registers all lie in the device changes the device alone. -/
theorem deviceOnly_regCmd (s : State) (p : Path) (b : Block) (n : RName) (w : Word) (i : Nat) (hn : n ∈ regsHeader ++ b.regs)
    (hi : i < n.row.count) (h2 : b.page ≠ 2) (h5 : b.page ≠ 5) (h9 : b.page ≠ 9) : DeviceOnly s (regCmd s p b n w i) := by
  refine deviceOnly_writeCmd s p _ w 4 fun c hc => ?_
  rw [regKey_page hn hi] at hc
  obtain ⟨ha, hb, hd⟩ := blockAt_ne hc h2 h5 h9
  simp [outerBlock, ha, hb, hd]

/-- A mailbox command, a flit and a packet change the device alone. -/
theorem deviceOnly_mbDo (s : State) (p : Nat) (f : Dev → Dev) : DeviceOnly s (mbDo s p f) := deviceOnly_doneIf ..

theorem deviceOnly_flitRow (s : State) (b : Fin 8) (f : BitVec 2048) (is : FlitKind → Bool) (act : Dev → Hdr → List (BitVec 128) → Dev) :
    DeviceOnly s (flitRow s b f is act) := by
  unfold flitRow
  generalize openFlit s.dev b f = x
  obtain ⟨k, h, l⟩ := x
  exact deviceOnly_doneIf ..

theorem deviceOnly_mwRow (s : State) (b : Fin 8) (slots : List (BitVec 128)) (op : Nat) (act : Dev → Dev) :
    DeviceOnly s (mwRow s b slots op act) := deviceOnly_doneIf ..

end Sys2Proof.Machine
end

