-- ==== Sys2Proof/Laws/RegCmd.lean ====
section
/-! SUPPORT. What the commands that write a register do once the window admits them: one lemma for ordinary registers, one for each kind that
starts something, one for RUN_CTL (R35, R40), and the bits of a coded write. -/

namespace Sys2Proof.Machine

theorem page_lt {mw : BitVec 8} {p : Nat} {b : Block} (h : blockAt mw p = some b) : p < 256 := by
  unfold blockAt at h
  repeat' split at h
  all_goals first | omega | cases h

theorem admitted_block {s : State} {p : Path} {b : Block} {n : RName} {i : Nat} (h : admitted s p b n i = true) :
    blockOf s.dev (regKey b n i / 4096) = some b := by
  simp only [admitted, Bool.and_eq_true, decide_eq_true_eq] at h; exact h.1.2

theorem regOff_toNat {b : Block} {n : RName} {i : Nat} {mw : BitVec 8} (h : blockAt mw (regKey b n i / 4096) = some b) :
    (regOff b n i).toNat = regKey b n i := by
  have := page_lt h
  unfold regOff
  rw [BitVec.toNat_ofNat, Nat.mod_eq_of_lt]; omega

/-- The bits of a coded write (R35). -/
theorem coded_bit (r : RegRow) (sec : Bool) (old w : Word) (k : Nat) : (coded r sec old w).getLsbD k =
    (w.getLsbD k && r.w1s.getLsbD k || !(w.getLsbD k && r.w1c.getLsbD k)
      && (if r.rw.getLsbD k || sec && r.sw.getLsbD k then w.getLsbD k else old.getLsbD k)) := by
  by_cases hk : k < 32
  · unfold coded
    simp only [BitVec.getLsbD_or, BitVec.getLsbD_and, BitVec.getLsbD_not, hk, decide_true]
    cases sec <;> simp <;> cases w.getLsbD k <;> cases r.rw.getLsbD k <;> cases r.w1s.getLsbD k <;> cases r.w1c.getLsbD k
      <;> cases r.sw.getLsbD k <;> simp
  · have h : ∀ v : Word, v.getLsbD k = false := fun v => BitVec.getLsbD_of_ge v k (by omega)
    simp [h]

/-- An admitted register command whose register is on its page and no part of a 64-bit pair does what the write of the register says. -/
theorem regCmd_admitted {s : State} {p : Path} {b : Block} {n : RName} {i : Nat} (w : Word) (ha : admitted s p b n i = true)
    (hn : n ∈ regsHeader ++ b.regs) (hi : i < n.row.count) (h7 : highOf n = none) (h8 : lowOf n = none) :
    regCmd s p b n w i = .next (wrote p b n (writeReg s p b n i w) i) := writeCmd_admitted w ha (findReg_regKey hn hi) h7 h8

theorem writeReg_header {s : State} {p : Path} {b : Block} {n : RName} {i : Nat} {w : Word} {d : Dev} (h1 : n.row.profile = false)
    (h2 : headerWrite s.dev b n w = some d) : writeReg s p b n i w = withDev s d := by
  unfold writeReg profileLoad
  simp only [h1, Bool.false_and, Bool.false_eq_true, if_false, h2, withDev]

theorem writeReg_capture {s : State} {p : Path} {b : Block} {n : RName} {i : Nat} {w : Word} (h1 : n.row.profile = false)
    (h2 : headerWrite s.dev b n w = none) (h3 : captureOf n ≠ []) :
    writeReg s p b n i w = withDev s (captureWrite s.dev b (captureOf n) w) := by
  unfold writeReg profileLoad
  simp only [h1, Bool.false_and, Bool.false_eq_true, if_false, h2, withDev]
  rw [if_pos h3]

theorem writeReg_quad {s : State} {p : Path} {b : Block} {n : RName} {i : Nat} {w : Word} {d : Dev} (h1 : n.row.profile = false)
    (h2 : headerWrite s.dev b n w = none) (h3 : captureOf n = []) (h4 : quadWrite s.dev p b n i w = some d) :
    writeReg s p b n i w = withDev s d := by
  unfold writeReg profileLoad
  simp only [h1, Bool.false_and, Bool.false_eq_true, if_false, h2, h3, h4, withDev]
  simp

theorem writeReg_device {s : State} {p : Path} {b : Block} {n : RName} {i : Nat} {w : Word} {d : Dev} (h1 : n.row.profile = false)
    (h2 : headerWrite s.dev b n w = none) (h3 : captureOf n = []) (h4 : quadWrite s.dev p b n i w = none)
    (h5 : deviceWrite s.dev p b n i w = some d) : writeReg s p b n i w = withDev s d := by
  unfold writeReg profileLoad
  simp only [h1, Bool.false_and, Bool.false_eq_true, if_false, h2, h3, h4, h5, withDev]
  simp

theorem writeReg_state {s t : State} {p : Path} {b : Block} {n : RName} {i : Nat} {w : Word} (h1 : n.row.profile = false)
    (h2 : headerWrite s.dev b n w = none) (h3 : captureOf n = []) (h4 : quadWrite s.dev p b n i w = none)
    (h5 : deviceWrite s.dev p b n i w = none) (h6 : stateWrite s p b n w = some t) : writeReg s p b n i w = t := by
  unfold writeReg profileLoad
  simp only [h1, Bool.false_and, Bool.false_eq_true, if_false, h2, h3, h4, h5, h6]
  simp

/-- The write of an ordinary register. -/
theorem writeReg_ordinary {s : State} {p : Path} {b : Block} {n : RName} {i : Nat} {w : Word} (h : ordinary s p b n i w = true) :
    writeReg s p b n i w = withDev s (codedWrite s.dev (decide (p = .secure)) b n i w) := by
  simp only [ordinary, Bool.and_eq_true, decide_eq_true_eq, Bool.not_eq_true'] at h
  obtain ⟨⟨⟨⟨⟨⟨⟨⟨h1, h2⟩, h3⟩, h4⟩, h5⟩, h6⟩, _⟩, _⟩, _⟩ := h
  unfold writeReg
  simp only [h1, h2, h3, h4, h5, h6]; rfl

/-- An admitted write of RUN_CTL is the request that `runCtlWrite` serves. -/
theorem runCmd_admitted {s : State} {p : Path} {b : Block} (v k : Word) (ha : admitted s p b .hdrRunCtl = true) :
    runCmd s p (BitVec.ofNat 8 b.page) v k = .next (wrote p b .hdrRunCtl (withDev s (runCtlWrite s.dev b (v ||| k)))) := by
  have hn : RName.hdrRunCtl ∈ regsHeader ++ b.regs := by simp [regsHeader]
  have hi : 0 < RName.hdrRunCtl.row.count := by decide
  have hpg := page_lt (admitted_block ha)
  have hk : regKey b .hdrRunCtl 0 = b.page * 4096 + 8 := by simp [regKey, RName.row]
  rw [regKey_page hn hi] at hpg
  unfold runCmd
  rw [show (BitVec.ofNat 8 b.page).toNat * 4096 + 8 = regKey b .hdrRunCtl 0 by rw [hk, BitVec.toNat_ofNat, Nat.mod_eq_of_lt hpg]]
  rw [writeCmd_admitted _ ha (findReg_regKey hn hi) (by decide) (by decide)]
  rw [writeReg_header (d := runCtlWrite s.dev b (v ||| k)) (by decide) rfl]

theorem fld_or (v : Word) (k : Nat) (hk : k < 16) (h : fld v 3 0 = 0) : fld (v ||| BitVec.ofNat 32 k) 3 0 = k := by
  unfold fld at *
  simp only [BitVec.toNat_or, BitVec.toNat_ofNat, Nat.shiftRight_zero] at *
  have hk2 : k % 2 ^ 32 = k := Nat.mod_eq_of_lt (by omega)
  rw [hk2, show (3 + 1 - 0) = 4 from rfl] at *
  rw [Nat.or_mod_two_pow, h, Nat.mod_eq_of_lt (by omega : k < 2 ^ 4)]; simp

end Sys2Proof.Machine
end

