-- ==== Sys2Proof/Laws/Stored.lean ====
section
/-! SUPPORT. What is encoded and sealed for DRAM reads back: the code is systematic, and decryption undoes encryption. -/

namespace Sys2Proof.Machine

theorem ofBytes_append (a b : List Byte) : ofBytes (a ++ b) = ofBytes a + 256 ^ a.length * ofBytes b := by
  induction a with
  | nil => simp [ofBytes]
  | cons x a ih => simp only [List.cons_append, ofBytes, ih, List.length_cons, Nat.pow_succ]; ring

theorem ofBytes_lt (a : List Byte) : ofBytes a < 256 ^ a.length := by
  induction a with
  | nil => simp [ofBytes]
  | cons x a ih =>
    have := x.isLt
    simp only [ofBytes, List.length_cons, Nat.pow_succ]
    omega

theorem ofBytes_bytes (n k : Nat) : ofBytes (((List.range k).map fun i => (n >>> (8 * i)) % 256).map (BitVec.ofNat 8)) = n % 256 ^ k := by
  induction k with
  | zero => simp [ofBytes, Nat.mod_one]
  | succ k ih =>
    rw [List.range_succ, List.map_append, List.map_append, ofBytes_append, ih]
    simp only [List.map_cons, List.map_nil, ofBytes, List.length_map, List.length_range, BitVec.toNat_ofNat, Nat.shiftRight_eq_div_pow, Nat.mul_zero, Nat.add_zero]
    rw [show (256 : Nat) ^ (k + 1) = 256 ^ k * 256 from Nat.pow_succ .., Nat.mod_mul, show (2 : Nat) ^ (8 * k) = 256 ^ k by rw [Nat.pow_mul]]
    norm_num

theorem pAdd_length (p q : List Nat) : (pAdd p q).length = max p.length q.length := by
  induction p generalizing q with
  | nil => cases q <;> simp [pAdd]
  | cons a p ih => cases q <;> simp [pAdd, ih]

theorem rsCheck_length (r : Nat) (hr : 0 < r) (info : List Nat) : (rsCheck r info).length = r := by
  unfold rsCheck
  simp only
  induction info with
  | nil => simp
  | cons m info ih =>
    rw [List.foldr_cons]
    generalize List.foldr _ _ info = reg at ih ⊢
    rw [pAdd_length]
    simp only [List.length_cons, List.length_take, pScale, List.length_map, ih]
    omega

/-- The code is systematic: a stored word shows its data (R154). -/
theorem wordData_encodeWord (skim : Bool) (x : Line) (side : DWord) : wordData (encodeWord skim x side) = x := by
  have key : ∀ rest : List Nat, wordData (ofSyms (((List.range 64).map fun i => (x.toNat >>> (8 * i)) % 256) ++ rest)) = x := by
    intro rest
    apply BitVec.eq_of_toNat_eq
    have hx := x.isLt
    simp only [wordData, ofSyms, BitVec.toNat_setWidth, BitVec.toNat_ofNat, List.map_append]
    rw [ofBytes_append, ofBytes_bytes]
    simp only [List.length_map, List.length_range]
    rw [Nat.mod_mod_of_dvd _ (Nat.pow_dvd_pow 2 (by omega)), show (256 : Nat) ^ 64 = 2 ^ 512 by rw [show (256 : Nat) = 2 ^ 8 from rfl, ← Nat.pow_mul]]
    rw [Nat.add_mul_mod_self_left, Nat.mod_mod, Nat.mod_eq_of_lt hx]
  cases skim
  · have hl : (rsCheck (profR false) ((List.range 64).map fun i => (x.toNat >>> (8 * i)) % 256)).length = 16 := rsCheck_length _ (by decide) _
    simp only [encodeWord, ofCode, Bool.false_eq_true, if_false]
    rw [List.drop_append_of_le_length (by omega), List.drop_of_length_le (by omega), List.nil_append]
    exact key _
  · simp only [encodeWord, ofCode, if_true]
    set d := (List.range 64).map fun i => (x.toNat >>> (8 * i)) % 256 with hd
    have hl : ∀ l, (rsCheck (profR true) l).length = 8 := fun l => rsCheck_length _ (by decide) _
    rw [List.drop_append_of_le_length (by rw [hl]), List.drop_of_length_le (by rw [hl]), List.nil_append, List.take_append_of_le_length (by simp [hd]),
      List.take_of_length_le (by simp [hd]), List.append_assoc]
    exact key _

@[simp] theorem unsealLine_sealLine (d : Dev) (line : Nat) (x : Line) : unsealLine d line (sealLine d line x) = x := by
  unfold unsealLine sealLine
  cases slotOf d (pageOfLine line) with
  | none => rfl
  | some k => exact Equiv.symm_apply_apply _ _

/-- A line stored reads back, whatever the range it lies in and the profile of its extent (R21, R128, R154). -/
theorem lineWord_reads (d : Dev) (line : Nat) (x : Line) : unsealLine d line (wordData (lineWord d line x)) = x := by
  simp only [lineWord, storeWord, wordData_encodeWord, unsealLine_sealLine]

theorem gcmCrypt_gcmCrypt (key : BitVec 256) (iv : BitVec 96) (text : List Byte) : Config.gcmCrypt key iv (Config.gcmCrypt key iv text) = text := by
  apply List.ext_getElem
  · simp [Config.gcmCrypt]
  · intro i h1 h2
    simp [Config.gcmCrypt]

end Sys2Proof.Machine
end

