-- ==== Sys2Proof/WellFormed.lean ====
section
/-! DEFINITION. Which commands the surroundings can form: the operand limits the spec puts on a message, a packet or a
measurement. `exec` gives every command a meaning, so this is a check on the sender and no premise of the machine. -/

namespace Sys2Proof

/-- The ingress occupancy of a host port counts at most 512 flits (R278). -/
def Env.wf (e : Env) : Bool := decide (e.occ ≤ 512)

/-- A CXL.mem address names a whole line. -/
def lineAligned (hpa : BitVec 64) : Bool := decide (hpa.toNat % 64 = 0)

/-- A Marwen packet has 1 to 14 slots and its lead byte gives that count (R291). -/
def slotsWf (slots : List (BitVec 128)) : Bool :=
  decide (1 ≤ slots.length) && decide (slots.length ≤ 14) &&
  match slots with
  | h :: _ => decide (h.toNat / 8 % 16 + 1 = slots.length) && decide (h.toNat / 128 % 2 = 0)
  | [] => false

/-- An AtomicOp carries an operand of 32, 64 or 128 bits at an address aligned to it (PCIe). -/
def atomicWf (dpa : Dpa) (bits : Nat) : Bool :=
  (decide (bits = 32) || decide (bits = 64) || decide (bits = 128)) && decide (dpa.toNat % (bits / 8) = 0)

/-- A register access is a 4- or 8-byte one (R23, R24), or any size that R36 refuses: up to 8 bytes on a path. -/
def accessWf (bytes : Nat) : Bool := decide (1 ≤ bytes) && decide (bytes ≤ 8)

/-- An input of a boot step names 16 channels and profile rows 1 to 12 (R445, R446). -/
def BootInput.wf : BootInput → Bool
  | .supplyFail c => decide (1 ≤ c.val)
  | .dimms d _ => decide (d.length = 16)
  | .profile a b => decide ((a.badRow.getD 1) ≤ 12) && decide ((b.badRow.getD 1) ≤ 12)
  | .ok | .images _ _ _ _ _ | .calib _ => true

/-- The command can be formed. -/
def Instr.wf : Instr → Bool
  | .registerWrite _ _ bytes _ | .lowWordRead _ _ bytes => accessWf bytes
  | .memRd _ _ hpa _ env | .memRdData _ _ hpa env | .memWr _ _ hpa _ _ _ env | .memWrPtl _ _ hpa _ _ _ env
  | .memInv _ _ hpa env | .memInvNt _ _ hpa env | .memClnEvct _ _ hpa env | .memSpecRd _ hpa env =>
    lineAligned hpa && env.wf
  | .ioMemRead _ _ _ len _ env => decide (1 ≤ len) && decide (len ≤ 4096) && env.wf
  | .ioMemWrite _ _ _ bytes _ env => decide (1 ≤ bytes.length) && decide (bytes.length ≤ 4096) && env.wf
  | .atomicOp _ _ dpa _ bits _ _ _ env => atomicWf dpa bits && env.wf
  | .mwRd _ slots env | .mwWr _ slots env | .mwWrp _ slots env | .mwAtom _ slots env | .mwRds _ slots env
  | .mwRde _ slots env | .mwRdcur _ slots env | .mwOwn _ slots env | .mwWrc _ slots env | .mwWrcp _ slots env
  | .mwWbd _ slots env | .mwEvc _ slots env | .mwAtmc _ slots env => slotsWf slots && env.wf
  | .mwPgrant _ slots | .mwPrel _ slots | .mwCmp _ slots | .mwGranted _ slots | .mwData _ slots | .mwAdata _ slots
  | .mwSnpinv _ slots | .mwSnpdata _ slots | .mwSnpfwds _ slots | .mwSnpfwde _ slots | .mwRspi _ slots
  | .mwRsps _ slots | .mwRspfwd _ slots | .mwGnti _ slots | .mwGnts _ slots | .mwGnte _ slots
  | .mwFwddata _ slots | .mwWcmp _ slots | .mwAcmp _ slots | .mwMgt _ slots _ | .mwUnknownOpcode _ slots
  | .transitPacket _ slots => slotsWf slots
  | .setEventInterruptPolicy _ policy => decide (policy.length = 5)
  | .gafferEpoch temps counts _ => decide (temps.length = 6) && decide (counts.length ≤ 640)
  | .feedSample mv ma => decide (mv.length = 3) && decide (ma.length = 3)
  | .slicerRescore _ scores => decide (scores.length = 3)
  | .histDone _ counts _ => decide (counts.length ≤ 4)
  | .bootStepDone i => i.wf
  | .hdmDecoderCommit _ _ _ _ ways gran _ _ _ =>
    [1, 2, 3, 4, 6, 8, 12, 16].contains ways && [256, 512, 1024, 2048, 4096, 8192, 16384].contains gran
  | _ => true

end Sys2Proof
end

