-- ==== Sys2Proof/Tests/Slice0.lean ====
section
/-! SUPPORT. The model's own tests: terms that WellFormed refuses, the worked examples of the spec, and for every statement a state and operands
that meet its hypotheses. -/

open Sys2Proof Sys2Proof.Machine

namespace Sys2Proof.Tests

set_option Elab.async false

/-! ## States -/

/-- A device in Service with every domain on. -/
def dev0 : Dev := { pwr := { mode := .service, dom := 0xFFFFF } }

/-- A state around a device. -/
def st (d : Dev) (f : Feed := {}) (l : Life := {}) : State := { pending := [], dev := d, feed := f, life := l }

/-- The state a command leads to. -/
def after (c : Instr) (s : State) : State := match exec c s with
  | .next t => t
  | _ => s

/-- The device of Service whose blocks all roll. -/
def dev1 : Dev := { dev0 with pages := (List.range 256).map fun p => (p, some { run := .rolling }) }

/-- With capacity, rights and a class for host port 0: 1 extent, every host may read and write it, Slate 0 is of class 0. -/
def dev2 : Dev :=
  { rput (rput (rput (rput dev1 (.map 0) .mapLimit 4) (.map 0) .mapRsvBase 1000000) (.seal 0) .sealOpenRights 0x1FFFF) (.stage 0) .stageCfg 0xFFFF0000 with
    ctxs := [(0, BitVec.ofNat 128 (2 ^ 96 + 2 ^ 64))]
    cap := { granted := [(0, 0)] }
    reg := { ports := [(0, { tokens := [(0, 1000)] })] }
    ports := [(0, { up := true, hdm := [(0, { committed := true, size := 2 ^ 30 })] })] }

/-- With page 0 Open at media page 7 and its line 5 in way 3 of Stage. -/
def dev3 : Dev :=
  { dev2 with quads := [(0, { mapSets := [(0, { ways := [(0, 0, .small (openEntry 7 0) false)] })]
                              stage := [(5, { ways := [(3, 5, { data := 0xAB, dirty := false })] })] })] }

/-! Commands that cannot be formed: each check of WellFormed refuses its term -/

theorem test_wf_env : (Env.wf { occ := 512 }) = true ∧ (Env.wf { occ := 513 }) = false ∧ (Instr.memRd 0 1 64 .i { occ := 513 }).wf = false := by decide +kernel
theorem test_wf_line : (Instr.memRd 0 1 64 .i {}).wf = true ∧ (Instr.memRd 0 1 65 .i {}).wf = false ∧ lineAligned 32 = false := by decide +kernel
theorem test_wf_slots :
    slotsWf [0x08, 1] = true ∧ slotsWf [] = false ∧ slotsWf [0x10, 1] = false ∧ slotsWf [0x88, 1] = false ∧ slotsWf (0x70 :: List.replicate 14 0) = false
    ∧ (Instr.mwRd 0 [] {}).wf = false ∧ (Instr.mwGnts 0 [0x08]).wf = false := by decide +kernel
theorem test_wf_atomic :
    atomicWf 8 64 = true ∧ atomicWf 4 64 = false ∧ atomicWf 8 16 = false ∧ (Instr.atomicOp 0 1 2 .add 32 0 0 none {}).wf = false := by decide +kernel
theorem test_wf_access : (Instr.registerWrite .secure 0 4 0).wf = true ∧ (Instr.registerWrite .secure 0 0 0).wf = false ∧ (Instr.lowWordRead .secure 0 9).wf = false := by
  decide +kernel
theorem test_wf_boot :
    (BootInput.supplyFail 1).wf = true ∧ (BootInput.supplyFail 0).wf = false ∧ (BootInput.dimms [] 0).wf = false
    ∧ (BootInput.profile { seq := 0, valid := true, items := [], badRow := some 13 } { seq := 0, valid := true, items := [], badRow := none }).wf = false
    ∧ (Instr.bootStepDone (.supplyFail 0)).wf = false := by decide +kernel
theorem test_wf_io :
    (Instr.ioMemRead 0 1 0 4096 none {}).wf = true ∧ (Instr.ioMemRead 0 1 0 0 none {}).wf = false ∧ (Instr.ioMemWrite 0 1 0 [] none {}).wf = false := by decide +kernel
theorem test_wf_measures :
    (Instr.setEventInterruptPolicy 0 [0]).wf = false ∧ (Instr.gafferEpoch [] [] 0).wf = false ∧ (Instr.feedSample [0] [0, 0, 0]).wf = false
    ∧ (Instr.slicerRescore 0 [none]).wf = false ∧ (Instr.histDone 0 [0, 0, 0, 0, 0] 0).wf = false := by decide +kernel
theorem test_wf_hdm :
    (Instr.hdmDecoderCommit 0 0 0 0x10000000 2 256 0 0 false).wf = true ∧ (Instr.hdmDecoderCommit 0 0 0 0x10000000 5 256 0 0 false).wf = false
    ∧ (Instr.hdmDecoderCommit 0 0 0 0x10000000 2 300 0 0 false).wf = false := by decide +kernel

/-! ## Every statement's hypotheses are met somewhere -/

theorem test_meets_StepRunsFront :
    ({ st dev0 with pending := [.zqCalibration 0, .epochBoundary] } : State).pending = .zqCalibration 0 :: [.epochBoundary] ∧ (st dev0).pending = [] := by
  decide +kernel

theorem test_meets_EveryCommandCompletes : reachesOut .epochBoundary = false ∧ reachesOut .fastTrip = true := by decide +kernel

theorem test_meets_RefusedAccesses :
    refusal (st dev0) { path := .secure, off := 2, bytes := 4 } = some 3 ∧ refusal (st dev0) { path := .secure, off := 0, bytes := 8 } = some 3
    ∧ blockOf dev0 0x0A = none ∧ refusal (st dev0) { path := .secure, off := 0xA000 } = some 2
    ∧ blockOf State.reset.dev 0x10 = some .xbar ∧ domOn State.reset.dev 3 = false
    ∧ refusal State.reset { path := .sideband, off := 0x10000 } = some 1
    ∧ rightsRefuse (st dev0) { path := .host 0, off := 0x10008, write := true } .xbar = true
    ∧ refusal (st dev0) { path := .host 0, off := 0x10008, write := true } = some 0
    ∧ refusal (st dev0) { path := .secure, off := 0x10008, write := true } = none
    ∧ bitOf (rget dev0 .pgdir .pgdirWinErr) 31 = false
    ∧ bitOf (rget (winRefuse dev0 { path := .secure, off := 0 } 0) .pgdir .pgdirWinErr) 31 = true
    ∧ presents dev0 .secure = true ∧ presents dev0 .sideband = true
    ∧ refusal (st dev0) { path := .secure, off := 0xFFFFF, bytes := 4, write := true } = some 3
    ∧ refusal (st dev0) { path := .sideband, off := 0xFFFFF, bytes := 4, slate := windowSlate dev0 .sideband none } = some 3
    ∧ admitted (st dev0) .secure .pgdir .pgdirWinErr = true := by decide +kernel

/-- A page that is Cut and one that rolls, for settings with CW bits (STAGE_CFG), and one without (FAULT_MASK). -/
theorem test_meets_RegisterWriteByCode :
    admitted (st dev1) .secure (.stage 3) .stageCfg = true ∧ RName.stageCfg ∈ regsHeader ++ (Block.stage 3).regs
    ∧ ordinary (st dev1) .secure (.stage 3) .stageCfg 0 0xFFFF0000 = true ∧ RName.stageCfg.row.cw ≠ 0 ∧ (pget dev1 (.stage 3)).run ≠ .cut
    ∧ (pget dev0 (.stage 3)).run = .cut ∧ admitted (st dev0) .secure (.stage 3) .stageCfg = true ∧ ordinary (st dev0) .secure (.stage 3) .stageCfg 0 0 = true
    ∧ admitted (st dev1) .normal .pgdir .hdrFaultMask = true ∧ RName.hdrFaultMask ∈ regsHeader ++ Block.pgdir.regs ∧ RName.hdrFaultMask.row.cw = 0
    ∧ ordinary (st dev1) .normal .pgdir .hdrFaultMask 0 0xFFFFFFFF = true
    ∧ admitted (st dev1) .secure .seci .seciPageRights 255 = true ∧ 255 < RName.seciPageRights.row.count
    ∧ ordinary (st dev1) .secure .seci .seciPageRights 255 0 = true := by decide +kernel

theorem test_meets_RegisterReads :
    readable (st dev0) .sideband .pgdir .pgdirWinErrCount = true ∧ RName.pgdirWinErrCount ∈ regsHeader ++ Block.pgdir.regs
    ∧ highOf .pgdirWinErrCount = none ∧ lowOf .pgdirWinErrCount = none
    ∧ highOf .timeNowLo = some .timeNowHi ∧ readable (st dev0) .normal .time .timeNowLo = true ∧ RName.timeNowLo ∈ regsHeader ++ Block.time.regs
    ∧ highOf .timeNowHi = none ∧ lowOf .timeNowHi = some .timeNowLo ∧ readable (st dev0) .normal .time .timeNowHi = true
    ∧ (tabGet {} (after (.lowWordRead .normal (regOff .time .timeNowLo 0) 4) (st dev0)).dev.latches (latchKey .normal Block.time.page)).rd
        = some (regKey .time .timeNowLo 0, 0)
    ∧ refusal (st dev0) { path := .secure, off := (0xD0 + 47) * 4096 + 0x40, slate := windowSlate dev0 .secure none } = none := by decide +kernel

/-- Asleep: Retain with the always-on island alone. -/
def asleep : Dev := { pwr := { mode := .retain, dom := 1 } }
/-- With every right for the sideband on a page. -/
def sideRights (d : Dev) (page : Nat) : Dev := rput d .seci .seciPageRights 0x1C7 page

theorem test_meets_SidebandMessages :
    blockOf dev0 (regKey .pgdir .pgdirWinErrCount 0 / 4096) = some .pgdir
    ∧ refusal (st dev0) { path := .sideband, off := regKey .pgdir .pgdirWinErrCount 0 } = none
    ∧ aoPage (regKey .pwr .pwrWakeStat 0 / 4096) = true ∧ refusal (st asleep) { path := .sideband, off := regKey .pwr .pwrWakeStat 0 } = none
    ∧ highOf .pwrWakeStat = none ∧ lowOf .pwrWakeStat = none
    ∧ admitted (st (sideRights dev0 0)) .sideband .pgdir .hdrFaultMask = true ∧ highOf .hdrFaultMask = none ∧ lowOf .hdrFaultMask = none
    ∧ ([0, 0, 0, 0, 0, 0] : List Byte).length < 7 ∧ ([] : List Byte).length < 11
    ∧ domOn asleep 0 = true ∧ asleep.pwr.mode = .retain
    ∧ admitted (st (sideRights { asleep with pwr := { asleep.pwr with wakeFail := true } } 4)) .sideband .pwr .pwrWakeStat = true := by decide +kernel

/-- The device with one page in a run state. -/
def pageIs (d : Dev) (b : Block) (r : Run) (f : Option Nat := none) : Dev := { d with pages := [(b.page, some { run := r, fencedBy := f })] }

theorem test_meets_RunControl :
    admitted (st dev0) .secure (.stage 0) .hdrRunCtl = true ∧ fld (0x10 : Word) 3 0 = 0 ∧ (Block.stage 0).caps.1 = true
    ∧ (pget (pageIs dev0 (.stage 0) .rolling) (.stage 0)).run = .rolling ∧ (pget (pageIs dev0 (.stage 0) .cutting) (.stage 0)).run = .cutting
    ∧ (pget dev0 (.stage 0)).run = .cut ∧ actionOk dev0 (.stage 0) = true ∧ actionOk (rput dev0 (.stage 0) .stageCfg 0) (.stage 0) = false
    ∧ (Block.hpt 0).caps = (true, true, true) ∧ admitted (st (pageIs dev0 (.hpt 0) .fenced)) .secure (.hpt 0) .hdrRunCtl = true
    ∧ (pget (pageIs dev0 (.hpt 0) .fenced) (.hpt 0)).run = .fenced ∧ fenceRecorded (pageIs dev0 (.hpt 0) .fenced) (.hpt 0) = false
    ∧ (pget dev0 (.hpt 0)).run = .cut
    ∧ runRefusal (pageIs dev0 (.hpt 0) .resetting) (.hpt 0) (.cut .secure 0x80 0) = true
    ∧ runRefusal (pageIs dev0 (.hpt 0) .cutting) (.hpt 0) (.action .secure 0x80 0) = true
    ∧ runRefusal (pageIs dev0 (.hpt 0) .rolling) (.hpt 0) (.blockReset .secure 0x80 0) = true
    ∧ runRefusal (pageIs dev0 (.hpt 0) .rolling) (.hpt 0) (.fenceReq .secure 0x80 3) = true
    ∧ blockOf (pageIs dev0 (.hpt 0) .cutting) 0x80 = some (.hpt 0) ∧ blockQuiet (pageIs dev0 (.hpt 0) .cutting) (.hpt 0) = true
    ∧ domOn dev0 (Block.hpt 0).domain = true ∧ (pget (pageIs dev0 (.hpt 0) .resetting) (.hpt 0)).run = .resetting
    ∧ (pget { dev0 with pages := [(0x80, some { run := .resetting, fenceAtEnd := some 3 })] } (.hpt 0)).fenceAtEnd = some 3
    ∧ domOn dev0 (paceBlock 4).domain = true ∧ 250 < 2 ^ 16 ∧ 2 * 4000 * 250 < 2000000 + 4000 ∧ 2000000 < 2 * 4000 * 250 + 4000
    ∧ 2 ≤ sevOf dev0 0 ∧ sevOf (rput dev0 .flt .fltSev 0) 0 < 2 := by decide +kernel

theorem test_meets_Settling :
    quiet dev0 = true ∧ quiet { dev0 with pwr := { dev0.pwr with mode := .boot } } = true ∧ quiet asleep = true
    ∧ srcId .flt 0 < 512 ∧ srcId (.mwt 7) 31 < 512 ∧ Memory.wf dev0 = true ∧ Memory.wf (dramPut dev0 5 1) = true := by decide +kernel

theorem outside_own {d : Dev} {p page : Nat} (h : page < limitPages d (homeOf page)) (g : grantedTo d (extentOf page) = some p) :
    outsideCapacity d p page = false := by simp [outsideCapacity, g, Nat.not_le.mpr h]

/-- A host's way to line 5 of page 0, over CXL.mem and over CXL.io. -/
theorem test_meets_HostReadsAndWrites :
    hpaToDpa dev3 0 (320 : BitVec 64).toNat = some (320, { committed := true, size := 2 ^ 30 })
    ∧ wayClear dev3 0 {} (port dev3 0).memBroken 5 (fallbackSlate dev3 0 (frameOf (pageOfLine 5))) = true
    ∧ stageFind dev3 5 = some 0xAB ∧ openLine dev3 5 = true ∧ stageOwn dev3 5 0xAB = true := by
  have h : outsideCapacity dev3 (0 : Fin 16) (pageOfLine 5) = false := outside_own (by decide +kernel) (by decide +kernel)
  refine ⟨by decide +kernel, ?_, by decide +kernel⟩
  unfold wayClear
  simp only [h]
  decide +kernel

theorem test_meets_HostIo :
    wayClear dev3 0 {} (port dev3 0).ioBroken 5 (ioSlate dev3 0 none (pageOfLine 5)) = true ∧ (320 : Dpa).toNat % 64 + 64 ≤ 64 ∧ dev3.ioReads = []
    ∧ (320 : Dpa).toNat % 64 + ([1, 2] : List Byte).length < 64 ∧ hostAtomicOk .cas 128 (320 : Dpa).toNat = true ∧ hostAtomicOk .add 32 (380 : Dpa).toNat = true := by
  have h : outsideCapacity dev3 (0 : Fin 16) (pageOfLine 5) = false := outside_own (by decide +kernel) (by decide +kernel)
  refine ⟨?_, by decide +kernel⟩
  unfold wayClear
  simp only [h]
  decide +kernel

/-- A request of host port 0 for line 5. -/
def rd5 : Req := { id := 1, src := .host 0 7, kind := .rs, op := .none, line := 5, agent := 0 }

/-- Quadrant 0 of `dev3`, changed. -/
def inQuad (f : Quad → Quad) (d : Dev := dev3) : Dev := qmod d 0 f

theorem test_meets_SnoopAnswers :
    (let d := inQuad (fun x => { x with trans := [{ line := 5, req := rd5, state := .downgrading, await := [0, 1] }] });
      (port d 0).up = true ∧ peerSnoopFor d 5 0 = none ∧ (∃ t, transFor d 5 = some t ∧ t.peers = [] ∧ 0 ∈ t.await ∧ 1 ∈ t.await ∧ t.state = .downgrading))
    ∧ peerSnoopFor (inQuad fun x => { x with trans := [{ line := 5, req := rd5, state := .invalidating, await := [23] }] }) 5 23 = none := by
  refine ⟨⟨by decide +kernel, by decide +kernel, _, rfl, by decide +kernel⟩, by decide +kernel⟩

/-- A whole line of page 0, tracked by the directory. -/
def tracked0 (f : Quad → Quad) : Dev := rput (rput (inQuad f) (.dir 0) .dirDbWinBase 0x80000000) (.dir 0) .dirDbWinLen 1

theorem test_meets_TransactionsEnd :
    (let d := tracked0 fun x => { x with trans := [{ line := 5, req := rd5, state := .awaitData, homeReady := true, data := some 3 }] };
      lineQuad 5 = 0 ∧ transOf d 5 = some { line := 5, req := rd5, state := .awaitData, homeReady := true, data := some 3 } ∧ tracked d 5 = true
        ∧ (port d 0).up = true ∧ (port d 0).upId ≤ rd5.id)
    ∧ (let w : Waiting := { req := rd5, wait := .queue, q := 0, since := 0 };
      oldestWait ({ dev3 with waits := [w] }.waits.filter fun x => atWait 0 .queue x && queueReady { dev3 with waits := [w] } x) = some w)
    ∧ (quad (inQuad fun x => { x with atms := [{ line := 5, agent := 0, time := 0, hit := false }] }) 0).atms = { line := 5, agent := 0, time := 0, hit := false } :: []
    ∧ admitted (st dev0) .secure (.dir 0) .dirProbeCtl = true ∧ lineQuad (512 * 64) ≠ 0
    ∧ asFind (tabGet {} (quad (inQuad fun x => { x with dir := [(5, { ways := [(2, 5, { state := .s, vector := 1 })] })] }) 0).dir (dirSet 5)) 5
        = some (2, { state := .s, vector := 1 }) := by decide +kernel

theorem test_meets_MapAndStage :
    (let d := { rput dev2 (.map 0) .mapCfg 5 with quads := [(0, { miss := [0] })], waits := [{ req := rd5, wait := .map, q := 0, since := 0 }] };
      (rget d (.map 0) .mapCfg).getLsbD 1 = false ∧ (quad d 0).miss = 0 :: []
      ∧ (∀ k, k < 8 → (d.waits.any fun w => atWait 0 .map w && decide (localPage (pageOfLine w.req.line) = 0 * 8 + k)) = decide (k = 0))
      ∧ (installSmall d 0 (0 * 8 + 0)).isSome = true)
    ∧ (quad (inQuad fun x => { x with binds := [(1, 9)] }) 0).binds = (1, 9) :: []
    ∧ (writeBack (inQuad fun x => { x with wb := [{ line := 6, data := 1, loc := none }] }) 6 1).isSome = true
    ∧ admitted (st dev3) .secure (.stage 0) .stageFlushCtl = true ∧ (quad dev3 0).flush = none
    ∧ (quad (inQuad fun x => { x with flush := some { op := 3, lo := 0, hi := 1, by_ := .software } }) 0).flush.isSome = true
    ∧ (let d := inQuad fun x => { x with flush := some { op := 1, lo := 0, hi := 1, by_ := .software }, lockedFlush := [5], stage := [(5, { ways := [(3, 5, { data := 0xAB, dirty := true })] })] };
      5 ∈ (quad d 0).lockedFlush ∧ (quad d 0).trans = [] ∧ Flush.discards { op := 1, lo := 0, hi := 1, by_ := .software } = false
      ∧ stageFind d 5 = some 0xAB ∧ stageDirty d 5 = true ∧ (writeBack d 5 0xAB).isSome = true ∧ (writeBack d 5 0xAB).map (·.waits) = some d.waits) := by
  decide +kernel

/-- Page 0 Packed in slot 0, one slot long, of media page 9. -/
def packed0 : DWord := mkEntry (2 + 9 * 2 ^ 12 + 2 ^ 46)

/-- `dev2` with page 0 under an entry, and its quadrant changed. -/
def under (e : DWord) (f : Quad → Quad := fun x => x) : Dev :=
  { dev2 with gaffer := { grants := 0x7F }, quads := [(0, f { mapSets := [(0, { ways := [(0, 0, .small e false)] })] })] }

/-- A move of page 0. -/
def move0 (kind : Nat) (ph : MPhase) (old : DWord := packed0) : Move :=
  { kind, urgent := true, page := 0, oldEntry := old, newEntry := openEntry 7 0, phase := ph, recopy := 0, data := [], bad := [], ready := true }

theorem test_meets_HeatAndMoves :
    dollyRuns (under packed0) 0 = true ∧ granted (under packed0) 4 = true ∧ 0 < localPages (under packed0) 0
    ∧ (let d := under packed0 fun x => { x with urgent := [0] };
      dollyRuns d 0 = true ∧ (quad d 0).move = none ∧ tierOf (entryNow d 0) = .packed ∧ urgentReady d 0 0 = true)
    ∧ (needsSeal (under packed0) 0 && sealDown (under packed0) 0) = false
    ∧ (quad (under packed0 fun x => { x with move := some (move0 2 .started) }) 0).move = some (move0 2 .started)
    ∧ (quad (under packed0 fun x => { x with move := some (move0 0 .taken) }) 0).move = some (move0 0 .taken)
    ∧ (let m := move0 0 .switched (openEntry 8 0);
      (quad (under packed0 fun x => { x with move := some m }) 0).move = some m ∧ oldReads (under packed0) m = false ∧ tierOf m.oldEntry = .open_) := by
  decide +kernel

/-- Dynamic Capacity on for host port 0, all media free. -/
def capDev : Dev :=
  (List.range 4).foldl (fun d q => rput (rput d (.map q) .mapLimit 0xFFFF) (.map q) .mapRsvBase 1000000)
    (rput (rput dev1 (.dolly 1) .dolly1CapCfg 0x10001) (.pgdir) .hdrFaultMask 0)

theorem test_meets_extentOffer :
    (rget capDev (.dolly 1) .dolly1CapCfg).getLsbD 0 = true ∧ capRuns capDev = true ∧ offerRoom capDev = true ∧ nextHost capDev = some 0
    ∧ ∃ x, lowestUnoffered capDev = some x := by
  refine ⟨by decide +kernel, by decide +kernel, by decide +kernel, by decide +kernel, Config.staticExtents, ?_⟩
  have h : rfld capDev (.map 0) .mapLimit 15 0 = 65535 := by decide +kernel
  have hc : capDev.cap.granted = [] ∧ capDev.cap.offers = [] := by decide +kernel
  have hs : Config.staticExtents < 65535 := Nat.lt_of_lt_of_le Config.staticTop.isLt (by decide)
  simp [lowestUnoffered, hc.1, hc.2, sortNat, h, hs]

theorem test_meets_CapacityMoves :
    (let d := { (rput capDev (.map 2) .mapRsvBase 0) with cap := { granted := [(3, 0), (9, 0), (4, 1)] } };
      capRuns d = true ∧ levelNow d 2 ≠ 0 ∧ d.cap.release.all (fun r => decide (r.1 ≠ 0)) = true ∧ newestExtent d 0 = some 9)
    ∧ (0, 9) ∈ ({ granted := [(9, 0)], release := [(0, 9)] } : Capacity).release
    ∧ hasRoom capDev 3 = true
    ∧ (let w : Waiting := { req := { rd5 with op := .write 1 }, wait := .room, q := 0, since := 0 };
      oldestWait ([w].filter (timedWait { dev3 with waits := [w] } 0)) = some w ∧ tierOf (entryNow { dev3 with waits := [w] } (pageOfLine 5)) = .open_
      ∧ tierOf (entryNow dev2 0) ≠ .open_ ∧ dev2.poison.length < 4096) := by decide +kernel

/-- An engine's quadrant with a move, a decode or a job. -/
def packJob (op : Nat) : Job := { ring := 0, index := 0, phase := true, desc := BitVec.ofNat 8 op :: List.replicate 63 0, slate := 0 }
def withJob (f : Quad → Quad := fun x => x) : Dev := under packed0 fun x => f { x with cluster := { lanes := [(2, some (packJob 7))] } }

theorem test_meets_PackEngineWork :
    engAvailable (under packed0) 0 0 = true ∧ engAvailable (under packed0) 0 1 = true ∧ (pget (under packed0) (.pack 0)).run = .rolling
    ∧ (quad (under packed0 fun x => { x with decodes := [{ page := 0, promote := false, reader := 0, running := false }] }) 0).decodes
        = { page := 0, promote := false, reader := 0, running := false } :: []
    ∧ moveWaiting (under packed0 fun x => { x with move := some { move0 2 .started with ready := false } }) 0 = some (0, true)
    ∧ (let m := { move0 0 .started with ready := false, urgent := false };
      moveWaiting (withJob fun x => { x with move := some m }) 0 = some (0, false) ∧ jobWaiting (withJob fun x => { x with move := some m }) 0 = some 2
      ∧ jobWaiting (under packed0 fun x => { x with move := some m }) 0 = none)
    ∧ moveWaiting (withJob) 0 = none ∧ jobWaiting (withJob) 0 = some 2
    ∧ (quad (withJob) 0).engines.getD 0 {} = { lastJob := ((quad (withJob) 0).engines.getD 0 {}).lastJob }
    ∧ admitted (st dev1) .secure (.pack 3) .packEngFence = true ∧ admitted (st dev1) .normal (.seal 3) .sealPipeFence = true
    ∧ admitted (st dev1) .secure (.dmc 15) .dmcSubFence = true := by decide +kernel

theorem test_meets_RangeCommands :
    admitted (st dev1) .secure (.seal 0) .sealRangeSel = true ∧ admitted (st dev1) .secure (.seal 0) .sealRangeCmd = true
    ∧ dev1.rangeBusy = none ∧ ({ dev1 with rangeBusy := some { op := 1, r := 0, new := {} } }).rangeBusy.isSome = true
    ∧ rangeRefusal dev2 { op := 1, r := 63, new := {} } ≠ 0 ∧ rangeRefusal dev2 { op := 1, r := 63, new := { len := 1 } } = 0
    ∧ rangeRefusal dev2 { op := 6, r := 0, new := {} } ≠ 0
    ∧ (range { dev2 with ranges := [(7, { len := 1, state := .active })] } 7).state = .active := by decide +kernel

/-- A sweep of slot 1 over range 7, frame 0, in quadrant 0. -/
def sweeping (repaint : Bool) (e : DWord) (f : Quad → Quad := fun x => x) : Dev :=
  { under e f with
    ranges := [(7, { len := 1, sweep := 1, enc := repaint, keySlot := 2, nextSlot := 3, state := if repaint then .repainting else .filling })]
    sweeps := [(1, { range := 7, active := true, repaint })] }

theorem test_meets_SweepsProceed :
    (let d := { dev2 with ranges := [(7, { state := .flushing, flushed := 0xF, cmd := 3 })] }; (range d 7).state = .flushing ∧ (range d 7).flushed = 0xF ∧ (range d 7).cmd = 3)
    ∧ (([mkEntry 0, openEntry 7 0, packed0, mkEntry 3].all fun e => decide (sweepTarget (sweeping false e) 0 1 false = some 0) && sweepFree (sweeping false e) 0
      && !pageWrites (sweeping false e) 0 && !(needsSeal (sweeping false e) 0 && sealDown (sweeping false e) 0)) = true)
    ∧ tierOf (entryNow (sweeping false (mkEntry 0)) 0) = .unbacked ∧ tierOf (entryNow (sweeping false (openEntry 7 0)) 0) = .open_
    ∧ tierOf (entryNow (sweeping false packed0) 0) = .packed ∧ tierOf (entryNow (sweeping false (mkEntry 3)) 0) = .span
    ∧ (([mkEntry 0, openEntry 7 0, packed0, mkEntry 3].all fun e => decide (sweepTarget (sweeping true e) 0 1 true = some 0) && (quad (sweeping true e) 0).sweepPage.isNone
      && sweepFree (sweeping true e) 0 && !pageWrites (sweeping true e) 0 && !sealDown (sweeping true e) 0) = true)
    ∧ (let x : SweepPage := { slot := 1, page := 0, scratch := true, words := [] };
      (quad (sweeping true (openEntry 7 0) fun y => { y with sweepPage := some x }) 0).sweepPage = some x
      ∧ linedOf (sweeping true (openEntry 7 0) fun y => { y with sweepPage := some x }) 0 = false)
    ∧ (quad (sweeping true (openEntry 7 0) fun y => { y with sweepPage := some { slot := 1, page := 0, scratch := false, words := [] } }) 0).sweepPage
        = some { slot := 1, page := 0, scratch := false, words := [] } := by decide +kernel

/-- A sub-channel of a rolling channel, and one of its banks, in the state given. -/
def inSub (u : Nat) (x : Sub) (b : Tab Bank := []) (d : Dev := under (openEntry 7 0)) : Dev := { d with subs := [(u, x)], banks := b }

/-- A read of the first line of page 0. -/
def read0 : RdEnt := { loc := unitLoc (under (openEntry 7 0)) 0 (openEntry 7 0) 0, line := 0, purpose := .req { rd5 with line := 0 }, panic := false }

theorem test_meets_DramCommands :
    (let u := locSub read0.loc; let b := bankOf (under (openEntry 7 0)) read0.loc;
      let d := inSub u { rq := [read0] } [(4096 * u + b.1, { openRow := some b.2 })];
      u < 32 ∧ subRuns d u = true ∧ (subc d u).rq = [read0] ∧ (subc d u).wq = [] ∧ (subc d u).mode = .read ∧ (subc d u).panic = false ∧ panicRead d read0 = false
      ∧ 0 < rfld d (.dmc (u / 2)) .dmcWqHi 6 0 ∧ (bankOf d read0.loc).1 ∈ [b.1] ∧ (bank d u (bankOf d read0.loc).1).openRow = some (bankOf d read0.loc).2)
    ∧ (let u := locSub read0.loc; let b := bankOf (under (openEntry 7 0)) read0.loc;
      let d := inSub u { wq := [{ loc := read0.loc, word := 1 }], mode := .idleWrite } [(4096 * u + b.1, { openRow := some b.2 })];
      subRuns d u = true ∧ (subc d u).rq = [] ∧ (subc d u).mode = .idleWrite ∧ (subc d u).panic = false ∧ 1 < rfld d (.dmc (u / 2)) .dmcWqHi 6 0
      ∧ (bank d u (bankOf d read0.loc).1).openRow = some (bankOf d read0.loc).2)
    ∧ (let x := { read0 with word := some 0 };
      (subc (inSub 31 { flight := [x] }) 31).flight = x :: [] ∧ (subc (inSub 31 { flight := [x] }) 31).alert = false ∧ x.purpose = .req { rd5 with line := 0 } ∧ x.word = some 0)
    ∧ subFenced dev1 31 = false ∧ (subc dev1 31).selfRefresh = false ∧ (subc dev1 31).alert = false ∧ (subc dev1 31).rq = []
    ∧ (subc dev1 31).twice.getLsbD 7 = false ∧ (subc dev1 31).hot.getLsbD 7 = false
    ∧ (subc (inSub 31 { hot := 0x80 }) 31).hot = BitVec.ofNat 8 (2 ^ 7) ∧ (subc (inSub 31 { hot := 0x80 }) 30).hot = 0
    ∧ subRuns dev1 31 = true ∧ (dimmCfg { dev1 with dimm := [(15, 0x20000)] } (31 / 2)).getLsbD 17 = true := by decide +kernel

/-- A bank whose activate count has reached RAAIMT. -/
theorem test_meets_rfmIssue : Config.raaimt ≤ (bank { dev1 with banks := [(bankKey 31 0, { raa := Config.raaimt })] } 31 0).raa := by
  simp [bank, tabGet]

/-- Refreshes can be postponed where the DIMM allows one at all. -/
theorem test_meets_refreshDue (h : 0 < Config.dimmPostpone) :
    (subc (inSub 31 { rq := [read0] }) 31).rq ≠ [] ∧ 0 < min (rfld (inSub 31 { rq := [read0] }) (.dmc (31 / 2)) .dmcCfg 14 12) Config.dimmPostpone := by
  refine ⟨by decide +kernel, Nat.lt_min.mpr ⟨by decide +kernel, h⟩⟩

theorem test_meets_DramRetryAndSleep :
    (let d := inSub 31 { inRetry := true, failedReplays := 1 }; subFenced d 31 = false ∧ (subc d 31).alert = false ∧ (subc d 31).inRetry = true ∧ (subc d 31).failedReplays < 2)
    ∧ (let d := inSub 31 { inRetry := true, failedReplays := 2, replays := [.read 0] };
      2 ≤ (subc d 31).failedReplays ∧ (subc d 31).replays = [.read 0] ∧ (subc (inSub 31 { inRetry := true }) 31).replays = [])
    ∧ (subc dev1 0).inRetry = false ∧ (subc (inSub 0 { alert := true }) 0).alert = true
    ∧ sleepDue (st { dev1 with flt := { haltRunning := true } }) = true ∧ (subc dev1 0).selfRefresh = false ∧ (subc dev1 0).wq = []
    ∧ ({ dev1 with pwr := { dev1.pwr with sub := 2 } }).pwr.sub = 2 ∧ (subc dev1 0).flight = [] ∧ subRuns { dev1 with pwr := { dev1.pwr with sub := 2 } } 0 = true
    ∧ dev1.pwr.dom.getLsbD (Block.dphy 15).domain = true ∧ dev1.pwr.pads.getLsbD (15 / 4) = false := by decide +kernel

theorem test_meets_CoatRegisters :
    admitted (st dev1) .secure (.coat 3) .coatDevFail1 = true ∧ profileLoad dev1 .secure (.coat 3) .coatDevFail1 = false
    ∧ admitted (st dev1) .secure (.coat 0) .coatRegionSel = true ∧ admitted (st dev1) .secure (.coat 0) .coatRegionCmd = true
    ∧ dev1.regionBusy = none ∧ regionRefusal dev2 4 0 ≠ 0 ∧ regionRefusal dev2 3 0 = 0 ∧ (tabGet (false, false) dev2.regions 3).2 = (0 : Word).getLsbD 1
    ∧ regionRefusal { dev2 with regions := [(3, (true, true))] } 3 2 = 0 ∧ (tabGet (false, false) [(3, (true, true))] 3).2 = (2 : Word).getLsbD 1
    ∧ admitted (st dev1) .secure (.coat 3) .coatFlipCtl = true := by decide +kernel

/-- The Sander of quadrant 0 at work. -/
def sanding (s : Sander := {}) (e : DWord := openEntry 7 0) : Dev := rput (under e fun x => { x with sander := s }) (.coat 0) .coatSandCfg 1

theorem test_meets_SanderAndPatch :
    sanderRuns (sanding) 0 = true ∧ sanderNext (sanding) 0 = some (0, 0)
    ∧ (let loc := unitLoc (sanding) (pageOfLocal 0 0) (entryNow (sanding) (pageOfLocal 0 0)) 0;
      (subc (sanding) (locSub loc)).rq = [] ∧ (subc (sanding) (locSub loc)).mode ≠ .drain ∧ subRuns (sanding) (locSub loc) = true ∧ (subc (sanding) (locSub loc)).wq = [] ∧ locSub loc < 8)
    ∧ sanderNext (sanding { pos := 0, line := 64 }) 0 = none ∧ sanderRuns (sanding { part := 1 }) 0 = true
    ∧ (rget (rput (sanding { part := 1 }) (.coat 0) .coatEccCfg 0) (.coat 0) .coatEccCfg).getLsbD 8 = false
    ∧ sanderRuns (sanding { part := 2 }) 0 = true ∧ (quad (sanding { part := 2 }) 0).sander.part = 2
    ∧ (quad (sanding { overdue := true }) 0).sander.overdue = true ∧ (rget (sanding) (.coat 0) .coatSandCfg).getLsbD 0 = true
    ∧ sanderNext (sanding { overdue := true }) 0 = some (0, 0)
    ∧ (subc (inSub 31 { ppr := true }) 31).ppr = true ∧ (quad (inSub 31 { ppr := true }) (31 / 8)).patch = []
    ∧ (quad (under (openEntry 7 0) fun x => { x with rebuilds := [read0] }) 0).rebuilds = read0 :: [] := by decide +kernel

theorem test_meets_SlateAndWindows :
    admitted (st dev1) .secure .slate .slateCtxCmd = true ∧ admitted (st dev1) .normal .slate .slateFbCmd = true ∧ dev1.slateBusy = none
    ∧ (let d := rput (rput dev2 .slate .slateFbBase 0x80000000) .slate .slateFbLen 0; (rget d .slate .slateFbBase).getLsbD 31 = true ∧ fld (rget d .slate .slateFbLen) 24 0 = 0)
    ∧ (let d := rput (rput dev2 .slate .slateFbBase 0x80000000) .slate .slateFbLen 2048;
      fld (rget d .slate .slateFbLen) 24 0 ≠ 0 ∧ fld (rget d .slate .slateFbBase) 23 0 + fld (rget d .slate .slateFbLen) 24 0 ≤ limitPages d 0 / 512)
    ∧ (let d := rput (rput dev2 .slate .slateFbBase 0x80000000) .slate .slateFbLen 2049;
      limitPages d 0 / 512 < fld (rget d .slate .slateFbBase) 23 0 + fld (rget d .slate .slateFbLen) 24 0)
    ∧ dev2.pwr.dom.getLsbD 3 = true ∧ dev2.waits = [] ∧ dev2.reg.oversub = false := by decide +kernel

/-- What an engine's action answered is a result. -/
def okB {α : Type} (r : EngRun α) : Bool := match r with
  | .ok _ _ => true
  | _ => false
theorem ok_of {α : Type} {r : EngRun α} (h : okB r = true) : ∃ d x, r = .ok d x := by
  cases r with
  | ok d x => exact ⟨d, x, rfl⟩
  | _ => cases h

/-- Ring 3 of quadrant 0 runs with one descriptor, in page 0, whose first lines Stage holds. -/
def ringDev (f : Cluster → Cluster := fun c => c) (r : Ring := { state := .running, tail := 1, pass := 1 }) : Dev :=
  under (openEntry 7 0) fun x => { x with
    stage := (List.range 4).map fun i => (i, { ways := [(3, i, { data := 1, dirty := false })] })
    cluster := f { rings := [(3, r)] } }

theorem test_meets_RingsAndLanes :
    (let d := ringDev; admitted (st d) .secure (.nme 0) .nmeDoorbell 3 = true ∧ fld (15 : Word) 15 0 < ringSize (ringOf d 0 3) ∧ ringSize (ringOf d 0 3) ≤ fld (16 : Word) 15 0
      ∧ bitOf (rget d (.nme 0) .nmeDbErr) 31 = false ∧ bitOf (rget (rput d (.nme 0) .nmeDbErr 0x80000000) (.nme 0) .nmeDbErr) 31 = true
      ∧ nextRing d 0 = some 3 ∧ (pget d (.nme 0)).run = .rolling ∧ (quad d 0).cluster.queue.length < 64 ∧ ctxValid d (ringOf d 0 3).owner = true
      ∧ okB (engRead d { q := 0, lane := 0, slate := (ringOf d 0 3).owner, late := false } ((ringOf d 0 3).descPage * 4096 + 64 * (ringOf d 0 3).head) 64) = true)
    ∧ (let j : Job := { packJob 1 with ring := 3 }; let d := ringDev fun c => { c with queue := [j] };
      clusterRuns d 0 = true ∧ (rget d (.nme 0) .nmeCfg).getLsbD 7 = true ∧ laneJob d 0 7 = none ∧ pickJob d 0 = some j
      ∧ jobCheck d j = 0x0B ∧ jobCheck { d with ctxs := [(0, BitVec.ofNat 128 (2 ^ 96 + 0x3FF * 2 ^ 106))] } { j with desc := [11] } = 0x0A
      ∧ jobCheck { d with ctxs := [] } j = 8 ∧ jobCheck { d with ctxs := [(0, BitVec.ofNat 128 (2 ^ 96 + 0x3FF * 2 ^ 106))] } j = 0)
    ∧ admitted (st (ringDev)) .secure (.nme 0) .nmeRingCmd = true
    ∧ (let d := rput (ringDev (r := {})) (.nme 0) .nmeRingCfg 16; (ringOf d 0 (ringSel d 0)).state = .off ∧ fld (rget d (.nme 0) .nmeRingCfg) 4 0 = 16
      ∧ stagedPage d 0 .nmeRingDescLo .nmeRingDescHi < limitPages d 0 ∧ stagedPage d 0 .nmeRingCompLo .nmeRingCompHi < limitPages d 0)
    ∧ (let d := rput (ringDev (r := { state := .stopping })) (.nme 0) .nmeRingSel 3; (ringOf d 0 (ringSel d 0)).state = .stopping ∧ runningJobs d 0 = [])
    ∧ (let d := rput (ringDev (r := { state := .error })) (.nme 0) .nmeRingSel 3; (ringOf d 0 (ringSel d 0)).state = .error)
    ∧ (let d := rput (ringDev) (.nme 0) .nmeRingSel 3; (ringOf d 0 (ringSel d 0)).state = .running ∧ (quad d 0).cluster.queue = []) := by decide +kernel

/-- A copy of line 0 to line 1 by lane 2, and the agent it acts as. -/
def copyJob (dst : Nat) : Job := { packJob 1 with desc := bytesOf 1 4 ++ bytesOf 64 4 ++ bytesOf 0 8 ++ bytesOf dst 8 ++ List.replicate 40 0 }
def lane2 : Agent := { q := 0, lane := 2, slate := 0, late := false }

theorem test_meets_JobsRun :
    okB (copyRun (ringDev) lane2 (copyJob 64)) = true ∧ okB (engRead (ringDev) lane2 (copyJob 64).src (copyJob 64).len) = true
    ∧ overlaps ((copyJob 64).src, (copyJob 64).len) ((copyJob 64).dst, (copyJob 64).len) = false
    ∧ overlaps ((copyJob 63).src, (copyJob 63).len) ((copyJob 63).dst, (copyJob 63).len) = true
    ∧ (let d := ringDev fun c => { c with lanes := [(2, some (copyJob 64))] };
      clusterRuns d 0 = true ∧ laneJob d 0 2 = some (copyJob 64) ∧ (copyJob 64).op = 1)
    ∧ packTurn { withJob fun x => { x with engines := [{ work := some (.job 2) }, {}] } with regs := [] } 0 2 = true
    ∧ (let j := { packJob 10 with xfer := { bad := 9 } }; j.op = 10 ∧ j.xfer.open_ = 0 ∧ j.xfer.bad ≠ 0)
    ∧ (packJob 10).len ≤ (packJob 10).xfer.pos
    ∧ (let j : Job := { packJob 10 with desc := bytesOf (10 + 5 * 2 ^ 16) 4 ++ bytesOf 64 4 ++ List.replicate 56 0 };
      let d := { rput (ringDev) (.mwt 0) .mwtRoute 8 5 with marwen := 1, mports := [(0, { state := 3, credits := [9, 9, 9, 9, 9] })] };
      j.xfer.pos < j.len ∧ j.opf % 64 = 5 ∧ (routeOf d 5).isSome = true ∧ okB (xferSend d lane2 0 2 j) = true) := by decide +kernel

theorem test_meets_HostPorts :
    mayTrain { dev1 with ports := [(15, { perst := false })] } 15 = false ∧ mayTrain { dev1 with ports := [(14, { perst := false })] } 14 = true
    ∧ (port { dev1 with ports := [(14, { perst := false })] } 14).up = false ∧ (port dev2 0).up = true ∧ (port dev1 0).up = false
    ∧ hdmOk dev1 { ways := 16, gran := 16384, size := 2 ^ 45 } = true ∧ (5 : Nat) ∉ [1, 2, 3, 4, 6, 8, 12, 16] ∧ (128 : Nat) ∉ [256, 512, 1024, 2048, 4096, 8192, 16384]
    ∧ 8 ≤ (port { dev2 with ports := [(0, { up := true, trained := 8 })] } 0).trained := by decide +kernel

theorem test_meets_LaneHardware :
    admitted (st dev1) .secure (.hpt 7) .hptHistCtl = true ∧ (brick { dev1 with bricks := [(7, { histRun := true })] } 7).histRun = true
    ∧ dev1.marwen.getLsbD 7 = false ∧ brickNrz dev1 7 = true ∧ brickNrz { dev1 with ports := [(14, { rate := 5 })] } 7 = false
    ∧ (let d := rput { dev1 with bricks := [(7, { testing := true })] } (.hpt 7) .hptPrbsCtl 8; (brick d 7).testing = true ∧ (prbsCtl d 7).getLsbD 3 = true)
    ∧ (port dev2 0).up = true ∧ dev2.pwr.dom.getLsbD 2 = true := by decide +kernel

theorem test_meets_Mailbox :
    mbServed dev2 0 = true ∧ (head { dev2 with heads := [(0, { fwOk := true })] } 0).fwOk = true ∧ (head dev2 0).fwOk = false
    ∧ (let l : List EvRec := [{ handle := 4, time := 0, ev := .addCapacity 1 }]; (l.take [4].length).map (·.handle) = [4] ∧ (l.take [5].length).map (·.handle) ≠ [5])
    ∧ (let d := { dev2 with heads := [(0, { fwOk := true })], fwXfer := some { head := 3, secure := true, bytes := 1, complete := false } }; mbServed d 0 = true ∧ d.fwXfer.isSome = true)
    ∧ ((9 : BitVec 15).toNat, (0 : Fin 16).val) ∈ ({ offers := [(9, 0)] } : Capacity).offers ∧ (9, 0) ∈ ({ granted := [(9, 0)] } : Capacity).granted
    ∧ hostRight dev2 0 (pageOfLine 5) = true ∧ quadFenced dev2 (homeOf (pageOfLine 5)) = false := by decide +kernel

/-! Marwen links -/

/-- Brick 0 of Marwen personality, all of it rolling, in a state of the link. -/
def linkDev (m : MPort) : Dev := { dev1 with marwen := 1, mports := [(0, m)] }
/-- A flit in the clear that carries no acknowledgement and number 0, as a kind. -/
def clear (f : BitVec 2048) (k : FlitKind) : Bool :=
  let o := openFlit {} 0 f
  decide (o.1 = k) && !o.2.1.ackv && decide (o.2.1.seq = 0) && !o.2.1.enc
/-- A flit comes that is next at the port of a link device, as a kind. -/
def comes (m : MPort) (f : BitVec 2048) (k : FlitKind) : Prop :=
  inSequence (st (linkDev m)) 0 f k (openFlit (linkDev m) 0 f).2.1 (openFlit (linkDev m) 0 f).2.2

/-- Without encryption, what a flit opens to does not depend on the device. -/
theorem openFlit_clear (d e : Dev) (b : Nat) (f : BitVec 2048) (h : (openFlit e b f).2.1.enc = false) : openFlit d b f = openFlit e b f := by
  unfold openFlit at h ⊢
  cases hf : fecFix (flitBytes f) with
  | none => rfl
  | some l =>
    rw [hf] at h
    dsimp only at h ⊢
    have hc : ¬ ((hdrOf (BitVec.ofNat 64 (ofBytes (l.take 8)))).enc = true
        ∧ ((hdrOf (BitVec.ofNat 64 (ofBytes (l.take 8)))).typ = 1 ∨ (hdrOf (BitVec.ofNat 64 (ofBytes (l.take 8)))).typ = 2)) := by
      intro hc
      rw [if_pos hc] at h
      have : (hdrOf (BitVec.ofNat 64 (ofBytes (l.take 8)))).enc = false := by
        split at h
        · exact h
        · simp only [apply_ite Prod.snd, apply_ite Prod.fst, ite_self] at h
          exact h
      rw [this] at hc
      exact absurd hc.1 (by decide)
    rw [if_neg hc, if_neg hc]

theorem comes_of {m : MPort} {f : BitVec 2048} {k : FlitKind} (h : clear f k = true) (hl : linkReceives (linkDev m) 0 = true := by decide +kernel)
    (hm : m.rxE = 0 := by rfl) : comes m f k := by
  simp only [clear, Bool.and_eq_true, decide_eq_true_eq, Bool.not_eq_true'] at h
  obtain ⟨⟨⟨h1, h2⟩, h3⟩, h4⟩ := h
  have e := openFlit_clear (linkDev m) {} 0 f h4
  refine ⟨hl, ?_, by rw [e]; exact h2, ?_⟩
  · show openFlit (linkDev m) 0 f = _
    rw [← show (openFlit (linkDev m) 0 f).1 = k by rw [e]; exact h1]
  · rw [e, h3, show (mport (st (linkDev m)).dev 0).rxE = 0 from hm]; rfl

set_option maxRecDepth 100000
/-- A flit of two parts: its FEC and CRC bytes, and what stands before them. -/
def joined (top low : Nat) : BitVec 2048 := BitVec.ofNat 2048 (top <<< 1856 + low)
def initFlit : BitVec 2048 := joined 0xBF13AF62E5402046EE4444A85DA28692810324E3074A1C45 0x400200040001000100000100001C0000000005
theorem init_opens : clear initFlit (.lctl 1) = true := by decide +kernel
def initDoneFlit : BitVec 2048 := joined 0x3EFD06C72831FC8AFD5DFA1B133B49F6BB14920C6AEAEEFF 0x200001C0000000005
theorem initDone_opens : clear initDoneFlit (.lctl 2) = true := by decide +kernel
def retrainFlit : BitVec 2048 := joined 0x42026EC9E45CF3FE8E9DC50CB1EB4961FE36178BCC44B172 0xFF000300001C0000000005
theorem retrain_opens : clear retrainFlit (.lctl 3) = true := by decide +kernel
def widthReqFlit : BitVec 2048 := joined 0x8C7086015F5683BAA4F0DA006F7BC173D1B024F9AB2B4409 0xF000400001C0000000005
theorem widthReq_opens : clear widthReqFlit (.lctl 4) = true := by decide +kernel
def widthAckFlit : BitVec 2048 := joined 0x51F1C3E6F258CEEE788F082F81F7BFCB233F08CCC8781FB7 0x1000500001C0000000005
theorem widthAck_opens : clear widthAckFlit (.lctl 5) = true := by decide +kernel
def resumeFlit : BitVec 2048 := joined 0xDE4DBA8B965B57FCF45374225E15B793687BD70729644684 0x9000600001C0000000005
theorem resume_opens : clear resumeFlit (.lctl 6) = true := by decide +kernel
def downMsgFlit : BitVec 2048 := joined 0xAB02BC81A778AF93ED7223339A4A2BB80A5B6C45480252CB 0x900001C0000000005
theorem downMsg_opens : clear downMsgFlit (.lctl 9) = true := by decide +kernel
def dataFlit : BitVec 2048 := joined 0xC620666C10CF880FFE5928D903DEB278C0A18F4E06890ACA 0x700001C0000000001
theorem data_opens : clear dataFlit (.data) = true := by decide +kernel
def idleFlit : BitVec 2048 := joined 0x292E44AC5B60413705ECDFCBEC61209BF8E6C826B554F89C 0x1C0000000000
theorem idle_opens : clear idleFlit (.idle) = true := by decide +kernel
def ccFlit : BitVec 2048 := joined 0x48D9604E60DF4E487D29A5D1C6EAB3D0908198BA41A2FE57 0x700001C0900000002
theorem cc_opens : clear ccFlit (.cc) = true := by decide +kernel
def nakFlit : BitVec 2048 := joined 0x45AB7C0B037AA66013239D3F9493695858E6878904182859 0x1C0000400003
theorem nak_opens : clear nakFlit (.nak) = true := by decide +kernel
def sackFlit : BitVec 2048 := joined 0x197BED8B20BDACB7A49F9CDA354F68DE2B417EB57B742FAA 0x1C0000000004
theorem sack_opens : clear sackFlit (.sack) = true := by decide +kernel
def reservedFlit : BitVec 2048 := joined 0xEB8A1164F1C1D413C09D0E3B2795D02532BCB4618EB2F24A 0x1C000000000F
theorem reserved_opens : clear reservedFlit (.reserved) = true := by decide +kernel
def keyswAckFlit : BitVec 2048 := joined 0x1234D1587FEF27C104D6A49163619EAD9C3C64BDB1B493F0 0x1000800001C0000000005
theorem keyswAck_opens : clear keyswAckFlit (.lctl 8) = true := by decide +kernel
def keyswFlit : BitVec 2048 := joined 0x9DF376919916C36A97B0EF8C721EF61D26FB7924FE9BF066 0x1000700001C0000000005
theorem keysw_opens : clear keyswFlit (.lctl 7) = true := by decide +kernel
def badTagFlit : BitVec 2048 := joined 0x69F0E1850AD270E44B8A3F6D7DFD10CF492E773DC4340DA7 0x700001C0000000011

theorem test_meets_LinkBringUp :
    (linkDev { state := 1 }).marwen.getLsbD 0 = true ∧ chooseLanes (0 &&& (0xFF : BitVec 8)) = 0 ∧ chooseLanes (0xF7 &&& (0xFF : BitVec 8)) ≠ 0
    ∧ comes { state := 2 } initFlit (.lctl 1)
    ∧ lctlField (lctlInit (linkDev {})) 9 1 % 64 = expectedPeer (linkDev {}) 0 ∧ (∀ i, i < 5 → 14 ≤ lctlField (lctlInit (linkDev {})) (10 + 2 * i) 2)
    ∧ lctlField (lctlInit (linkDev {})) 9 1 % 64 ≠ expectedPeer (rput (linkDev {}) (.mwl 0) .mwlCfg 0x50000) 0
    ∧ comes { state := 2, initGot := true, doneSent := true } initDoneFlit (.lctl 2) ∧ linkReceives (linkDev { state := 2 }) 0 = true :=
  ⟨by decide +kernel, by decide +kernel, by decide +kernel, comes_of init_opens, by decide +kernel, by decide +kernel, by decide +kernel, comes_of initDone_opens,
    by decide +kernel⟩

theorem test_meets_LinkRecovery :
    comes { state := 3 } retrainFlit (.lctl 3) ∧ comes { state := 3 } widthReqFlit (.lctl 4) ∧ comes { state := 5, want := some (true, 1) } widthAckFlit (.lctl 5)
    ∧ comes { state := 5, resumeSent := true, txN := 9 } resumeFlit (.lctl 6) ∧ comes { state := 2 } downMsgFlit (.lctl 9)
    ∧ (chooseLanes (0x0F &&& (0xFF : BitVec 8)) ≠ 0 ∧ chooseLanes (0x0F &&& (0xF0 : BitVec 8)) = 0)
    ∧ lctlField (lctlMask (linkDev {}) 5 1) 10 1 ≠ 0 ∧ lctlField (lctlResume (linkDev {}) 9 0) 10 2 % 4096 = 9
    ∧ chooseLanes (proposedLanes (linkDev { state := 4 }) 0) ≠ 0 ∧ chooseLanes (proposedLanes (linkDev { state := 5, want := some (true, 0) }) 0) = 0
    ∧ ((0x0F : BitVec 8) &&& (0xFF &&& ~~~0xF0) = 0x0F ∧ (0x0F : BitVec 8) &&& (0xFF &&& ~~~1) ≠ 0x0F ∧ (0x0F : BitVec 8) &&& (0xFF &&& ~~~1) ≠ 0 ∧ (0x0F : BitVec 8) &&& (0xFF &&& ~~~0x0F) = 0)
    ∧ (mport (linkDev { lockLost := some 4, mask := 1, lock := 0 }) 0).lockLost.isSome = true
    ∧ admitted (st (linkDev {})) .secure (.mwl 0) .mwlWidthCtl = true :=
  ⟨comes_of retrain_opens, comes_of widthReq_opens, comes_of widthAck_opens, comes_of resume_opens, comes_of downMsg_opens, by decide +kernel⟩

theorem test_meets_FlitsReceived :
    comes { state := 3 } dataFlit (.data) ∧ comes { state := 3 } idleFlit .idle ∧ comes { state := 3, cce := 9 } ccFlit .cc
    ∧ comes { state := 3, cce := 970 } ccFlit .cc ∧ ccDist 9 970 = 63 ∧ comes { state := 3, replayBuf := [(4, 0)] } nakFlit .nak ∧ comes { state := 3 } sackFlit .sack
    ∧ comes { state := 3 } reservedFlit .reserved ∧ comes { state := 3, switch := some true } keyswAckFlit (.lctl 8) ∧ comes { state := 3 } keyswFlit (.lctl 7)
    ∧ (openFlit (linkDev { state := 3, rxE := 2049 }) 0 dataFlit).1 = .data ∧ seqDist 0 2049 = 2047 :=
  ⟨comes_of data_opens, comes_of idle_opens, comes_of cc_opens, comes_of cc_opens, by decide +kernel, comes_of nak_opens, comes_of sack_opens, comes_of reserved_opens,
    comes_of keyswAck_opens, comes_of keysw_opens, (comes_of (m := { state := 3 }) data_opens).2.1 ▸ rfl, by decide +kernel⟩

/-- A flit that fails its CRC, and an encrypted one without a key. -/
theorem test_meets_badFlits : (openFlit (linkDev { state := 3 }) 0 0).1 = .bad false ∧ (openFlit (linkDev { state := 3 }) 0 badTagFlit).1 = .bad true := by decide +kernel

theorem test_meets_LinkTimersAndSlots :
    (mport (linkDev { nakSent := true, nakCount := 7 }) 0).nakCount < 8 ∧ 8 ≤ (mport (linkDev { nakSent := true, nakCount := 8 }) 0).nakCount
    ∧ (mport (linkDev { state := 3, replayBuf := [(0, 0)], replayTries := 2 }) 0).replayTries < 3
    ∧ (mport (linkDev { ccOut := [{ num := 0, flit := 0 }] }) 0).ccOut = [{ num := 0, flit := 0 }] ∧ (mport (linkDev { reorder := [(1, 0)] }) 0).reorder ≠ []
    ∧ 0 < (mport (linkDev { ackCount := 1 }) 0).ackCount ∧ linkReceives (linkDev { state := 3 }) 0 = true ∧ linkReceives (linkDev { state := 5 }) 0 = true
    ∧ (mport (linkDev { state := 3, replayBuf := [(0, 0)], replayAt := some 0 }) 0).replayBuf[0]? = some (0, 0)
    ∧ (mport (linkDev { state := 3, ccOut := [{ num := 0, flit := 0, again := true }] }) 0).replayAt = none := by decide +kernel

/-! Marwen packets -/

/-- A packet from device 1, which is the port's peer, one hop away, to this device (0). -/
def pkt (op : Nat) (high : Nat := 0) (payload : List (BitVec 128) := []) (tag : Nat := 7) : List (BitVec 128) := mkPacket op 0 1 1 0 tag high payload
/-- Port 0 Active with peer 1, over a device with page 0 Open in Stage. -/
def fabric (tags : Tab (Option TagUse) := []) (d : Dev := dev3) : Dev :=
  { rput d (.mwt 0) .mwtRoute 8 1 with
    marwen := 1, tags, mports := [(0, { state := 3, peerId := 1, credits := [99, 99, 99, 99, 99] })] }
/-- A tag expects the answer. -/
def tag7 (opcode : Nat) (use : TagFor) (held : Bool := false) : Tab (Option TagUse) := [(7, some { peer := 1, port := 0, opcode, use, since := 0, held })]
/-- A packet arrives. -/
def arrives (d : Dev) (p : List (BitVec 128)) (op : Nat) : Bool :=
  linkReceives d 0 && decide (pkOp p = op) && decide (pkDst p = selfId d) && decide (packetCheck d 0 p = none)
theorem arrives_of {d : Dev} {p : List (BitVec 128)} {op : Nat} (h : arrives d p op = true) : mwArrives (st d) 0 p op := by
  simp only [arrives, Bool.and_eq_true, decide_eq_true_eq] at h
  exact ⟨h.1.1.1, h.1.1.2, h.1.2, h.2⟩

/-- Every opcode of a request, an answer or a snoop arrives in a form that is listed. -/
theorem test_packets_arrive :
    ([0x01, 0x05, 0x06, 0x20, 0x21, 0x40, 0x41, 0x42, 0x43, 0x47, 0x50, 0x51, 0x52, 0x53, 0x58, 0x59, 0x5A, 0x62, 0x64, 0x70].all fun op => arrives (fabric) (pkt op) op) = true
    ∧ ([0x02, 0x30, 0x44, 0x46, 0x58, 0x59, 0x5A, 0x60, 0x61, 0x62, 0x63].all fun op => arrives (fabric) (pkt op 0 (lineSlots 5)) op) = true
    ∧ ([0x03, 0x45].all fun op => arrives (fabric) (pkt op 0 (1 :: lineSlots 5)) op) = true
    ∧ ([0x04, 0x31, 0x48, 0x65].all fun op => arrives (fabric) (pkt op 0 [1]) op) = true := by decide +kernel

theorem pushWrite_quads (d : Dev) (loc : Nat) (w : Stored) : (pushWrite d loc w).quads = d.quads := by
  have h : (dramWrite d loc w).quads = d.quads := by unfold dramWrite; dsimp only; split <;> rfl
  unfold pushWrite
  dsimp only
  repeat' split
  all_goals first | exact h | rfl

theorem storePage_quads (d : Dev) (page : Nat) (e : DWord) (x : Nat → Line) : (storePage d page e x).quads = d.quads := by
  have hf : ∀ (l : List Nat) (f : Dev → Nat → Nat) (g : Dev → Nat → Stored) (d : Dev), (l.foldl (fun d i => pushWrite d (f d i) (g d i)) d).quads = d.quads := by
    intro l f g
    induction l with
    | nil => exact fun _ => rfl
    | cons a l ih => exact fun d => (ih _).trans (pushWrite_quads ..)
  unfold storePage
  dsimp only
  split
  · unfold parityFresh
    split
    · exact hf ..
    · dsimp only
      rw [pushWrite_quads, pushWrite_quads]
      exact hf ..
  · exact hf ..

/-- A donor window over frame 0, whose second page is Unbacked. -/
def donor : Dev :=
  rput (rput (fabric [] (under (openEntry 7 0) fun x => { x with runs := [(0, 512)] })) (.mwt 0) .mwtDonorBase 0x80000000) (.mwt 0) .mwtDonorLen 1

theorem test_meets_donor : (bindNow donor 1).isSome = true := by
  have h1 : hasRoom donor (homeOf 1) = true := by decide +kernel
  have h2 : takePage donor 1 true = some (donor, 513) := by
    have a : (rget donor (.map (homeOf 1)) .mapCfg).getLsbD 2 = true := by decide +kernel
    have b : runOf (quad donor (homeOf 1)) (frameOf 1) = some 512 := by decide +kernel
    have c : tabGet MUse.free (quad donor (homeOf 1)).use (512 + 1 % 512) = .free ∧ ¬ (quad donor (homeOf 1)).badPages.contains (512 + 1 % 512) = true := by decide +kernel
    unfold takePage
    simp only [a, b, not_true_eq_false, if_false]
    exact if_pos c
  have h3 : (quad (setUse donor (homeOf 1) 513 (.open_ 1)) (homeOf 1)).binds = [] := by decide +kernel
  have h4 : (quad (qmod (storePage (setUse donor (homeOf 1) 513 (.open_ 1)) 1 (openEntry 513 0) fun _ => 0) (homeOf 1)
      fun s => { s with binds := s.binds ++ [(1, 513)] }) (homeOf 1)).binds = [(1, 513)] := by
    rw [quad_qmod_self, show quad (storePage (setUse donor (homeOf 1) 513 (.open_ 1)) 1 (openEntry 513 0) fun _ => 0) (homeOf 1)
      = quad (setUse donor (homeOf 1) 513 (.open_ 1)) (homeOf 1) by unfold quad; rw [storePage_quads]]
    simp only [h3, List.nil_append]
  unfold bindNow bindStart
  simp only [h1, not_true_eq_false, if_false, h2, h4]
  rfl

theorem test_meets_PeerRequestsAndPackets :
    pageOfLine (pkAddr (pkt 1 320) / 64) < limitPages (fabric) 0 ∧ homeOf (pageOfLine (pkAddr (pkt 1 320) / 64)) = 0
    ∧ limitPages (fabric) (homeOf (pageOfLine (pkAddr (pkt 1 (2 ^ 44)) / 64))) ≤ pageOfLine (pkAddr (pkt 1 (2 ^ 44)) / 64)
    ∧ packetCheck (fabric) 0 (mkPacket 1 0 1 5 0 7 0 []) = some 4 ∧ packetCheck (fabric) 0 (mkPacket 1 0 2 1 0 7 0 []) = some 3
    ∧ (mwAtomic (pkt 0x04 0 [1])).isSome = true ∧ mwAtomic (pkt 0x04 3 [1]) = none
    ∧ tracked (fabric) 5 = false ∧ atmHome (fabric) 5 = false ∧ (let d := rput (fabric) (.dir 0) .dirCfg 1; atmHome d 5 = true)
    ∧ (let d := rput (rput (fabric) (.dir 0) .dirDbWinBase 0x80000000) (.dir 0) .dirDbWinLen 1; tracked d 5 = true)
    ∧ (rget (fabric) (.mwt 0) .mwtDonorBase).getLsbD 31 = false
    ∧ ((rget donor (.mwt 0) .mwtDonorBase).getLsbD 31 = true ∧ donorPage donor (rfld donor (.mwt 0) .mwtDonorLen 24 0) (fld (rget donor (.mwt 0) .mwtDonorBase) 23 0) = some 1
        ∧ slateRight donor 0 1 = true)
    ∧ (tabGet none { fabric with grantee := [(3, some 1)] }.grantee 3 = some 1) ∧ tabGet none (fabric).grantee 3 ≠ some 1
    ∧ hdrFld ((pkt 0x70 (2 ^ 9)).headD 0) 75 73 = 1
    ∧ (let p := mkPacket 1 1 2 3 0 7 0 []; pkDst p ≠ selfId (fabric) ∧ packetCheck (fabric) 0 p = none ∧ packetCheck (takeIn (fabric) 0 p true) 0 p = none
        ∧ (queueTx (takeIn (fabric) 0 p true) (nextHop p)).isSome = true)
    ∧ pkHop (mkPacket 1 1 2 4 0 7 0 []) = 4 ∧ queueTx (fabric) (nextHop (mkPacket 1 9 2 3 0 7 0 [])) = none
    ∧ listed (mkPacket 0x7F 0 2 2 0 7 0 []) = false ∧ pkHop (mkPacket 0x7F 0 2 2 0 7 0 []) = 2 := by decide +kernel

theorem test_meets_PeerAnswers :
    pkStatus (pkt 0x20 3) = 3 ∧ pkStatus (pkt 0x20 0) ≠ 3 ∧ (tabGet none (fabric (tag7 2 (.xfer 0 2 0))).tags (pkTag (pkt 0x20)) : Option TagUse).isSome = true
    ∧ (let d := fabric (tag7 5 (.dolly 0 64)) (under (openEntry 7 0) fun x => { x with move := some (move0 3 .started) });
      arrives d (pkt 0x21) 0x21 = true ∧ (quad (mwFreed d 0 (pkt 0x21) 0x21) 0).move = some (move0 3 .started) ∧ pkStatus (pkt 0x21 4) ≠ 0)
    ∧ tabGet none (fabric).tags (pkTag (pkt 0x20)) = none := by decide +kernel

theorem test_meets_PeerSnoopsAndTags :
    (let d := fabric [] (under (mkEntry (3 + 1 * 2 ^ 45 + 9 * 2 ^ 12)) fun x => { x with dir := [(5, { ways := [(0, 5, { state := .s, vector := 0, pg := 1 })] })] });
      let p := pkt 0x51 (9 * 4096 + 5 * 64); arrives d p 0x51 = true ∧ spanPage (mwTaken d 0 p 0x51) (pkSrc p) (pkAddr p / 4096) = some 0
      ∧ (dirEnt d 5).pg ≠ 0 ∧ (dirEnt d 5).state ≠ .e ∧ agentsOf (dirEnt d 5).vector = [] ∧ (dirEnt d 6).pg = 0)
    ∧ spanPage (mwTaken (fabric) 0 (pkt 0x51) 0x51) 1 0 = none
    ∧ (tabGet none (fabric (tag7 0x50 (.span 5))).tags 7 : Option TagUse) = some { peer := 1, port := 0, opcode := 0x50, use := .span 5, since := 0 }
    ∧ (tabGet none (fabric (tag7 0x46 .note true)).tags 7 : Option TagUse) = some { peer := 1, port := 0, opcode := 0x46, use := .note, since := 0, held := true }
    ∧ (pkt 0x58).length = 1 ∧ (pkt 0x58 0 (lineSlots 1)).length = 5 ∧ pkStatus (pkt 0x58 0 (lineSlots 1)) ≠ 2 := by decide +kernel

/-! Worlds, keys, life cycle -/

/-- Core 2 runs, in the secure world or not. -/
def core2 (secure : Bool) (life : BitVec 2 := 1) : Life := { state := life, cores := [{}, {}, { running := true, secure }, {}] }

theorem test_meets_WorldSwitches :
    coreRuns (st dev0 {} (core2 false)) 2 = true ∧ (coreAt (st dev0 {} (core2 false)) 2).secure = false ∧ isGate 0x0005800B = true
    ∧ secureAddr 0x1FFFC = true ∧ secureAddr 0x20000 = false ∧ secureAddr 0x08000000 = true ∧ secureAddr 0x08040000 = false
    ∧ fld (0x1FFFC : DWord) 1 0 = 0 ∧ fld (0x1FFFE : DWord) 1 0 ≠ 0 ∧ domOn dev0 2 = true ∧ entryWord ≠ 0
    ∧ (let d : Dev := { dev0 with pwr := { dev0.pwr with dom := 0xFFFFB } }; domOn d 2 = false ∧ coreRuns (st d {} (core2 false)) 2 = true)
    ∧ coreRuns (st dev0 {} (core2 true)) 2 = true ∧ (coreAt (st dev0 {} (core2 true)) 2).secure = true
    ∧ fld (0x0000300B : Word) 6 0 = 0x0B ∧ isGate 0x0000300B = false
    ∧ rfld (rput dev0 .seci .seciSirqRoute 2) .seci .seciSirqRoute 1 0 = 2
    ∧ admitted (st dev0) .secure .seci .seciCoreRelease = true ∧ (core2 true).cores.length = 4
    ∧ (0xE : Word).getLsbD 3 = true ∧ (rget dev0 .seci .seciCoreRelease).getLsbD 3 = false := by decide +kernel

theorem test_meets_KeyCommands :
    domOn dev0 2 = true ∧ dev0.keyRun = none ∧ (List.replicate 104 (0 : Byte)).length = 104 ∧ ([64, 0, 64, 0] ++ List.replicate 128 (1 : Byte)).length = 4 + 64 + 64
    ∧ ofBytes (([64, 0, 64, 0] : List Byte).take 2) = 64 ∧ ofBytes ((([65, 0, 0, 0] ++ List.replicate 65 1 : List Byte)).take 2) = 65
    ∧ 4 < (7 : BitVec 3).toNat
    ∧ keyArgsOk 1 0 0 = true ∧ keyArgsOk 2 0 31 = true ∧ keyArgsOk 2 1 0 = true ∧ keyArgsOk 2 2 0 = true ∧ keyArgsOk 3 0 0 = true ∧ keyArgsOk 3 1 0 = true ∧ keyArgsOk 3 2 31 = true
    ∧ keyArgsOk 4 1 0 = true ∧ keyArgsOk 4 2 0 = true ∧ keyArgsOk 4 0 0 = false ∧ keyArgsOk 7 0 0 = false
    ∧ ideInUse dev2 0 = false ∧ mwSetActive dev2 0 = false ∧ slotInUse dev0 0 = false
    ∧ slotInUse (sweeping true (openEntry 7 0)) 2 = true ∧ 16 / 16 % 2 = 1 := by decide +kernel

/-- The unwrap of a key either fails or gives one. -/
theorem test_meets_keyUnwrap (b : List Byte) : Config.keyUnwrap b = none ∨ ∃ k, Config.keyUnwrap b = some k := by
  cases Config.keyUnwrap b <;> simp

theorem test_meets_LifeAndDebug :
    admitted (st dev0) .secure .seci .seciLifecycle = true ∧ fld (0x20000 : Word) 17 16 = (1 : BitVec 2).toNat + 1 ∧ fld (0x30000 : Word) 17 16 ≠ (1 : BitVec 2).toNat + 1
    ∧ domOn dev0 2 = true
    ∧ (let t : Token := { vendor := true, nonce := 5, enables := 0xF, sigValid := true };
      t.nonce ∈ ({ state := 1, nonces := [5] } : Life).nonces ∧ ∀ i, t.enables.getLsbD i = true → (baseEnables 1).getLsbD i = true ∨ (unlockable 1 t.vendor).getLsbD i = true)
    ∧ admitted (st dev0) .secure .seci .seciDebugEn = true := by
  refine ⟨by decide +kernel, by decide +kernel, by decide +kernel, by decide +kernel, ⟨by decide +kernel, ?_⟩, by decide +kernel⟩
  intro i h
  exact Or.inr (by rw [show unlockable 1 true = 0xF by decide +kernel]; exact h)

theorem test_meets_DebugClaimsWatchdog :
    (let s := st (rput dev3 (.seal 0) .sealOpenRights 0x3FFFF) {} { state := 0 };
      domOn s.dev 3 = true ∧ domOn s.dev (4 + homeOf (pageOfLine 5)) = true ∧ s.dev.pwr.mode ∈ [Mode.service, .degraded, .maintain]
      ∧ pageOfLine 5 < limitPages s.dev (homeOf (pageOfLine 5)) ∧ (enables s.life).getLsbD 0 = true ∧ homeClear s.dev 5 = true ∧ debugRight s.dev (pageOfLine 5) = true
      ∧ stageFind s.dev 5 = some 0xAB)
    ∧ (enables { state := 3 }).getLsbD 0 = false ∧ limitPages dev3 (homeOf (2 ^ 32)) ≤ 2 ^ 32
    ∧ admitted (st dev0) .secure .seci .seciClaim = true ∧ admitted (st dev0) .secure .seci .seciTestEn = true
    ∧ admitted (st dev0) .normal .mgt .mgtWdogKick = true
    ∧ (let d := rput dev1 .mgt .mgtWdogCfg 0x10064; domOn d 1 = true ∧ (rget d .mgt .mgtWdogCfg).getLsbD 16 = true ∧ (pget d .mgt).run ≠ .cut)
    ∧ (rget (rput dev1 .mgt .mgtWdogCfg 0) .mgt .mgtWdogCfg).getLsbD 16 = false ∧ (pget dev0 .mgt).run = .cut := by decide +kernel

theorem test_meets_DomainRequests :
    admitted (st dev0) .normal .pwr .pwrDomReq = true ∧ dev0.pwr.domReq = none ∧ claimed dev0 19 = false
    ∧ claimed (rput dev0 .seci .seciClaim 0x80000) 19 = true ∧ domAllowed dev0 19 1 = true ∧ domAllowed dev0 4 1 = false ∧ domAllowed dev0 8 2 = false
    ∧ domAllowed dev0 12 2 = true ∧ domAllowed dev0 8 3 = true ∧ domAllowed { dev0 with pwr := { dev0.pwr with dom := 0xF } } 4 3 = false
    ∧ domOn { dev0 with pwr := { dev0.pwr with dom := 0xF, domReq := some (4, 0) } } 4 = false ∧ (Block.dmc 0).domain = 4 ∧ RName.dmcCfg ∈ regsHeader ++ (Block.dmc 0).regs
    ∧ 0 < RName.dmcCfg.row.count ∧ RName.dmcCfg.row.persist = false := by decide +kernel

theorem test_meets_ModeRequests :
    admitted (st dev0) .normal .pwr .pwrModeReq = true ∧ admitted (st dev0) .secure .pwr .pwrModeReq = true ∧ dev0.pwr.req = none
    ∧ (∀ i, i < 20 → i ≠ 0 → claimed dev0 i = false) ∧ claimed (rput dev0 .seci .seciClaim 2) 1 = true
    ∧ maintainReady { dev0 with pwr := { dev0.pwr with req := some .maintain } } = true
    ∧ (let d : Dev := { dev0 with pwr := { dev0.pwr with mode := .boot } }; admitted (st d) .secure .pwr .pwrModeReq = true)
    ∧ (pget dev1 (.nme 3)).run = .rolling ∧ anyFenced dev1 = false
    ∧ (raise (resumeIntake (toService { dev0 with pwr := { dev0.pwr with mode := .maintain } })) .pwr 1 .none 0).pwr.activating = none
    ∧ (raise (resumeIntake (toService { dev0 with pwr := { dev0.pwr with mode := .maintain, activating := some 15 } })) .pwr 1 .none 0).pwr.activating = some 15 := by
  decide +kernel

/-! Power, feeds, faults, resets, calibration, boot -/

/-- An entry to Retain. -/
def retainDev (p : Bool) : Dev := { dev0 with pwr := { dev0.pwr with req := some .retain, ponr := p } }
/-- A device inRetain. -/
def inRetain : Dev := { dev0 with pwr := { mode := .retain, dom := 1 } }
/-- Wake enables for every source. -/
def wakeAll (d : Dev) : Dev := rput (rput d .pwr .pwrWakeEn 0x1F) .pwr .pwrWakeTimer 5

theorem test_meets_RetainAndWakeEvents :
    (retainDev false).pwr.holdUp = false ∧ drained (retainDev false) = true ∧ (retainDev true).pwr.ponr = true ∧ (retainDev true).pwr.holdUp = false
    ∧ rget (wakeAll inRetain) .pwr .pwrWakeTimer ≠ 0
    ∧ (∀ k, k ∈ [0, 1, 4] → (rget (wakeAll inRetain) .pwr .pwrWakeEn).getLsbD k = true)
    ∧ (rget (rput inRetain .pwr .pwrWakeEn 0) .pwr .pwrWakeEn).getLsbD 1 = false
    ∧ (rget (wakeAll (retainDev true)) .pwr .pwrWakeEn).getLsbD 1 = true ∧ (rget (wakeAll (retainDev false)) .pwr .pwrWakeEn).getLsbD 1 = true
    ∧ inRetain.pwr.req = none ∧ inRetain.pwr.wakeStep = 0 ∧ inRetain.pwr.wakeFail = false ∧ inRetain.pwr.regOff = false
    ∧ admitted (st dev0) .secure .pwr .pwrPadRelease = true := by decide +kernel

theorem test_meets_WakeAndTime :
    admitted (st dev0) .secure .time .timeSetHi = true
    ∧ (latchGet dev0 (latchKey .secure Block.time.page)).wr = none
    ∧ (latchGet (after (.timeSet .secure 7) (st dev0)).dev (latchKey .secure Block.time.page)).wr = none
    ∧ dev0.pwr.mode = .service ∧ dev0.pwr.regOff = false := by decide +kernel

theorem test_meets_Gaffer :
    domOn dev0 3 = true ∧ barred 0 7 = false ∧ barred 2 4 = true ∧ (pget dev1 .gaffer).run = .rolling ∧ (gafferGrants dev1 2900 0x7F).getLsbD 1 = true ∧ (gafferGrants dev1 2900 0x7F).getLsbD 3 = false
    ∧ vcoreTarget { dev1 with pwr := { dev1.pwr with sub := 1 } } < 750 ∧ gafferCap dev1 < 5000 ∧ 600 < dev1.gaffer.vcore
    ∧ (let d : Dev := { dev1 with gaffer := { dev1.gaffer with vcore := 700 } };
      0 + 16 * rfld d .gaffer .gafferCfg 7 0 < gafferCap d ∧ d.gaffer.vcore < vcoreTarget d
      ∧ (rfld d .gaffer .gafferCfg 15 8 ≤ 1 ∨ 0 + 1 < rfld d .gaffer .gafferCfg 15 8))
    ∧ quadFenced dev0 1 = false
    ∧ (∀ j : Fin 4, quadFenced dev0 j = false → [100, 130, 130, 120, 0, 0].getD j.val (0 : Int) ≤ ([100, 130, 130, 120, 0, 0] : List Int).getD 1 0
      ∧ (j < 1 → [100, 130, 130, 120, 0, 0].getD j.val (0 : Int) < ([100, 130, 130, 120, 0, 0] : List Int).getD 1 0))
    ∧ tenMs { dev0 with pwr := { dev0.pwr with now := 20000000 } } 5 = true ∧ tenMs dev0 0 = false
    ∧ 2 ≤ sevOf dev0 thermalSource ∧ sevOf (rput dev0 .flt .fltSev 0 0) thermalSource < 2 := by decide +kernel

/-- Feed A admitted and healthy, in a state of the controller. -/
def feedA (n : Nat) : Feed := { st := n, admitted := 1, healthy := 1, pairs := 1, powerGood := n = 4 }

theorem test_meets_FeedsComeAndGo :
    (feedA 4).admitted &&& feedBit true = 0 ∧ rfld dev0 .feed .feedLevels 13 0 ≤ 12000 ∧ 0 < rfld dev0 .feed .feedLevels 13 0 ∧ rfld dev0 .feed .feedWarn 13 0 ≤ 12000
    ∧ (feedA 4).admitted &&& feedBit false ≠ 0 ∧ (feedA 4).healthy &&& feedBit false ≠ 0 ∧ (feedA 4).admitted &&& ~~~(feedBit false) = 0
    ∧ ({ feedA 4 with admitted := 3 } : Feed).admitted &&& ~~~(feedBit false) ≠ 0
    ∧ (feedA 4).healthy &&& ~~~(feedBit false) = 0 ∧ (feedA 4).powerGood = true ∧ (feedA 4).warnPin = false
    ∧ ({ feedA 4 with healthy := 0, degraded := 1 } : Feed).healthy &&& feedBit false = 0 ∧ (feedA 4).rev.length = 2
    ∧ (rget (rput inRetain .pwr .pwrWakeEn 8) .pwr .pwrWakeEn).getLsbD 3 = true := by decide +kernel

theorem test_meets_FeedStates :
    (feedA 4).powerGood = true ∧ (feedA 3).timerRun = false ∧ (feedA 3).healthy ≠ 0 ∧ ({ feedA 3 with timerRun := true } : Feed).timerRun = true
    ∧ (feedA 5).trips < rfld dev0 .feed .feedCfg 25 24 ∧ rfld dev0 .feed .feedCfg 25 24 ≤ ({ feedA 5 with trips := 3 } : Feed).trips
    ∧ ¬ rfld dev0 .feed .feedCfg 25 24 ≤ (feedA 4).trips + 1 ∧ rfld dev0 .feed .feedCfg 25 24 ≤ ({ feedA 4 with trips := 2 } : Feed).trips + 1
    ∧ (Instr.fastTrip, 3, 2) ∈ [(Instr.fastTrip, 3, 2)]
    ∧ admitted (st dev0) .secure .feed .feedCtl = true ∧ admitted (st dev0 (feedA 6)) .normal .feed .feedCtl = true := by decide +kernel

theorem test_meets_MetersAndHoldUp :
    (after (.feedSample [1, 2, 3] [4, 5, 6]) (st dev0)).feed.samples ≠ 0
    ∧ dev0.pwr.holdUp = false ∧ (holdUpStart (st dev0 (feedA 4))).dev.pwr.holdUp = true ∧ (holdUpStart (st dev0 (feedA 4))).dev.pwr.mode ≠ .retain
    ∧ dev0.flt.haltRunning = false ∧ dramTrained dev0 = true ∧ dramTrained { dev0 with pwr := { mode := .boot } } = false
    ∧ ((holdUpStart (st dev0 (feedA 4))).dev.flash.map fun h => h.prev).length = 1
    ∧ inRetain.pwr.mode = .retain := by decide +kernel

theorem test_meets_ContinuityUpkeep :
    admitted (st dev0) .secure .flt .fltLatched 1 = true ∧ admitted (st dev0) .secure .flt .fltFeCtl = true ∧ admitted (st { dev0 with pwr := { dev0.pwr with mode := .factory } }) .secure .flt .fltInj = true
    ∧ (raise dev0 .flt 3 .none 0).flt.latched.getLsbD 3 = true ∧ (raise dev0 .flt 3 .none 0 true).flt.asserting.getLsbD 3 = true
    ∧ domOn dev0 0 = true ∧ (∀ i, i < 420 → dev0.flt.latched.getLsbD i = false)
    ∧ max 1 (rfld dev0 .flt .fltCfg 1 0) ≤ sevOf (raise dev0 .flt 3 .none 0) 3
    ∧ srcOf dev0.marwen (fld (16 : Word) 8 0) = some (.feed, 0) ∧ 0 < Block.feed.sources
    ∧ srcOf dev0.marwen (4 + 4) = some (.gaffer, 4) ∧ isChecker .gaffer 4 = true ∧ domOn dev0 3 = true
    ∧ (dev0.supply &&& ~~~(BitVec.ofNat 3 (2 ^ 1)) = 0) ∧ ((5 : BitVec 3) &&& ~~~(BitVec.ofNat 3 (2 ^ 0)) ≠ 0)
    ∧ granted { dev1 with gaffer := { dev1.gaffer with grants := 0x40 } } 7 = true ∧ quadFenced dev0 0 = false
    ∧ (5, 3) ∉ (quad dev3 0).waysOut ∧ wayLine dev3 0 5 2 = none ∧ wayLine dev3 0 5 3 = some (5, { data := 0xAB, dirty := false }) ∧ lineLocked dev3 5 = false
    ∧ dramTrained dev0 = true := by decide +kernel

theorem test_meets_firstError :
    (raise dev0 .flt 3 .none 0).flt.fe.map (fun r => decide (r.source ≠ 0)) = some true
    ∧ (raise dev0 .flt 3 .none 0).flt.asserting.getLsbD 3 = false := by decide +kernel

theorem test_meets_Resets :
    admitted (st dev0) .secure .flt .fltResetCtl = true ∧ dev0.pwr.holdUp = false ∧ dev0.pwr.warm = none ∧ dev0.pwr.mode ≠ .retain
    ∧ (warmFlush { dev0 with pwr := { dev0.pwr with warm := some 0 } }).flt.lossQ = 0
    ∧ RName.feedCfg ∈ regsHeader ++ Block.feed.regs ∧ 0 < RName.feedCfg.row.count
    ∧ (let d : Dev := rput { pwr := { mode := .boot, dom := 0xF }, boot := { active := true } } .sbi .sbiBootStat 0x27;
      let b := rget d .sbi .sbiBootStat; b.getLsbD 5 = true ∧ b.getLsbD 4 = false ∧ fld b 3 0 = 7 ∧ d.boot.reconciled = false ∧ d.pwr.pads &&& 0xF = 0) := by decide +kernel

/-- Loss in a quadrant makes a warm reset a cold one. -/
theorem test_meets_lostQuadrant : (warmFlush { dev0 with pwr := { dev0.pwr with warm := some 0 }, flt := { dev0.flt with lossQ := 1 } }).flt.lossQ ≠ 0 := by decide +kernel

theorem test_meets_SlicersAndDelays :
    bestSet [some 40, some 20, none] = some 1 ∧ bestSet [none, none, none] = none ∧ bestSet [some 20, some 20, none] = some 0 ∧ (slicer dev0 9).set = 0
    ∧ laneTrains dev0 9 = true ∧ dev0.marwen.getLsbD (9 / 8) = false ∧ laneTrains dev2 0 = false
    ∧ slicerAuto (rput dev2 .cal .calCfg 3) = true ∧ slicerAuto (rput dev2 .cal .calCfg 0) = false ∧ 20 + 8 ≤ 40 ∧ ¬ 20 + 8 ≤ 27
    ∧ (delay dev0 1).done = false ∧ (delay dev0 1).trying = none
    ∧ (let d := delayPut dev0 1 { trying := some 5 }; (delay d 1).done = false ∧ (delay d 1).trying = some 5 ∧ (delay d 1).checking = false
      ∧ (5 : Nat).testBit 1 = false ∧ (∀ j, j < 1 → (5 : Nat).testBit j = true) ∧ nextMask 5 = some 6)
    ∧ nextMask 254 = none ∧ (delay (delayPut dev0 1 { trying := some 5, checking := true }) 1).checking = true
    ∧ (storedDelays dev0 (stageGroup 1))[1 % 2 ^ 8]? = none
    ∧ (let d := delayRecord (delayPut dev0 0 { mask := 3, guard := some 1, done := true }) 0; (storedDelays d (stageGroup 0))[0]? = some (3, some 1))
    ∧ delayTrim (rput dev0 .cal .calCfg 2) = true ∧ delayTrim (rput dev0 .cal .calCfg 0) = false
    ∧ (delay (delayPut dev0 1 { mask := 3, done := true }) 1).mask ≠ 0xFF := by decide +kernel

/-- The calibration block rolling over two sectors, one record waiting. -/
def storeDev : Dev := { dev1 with cal := { sectors := [{}, {}], queue := [{ kind := 2, key := 0, units := 3, body := [1] }] } }

theorem test_meets_CalibrationStore :
    calWrites storeDev = true ∧ newestCount storeDev.cal 2 0 < 0xFFFFFFFF ∧ unitsUsed (calSector storeDev.cal storeDev.cal.writeAt) + 3 ≤ 255
    ∧ storeDev.cal.writeAt < storeDev.cal.sectors.length ∧ calWrites dev0 = false
    ∧ (let c : Cal := { sectors := [{ st := 1, recs := [({ kind := 2, key := 0, units := 3, body := [1] }, 0xFFFFFFFF)] }] }; 0xFFFFFFFF ≤ newestCount c 2 0)
    ∧ (2, 0) ∉ storeDev.cal.ended ∧ 1 < storeDev.cal.sectors.length := by decide +kernel

theorem test_meets_DailyCounters :
    admitted (st dev1) .secure (.daily 0) .daily0SnapCtl = true ∧ domOn dev0 3 = true
    ∧ portActive dev2 0 = true ∧ portActive dev2 1 = false := by decide +kernel

/-- A cold boot at a step. -/
def bootDev (step : Nat) : Dev := rput { dev0 with pwr := { mode := .boot, dom := 0xF }, boot := { active := true } } .sbi .sbiBootStat (BitVec.ofNat 32 step)
/-- A site profile copy. -/
def copy (seq : BitVec 16) (valid : Bool) (items : List ProfileItem := []) : ProfileCopy := { seq, valid, items, badRow := none }

theorem test_meets_BootSteps :
    bootRuns dev0 = false ∧ (∀ i, i < 9 → bootRuns (bootDev i) = true ∧ bootStep (bootDev i) = i)
    ∧ bootWarm (rput (bootDev 1) .sbi .sbiBootStat 0x21) = true ∧ (feedA 6).st = 6 ∧ (feedA 4).st ≠ 6 ∧ (feedA 4).powerGood = true
    ∧ (({ state := 1 } : Life).state ≠ 3)
    ∧ dimmRefused ((List.range 16).map fun i => { cfg := 5, cause := if i = 3 then some 6 else none }) = some (3, 6)
    ∧ dimmRefused ((List.range 16).map fun _ => { cfg := 5, cause := none }) = none
    ∧ trainFailed (bootDev 7) 0 = false ∧ (trainStat (bootDev 7) 0).getLsbD 2 = false ∧ chanFenced (bootDev 7) 0 = false
    ∧ trainFailed (rput (bootDev 7) (.dphy 2) .dphyTrainStat 8) 2 = true
    ∧ portsUp (bootDev 8) = false
    ∧ (bootDev 8).waits = [] := by decide +kernel

/-- Brick 0 of Marwen personality with its link up, and no other port to wait for. -/
theorem test_meets_portsUp : portsUp { bootDev 8 with marwen := 0xFF, mports := (List.range 8).map fun b => (b, { state := 3 }) } = true := by decide +kernel

theorem test_meets_FeedStaysLegal : feedLegal (feedA 4) = true ∧ feedLegal {} = true
    ∧ (∃ t, step { st dev0 (feedA 4) with pending := [.fastTrip] } = .next t ∧ t.feed.st = 5) :=
  ⟨by decide +kernel, by decide +kernel, _, rfl, by decide +kernel⟩

theorem test_meets_LifeCycleOneWay : lifeLegal { state := 1, burn := some 2 } = true ∧ lifeLegal {} = true
    ∧ (∃ t, step { st dev0 {} { state := 1, burn := some 2 } with pending := [.aoPowerUp] } = .next t ∧ t.life.state = 2) :=
  ⟨by decide +kernel, by decide +kernel, _, rfl, by decide +kernel⟩

/-! The spec's worked examples -/

/-- The example of spec/03: DPA 0x0512_3476_7A80, its home, place and Stage set. -/
theorem test_address_example :
    pageOfLine (0x051234767A80 / 64) = 0x51234767 ∧ frameOf 0x51234767 = 0x2891A3 ∧ homeOf 0x51234767 = 1 ∧ localPage 0x51234767 = 0x1448D167
    ∧ qln (0x051234767A80 / 64) = 0x5123459EA ∧ stageSet (0x051234767A80 / 64) = 10730
    ∧ tierOf 0x3C5A1045 = .open_ ∧ heatOf 0x3C5A1045 = 0x11 ∧ mpnOf 0x3C5A1045 = 0x3C5A1
    ∧ locChan (locOf 1 0x3C5A1 0x2A) = 3 ∧ locSub (locOf 1 0x3C5A1 0x2A) = 14 ∧ locSla (locOf 1 0x3C5A1 0x2A) = 0x1E2D0D
    ∧ ddrOf 0x00855809 0x1E2D0D = { burst := 0x0D, row := 0xF1, bank := 1, bg := 3, rank := 0, cid := 0, dimm := 0 } := by decide +kernel

/-- The tweaks of spec/06's example. -/
theorem test_tweak_example : tweakLine (0x051234767A80 / 64) 0x15 = 0x0A9448D1D9EA ∧ tweakSlot 0x51234767 0 0x15 = 0x800000000000000000_0002A051234767 := by decide +kernel

/-- "trowel trowel trowel." of spec/05: the tokens it gives for the text, in a stream with its two checksums. -/
theorem test_upf_example :
    let text : List Byte := [0x74, 0x72, 0x6F, 0x77, 0x65, 0x6C, 0x20, 0x74, 0x72, 0x6F, 0x77, 0x65, 0x6C, 0x20, 0x74, 0x72, 0x6F, 0x77, 0x65, 0x6C, 0x2E]
    let sum : List Byte := bytesOf (crc32c text) 4
    (decodeStream 0 ([0x55, 0x50, 0x46, 0x01, 0x10, 0x00, 0xEF, 0xFF, 0x55, 0x01, 0x00, 0x00, 0xA7, 0x06, 0x00, 0x74, 0x72, 0x6F, 0x77, 0x65, 0x6C, 0x20, 0x01, 0x2E]
      ++ sum ++ sum) 64).1.out.reverse = text := by decide +kernel

/-- The rebuild of spec/07's example at one byte position. -/
theorem test_lining_example : gfMul (gfExp 2) 0x99 = 0x5E ∧ gfMul (gfInv (gfExp 1 ^^^ gfExp 2)) (0xA9 ^^^ 0x5E) = 0x53 ∧ 0x99 ^^^ 0x53 = 0xCA := by decide +kernel

/-- Pages, sources and registers that the spec's examples name: spec/02 (page 0x46), spec/18 (source 253), spec/11 (the doorbell of ring 0x1A3). -/
theorem test_name_examples :
    blockOf dev0 0x46 = some (.dmc 6) ∧ readReg (st dev0) .normal (.dmc 6) .hdrPageId 0 = 0x40060001 ∧ srcId (.dmc 6) 1 = 253
    ∧ regKey (.nme 1) .nmeDoorbell 0xA3 = 0x2F68C := by decide +kernel

/-- Bricks and ports of spec/12's example. -/
theorem test_ports_example :
    headsOf { rput (rput (rput dev0 (.hpt 0) .hptCfg 1) (.hpt 2) .hptCfg 2) (.hpt 3) .hptCfg 3 with marwen := 0xC0 } = [0, 1, 2, 4, 8, 10]
    ∧ portLane0 4 = 16 ∧ portLanes (rput (rput dev0 (.hpt 2) .hptCfg 2) (.hpt 3) .hptCfg 3) 4 = 16 := by decide +kernel

/-- Panic of an x4 port at the reset values (spec/12). -/
theorem test_panic_example :
    let d := rput (rput dev0 (.hpt 0) .hptCfg 1) (.hpt 0) .hptPanic 0x13010 1
    (port (hostOcc d 1 96) 1).panic = false ∧ (port (hostOcc d 1 97) 1).panic = true
    ∧ (port (hostOcc (hostOcc d 1 97) 1 32) 1).panic = true ∧ (port (hostOcc (hostOcc d 1 97) 1 31) 1).panic = false := by decide +kernel

/-- The GATE of spec/15's example at a target that is not aligned: GATE_ERR and the trap. -/
theorem test_gate_example :
    let s := after (.gate 2 0x08040000 0x0005000B 0x08000402 0 false) (st dev0 {} (core2 false))
    rget s.dev .mgt .mgtGateErr = 0x8000000A ∧ (coreAt s 2).mcause = 24 ∧ (coreAt s 2).mtval = 0x08000402 ∧ (coreAt s 2).secure = false := by decide +kernel

/-- The time of spec/16's example. -/
theorem test_time_example :
    let d := timeRestore { dev0 with pwr := { dev0.pwr with ratio := 0x7735E220, calValid := true, kept := some 0, aoTicks := 943718400 } }
    d.pwr.now = 28800288000000 ∧ d.pwr.unc = 144001440 := by decide +kernel

/-- The distances of spec/13's example. -/
theorem test_distance_example : seqDist 4094 4093 = 1 ∧ seqDist 37 4093 = 40 ∧ seqDist 4093 1 = 4092 ∧ seqDist 4095 1 = 4094 := by decide +kernel

/-- The watermarks of spec/02's example: an early write is ignored and seen, and an ACTION with them crossed is refused. -/
theorem test_cut_example :
    let s0 := st dev1
    let s1 := after (.cut .normal 0x46 1) s0
    let stat (s : State) := readReg s .normal (.dmc 6) .hdrRunStat 0
    let wqLo (v : Word) := Instr.registerWrite .normal (BitVec.ofNat 20 (regKey (.dmc 6) .dmcWqLo 0)) 4 v
    let s2 := after (.cutDone 0x46) s1
    stat s0 = 1 ∧ stat s1 = 0 ∧ stat (after (wqLo 0x28) s1) = 0x100 ∧ stat s2 = 2
    ∧ stat (after (.action .normal 0x46 2) (after (wqLo 0x0C) s2)) = 1 ∧ stat (after (.action .normal 0x46 2) (after (wqLo 0x30) s2)) = 0x102 := by decide +kernel

/-! One step -/

/-- A request of host port 0 for line 5, which stands in Stage. -/
def hit (op : Op) : Req := { id := 0, src := .host 0 9, kind := metaKind .i, op, line := 5, agent := 0 }
/-- A read of a line in Stage answers with it, and a write replaces it there. -/
theorem test_stage_hit :
    (arrive dev3 (hit .read) 0).out = [.memData 0 9 0xAB false 0] ∧ (arrive dev3 (hit (.write 0xCD)) 0).out = [.memCmp 0 9 0]
    ∧ stageFind (arrive dev3 (hit (.write 0xCD)) 0) 5 = some 0xCD := by decide +kernel

/-- The idle block with the cross-bar domain on: its clock runs. -/
theorem test_idle : (match step (st dev0) with | .next t => t.dev.pwr.now | _ => 0) = 10 := by decide +kernel

/-- The word of no row spells a command, and `withFetchWord` leaves the state. -/
theorem test_no_words : decodeTableWord 64 5 = none ∧ ((st dev0).withFetchWord 64 5).pending = [] := by decide +kernel

/-- Page 0 packed as 4,096 zero bytes, one literal and one match, with its engine at work on it. -/
def zeroPage : Dev :=
  { rput (under packed0 (fun x => { x with engines := [{ work := some (.decode 0) }, {}] })) (.pack 0) .packCfg 1 with
    dram := [(576, encodeWord false 3102674354369581408121782305619973 0)] }

theorem triple_of_isSome {α β γ : Type} (x : α × Option β × γ) (h : x.2.1.isSome = true) : ∃ a b c, x = (a, some b, c) := by
  obtain ⟨a, b, c⟩ := x
  obtain ⟨b', hb⟩ := Option.isSome_iff_exists.mp h
  exact ⟨a, b', c, by rw [show b = some b' from hb]⟩

theorem zeroPage_decodes : (decodePacked zeroPage .host 0 (entryNow zeroPage 0)).2.1.isSome = true := by decide +kernel

theorem test_meets_packedPageDecode :
    (∃ d ls n, decodePacked zeroPage .host 0 (entryNow zeroPage 0) = (d, some ls, n))
    ∧ ((quad zeroPage 0).engines.getD 0 {}).work = some (.decode 0) ∧ (rget zeroPage (.pack 0) .packCfg).getLsbD 1 = false :=
  ⟨triple_of_isSome _ zeroPage_decodes, by decide +kernel, by decide +kernel⟩

end Sys2Proof.Tests
end

section
/-! PROOFS. Refused accesses: the order of the causes, what the record of a refusal changes and leaves alone, the answers, and the clearing of
the capture (R30, R36). -/

namespace Sys2Proof.Machine

/-! ## The cause of a refusal (R36) -/

theorem refusal_notWord (s : State) (a : WinAcc) (h : a.bytes ≠ 4 ∨ a.off % 4 ≠ 0) : refusal s a = some 3 := if_pos h

/-- An access to a word has the cause that its page decides. -/
theorem refusal_word (s : State) (a : WinAcc) (hb : a.bytes = 4) (ho : a.off % 4 = 0) :
    (blockOf s.dev (a.off / 4096) = none → refusal s a = some 2)
    ∧ ∀ b, blockOf s.dev (a.off / 4096) = some b →
      refusal s a = if domOn s.dev b.domain = false then some 1 else if rightsRefuse s a b = true then some 0 else none := by
  have hw : ¬ (a.bytes ≠ 4 ∨ a.off % 4 ≠ 0) := by simp [hb, ho]
  constructor
  · intro hp
    simp only [refusal, if_neg hw, hp]
  · intro b hp
    simp only [refusal, if_neg hw, hp, Bool.not_eq_true]

/-- The first cause that applies, in the order of R36. -/
theorem refusal_first (s : State) (a : WinAcc) :
    ((a.bytes ≠ 4 ∨ a.off % 4 ≠ 0) → refusal s a = some 3)
    ∧ (a.bytes = 4 → a.off % 4 = 0 → blockOf s.dev (a.off / 4096) = none → refusal s a = some 2)
    ∧ (∀ b, a.bytes = 4 → a.off % 4 = 0 → blockOf s.dev (a.off / 4096) = some b →
        (domOn s.dev b.domain = false → refusal s a = some 1)
        ∧ (domOn s.dev b.domain = true → rightsRefuse s a b = true → refusal s a = some 0)
        ∧ (domOn s.dev b.domain = true → rightsRefuse s a b = false → refusal s a = none)) := by
  refine ⟨refusal_notWord s a, fun hb ho => (refusal_word s a hb ho).1, fun b hb ho hp => ?_⟩
  have h := (refusal_word s a hb ho).2 b hp
  exact ⟨fun hd => by simp [h, hd], fun hd hr => by simp [h, hd, hr], fun hd hr => by simp [h, hd, hr]⟩

/-! ## The record of a refusal (R30) -/

theorem tabGet_rput_ne (d : Dev) (b : Block) (n : RName) (v : Word) (i : Nat) {k : Nat} (x : Word) (h : k ≠ regKey b n i) :
    tabGet x (rput d b n v i).regs k = tabGet x d.regs k := tabGet_tabPut_ne _ _ _ _ h

/-- What WIN_ERR captures of a refused access. -/
def winErrWord (a : WinAcc) (cause : Nat) : Word :=
  packW [(31, 1), (28, match a.path with | .secure => 0 | .normal => 1 | .host _ => 2 | .sideband => 3 | .debug => 4),
    (24, match a.path with | .host h => h.val | _ => 0), (22, cause), (21, if a.write then 1 else 0), (0, a.off % 2 ^ 20)]

/-- The capture of a refused access, where WIN_ERR holds none. -/
def winErrCapture (d : Dev) (a : WinAcc) (cause : Nat) : Dev :=
  if bitOf (rget d .pgdir .pgdirWinErr) 31 then d else rput d .pgdir .pgdirWinErr (winErrWord a cause)

/-- A refusal is recorded by the capture, the count and the event. -/
theorem winRefuse_eq (d : Dev) (a : WinAcc) (cause : Nat) :
    winRefuse d a cause = raiseEvent (rbump (winErrCapture d a cause) .pgdir .pgdirWinErrCount) .pgdir 0 := by
  cases hp : a.path <;> simp only [winRefuse, winErrCapture, winErrWord, hp, Path.code, b2n]

theorem winErrCount_key_ne : regKey .pgdir .pgdirWinErrCount 0 ≠ regKey .pgdir .pgdirWinErr 0 := by decide

/-- The capture writes WIN_ERR and nothing else. -/
theorem winErrCapture_frame (d : Dev) (a : WinAcc) (cause : Nat) :
    winErrCapture d a cause = { d with regs := (winErrCapture d a cause).regs }
    ∧ ∀ k, k ≠ regKey .pgdir .pgdirWinErr 0 → ∀ x, tabGet x (winErrCapture d a cause).regs k = tabGet x d.regs k := by
  unfold winErrCapture
  split
  · exact ⟨rfl, fun _ _ _ => rfl⟩
  · exact ⟨rfl, fun _ hk x => tabGet_rput_ne _ _ _ _ _ x hk⟩

theorem rget_winErrCapture (d : Dev) (a : WinAcc) (cause : Nat) :
    rget (winErrCapture d a cause) .pgdir .pgdirWinErr
      = if bitOf (rget d .pgdir .pgdirWinErr) 31 then rget d .pgdir .pgdirWinErr else winErrWord a cause := by
  unfold winErrCapture
  split
  · rfl
  · exact rget_rput_self ..

/-- Before the event the pages are as they were. -/
theorem pget_rbump_winErrCapture (d : Dev) (a : WinAcc) (cause : Nat) (b : Block) :
    pget (rbump (winErrCapture d a cause) .pgdir .pgdirWinErrCount) b = pget d b := by
  rw [(winErrCapture_frame d a cause).1]
  rfl

theorem satInc_word (v : Word) : satInc v = if v = 0xFFFFFFFF then 0xFFFFFFFF else v + 1 := by
  rw [satInc, show BitVec.allOnes 32 = 0xFFFFFFFF from rfl]
  split_ifs with h
  · exact h
  · rfl

/-- A refusal touches registers and pages alone. -/
theorem winRefuse_frame (d : Dev) (a : WinAcc) (cause : Nat) :
    winRefuse d a cause = { d with regs := (winRefuse d a cause).regs, pages := (winRefuse d a cause).pages } := by
  rw [winRefuse_eq, (winErrCapture_frame d a cause).1]
  rfl

/-- Among the registers a refusal touches WIN_ERR and WIN_ERR_COUNT alone. -/
theorem winRefuse_regs_ne (d : Dev) (a : WinAcc) (cause : Nat) {k : Nat} (h : k ≠ regKey .pgdir .pgdirWinErr 0)
    (hc : k ≠ regKey .pgdir .pgdirWinErrCount 0) (x : Word) : tabGet x (winRefuse d a cause).regs k = tabGet x d.regs k := by
  rw [winRefuse_eq, raiseEvent_regs, rbump, tabGet_rput_ne _ _ _ _ _ x hc]
  exact (winErrCapture_frame d a cause).2 k h x

theorem rget_winRefuse_winErr (d : Dev) (a : WinAcc) (cause : Nat) :
    rget (winRefuse d a cause) .pgdir .pgdirWinErr
      = if bitOf (rget d .pgdir .pgdirWinErr) 31 then rget d .pgdir .pgdirWinErr else winErrWord a cause := by
  rw [winRefuse_eq, rget_congr (raiseEvent_regs ..), rbump, rget_rput_ne _ _ winErrCount_key_ne.symm, rget_winErrCapture]

theorem rget_winRefuse_winErrCount (d : Dev) (a : WinAcc) (cause : Nat) :
    rget (winRefuse d a cause) .pgdir .pgdirWinErrCount = satInc (rget d .pgdir .pgdirWinErrCount) := by
  have hc : rget (winErrCapture d a cause) .pgdir .pgdirWinErrCount = rget d .pgdir .pgdirWinErrCount :=
    (winErrCapture_frame d a cause).2 _ winErrCount_key_ne _
  rw [winRefuse_eq, rget_congr (raiseEvent_regs ..), rbump, rget_rput_self, hc]

theorem pget_winRefuse_pgdir (d : Dev) (a : WinAcc) (cause : Nat) :
    pget (winRefuse d a cause) .pgdir = { pget d .pgdir with eventStat := (pget d .pgdir).eventStat ||| 1 } := by
  rw [winRefuse_eq, raiseEvent, pget_pmod_self, pget_rbump_winErrCapture]
  rfl

theorem pget_winRefuse_ne (d : Dev) (a : WinAcc) (cause : Nat) {b : Block} (h : b.page ≠ 0) :
    pget (winRefuse d a cause) b = pget d b := by
  rw [winRefuse_eq, raiseEvent, pget_pmod_ne _ _ h, pget_rbump_winErrCapture]

/-! ## The answer to a refused access (R26, R36) -/

theorem winWrite_refused {s : State} {a : WinAcc} {c : Nat} (w : Word) (h : refusal s a = some c) :
    winWrite s a w = (withDev s (winRefuse s.dev a c), some c) := by
  simp only [winWrite, h, withDev]

theorem winRead_refused {s : State} {a : WinAcc} {c : Nat} (h : refusal s a = some c) :
    winRead s a = (withDev s (winRefuse s.dev a c), .error c) := by
  simp only [winRead, h, withDev]

/-- A refused write is recorded, and on the sideband answered with its cause. -/
theorem writeCmd_refused_answer {s : State} {p : Path} {off bytes c : Nat} (w : Word) (hp : presents s.dev p = true)
    (hc : refusal s { path := p, off, bytes, write := true } = some c) :
    let d := winRefuse s.dev { path := p, off, bytes, write := true } c
    writeCmd s p off w bytes
      = .next (onDev s (if p = .sideband then send d (.sideband (sbResponse 2 off (sbStatus c) none)) else d)) := by
  by_cases hs : p = .sideband
  · subst hs
    simp [writeCmd, hp, winWrite_refused w hc, withDev, winDone, onDev, settled]
  · simpa only [if_neg hs] using writeCmd_refused w hp hc hs

/-- A refused read is recorded and answered with all ones, on the sideband with its cause and no data. -/
theorem readCmd_refused_answer {s : State} {p : Path} {off bytes c : Nat} {slate : Option Nat} (hp : presents s.dev p = true)
    (hc : refusal s { path := p, off, bytes, slate } = some c) :
    readCmd s p off bytes slate = .next (onDev s (send (winRefuse s.dev { path := p, off, bytes, slate } c)
      (if p = .sideband then .sideband (sbResponse 1 off (sbStatus c) none) else .regData p 0xFFFFFFFF))) := by
  cases p <;> simp [readCmd, hp, winRead_refused hc, withDev, winDone, onDev, settled]

/-! ## The clearing of WIN_ERR (R30) -/

/-- A 1 written to VALID of WIN_ERR clears the capture and the count. -/
theorem writeReg_winErr_valid (s : State) (p : Path) (v : Word) :
    writeReg s p .pgdir .pgdirWinErr 0 (v ||| 0x80000000)
      = withDev s (rput (rput s.dev .pgdir .pgdirWinErr 0) .pgdir .pgdirWinErrCount 0) := by
  have hv : bitOf (v ||| 0x80000000) 31 = true := by simp [bitOf]
  rw [writeReg_capture rfl rfl (by decide), captureWrite, if_pos hv]
  rfl

theorem execWinErrClear_admitted {s : State} {p : Path} (v : Word) (h : admitted s p .pgdir .pgdirWinErr = true) :
    exec (.winErrClear p v) s
      = .next (wrote p .pgdir .pgdirWinErr (withDev s (rput (rput s.dev .pgdir .pgdirWinErr 0) .pgdir .pgdirWinErrCount 0))) := by
  rw [← writeReg_winErr_valid s p v]
  exact regCmd_admitted (v ||| 0x80000000) h (by decide) (by decide) rfl rfl

/-! ## The obligation -/

/-- Settles O4: the causes in order, the record of a refusal part by part, the answers, and the clearing. -/
theorem refusedAccesses : Obligations.RefusedAccesses := by
  unfold Obligations.RefusedAccesses
  refine ⟨refusal_first, fun d a cause => ⟨winRefuse_frame d a cause, ?_, fun h => ?_, fun h => ?_, pget_winRefuse_pgdir d a cause,
      fun k hk hc x => winRefuse_regs_ne d a cause hk hc x, fun b hb => pget_winRefuse_ne d a cause hb⟩, ?_, ?_, ?_⟩
  · rw [rget_winRefuse_winErrCount, satInc_word]
  · rw [rget_winRefuse_winErr, if_pos h]
  · rw [rget_winRefuse_winErr, if_neg (by simp [h])]
    rfl
  · exact fun s p off bytes cause v hp hc => writeCmd_refused_answer v hp hc
  · exact fun s p off bytes cause hp hc => readCmd_refused_answer hp hc
  · exact fun s p v h => execWinErrClear_admitted v h

end Sys2Proof.Machine
end

section
/-! PROOFS. The passages between the worlds: what a core's own state reads after it is set, the checks of a GATE in order and the gate fault
(R337), the three instructions where they may and may not be executed (R336, R338), secure interrupts (R340) and CORE_RELEASE (R333). -/

namespace Sys2Proof.Machine

/-! ## Cores, one at a time -/

@[simp] theorem coreSet_cores_length (s : State) (k : Nat) (c : CoreSt) : (coreSet s k c).life.cores.length = s.life.cores.length :=
  List.length_set

theorem coreAt_coreSet_self {s : State} {k : Nat} (c : CoreSt) (hk : k < s.life.cores.length) : coreAt (coreSet s k c) k = c := by
  simp [coreAt, coreSet, hk]

theorem coreAt_coreSet_ne (s : State) {j k : Nat} (c : CoreSt) (h : k ≠ j) : coreAt (coreSet s j c) k = coreAt s k := by
  simp [coreAt, coreSet, List.getElem?_set_ne h.symm]

/-- The cores of a list that meet a condition are set alike. -/
def coresSet (p : Nat → Prop) [DecidablePred p] (c : CoreSt) (ks : List Nat) (s : State) : State :=
  ks.foldl (fun s k => if p k then coreSet s k c else s) s

section
variable (p : Nat → Prop) [DecidablePred p] (c : CoreSt)

theorem coresSet_cons (j : Nat) (ks : List Nat) (s : State) :
    coresSet p c (j :: ks) s = coresSet p c ks (if p j then coreSet s j c else s) := rfl

theorem coresSet_dev (ks : List Nat) (s : State) : (coresSet p c ks s).dev = s.dev := by
  induction ks generalizing s with
  | nil => rfl
  | cons j ks ih =>
    rw [coresSet_cons, ih]
    split <;> rfl

theorem coreAt_coresSet (ks : List Nat) {s : State} {k : Nat} (hk : k < s.life.cores.length) :
    coreAt (coresSet p c ks s) k = if k ∈ ks ∧ p k then c else coreAt s k := by
  induction ks generalizing s with
  | nil => simp [coresSet]
  | cons j ks ih =>
    rw [coresSet_cons]
    by_cases hp : p j
    · rw [if_pos hp, ih (by simpa using hk)]
      by_cases hj : k = j
      · subst hj
        simp [hp, coreAt_coreSet_self c hk]
      · simp [hj, coreAt_coreSet_ne s c hj]
    · rw [if_neg hp, ih hk]
      by_cases hj : k = j
      · subst hj
        simp [hp]
      · simp [hj]

end

/-! ## Traps (R340) -/

theorem trap_normal {c : CoreSt} (pc cause tval : DWord) (h : c.secure = false) :
    trap c pc cause tval = { c with mepc := pc, mcause := cause, mtval := tval, pc := c.mtvec } := by
  simp [trap, h]

theorem trap_secure {c : CoreSt} (pc cause tval : DWord) (h : c.secure = true) :
    trap c pc cause tval = { c with mepc := pc, mcause := cause, mtval := tval, pc := c.stvec } := by
  simp [trap, h]

/-! ## The checks of a GATE and the gate fault (R337) -/

theorem gateReason_outside (d : Dev) {target : DWord} (at_ : Word) (h : secureAddr target = false) : gateReason d target at_ = some 1 := by
  simp [gateReason, h]

theorem gateReason_misaligned (d : Dev) {target : DWord} (at_ : Word) (h : secureAddr target = true) (ha : fld target 1 0 ≠ 0) :
    gateReason d target at_ = some 2 := by
  simp [gateReason, h, ha]

theorem gateReason_islandOff {d : Dev} {target : DWord} (at_ : Word) (h : secureAddr target = true) (ha : fld target 1 0 = 0)
    (hd : domOn d 2 = false) : gateReason d target at_ = some 4 := by
  simp [gateReason, h, ha, hd]

theorem gateReason_noEntry {d : Dev} {target : DWord} {at_ : Word} (h : secureAddr target = true) (ha : fld target 1 0 = 0)
    (hd : domOn d 2 = true) (he : at_ ≠ entryWord) : gateReason d target at_ = some 3 := by
  simp [gateReason, h, ha, hd, he]

theorem gateReason_passes {d : Dev} {target : DWord} (h : secureAddr target = true) (ha : fld target 1 0 = 0) (hd : domOn d 2 = true) :
    gateReason d target entryWord = none := by
  simp [gateReason, h, ha, hd]

/-- What GATE_ERR captures of a gate fault, where it holds none. -/
def gateErrCapture (d : Dev) (k reason : Nat) (target : DWord) : Dev :=
  if (rget d .mgt .mgtGateErr).getLsbD 31 then d
  else rput (rput d .mgt .mgtGateErr (packW [(0, k), (2, reason), (31, 1)])) .mgt .mgtGateErrAddr (target.setWidth 32)

/-- A gate fault in the normal world: the trap to mtvec, the capture and the source. -/
theorem gateFault_normal {s : State} {k : Nat} (pc target : DWord) (reason : Nat) (h : (coreAt s k).secure = false) :
    gateFault s k pc target reason
      = onDev (coreSet s k { coreAt s k with mepc := pc, mcause := 24, mtval := target, pc := (coreAt s k).mtvec })
          (raise0 (gateErrCapture s.dev k reason target) .mgt 1) := by
  rw [← trap_normal pc 24 target h]
  rfl

theorem gateEnter_fails {s : State} {k : Nat} {pc target : DWord} {at_ : Word} {r : Nat} (h : gateReason s.dev target at_ = some r) :
    gateEnter s k pc target at_ = gateFault s k pc target r := by
  simp only [gateEnter, h]

theorem gateEnter_passes {s : State} {k : Nat} {pc target : DWord} {at_ : Word} (h : gateReason s.dev target at_ = none) :
    gateEnter s k pc target at_ = coreSet s k { coreAt s k with sepc := pc + 4, secure := true, pc := target + 4 } := by
  simp only [gateEnter, h]

/-! ## The instructions of custom-0 on a core that runs (R336, R338)

Where they may not be executed they trap by `illegal`, which leaves mtval to a free value: no rule fixes it. -/

section
variable {s : State} {k : Fin 4} (hk : coreRuns s k = true)
include hk

theorem exec_gate (pc : DWord) (word : Word) (target : DWord) (at_ : Word) (user : Bool) :
    exec (.gate k pc word target at_ user) s
      = if (coreAt s k).secure ∨ user ∨ ¬ isGate word then .next (illegal s k pc) else .next (gateEnter s k pc target at_) :=
  if_neg (not_not.mpr hk)

theorem exec_gret (pc : DWord) (word : Word) (user : Bool) :
    exec (.gret k pc word user) s
      = if ¬ (coreAt s k).secure ∨ user ∨ word ≠ gretWord then .next (illegal s k pc)
        else .next (coreSet s k { coreAt s k with secure := false, pc := (coreAt s k).sepc }) :=
  if_neg (not_not.mpr hk)

theorem exec_entry (pc : DWord) (word : Word) :
    exec (.entry k pc word) s
      = if ¬ (coreAt s k).secure ∨ word ≠ entryWord then .next (illegal s k pc)
        else .next (coreSet s k { coreAt s k with pc := pc + 4 }) :=
  if_neg (not_not.mpr hk)

/-- A word of custom-0 that spells none of the three is illegal. -/
theorem exec_illegalCustom0 (pc : DWord) {word : Word} (h0 : fld word 6 0 = 0x0B) (hg : isGate word = false) (hr : word ≠ gretWord)
    (he : word ≠ entryWord) : exec (.illegalCustom0 k pc word) s = .next (illegal s k pc) :=
  if_pos ⟨hk, h0, by simp [hg], hr, he⟩

end

/-- In machine mode of the normal world a GATE is legal: the checks of R337 decide what it does. -/
theorem exec_gate_normal {s : State} {k : Fin 4} {word : Word} (pc target : DWord) (at_ : Word) (hk : coreRuns s k = true)
    (hn : (coreAt s k).secure = false) (hw : isGate word = true) :
    exec (.gate k pc word target at_ false) s = .next (gateEnter s k pc target at_) := by
  rw [exec_gate hk, if_neg (by simp [hn, hw])]

theorem exec_gate_fault {s : State} {k : Fin 4} {word : Word} {target : DWord} {at_ : Word} {r : Nat} (pc : DWord) (hk : coreRuns s k = true)
    (hn : (coreAt s k).secure = false) (hw : isGate word = true) (hr : gateReason s.dev target at_ = some r) :
    exec (.gate k pc word target at_ false) s
      = .next (onDev (coreSet s k { coreAt s k with mepc := pc, mcause := 24, mtval := target, pc := (coreAt s k).mtvec })
          (raise0 (gateErrCapture s.dev k r target) .mgt 1)) := by
  rw [exec_gate_normal pc target at_ hk hn hw, gateEnter_fails hr, gateFault_normal pc target r hn]

/-! ## Secure interrupts (R340) -/

theorem exec_secureInterrupt {s : State} {k : Fin 4} (pc : DWord) (enabled : Bool) (hr : rfld s.dev .seci .seciSirqRoute 1 0 = k.val)
    (hk : coreRuns s k = true) (hd : domOn s.dev 2 = true) :
    exec (.secureInterrupt pc enabled) s = .next (interrupt s k pc enabled) := by
  rw [← hr] at hk ⊢
  exact if_pos ⟨hk, hd⟩

theorem interrupt_normal {s : State} {k : Nat} (pc : DWord) (enabled : Bool) (h : (coreAt s k).secure = false) :
    interrupt s k pc enabled = coreSet s k { coreAt s k with sepc := pc, secure := true, pc := (coreAt s k).stvec } := by
  simp [interrupt, h]

theorem interrupt_secure {s : State} {k : Nat} (pc : DWord) (enabled : Bool) (h : (coreAt s k).secure = true) :
    interrupt s k pc enabled = if enabled = true
      then coreSet s k { coreAt s k with mepc := pc, mcause := 0x800000000000000B, mtval := 0, pc := (coreAt s k).stvec } else s := by
  simp [interrupt, h, trap_secure]

/-! ## CORE_RELEASE (R333) -/

/-- A core is newly released by a bit of its own that is written and was not set; core 0 has none. -/
abbrev releases (old v : Word) (k : Nat) : Prop := (old ||| (v &&& 0xE)).getLsbD k ∧ ¬ old.getLsbD k

theorem releases_iff (old v : Word) (k : Fin 4) :
    (k.val ∈ [1, 2, 3] ∧ releases old v k) ↔ k.val ≠ 0 ∧ v.getLsbD k = true ∧ old.getLsbD k = false := by
  have hm : k.val ∈ [1, 2, 3] ↔ k.val ≠ 0 := by revert k; decide
  have hb : (0xE : Word).getLsbD k.val = decide (k.val ≠ 0) := by revert k; decide
  rw [hm, releases, BitVec.getLsbD_or, BitVec.getLsbD_and, hb]
  cases old.getLsbD k.val <;> simp +contextual

/-- The write as a change of the register and of the cores newly released. -/
theorem coreReleaseWrite_eq (s : State) (v : Word) :
    coreReleaseWrite s v
      = coresSet (releases (rget s.dev .seci .seciCoreRelease) v) { running := true, pc := BitVec.ofNat 64 (Config.free (fresh s.dev)) } [1, 2, 3]
          (withDev s (bumpFree (rput s.dev .seci .seciCoreRelease (rget s.dev .seci .seciCoreRelease ||| (v &&& 0xE))))) := rfl

theorem rget_coreReleaseWrite (s : State) (v : Word) :
    rget (coreReleaseWrite s v).dev .seci .seciCoreRelease = rget s.dev .seci .seciCoreRelease ||| (v &&& 0xE) := by
  rw [coreReleaseWrite_eq, coresSet_dev]
  exact rget_rput_self ..

theorem coreAt_coreReleaseWrite {s : State} (v : Word) (k : Fin 4) (h : s.life.cores.length = 4) :
    coreAt (coreReleaseWrite s v) k
      = if k.val ≠ 0 ∧ v.getLsbD k = true ∧ (rget s.dev .seci .seciCoreRelease).getLsbD k = false
        then { running := true, pc := BitVec.ofNat 64 (Config.free (fresh s.dev)) } else coreAt s k := by
  rw [coreReleaseWrite_eq, coreAt_coresSet _ _ _ (by simp [withDev, h])]
  simp only [releases_iff]
  rfl

theorem exec_coreRelease {s : State} {p : Path} (v : Word) (h : admitted s p .seci .seciCoreRelease = true) :
    exec (.coreRelease p v) s = .next (wrote p .seci .seciCoreRelease (coreReleaseWrite s v)) := by
  have hw : writeReg s p .seci .seciCoreRelease 0 v = coreReleaseWrite s v := writeReg_state rfl rfl rfl rfl rfl rfl
  rw [← hw]
  exact regCmd_admitted v h (by decide) (by decide) rfl rfl

/-! ## The obligation -/

/-- Settles O40: the checks of a GATE one by one, then the instructions in and outside their world, secure interrupts and CORE_RELEASE. -/
theorem worldSwitches : Obligations.WorldSwitches := by
  unfold Obligations.WorldSwitches
  refine ⟨fun s k pc target word at_ hk hn hw => ⟨fun h ha hd he => ?_, fun h => ?_, fun h ha => ?_, fun h ha hd => ?_, fun h ha hd he => ?_⟩,
    fun s k pc hk hs => ⟨?_, ?_⟩, fun s k pc target word at_ user hk => ⟨fun h => ?_, fun h => ?_, fun hn => ?_, fun h0 hg hr he => ?_⟩,
    fun s pc enabled k hr hk hd => ⟨fun hn => ?_, fun hs => ?_, fun hs => ?_⟩,
    fun s p v ha hl => ⟨coreReleaseWrite s v, exec_coreRelease v ha, rget_coreReleaseWrite s v, fun k => ⟨fun h0 hv ho => ?_, fun h => ?_⟩⟩⟩
  · subst he
    rw [exec_gate_normal pc target _ hk hn hw, gateEnter_passes (gateReason_passes h ha hd)]
  · exact exec_gate_fault pc hk hn hw (gateReason_outside _ at_ h)
  · exact exec_gate_fault pc hk hn hw (gateReason_misaligned _ at_ h ha)
  · exact exec_gate_fault pc hk hn hw (gateReason_islandOff at_ h ha hd)
  · exact exec_gate_fault pc hk hn hw (gateReason_noEntry h ha hd he)
  · rw [exec_gret hk, if_neg (by simp [hs, gretWord])]
  · rw [exec_entry hk, if_neg (by simp [hs, entryWord])]
  · exact (exec_gate hk ..).trans (if_pos (h.imp_right .inl))
  · exact (exec_gret hk ..).trans (if_pos (h.imp (fun hn => by simp [hn]) .inl))
  · exact (exec_entry hk ..).trans (if_pos (.inl (by simp [hn])))
  · exact exec_illegalCustom0 hk pc h0 hg hr he
  · rw [exec_secureInterrupt pc enabled hr hk hd, interrupt_normal pc enabled hn]
  · rw [exec_secureInterrupt pc true hr hk hd, interrupt_secure pc true hs, if_pos rfl]
  · rw [exec_secureInterrupt pc false hr hk hd, interrupt_secure pc false hs, if_neg Bool.false_ne_true]
  · rw [coreAt_coreReleaseWrite v k hl, if_pos ⟨h0, hv, ho⟩]
    exact ⟨rfl, rfl⟩
  · rw [coreAt_coreReleaseWrite v k hl, if_neg]
    rintro ⟨h0, hv, ho⟩
    simp [h0, hv, ho] at h

end Sys2Proof.Machine
end

section
/-! PROOFS. Snapshots of the counters and bandwidth windows (R438, R439): what a run of register writes leaves, what a snapshot keeps, and what
the end of a window shows. -/

namespace Sys2Proof.Machine

/-! ## One register after another -/

/-- The registers of one name at the listed indices are written, each with a value of its own. -/
def rputEach (b : Block) (n : RName) (v : Nat → Word) (is : List Nat) (d : Dev) : Dev := is.foldl (fun d i => rput d b n (v i) i) d

section
variable {b : Block} {n : RName} (v : Nat → Word) (d : Dev)

theorem rputEach_cons (i : Nat) (is : List Nat) : rputEach b n v (i :: is) d = rputEach b n v is (rput d b n (v i) i) := rfl

theorem rputEach_daily (is : List Nat) : (rputEach b n v is d).daily = d.daily := by
  induction is generalizing d with
  | nil => rfl
  | cons i is ih => rw [rputEach_cons, ih, rput_daily]

theorem rget_rputEach_ne {c : Block} {m : RName} {j : Nat} {is : List Nat} (h : ∀ i ∈ is, regKey c m j ≠ regKey b n i) :
    rget (rputEach b n v is d) c m j = rget d c m j := by
  induction is generalizing d with
  | nil => rfl
  | cons i is ih => rw [rputEach_cons, ih _ fun k hk => h k (.tail _ hk), rget_rput_ne _ _ (h i (.head _))]

theorem regKey_ne_of_index_ne (hn : 0 < n.row.stride) {i j : Nat} (h : i ≠ j) : regKey b n i ≠ regKey b n j := fun hk =>
  h (Nat.eq_of_mul_eq_mul_right hn (Nat.add_left_cancel hk))

theorem rget_rputEach (hn : 0 < n.row.stride) (is : List Nat) (j : Nat) :
    rget (rputEach b n v is d) b n j = if j ∈ is then v j else rget d b n j := by
  induction is generalizing d with
  | nil => rfl
  | cons i is ih =>
    rw [rputEach_cons, ih]
    by_cases hj : j = i
    · subst hj
      simp
    · rw [rget_rput_ne _ _ (regKey_ne_of_index_ne hn hj)]
      simp [hj]

end

/-! ## Snapshots (R438) -/

/-- A 1 written to SNAP asks for a snapshot and does nothing else. -/
theorem writeReg_snapCtl (s : State) (p : Path) (v : Word) :
    writeReg s p (.daily 0) .daily0SnapCtl 0 (v ||| 1) = withDev s { s.dev with daily := { s.dev.daily with snapDue := true } } := by
  have hv : bitOf (v ||| 1) 0 = true := by simp [bitOf]
  exact writeReg_device rfl rfl rfl rfl (congrArg some (if_pos hv))

theorem execSnap_admitted {s : State} {p : Path} (v : Word) (h : admitted s p (.daily 0) .daily0SnapCtl = true) :
    exec (.snap p v) s
      = .next (wrote p (.daily 0) .daily0SnapCtl (withDev s { s.dev with daily := { s.dev.daily with snapDue := true } })) := by
  rw [← writeReg_snapCtl s p v]
  exact regCmd_admitted (v ||| 1) h (by decide) (by decide) rfl rfl

theorem exec_snapshotTick_due {s : State} (hd : domOn s.dev 3 = true) (h : s.dev.daily.snapDue = true) :
    exec .snapshotTick s = .next (onDev s (snapTake s.dev)) := doneIf_pos s _ snapTake (by simp [hd, h])

theorem exec_snapshotTick_idle {s : State} (h : s.dev.daily.snapDue = false) : exec .snapshotTick s = .next s :=
  doneIf_neg s _ snapTake (by simp [h])

/-- A snapshot writes its three registers and the state of the Dailies, and takes the values of the counters that are free. -/
theorem snapTake_frame (d : Dev) :
    snapTake d = { d with regs := (snapTake d).regs, daily := (snapTake d).daily, freeCtr := (snapTake d).freeCtr } := rfl

theorem snapTake_daily (d : Dev) :
    (snapTake d).daily = { d.daily with snap := d.daily.live, snapFree := some d.freeCtr, snapDue := false } := rfl

theorem rget_snapTake_seq (d : Dev) : rget (snapTake d) (.daily 0) .daily0SnapSeq = rget d (.daily 0) .daily0SnapSeq + 1 := by
  rw [snapTake, rget_rput_self, rget_rput_ne _ _ (by decide), rget_rput_ne _ _ (by decide)]
  rfl

theorem rget_snapTake_timeLo (d : Dev) : rget (snapTake d) (.daily 0) .daily0SnapTimeLo = d.pwr.now.setWidth 32 := by
  rw [snapTake, rget_rput_ne _ _ (by decide), rget_rput_ne _ _ (by decide), rget_rput_self]

theorem rget_snapTake_timeHi (d : Dev) : rget (snapTake d) (.daily 0) .daily0SnapTimeHi = (d.pwr.now >>> 32).setWidth 32 := by
  rw [snapTake, rget_rput_ne _ _ (by decide), rget_rput_self]

/-! ## Bandwidth windows (R439, R443) -/

/-- The bandwidth registers of the ports are written, those of the hosts before those of Marwen. -/
def bwShown (d : Dev) : Dev :=
  rputEach (.daily 0) .daily0BwMp (fun b => bwReg d (16 + b)) (List.range 8) (rputEach (.daily 0) .daily0BwHp (bwReg d) (List.range 16) d)

theorem bwShown_daily (d : Dev) : (bwShown d).daily = d.daily := by rw [bwShown, rputEach_daily, rputEach_daily]

theorem rget_bwShown_host (d : Dev) {p : Nat} (hp : p < 16) : rget (bwShown d) (.daily 0) .daily0BwHp p = bwReg d p := by
  have hk : ∀ b ∈ List.range 8, regKey (.daily 0) .daily0BwHp p ≠ regKey (.daily 0) .daily0BwMp b := by
    intro b _
    simp only [regKey, RName.row]
    omega
  rw [bwShown, rget_rputEach_ne _ _ hk, rget_rputEach _ _ (by decide), if_pos (List.mem_range.2 hp)]

theorem rget_bwShown_marwen (d : Dev) {b : Nat} (hb : b < 8) : rget (bwShown d) (.daily 0) .daily0BwMp b = bwReg d (16 + b) := by
  rw [bwShown, rget_rputEach _ _ (by decide), if_pos (List.mem_range.2 hb)]

/-- The registers of a Daily page outside the bandwidth registers hold. -/
theorem rget_bwShown_ne (d : Dev) {n : RName} {i : Nat} (hh : ∀ p ∈ List.range 16, regKey (.daily 0) n i ≠ regKey (.daily 0) .daily0BwHp p)
    (hm : ∀ b ∈ List.range 8, regKey (.daily 0) n i ≠ regKey (.daily 0) .daily0BwMp b) :
    rget (bwShown d) (.daily 0) n i = rget d (.daily 0) n i := by
  rw [bwShown, rget_rputEach_ne _ _ hm, rget_rputEach_ne _ _ hh]

theorem rget_bwShown_seq (d : Dev) : rget (bwShown d) (.daily 0) .daily0BwSeq = rget d (.daily 0) .daily0BwSeq :=
  rget_bwShown_ne d (by decide) (by decide)

theorem rget_bwShown_window (d : Dev) : rget (bwShown d) (.daily 0) .daily0BwWindow = rget d (.daily 0) .daily0BwWindow :=
  rget_bwShown_ne d (by decide) (by decide)

/-- The registers at a window's end: the ports' rates, and one more window counted. -/
def bwCounted (d : Dev) : Dev := rput (bwShown d) (.daily 0) .daily0BwSeq (rget (bwShown d) (.daily 0) .daily0BwSeq + 1)

theorem bwCounted_daily (d : Dev) : (bwCounted d).daily = d.daily := by rw [bwCounted, rput_daily, bwShown_daily]

theorem bwEnd_regs (d : Dev) : (bwEnd d).regs = (bwCounted d).regs := rfl

theorem rget_bwEnd_seq (d : Dev) : rget (bwEnd d) (.daily 0) .daily0BwSeq = rget d (.daily 0) .daily0BwSeq + 1 := by
  rw [rget_congr (bwEnd_regs d), bwCounted, rget_rput_self, rget_bwShown_seq]

theorem rget_bwEnd_host (d : Dev) {p : Nat} (hp : p < 16) : rget (bwEnd d) (.daily 0) .daily0BwHp p = bwReg d p := by
  have hk : regKey (.daily 0) .daily0BwHp p ≠ regKey (.daily 0) .daily0BwSeq 0 := by
    simp only [regKey, RName.row]
    omega
  rw [rget_congr (bwEnd_regs d), bwCounted, rget_rput_ne _ _ hk, rget_bwShown_host d hp]

theorem rget_bwEnd_marwen (d : Dev) {b : Nat} (hb : b < 8) : rget (bwEnd d) (.daily 0) .daily0BwMp b = bwReg d (16 + b) := by
  have hk : regKey (.daily 0) .daily0BwMp b ≠ regKey (.daily 0) .daily0BwSeq 0 := by
    simp only [regKey, RName.row]
    omega
  rw [rget_congr (bwEnd_regs d), bwCounted, rget_rput_ne _ _ hk, rget_bwShown_marwen d hb]

/-- The next window takes its length from BW_WINDOW as it stood. -/
theorem bwLength_bwCounted (d : Dev) : bwLength (bwCounted d) = bwLength d := by
  rw [bwLength, rfld, bwCounted, rget_rput_ne _ _ (by decide), rget_bwShown_window]
  rfl

/-- The next window begins with nothing moved, and the counters hold. -/
theorem bwEnd_daily (d : Dev) : (bwEnd d).daily = { d.daily with winOut := [], winIn := [], winUs := bwLength d } := by
  rw [← bwCounted_daily d, ← bwLength_bwCounted d]
  rfl

theorem exec_bwWindowEnd {s : State} (hd : domOn s.dev 3 = true) : exec .bwWindowEnd s = .next (onDev s (bwEnd s.dev)) :=
  doneIf_pos s _ bwEnd hd

/-! ## The obligation -/

/-- Settles O56: the write of SNAP, the snapshot at the tick after it, the tick without one asked for, and the end of a bandwidth window. -/
theorem dailyCounters : Obligations.DailyCounters := by
  unfold Obligations.DailyCounters
  refine ⟨fun s p v h => execSnap_admitted v h, fun s hd h => ⟨snapTake s.dev, exec_snapshotTick_due hd h, ?_⟩,
    fun s h => exec_snapshotTick_idle h, fun s hd => ⟨bwEnd s.dev, exec_bwWindowEnd hd, ?_, rget_bwEnd_seq s.dev, ?_⟩⟩
  · rw [snapTake_daily]
    exact ⟨rfl, rfl, rfl, rget_snapTake_timeLo s.dev, rget_snapTake_timeHi s.dev, rget_snapTake_seq s.dev, snapTake_frame s.dev⟩
  · rintro p b n i (⟨hp, rfl, rfl, rfl⟩ | ⟨hp, hb, rfl, rfl, rfl⟩)
    · exact rget_bwEnd_host s.dev hp
    · refine (rget_bwEnd_marwen s.dev (by omega)).trans ?_
      rw [Nat.add_sub_cancel' hp]
      rfl
  · rw [bwEnd_daily]
    exact ⟨rfl, rfl, rfl, rfl, rfl⟩

end Sys2Proof.Machine
end

section
/-! PROOFS. What lies outside the device: every command answers a next state and leaves the queue alone, the feed controller stays legal (R380 to
R385), the life cycle where a site profile is loaded (R344, R445), and what the keys show in registers (R342). -/

namespace Sys2Proof.Machine

/-! ## A legal feed controller, part by part -/

/-- The parts of `feedLegal`. -/
structure FeedLegal (f : Feed) : Prop where
  st_le : f.st ≤ 6
  power : f.powerGood = true ↔ f.st = 4
  healthy : f.healthy &&& ~~~f.admitted = 0
  pairs : f.pairs &&& ~~~f.admitted = 0
  unfed : f.admitted = 0 → f.st = 0 ∨ f.st = 6
  timer : f.timerRun = true → f.st = 3 ∨ f.st = 4

theorem feedLegal_iff (f : Feed) : feedLegal f = true ↔ FeedLegal f := by
  simp only [feedLegal, Bool.and_eq_true, decide_eq_true_eq]
  constructor
  · rintro ⟨⟨⟨⟨⟨h1, h2⟩, h3⟩, h4⟩, h5⟩, h6⟩
    exact ⟨h1, h2, h3, h4, h5, h6⟩
  · rintro ⟨h1, h2, h3, h4, h5, h6⟩
    exact ⟨⟨⟨⟨⟨h1, h2⟩, h3⟩, h4⟩, h5⟩, h6⟩

/-- Feeds among the admitted ones stay so when fewer are named or more are admitted. -/
theorem sub_and_left : ∀ a b c : BitVec 2, a &&& ~~~c = 0 → (a &&& b) &&& ~~~c = 0 := by decide
theorem sub_or_right : ∀ a b c : BitVec 2, a &&& ~~~c = 0 → a &&& ~~~(c ||| b) = 0 := by decide
theorem sub_or_or : ∀ a b c : BitVec 2, a &&& ~~~c = 0 → (a ||| b) &&& ~~~(c ||| b) = 0 := by decide
theorem sub_or_of_sub : ∀ a b c : BitVec 2, a &&& ~~~c = 0 → b &&& ~~~c = 0 → (a ||| b) &&& ~~~c = 0 := by decide
theorem sub_without_both : ∀ a b c : BitVec 2, a &&& ~~~c = 0 → (a &&& ~~~b) &&& ~~~(c &&& ~~~b) = 0 := by decide
theorem sub_self : ∀ a : BitVec 2, a &&& ~~~a = 0 := by decide
theorem feedBit_sub : ∀ (b : Bool) (a : BitVec 2), a &&& feedBit b ≠ 0 → feedBit b &&& ~~~a = 0 := by decide
theorem or_feedBit_ne_zero : ∀ (b : Bool) (a : BitVec 2), a ||| feedBit b ≠ 0 := by decide
theorem feedBit_sub_or : ∀ (b : Bool) (a : BitVec 2), feedBit b &&& ~~~(a ||| feedBit b) = 0 := by decide
theorem sub_without_of_disjoint : ∀ (b : Bool) (h a : BitVec 2), h &&& ~~~a = 0 → h &&& feedBit b = 0 → h &&& ~~~(a &&& ~~~(feedBit b)) = 0 := by decide
theorem and_not_and_self : ∀ (b : Bool) (h : BitVec 2), (h &&& ~~~(feedBit b)) &&& feedBit b = 0 := by decide

/-! ## What a command keeps outside the device -/

/-- One state follows another with the queue as it was, and the feed controller legal where it was. -/
structure Keeps (s t : State) : Prop where
  pending : t.pending = s.pending
  feed : FeedLegal s.feed → FeedLegal t.feed

theorem Keeps.refl (s : State) : Keeps s s := ⟨rfl, id⟩
theorem Keeps.trans {s t u : State} (h : Keeps s t) (k : Keeps t u) : Keeps s u := ⟨k.pending.trans h.pending, k.feed ∘ h.feed⟩
theorem Keeps.after {s t u : State} (k : Keeps t u) (h : Keeps s t) : Keeps s u := h.trans k
/-- A change of the device and the life-cycle store alone. -/
theorem keeps_of_eq {s t : State} (hp : t.pending = s.pending) (hf : t.feed = s.feed) : Keeps s t := ⟨hp, fun h => hf ▸ h⟩
theorem keeps_dev (s : State) (d : Dev) : Keeps s { s with dev := d } := ⟨rfl, id⟩
theorem keeps_devLife (s : State) (d : Dev) (l : Life) : Keeps s { s with dev := d, life := l } := ⟨rfl, id⟩
theorem keeps_foldl {α : Type} {f : State → α → State} (h : ∀ s a, Keeps s (f s a)) (l : List α) (s : State) : Keeps s (l.foldl f s) := by
  induction l generalizing s with
  | nil => exact .refl s
  | cons a l ih => exact (h s a).trans (ih _)

/-- The answer is a next state that keeps what lies outside the device. -/
def Answers (s : State) (o : Host.Outcome State Fault Refusal) : Prop := ∃ t, o = .next t ∧ Keeps s t

theorem answers_next {s t : State} (h : Keeps s t) : Answers s (.next t) := ⟨t, rfl, h⟩
theorem answers_done {s t : State} (d : Dev) (h : Keeps s t) : Answers s (done t d) := ⟨_, rfl, h.pending, h.feed⟩
theorem answers_still (s : State) : Answers s (still s) := answers_next (.refl s)
theorem answers_deviceOnly {s : State} {o : Host.Outcome State Fault Refusal} (h : DeviceOnly s o) : Answers s o := by
  obtain ⟨d, rfl⟩ := h
  exact answers_next (keeps_of_eq rfl rfl)
theorem answers_ite {s : State} {c : Prop} [Decidable c] {a b : Host.Outcome State Fault Refusal} (ha : c → Answers s a) (hb : ¬ c → Answers s b) :
    Answers s (if c then a else b) := by
  split
  · exact ha ‹_›
  · exact hb ‹_›
theorem keeps_ite {s t u : State} {c : Prop} [Decidable c] (ht : c → Keeps s t) (hu : ¬ c → Keeps s u) : Keeps s (if c then t else u) := by
  split
  · exact ht ‹_›
  · exact hu ‹_›

/-! ## The feed controller (R380 to R385) -/

theorem keeps_holdUpStart (s : State) : Keeps s (holdUpStart s) :=
  keeps_ite (fun _ => .refl s) fun _ => ⟨rfl, fun h => ⟨h.st_le, h.power, h.healthy, h.pairs, h.unfed, h.timer⟩⟩

theorem keeps_warnCheck (s : State) : Keeps s (warnCheck s) :=
  keeps_ite (fun _ => (keeps_holdUpStart _).after ⟨rfl, fun h => ⟨h.st_le, h.power, h.healthy, h.pairs, h.unfed, h.timer⟩⟩) fun _ => .refl s

theorem keeps_feedSick (s : State) (b : Bool) : Keeps s (feedSick s b) :=
  keeps_ite (fun _ => .refl s) fun _ =>
    (keeps_warnCheck _).after ⟨rfl, fun h => ⟨h.st_le, h.power, sub_and_left _ _ _ h.healthy, h.pairs, h.unfed, h.timer⟩⟩

theorem warnCheck_feed (s : State) :
    (warnCheck s).feed.healthy = s.feed.healthy ∧ (warnCheck s).feed.admitted = s.feed.admitted := by
  unfold warnCheck holdUpStart
  split
  · split <;> exact ⟨rfl, rfl⟩
  · exact ⟨rfl, rfl⟩

theorem feedSick_healthy (s : State) (b : Bool) : (feedSick s b).feed.healthy &&& feedBit b = 0 := by
  unfold feedSick
  split
  · assumption
  · rw [(warnCheck_feed _).1]
    exact and_not_and_self b _

theorem keeps_feedWell (s : State) (b : Bool) (ha : s.feed.admitted &&& feedBit b ≠ 0) : Keeps s (feedWell s b) :=
  ⟨rfl, fun h => ⟨h.st_le, h.power, sub_or_of_sub _ _ _ h.healthy (feedBit_sub b _ ha), sub_or_of_sub _ _ _ h.pairs (feedBit_sub b _ ha), h.unfed, h.timer⟩⟩

theorem keeps_feedStart (s : State) : Keeps s (feedStart s) :=
  keeps_ite (fun h0 => ⟨rfl, fun h => ⟨by simp, by simp [h.power, h0.1], h.healthy, sub_self _, fun ha => absurd ha h0.2,
    fun ht => by simpa [h0.1] using h.timer ht⟩⟩) fun _ => .refl s

theorem feedOff_feed (s : State) (st : Nat) :
    (feedOff s st).feed = { s.feed with st, timerRun := false, pairs := 0, powerGood := false } := by
  unfold feedOff pgFall
  split
  · rfl
  · rename_i h
    simp only [Bool.not_eq_true] at h
    show ({ s.feed with st, timerRun := false, pairs := 0 } : Feed) = _
    rw [← h]

theorem feedOff_pending (s : State) (st : Nat) : (feedOff s st).pending = s.pending := by
  unfold feedOff pgFall
  split <;> rfl

/-- The main FET goes off into a state that may have no POWER_GOOD. -/
theorem keeps_feedOff (s : State) (st : Nat) (h6 : st ≤ 6) (h4 : st ≠ 4) (ha : s.feed.admitted = 0 → st = 0 ∨ st = 6) : Keeps s (feedOff s st) := by
  refine ⟨feedOff_pending s st, fun h => ?_⟩
  rw [feedOff_feed]
  exact ⟨h6, by simp [h4], h.healthy, BitVec.zero_and, ha, by simp⟩

/-- A trip out of a state between Pre-charge and On. -/
theorem keeps_feedTrip (s : State) (cause bit : Nat) (ha : FeedLegal s.feed → s.feed.admitted ≠ 0) : Keeps s (feedTrip s cause bit) := by
  let s1 : State := { s with feed := { s.feed with trips := s.feed.trips + 1, lastFault := cause } }
  let s2 := feedRaise (feedOff s1 5) bit
  have hp : s2.pending = s.pending := feedOff_pending s1 5
  have hf : s2.feed = { s1.feed with st := 5, timerRun := false, pairs := 0, powerGood := false } := feedOff_feed s1 5
  have h2 : Keeps s s2 := ⟨hp, fun h => by
    rw [hf]
    exact ⟨by simp, by simp, h.healthy, BitVec.zero_and, fun h0 => absurd h0 (ha h), by simp⟩⟩
  refine keeps_ite (fun _ => ⟨hp, fun h => ?_⟩) fun _ => h2
  obtain ⟨_, _, h3, h4, h5, h6⟩ := h2.feed h
  show FeedLegal { s2.feed with st := 6 }
  rw [hf] at h3 h4 ⊢
  exact ⟨by simp, by simp, h3, h4, fun _ => .inr rfl, by simp⟩

theorem FeedLegal.admitted_of_timer {f : Feed} (h : FeedLegal f) (ht : f.timerRun = true) : f.admitted ≠ 0 := fun h0 => by
  have h1 := h.unfed h0
  have h2 := h.timer ht
  omega

theorem FeedLegal.admitted_of_st {f : Feed} (h : FeedLegal f) (h0 : f.st ≠ 0) (h6 : f.st ≠ 6) : f.admitted ≠ 0 := fun ha =>
  (h.unfed ha).elim h0 h6

theorem answers_feedAdmit (b : Bool) (mv : Nat) (s : State) : Answers s (execFeedAdmit b mv s) := by
  refine answers_ite (fun _ => answers_still s) fun _ => ?_
  let s1 : State := { s with feed := { s.feed with admitted := s.feed.admitted ||| feedBit b, pairs := s.feed.pairs ||| feedBit b } }
  have h1 : Keeps s s1 := ⟨rfl, fun h => ⟨h.st_le, h.power, sub_or_right _ _ _ h.healthy, sub_or_or _ _ _ h.pairs,
    fun h0 => absurd h0 (or_feedBit_ne_zero b _), h.timer⟩⟩
  have hb : s1.feed.admitted &&& feedBit b ≠ 0 := (by decide : ∀ (b : Bool) (a : BitVec 2), (a ||| feedBit b) &&& feedBit b ≠ 0) b _
  have h2 : Keeps s (if rfld s1.dev .feed .feedWarn 13 0 ≤ mv then feedWell s1 b else s1) := h1.trans (keeps_ite (fun _ => keeps_feedWell s1 b hb) fun _ => .refl s1)
  exact answers_done _ (h2.trans ((keeps_feedStart _).after (keeps_of_eq rfl rfl)))

theorem answers_feedLost (b : Bool) (s : State) : Answers s (execFeedLost b s) := by
  refine answers_ite (fun _ => answers_still s) fun _ => answers_done _ ((keeps_feedSick s b).trans ?_)
  generalize hs : feedSick s b = s1
  have hh : s1.feed.healthy &&& feedBit b = 0 := hs ▸ feedSick_healthy s b
  refine keeps_ite (fun _ => ⟨feedOff_pending _ 0, fun h => ?_⟩) fun h0 => ?_
  · rw [feedOff_feed]
    exact ⟨by simp, by simp, sub_without_of_disjoint b _ _ h.healthy hh, BitVec.zero_and, fun _ => .inl rfl, by simp⟩
  · exact ⟨rfl, fun h => ⟨h.st_le, h.power, sub_without_of_disjoint b _ _ h.healthy hh, sub_without_both _ _ _ h.pairs,
      fun ha => .inr (by_contra fun h6 => h0 ⟨ha, h6⟩), h.timer⟩⟩

theorem answers_feedHealthy (b : Bool) (s : State) : Answers s (execFeedHealthy b s) :=
  answers_ite (fun h => answers_done _ (keeps_feedWell s b h.1)) fun _ => answers_still s

theorem answers_reverseCurrent (b : Bool) (s : State) : Answers s (execReverseCurrent b s) :=
  answers_done _ ⟨rfl, fun h => ⟨h.st_le, h.power, h.healthy, sub_and_left _ _ _ h.pairs, h.unfed, h.timer⟩⟩

theorem answers_prechargeReached (s : State) : Answers s (execPrechargeReached s) :=
  answers_ite (fun h1 => answers_next ⟨rfl, fun h => ⟨by simp, by simp [h.power, h1], h.healthy, h.pairs,
    fun ha => absurd ha (h.admitted_of_st (by omega) (by omega)), fun ht => absurd (h.timer ht) (by omega)⟩⟩) fun _ => answers_still s

theorem answers_prechargeTimeout (s : State) : Answers s (execPrechargeTimeout s) :=
  answers_ite (fun h1 => answers_done _ (keeps_feedTrip s 1 1 fun h => h.admitted_of_st (by omega) (by omega))) fun _ => answers_still s

theorem answers_rampDone (s : State) : Answers s (execRampDone s) :=
  answers_ite (fun h2 => answers_next ⟨rfl, fun h => ⟨by simp, by simp [h.power, h2], h.healthy, h.pairs,
    fun ha => absurd ha (h.admitted_of_st (by omega) (by omega)), fun _ => .inl rfl⟩⟩) fun _ => answers_still s

theorem answers_fastTrip (s : State) : Answers s (execFastTrip s) :=
  answers_ite (fun h1 => answers_done _ (keeps_feedTrip s 3 2 fun h => h.admitted_of_st (by omega) (by omega))) fun _ => answers_still s

theorem answers_overcurrent (s : State) : Answers s (execOvercurrent s) :=
  answers_ite (fun h3 => answers_next ⟨rfl, fun h => ⟨h.st_le, h.power, h.healthy, h.pairs, h.unfed, fun _ => h3⟩⟩) fun _ => answers_still s

theorem answers_faultTimerIdle (s : State) : Answers s (execFaultTimerIdle s) :=
  answers_next ⟨rfl, fun h => ⟨h.st_le, h.power, h.healthy, h.pairs, h.unfed, by simp⟩⟩

theorem answers_faultTimerExpiry (s : State) : Answers s (execFaultTimerExpiry s) :=
  answers_ite (fun ht => answers_done _ (keeps_feedTrip s 2 2 fun h => h.admitted_of_timer ht)) fun _ => answers_still s

theorem answers_stableIdleDone (s : State) : Answers s (execStableIdleDone s) := by
  refine answers_ite (fun h3 => answers_done _ ((keeps_warnCheck _).after ⟨rfl, fun h => ⟨by simp [feedEvent], by simp [feedEvent], h.healthy, h.pairs, fun ha => ?_, fun _ => .inr rfl⟩⟩)) fun _ => answers_still s
  exact absurd ha (h.admitted_of_st (by omega) (by omega))

theorem answers_retryWaitEnd (s : State) : Answers s (execRetryWaitEnd s) := by
  refine answers_ite (fun h5 => answers_ite (fun _ => answers_next ⟨rfl, fun h => ?_⟩) fun _ => answers_done _ ⟨rfl, fun h => ?_⟩) fun _ => answers_still s
  · exact ⟨by simp, by simp [h.power, h5], h.healthy, sub_self _, fun ha => absurd ha (h.admitted_of_st (by omega) (by omega)),
      fun ht => absurd (h.timer ht) (by omega)⟩
  · exact ⟨le_refl 6, by simp [feedRaise, h.power, h5], h.healthy, h.pairs, fun _ => .inr rfl, fun ht => absurd (h.timer ht) (by omega)⟩

theorem answers_tripsReset (s : State) : Answers s (execTripsReset s) :=
  answers_ite (fun _ => answers_next ⟨rfl, fun h => ⟨h.st_le, h.power, h.healthy, h.pairs, h.unfed, h.timer⟩⟩) fun _ => answers_still s

theorem answers_feedSample (mv ma : List Int) (s : State) : Answers s (execFeedSample mv ma s) :=
  answers_next ⟨rfl, fun h => ⟨h.st_le, h.power, h.healthy, h.pairs, h.unfed, h.timer⟩⟩

theorem answers_telemetryWindow (s : State) : Answers s (execTelemetryWindow s) :=
  answers_ite (fun _ => answers_still s) fun _ => answers_next ⟨rfl, fun h => ⟨h.st_le, h.power, h.healthy, h.pairs, h.unfed, h.timer⟩⟩

/-- The part of a write of FEED_CTL that clears the latch. -/
def feedCtlClear (s : State) (v : Word) : State :=
  if v.getLsbD 0 ∧ s.feed.st = 6 then feedStart { s with feed := { s.feed with st := 0 }, dev := deassert s.dev .feed 0 } else s

theorem keeps_feedCtlClear (s : State) (v : Word) : Keeps s (feedCtlClear s v) :=
  keeps_ite (fun h6 => (keeps_feedStart _).after ⟨rfl, fun h => ⟨by simp, by simp [h.power, h6.2], h.healthy, h.pairs, fun _ => .inl rfl,
    fun ht => absurd (h.timer ht) (by omega)⟩⟩) fun _ => .refl s

theorem keeps_feedCtlWrite (s : State) (v : Word) : Keeps s (feedCtlWrite s v) := by
  have h1 : Keeps s (if v.getLsbD 1 then { s with feed := { s.feed with energy := [0, 0, 0] } } else s) :=
    keeps_ite (fun _ => ⟨rfl, fun h => ⟨h.st_le, h.power, h.healthy, h.pairs, h.unfed, h.timer⟩⟩) fun _ => .refl s
  show Keeps s (feedCtlClear (if v.getLsbD 1 then { s with feed := { s.feed with energy := [0, 0, 0] } } else s) v)
  exact h1.trans (keeps_feedCtlClear _ v)

theorem keeps_holdUpEnd (s : State) : Keeps s (holdUpEnd s) := by
  refine keeps_ite (fun _ => ⟨rfl, fun h => ?_⟩) fun _ => ⟨rfl, fun h => ?_⟩ <;>
    exact ⟨h.st_le, h.power, h.healthy, h.pairs, h.unfed, h.timer⟩

/-! ## Resets, modes and Boot -/

theorem feedLegal_reset : FeedLegal {} := (feedLegal_iff _).1 (by decide)

theorem keeps_coldReset (s : State) (cause : Word) (kept : Bool) : Keeps s (coldReset s cause kept) := by
  refine ⟨rfl, fun h => ?_⟩
  show FeedLegal (if kept then s.feed else {})
  split
  · exact h
  · exact feedLegal_reset

theorem keeps_resetCtlWrite (s : State) (p : Path) (v : Word) : Keeps s (resetCtlWrite s p v) :=
  keeps_ite (fun _ => (keeps_coldReset _ _ _).after (keeps_of_eq rfl rfl)) fun _ => keeps_ite (fun _ => keeps_of_eq rfl rfl) fun _ => .refl s

theorem keeps_coreReleaseWrite (s : State) (v : Word) : Keeps s (coreReleaseWrite s v) := by
  unfold coreReleaseWrite
  refine (keeps_foldl (fun t k => ?_) _ _).after (keeps_of_eq rfl rfl)
  exact keeps_ite (fun _ => keeps_of_eq rfl rfl) fun _ => .refl t

theorem keeps_maintainOver (s : State) : Keeps s (maintainOver s) := by
  unfold maintainOver
  dsimp only
  split <;> exact keeps_of_eq rfl rfl

theorem keeps_gateEnter (s : State) (k : Nat) (pc target : DWord) (at_ : Word) : Keeps s (gateEnter s k pc target at_) := by
  unfold gateEnter
  split <;> exact keeps_of_eq rfl rfl

theorem keeps_interrupt (s : State) (k : Nat) (pc : DWord) (enabled : Bool) : Keeps s (interrupt s k pc enabled) :=
  keeps_ite (fun _ => keeps_ite (fun _ => keeps_of_eq rfl rfl) fun _ => .refl s) fun _ => keeps_of_eq rfl rfl

/-! ## Writes of registers -/

theorem keeps_stateWrite {s t : State} {p : Path} {b : Block} {n : RName} {w : Word} (h : stateWrite s p b n w = some t) : Keeps s t := by
  unfold stateWrite at h
  split at h <;> cases h
  · exact keeps_of_eq rfl rfl
  · exact keeps_ite (fun _ => keeps_of_eq rfl rfl) fun _ => .refl s
  · exact keeps_coreReleaseWrite s w
  · exact keeps_ite (fun _ => .refl s) fun _ => keeps_of_eq rfl rfl
  · exact keeps_of_eq rfl rfl
  · exact keeps_feedCtlWrite s w
  · exact keeps_ite (fun _ => ⟨rfl, fun h => ⟨h.st_le, h.power, h.healthy, h.pairs, h.unfed, h.timer⟩⟩) fun _ => .refl s
  · exact keeps_resetCtlWrite s p w

theorem keeps_writeReg (s : State) (p : Path) (b : Block) (n : RName) (i : Nat) (w : Word) : Keeps s (writeReg s p b n i w) := by
  unfold writeReg
  refine keeps_ite (fun _ => keeps_of_eq rfl rfl) fun _ => ?_
  split
  · exact keeps_of_eq rfl rfl
  · refine keeps_ite (fun _ => keeps_of_eq rfl rfl) fun _ => ?_
    split
    · exact keeps_of_eq rfl rfl
    · split
      · exact keeps_of_eq rfl rfl
      · split
        · exact keeps_stateWrite ‹_›
        · exact keeps_of_eq rfl rfl

theorem keeps_writeAt (s : State) (p : Path) (b : Block) (off : Nat) (w : Word) : Keeps s (writeAt s p b off w) := by
  unfold writeAt
  extract_lets k
  split
  · exact .refl s
  · split
    · exact keeps_of_eq rfl rfl
    · split
      · exact keeps_ite (fun _ => ((keeps_writeReg _ p b _ _ w).after (keeps_writeReg _ p b _ _ _)).after (keeps_of_eq rfl rfl))
          fun _ => keeps_writeReg s p b _ _ w
      · exact keeps_writeReg s p b _ _ w
    · exact keeps_writeReg s p b _ _ w

theorem keeps_winWrite (s : State) (a : WinAcc) (w : Word) : Keeps s (winWrite s a w).1 := by
  unfold winWrite
  split
  · exact keeps_writeAt s _ _ _ w
  · exact .refl s
  · exact keeps_of_eq rfl rfl

theorem keeps_winRead (s : State) (a : WinAcc) : Keeps s (winRead s a).1 := by
  unfold winRead
  split
  · exact keeps_of_eq rfl rfl
  · exact .refl s
  · exact keeps_of_eq rfl rfl

theorem answers_writeCmd (s : State) (p : Path) (off : Nat) (w : Word) (bytes : Nat) : Answers s (writeCmd s p off w bytes) := by
  refine answers_ite (fun _ => answers_still s) fun _ => ?_
  have h := keeps_winWrite s { path := p, off, bytes, write := true } w
  generalize winWrite s { path := p, off, bytes, write := true } w = x at h ⊢
  obtain ⟨t, c⟩ := x
  have ha : Keeps t (if p = .sideband then { t with dev := send t.dev (.sideband (sbResponse 2 off ((c.map sbStatus).getD 0) none)) } else t) :=
    keeps_ite (fun _ => keeps_of_eq rfl rfl) fun _ => .refl t
  exact answers_done _ (h.trans ha)

theorem answers_regCmd (s : State) (p : Path) (b : Block) (n : RName) (w : Word) (i : Nat) : Answers s (regCmd s p b n w i) :=
  answers_writeCmd s p _ w 4

theorem answers_runCmd (s : State) (p : Path) (page : BitVec 8) (v bit : Word) : Answers s (runCmd s p page v bit) := answers_writeCmd s p _ _ 4

theorem keeps_sbServe (s : State) (a : SbAddr) (body : List Byte) : Keeps s (sbServe s a body) := by
  unfold sbServe
  extract_lets op off write acc page answer
  have hans : ∀ (t : State) (status : Nat) (v : Option Word), Keeps t (answer t status v) := fun _ _ _ => keeps_of_eq rfl rfl
  refine keeps_ite (fun _ => keeps_of_eq rfl rfl) fun _ => keeps_ite (fun _ => keeps_of_eq rfl rfl) fun _ =>
    keeps_ite (fun _ => keeps_of_eq rfl rfl) fun _ => keeps_ite (fun _ => ?_) fun _ => ?_
  · exact (keeps_winWrite s acc _).trans (hans _ _ _)
  · have h := keeps_winRead s acc
    split <;> rename_i hr <;> rw [hr] at h <;> exact h.trans (hans _ _ _)

theorem answers_sbMessage (s : State) (a : SbAddr) (body : List Byte) : Answers s (sbMessage s a body) :=
  answers_ite (fun _ => answers_still s) fun _ => answers_ite (fun _ => answers_done _ (.refl s)) fun _ =>
    answers_ite (fun _ => answers_next ((keeps_sbServe s a body).trans (keeps_of_eq rfl rfl))) fun _ => answers_still s

/-! ## Boot (R445 to R452) -/

theorem keeps_profileItem (s : State) (i : ProfileItem) : Keeps s (profileItem s i) := by
  cases i with
  | reg _ off v =>
    unfold profileItem
    dsimp only
    split
    · exact keeps_writeAt s _ _ _ v
    · exact .refl s
  | fwHead _ | slateCtx _ _ | fallback _ _ _ _ | memTimeout _ => exact keeps_dev s _
  | personality _ _ | region _ _ _ => exact .refl s

theorem keeps_bootProfile (s : State) (a b : ProfileCopy) : Keeps s (bootProfile s a b) := by
  unfold bootProfile
  split
  · exact keeps_of_eq rfl rfl
  · rename_i c copyB _
    extract_lets d t e
    have ht : Keeps s t := (keeps_foldl keeps_profileItem _ _).after (keeps_dev s _)
    clear_value t
    split <;> exact ht.trans (keeps_dev t _)

theorem keeps_bootImages (s : State) (secA secB normA normB : Bool) (svn : BitVec 16) : Keeps s (bootImages s secA secB normA normB svn) := by
  unfold bootImages
  refine keeps_ite (fun _ => .refl s) fun _ => ?_
  split
  · exact keeps_dev s _
  · dsimp only
    split
    · exact keeps_dev s _
    · exact (keeps_coreReleaseWrite _ _).after (keeps_dev s _)

theorem keeps_bootSupply (s : State) : Keeps s (bootSupply s) := keeps_devLife s _ _

theorem keeps_bootDone (s : State) (i : BootInput) : Keeps s (bootDone s i) := by
  unfold bootDone
  dsimp only
  generalize bootStep s.dev = k
  cases i with
  | ok => match k with
    | 3 => exact keeps_bootSupply s
    | 1 | 2 | 8 => exact keeps_dev s _
    | 0 | 4 | 5 | 6 | 7 | _ + 9 => exact .refl s
  | supplyFail c => match k with
    | 3 => exact keeps_dev s _
    | 0 | 1 | 2 | 4 | 5 | 6 | 7 | 8 | _ + 9 => exact .refl s
  | images => match k with
    | 4 => exact keeps_bootImages ..
    | 0 | 1 | 2 | 3 | 5 | 6 | 7 | 8 | _ + 9 => exact .refl s
  | profile => match k with
    | 5 => exact keeps_bootProfile ..
    | 0 | 1 | 2 | 3 | 4 | 6 | 7 | 8 | _ + 9 => exact .refl s
  | calib => match k with
    | 6 => exact keeps_dev s _
    | 0 | 1 | 2 | 3 | 4 | 5 | 7 | 8 | _ + 9 => exact .refl s
  | dimms => match k with
    | 7 => exact keeps_dev s _
    | 0 | 1 | 2 | 3 | 4 | 5 | 6 | 8 | _ + 9 => exact .refl s
/-! ## The commands that reach beyond the device -/

theorem answers_maintainReached (s : State) : Answers s (execMaintainReached s) := by
  refine answers_ite (fun _ => ?_) fun _ => answers_still s
  dsimp only [coresToSecure]
  split
  exacts [answers_done _ (keeps_devLife s _ _), answers_done _ (keeps_dev s _)]

theorem answers_wakeStepDone (s : State) : Answers s (execWakeStepDone s) :=
  answers_ite (fun _ => answers_still s) fun _ => answers_ite (fun _ => answers_done _ (.refl s)) fun _ => answers_done _ (keeps_devLife s s.dev _)

theorem answers_warmResetFlushDone (s : State) : Answers s (execWarmResetFlushDone s) := by
  unfold execWarmResetFlushDone
  split
  · exact answers_still s
  · exact answers_ite (fun _ => answers_done _ ((keeps_coldReset _ _ _).after (keeps_of_eq rfl rfl))) fun _ => answers_done _ (.refl s)

theorem answers_warmResetTimeout (s : State) : Answers s (execWarmResetTimeout s) := by
  unfold execWarmResetTimeout
  split
  · exact answers_still s
  · exact answers_done _ (keeps_coldReset s _ _)

theorem answers_vauxLoss (s : State) : Answers s (execVauxLoss s) :=
  answers_next ((keeps_coldReset s 0 _).trans (keeps_of_eq rfl rfl))

theorem answers_debugUnlockToken (t : Token) (s : State) : Answers s (execDebugUnlockToken t s) :=
  answers_ite (fun _ => answers_still s) fun _ =>
    answers_ite (fun _ => answers_next (keeps_of_eq rfl rfl)) fun _ => answers_next (keeps_of_eq rfl rfl)

/-! ## The commands that change the device alone -/

/-- The pages of the blocks whose registers all lie in the device. -/
theorem inner_page {b : Block} (h : outerBlock b = false) : b.page ≠ 2 ∧ b.page ≠ 5 ∧ b.page ≠ 9 := by
  revert h
  cases b <;> simp [outerBlock, Block.page] <;> omega

theorem deviceOnly_innerReg (s : State) (p : Path) (b : Block) (n : RName) (w : Word) (i : Nat) (h : outerBlock b = false)
    (hi : n.row.off + i * n.row.stride < 4096) : DeviceOnly s (regCmd s p b n w i) := by
  refine deviceOnly_writeCmd s p _ w 4 fun c hc => ?_
  have hp : regKey b n i / 4096 = b.page := by unfold regKey; omega
  obtain ⟨h2, h5, h9⟩ := inner_page h
  rw [hp] at hc
  obtain ⟨ha, hb, hd⟩ := blockAt_ne hc h2 h5 h9
  simp [outerBlock, ha, hb, hd]

/-- A command that does not reach out changes the device alone: by the kind of its meaning. -/
theorem exec_deviceOnly (c : Instr) (s : State) (h : reachesOut c = false) : DeviceOnly s (exec c s) := by
  cases c
  case stageStall | biRspI | biRspS | biConflict | mapLineFill | pageBindComplete | stageWriteBack | lockedLineFlush | flushDone
    | demotionScan | dollyMoveStart | writeWaitAdmit | packEngineSchedule | rangeFlushDone | dramReadComplete | liningRebuildDone | sanderRead
    | forcedSanderRead | scrubLapOverdue | softPprDone | dramCommandIssue | refreshDue | mr4Poll | alertNAssert | alertNDeassert
    | commandReplayDone | selfRefreshEntry | ddrTrainingDone | homeDataReady | regulationWindowStart | laneTakeJob | copy
    | fill | cmp | crc | scan | reduce | pack | unpack | atom | xfer | hostLinkUp | hdmDecoderCommit | l0pWidthChange | histDone | spdmDoe
    | linkTrained | initRetry | lctlRepeat | nakTimer | replayTimer | ccRtxTimer | sackTimer | ackCoalesceTimer | flitSlotOpen | blockLockLost
    | blockLockRegained | downTimeExpiry | retrainLimitExpiry | recoveryComplete | mwUnknownOpcode | transitPacket | keyUnwrap | keyDerive
    | keyZeroise | keyLoadPlain | keyCmdBadOp | managementWatchdog | gafferEpoch | avsbusFault | retainFlushDone | retainPointOfNoReturn
    | sidebandAddressMatch | wakeTimerExpiry | wakeStepTimeout | wakeRegulatorOffEnd | aoRatioWindow | holdUpEventRecordWrite | haltFlushDone
    | aliveToggle | checkerSample | supplyFault | delayTrialDone | matchedDelayTrim | calRecordProgrammed
    | snapshotTick | bwWindowEnd | bootPortTimeout | spdmOverMctp | prbsCheckerLock =>
    dsimp only [exec]
    exact deviceOnly_doneIf ..
  case getEventRecords | clearEventRecords | getEventInterruptPolicy | setEventInterruptPolicy | getFwInfo | transferFw | activateFw
    | getTimestamp | setTimestamp | getSupportedLogs | getLog | identifyMemoryDevice | getPartitionInfo | getHealthInfo | getAlertConfiguration
    | setAlertConfiguration | getPoisonList | injectPoison | clearPoison | getDynamicCapacityConfiguration | getDynamicCapacityExtentList
    | addDynamicCapacityResponse | releaseDynamicCapacity | sanitize | secureErase | unsupportedOpcode =>
    dsimp only [exec]
    exact deviceOnly_mbDo ..
  case memRd | memRdData | memWr | memWrPtl | memInv | memInvNt | memClnEvct | memSpecRd | ioMemRead | ioMemWrite | atomicOp | epochBoundary
    | extentOffer | offerLapse | releaseCapacityRequest | releaseRequestLapse | capacityWriteTimeout | watchingExpiry | queueAdmit | snoopTimeout
    | atomWindowEnd | ringStopped | hostLinkDown | perstNAssert | perstNDeassert | responseTimeout | wakeNLow | nearMiss | supplyFaultEnd =>
    dsimp only [exec]
    exact deviceOnly_done ..
  case zqCalibration | dqsOscTracking =>
    dsimp only [exec]
    exact deviceOnly_still _
  case init | initDone | retrainReq | widthReq | widthAck | resume | keysw | keyswAck | down | dataFlit | ccFlit | idleFlit | nakFlit | sackFlit
    | badFlit | reservedFlit =>
    dsimp only [exec]
    exact deviceOnly_flitRow ..
  case mwRd | mwWr | mwWrp | mwAtom | mwPgrant | mwPrel | mwCmp | mwGranted | mwData | mwAdata | mwRds | mwRde | mwRdcur | mwOwn | mwWrc | mwWrcp
    | mwWbd | mwEvc | mwAtmc | mwSnpinv | mwSnpdata | mwSnpfwds | mwSnpfwde | mwRspi | mwRsps | mwRspfwd | mwGnti | mwGnts | mwGnte | mwFwddata
    | mwWcmp | mwAcmp | mwMgt =>
    dsimp only [exec]
    exact deviceOnly_mwRow ..
  case lowWordRead | viewPageRead =>
    dsimp only [exec]
    exact deviceOnly_readCmd ..
  case winErrClear | flushRange | cleanRange | flushAll | flushNone | packEngFence | rangeSel | rangeDefine | rangeClear | rangeRetire
    | rangeRepaint | rangeSetRights | rangeCmdBadOp | pipeFence | regionSel | regionSet | flipArm | flipDisarm | subFence | dirProbe | ctxLoad
    | ctxWriteWord3 | ctxWriteRights | ctxCmdOp0 | fbLoad | fbWrite | fbCmdBadOp | ringLoad | ringEnable | ringDisable | ringResume
    | ringSetOwner | histStart | widthCtlRetrain | widthCtlReq | wdogKick | padRelease | timeSet | snap | domainPowerOn | domainPowerOff
    | domainClockStop | domainClockStart | subStateSet | leaveMaintain | maintainRequest | retainRequest | factoryRequest | modeReqNotAllowed =>
    dsimp only [exec]
    exact deviceOnly_innerReg _ _ _ _ _ _ rfl (by decide)
  case devFailWrite =>
    dsimp only [exec, execDevFailWrite]
    split <;> exact deviceOnly_innerReg _ _ _ _ _ _ rfl (by decide)
  case doorbell p q i v =>
    exact deviceOnly_innerReg _ _ _ _ _ _ rfl (show 0x400 + i.toNat * 4 < 4096 by omega)
  case sramBist =>
    dsimp only [exec, execSramBist]
    refine deviceOnly_ite _ _ ?_ (deviceOnly_still s)
    split
    exacts [deviceOnly_done .., deviceOnly_still s]
  case slicerRescore =>
    dsimp only [exec]
    exact deviceOnly_ite _ _ (deviceOnly_done ..) (deviceOnly_doneIf ..)
  case moveSourceReady | moveDestinationWritten | moveFreeOld | repaintPageDone | tagHoldbackEnd =>
    dsimp only [exec, execMoveSourceReady, execMoveDestinationWritten, execMoveFreeOld, execRepaintPageDone, execTagHoldbackEnd]
    split
    · exact deviceOnly_ite _ _ (deviceOnly_done ..) (deviceOnly_still s)
    · exact deviceOnly_still s
  case repaintScratchWritten =>
    dsimp only [exec, execRepaintScratchWritten]
    split
    · exact deviceOnly_ite _ _ (deviceOnly_still s) (deviceOnly_done ..)
    · exact deviceOnly_still s
  case cutDone | blockResetEnd | fillSweepPage | repaintPageStart | descriptorFetch =>
    dsimp only [exec, execCutDone, execBlockResetEnd, execFillSweepPage, execRepaintPageStart, execDescriptorFetch]
    split
    exacts [deviceOnly_doneIf .., deviceOnly_still s]
  case packedPageDecode | rangeCmdComplete | regionCmdComplete | slateCmdComplete | keyCmdComplete | avsbusAck =>
    dsimp only [exec, execPackedPageDecode, execRangeCmdComplete, execRegionCmdComplete, execSlateCmdComplete, execKeyCmdComplete, execAvsbusAck]
    split
    exacts [deviceOnly_done .., deviceOnly_still s]
  case domainRequestDone | calSectorEraseDone =>
    dsimp only [exec, execDomainRequestDone, execCalSectorEraseDone]
    split
    exacts [deviceOnly_still s, deviceOnly_done ..]
  case paceWindowEnd | rfmIssue | prechargePowerDown | warmPathReconcile | sramBistDone | debugDpaRead =>
    dsimp only [exec, execPaceWindowEnd, execRfmIssue, execPrechargePowerDown, execWarmPathReconcile, execSramBistDone, execDebugDpaRead]
    exact deviceOnly_doneIf ..
  all_goals cases h

/-- Every command answers a next state that keeps what lies outside the device. -/
theorem exec_answers (c : Instr) (s : State) : Answers s (exec c s) := by
  by_cases hc : reachesOut c = false
  · exact answers_deviceOnly (exec_deviceOnly c s hc)
  cases c
  case registerWrite =>
    dsimp only [exec]
    exact answers_writeCmd ..
  case sidebandRead | sidebandWrite | sidebandOtherOpcode | wakeRetry =>
    dsimp only [exec]
    exact answers_sbMessage ..
  case cut | action | blockReset | fenceReq =>
    dsimp only [exec]
    exact answers_runCmd ..
  case lifecycleAdvance | relock | claim | coreRelease | testEn | clearLatch | energyClr | sourceInject | firstErrorClear | latchedClear | warmReset
    | coldReset =>
    dsimp only [exec]
    exact answers_regCmd ..
  case gate =>
    dsimp only [exec]
    exact answers_ite (fun _ => answers_still s) fun _ => answers_ite (fun _ => answers_next (keeps_of_eq rfl rfl)) fun _ => answers_next (keeps_gateEnter ..)
  case gret | entry =>
    dsimp only [exec]
    exact answers_ite (fun _ => answers_still s) fun _ =>
      answers_ite (fun _ => answers_next (keeps_of_eq rfl rfl)) fun _ => answers_next (keeps_of_eq rfl rfl)
  case illegalCustom0 =>
    dsimp only [exec]
    exact answers_ite (fun _ => answers_next (keeps_of_eq rfl rfl)) fun _ => answers_still s
  case secureInterrupt =>
    dsimp only [exec]
    exact answers_ite (fun _ => answers_next (keeps_interrupt ..)) fun _ => answers_still s
  case debugNonceRequest =>
    dsimp only [exec]
    exact answers_ite (fun _ => answers_next (keeps_of_eq rfl rfl)) fun _ => answers_still s
  case debugUnlockToken =>
    dsimp only [exec]
    exact answers_debugUnlockToken ..
  case nonceExpiry =>
    dsimp only [exec]
    exact answers_next (keeps_of_eq rfl rfl)
  case maintainReached =>
    dsimp only [exec]
    exact answers_maintainReached s
  case maintainOverrun =>
    dsimp only [exec]
    exact answers_ite (fun _ => answers_done _ (keeps_maintainOver s)) fun _ => answers_still s
  case wakeStepDone =>
    dsimp only [exec]
    exact answers_wakeStepDone s
  case bootStepDone =>
    dsimp only [exec]
    exact answers_ite (fun _ => answers_done _ (keeps_bootDone s _)) fun _ => answers_still s
  case warmResetFlushDone =>
    dsimp only [exec]
    exact answers_warmResetFlushDone s
  case warmResetTimeout =>
    dsimp only [exec]
    exact answers_warmResetTimeout s
  case aoPowerUp =>
    dsimp only [exec]
    exact answers_done _ (keeps_coldReset s _ _)
  case vauxLoss =>
    dsimp only [exec]
    exact answers_vauxLoss s
  case feedAdmit =>
    dsimp only [exec]
    exact answers_feedAdmit ..
  case feedLost =>
    dsimp only [exec]
    exact answers_feedLost ..
  case feedUnhealthy =>
    dsimp only [exec]
    exact answers_done _ (keeps_feedSick s _)
  case feedHealthy =>
    dsimp only [exec]
    exact answers_feedHealthy ..
  case holdUpFlushDone =>
    dsimp only [exec]
    exact answers_ite (fun _ => answers_done _ (keeps_holdUpEnd s)) fun _ => answers_still s
  case reverseCurrent =>
    dsimp only [exec]
    exact answers_reverseCurrent ..
  case prechargeReached =>
    dsimp only [exec]
    exact answers_prechargeReached s
  case prechargeTimeout =>
    dsimp only [exec]
    exact answers_prechargeTimeout s
  case rampDone =>
    dsimp only [exec]
    exact answers_rampDone s
  case fastTrip =>
    dsimp only [exec]
    exact answers_fastTrip s
  case overcurrent =>
    dsimp only [exec]
    exact answers_overcurrent s
  case faultTimerExpiry =>
    dsimp only [exec]
    exact answers_faultTimerExpiry s
  case faultTimerIdle =>
    dsimp only [exec]
    exact answers_faultTimerIdle s
  case stableIdleDone =>
    dsimp only [exec]
    exact answers_stableIdleDone s
  case retryWaitEnd =>
    dsimp only [exec]
    exact answers_retryWaitEnd s
  case tripsReset =>
    dsimp only [exec]
    exact answers_tripsReset s
  case feedSample =>
    dsimp only [exec]
    exact answers_feedSample ..
  case telemetryWindow =>
    dsimp only [exec]
    exact answers_telemetryWindow s
  all_goals exact absurd rfl hc

/-- Settles O3: by the kind of each command's meaning. -/
theorem everyCommandCompletes : Obligations.EveryCommandCompletes := by
  refine ⟨fun c s => ?_, exec_deviceOnly⟩
  obtain ⟨t, h, k⟩ := exec_answers c s
  exact ⟨t, h, k.pending⟩

/-- Settles O58: each command that touches the feed controller keeps it legal, and a tick does not touch it. -/
theorem feedStaysLegal : Obligations.FeedStaysLegal := by
  intro s t hs ht
  rw [feedLegal_iff] at hs ⊢
  unfold step at ht
  split at ht
  · cases ht
    unfold idleTick
    split <;> exact hs
  · obtain ⟨u, hu, k⟩ := exec_answers _ { s with pending := _ }
    rw [hu] at ht
    cases ht
    exact k.feed hs

end Sys2Proof.Machine
end

section
/-! PROOFS. The life cycle where a site profile is loaded: a load can write LIFECYCLE and RESET_CTL in one step (R344, R416, R445). And what the
keys show in registers: nothing (R342). -/

namespace Sys2Proof.Machine

/-! ## A site profile that burns a code and resets (R344, R445) -/

/-- A write at the offset of a register that is no part of a 64-bit pair is the write of the register. -/
theorem writeAt_single {s : State} {p : Path} {b : Block} {off : Nat} {w : Word} {n : RName} {i : Nat} (hf : findReg b (off % 4096) = some (n, i))
    (hh : highOf n = none) (hl : lowOf n = none) : writeAt s p b off w = writeReg s p b n i w := by
  simp only [writeAt, hf, hh, hl]

theorem writeAt_lifecycle (s : State) (w : Word) : writeAt s .secure .seci 0x9440 w = { s with life := lifecycleWrite s.life w } :=
  (writeAt_single (n := .seciLifecycle) (i := 0) (by decide +kernel) (by decide) (by decide)).trans (writeReg_state (by decide) rfl (by decide) rfl rfl rfl)

theorem writeAt_resetCtl (s : State) (w : Word) : writeAt s .secure .flt 0x2054 w = resetCtlWrite s .secure w :=
  (writeAt_single (n := .fltResetCtl) (i := 0) (by decide +kernel) (by decide) (by decide)).trans (writeReg_state (by decide) rfl (by decide) rfl rfl rfl)

/-- A profile that asks for the next life-cycle code and then for a cold reset. -/
def burningProfile : ProfileCopy := { seq := 0, valid := true, items := [.reg 0 0x9440 0x10000, .reg 0 0x2054 2], badRow := none }

/-- A step of Boot with a profile puts in force the life cycle that its settings leave. -/
theorem bootProfile_life (s : State) (a b : ProfileCopy) (c : ProfileCopy) (copyB : Bool) (h : profilePick a b = some (c, copyB)) :
    ∃ d, (bootProfile s a b).life = (c.items.foldl profileItem { s with dev := d }).life := by
  simp only [bootProfile, h]
  refine ⟨profileBefore (rput s.dev .sbi .sbiProfile (packW [(0, c.seq.toNat), (16, b2n copyB)])) c.items, ?_⟩
  split <;> rfl

/-- The settings of `burningProfile`, one after the other: the code is burnt and at once in force. -/
theorem burningProfile_life (s : State) :
    (burningProfile.items.foldl profileItem s).life = lifeCold (lifecycleWrite s.life 0x10000) := by
  show (profileItem (profileItem s (.reg 0 0x9440 0x10000)) (.reg 0 0x2054 2)).life = _
  have h1 : profileItem s (.reg 0 0x9440 0x10000) = { s with life := lifecycleWrite s.life 0x10000 } := writeAt_lifecycle s 0x10000
  have h2 : ∀ t : State, profileItem t (.reg 0 0x2054 2) = resetCtlWrite t .secure 2 := fun t => writeAt_resetCtl t 2
  rw [h1, h2, resetCtlWrite, if_pos (by decide)]
  rfl

/-- A copy of the profile that is not valid. -/
def blankProfile : ProfileCopy := { seq := 0, valid := false, items := [], badRow := none }

/-- A device in step 5 of Boot, in the Manufacturing state with nothing burnt. -/
def profileLoads : State :=
  { State.reset with
    dev := { State.reset.dev with boot := { State.reset.dev.boot with active := true }, regs := [(regKey .sbi .sbiBootStat 0, 5)] }
    life := {} }

theorem profileLoads_runs : bootRuns profileLoads.dev = true ∧ bootStep profileLoads.dev = 5 := by decide +kernel

theorem profileLoads_done : bootDone profileLoads (.profile burningProfile blankProfile) = bootProfile profileLoads burningProfile blankProfile := by
  unfold bootDone
  dsimp only
  rw [profileLoads_runs.2]
  rfl

/-- The life cycle after that step: the next code, though none was burnt before. -/
theorem profileLoads_life : (bootProfile profileLoads burningProfile blankProfile).life.state = 1 := by
  obtain ⟨d, hd⟩ := bootProfile_life profileLoads burningProfile blankProfile burningProfile false rfl
  rw [hd, burningProfile_life]
  show (lifeCold (lifecycleWrite {} 0x10000)).state = 1
  decide

theorem step_profileLoads : step { profileLoads with pending := [.bootStepDone (.profile burningProfile blankProfile)] }
    = .next (settled (bootProfile profileLoads burningProfile blankProfile)) := by
  show exec (.bootStepDone (.profile burningProfile blankProfile)) profileLoads = _
  dsimp only [exec]
  rw [execBootStepDone, if_pos profileLoads_runs.1, profileLoads_done]
  rfl

theorem settled_life (s : State) : (settled s).life = s.life := rfl

/-- Refutes O59: a site profile loaded in step 5 of Boot writes LIFECYCLE and then RESET_CTL, so that one step burns a code and puts it in force. -/
theorem not_lifeCycleOneWay : ¬ Obligations.LifeCycleOneWay := by
  intro h
  obtain ⟨_, hburn, _⟩ := h _ _ (by decide) step_profileLoads
  have h1 : (settled (bootProfile profileLoads burningProfile blankProfile)).life.state = 1 := by
    rw [settled_life]
    exact profileLoads_life
  obtain ⟨_, hnone⟩ := hburn (by rw [h1]; decide)
  cases hnone

/-! ## Keys (R342) -/

section
variable (s : State) (slot : Nat → BitVec 768) (ide mw : Nat → BitVec 256) (block : List Byte)

/-- A key slot with another key in it is bound, derived and counted as before. -/
theorem keySlot_rekeyed (d : Dev) (k : Nat) :
    ∃ x, keySlot (rekeyed d slot ide mw block) k = { keySlot d k with key := x } := by
  unfold keySlot
  show ∃ x, tabGet ({} : KeySlot) (d.slots.map fun e : Nat × KeySlot => (e.1, { e.2 with key := slot e.1 })) k = { tabGet ({} : KeySlot) d.slots k with key := x }
  induction d.slots with
  | nil => exact ⟨_, rfl⟩
  | cons e t ih =>
    simp only [List.map_cons, tabGet]
    split
    exacts [⟨_, rfl⟩, ih]

theorem sealReg_rekeyed (d : Dev) (q : Nat) (n : RName) (i : Nat) : sealReg (rekeyed d slot ide mw block) q n i = sealReg d q n i := by
  have hk : rfld (rekeyed d slot ide mw block) (.seal 0) .sealSlotSel 6 0 = rfld d (.seal 0) .sealSlotSel 6 0 := rfl
  obtain ⟨x, hx⟩ := keySlot_rekeyed slot ide mw block d (rfld d (.seal 0) .sealSlotSel 6 0)
  unfold sealReg
  split
  case h_5 => simp only [hk, hx]
  all_goals rfl

theorem seciReg_rekeyed (n : RName) : seciReg (withDev s (rekeyed s.dev slot ide mw block)) n = seciReg s n := by
  have hk : (withDev s (rekeyed s.dev slot ide mw block)).dev.keyRun.isSome = s.dev.keyRun.isSome := Option.isSome_map
  unfold seciReg
  split
  case h_4 => rw [hk]; rfl
  all_goals rfl

theorem derivedReg_rekeyed (p : Path) (b : Block) (n : RName) (i : Nat) :
    derivedReg (withDev s (rekeyed s.dev slot ide mw block)) p b n i = derivedReg s p b n i := by
  have hh : headerReg (withDev s (rekeyed s.dev slot ide mw block)) p b n = headerReg s p b n := rfl
  unfold derivedReg
  rw [hh]
  split
  · rfl
  · split
    case h_9 => exact seciReg_rekeyed s slot ide mw block n
    case h_15 => exact sealReg_rekeyed slot ide mw block s.dev _ n i
    all_goals rfl

end

/-- Settles O60: no register that the state gives shows a key, and none is stored as a register. -/
theorem keysAreNotReadable : Obligations.KeysAreNotReadable := by
  intro s slot ide mw block p b n i
  unfold readReg
  rw [derivedReg_rekeyed]
  rfl

end Sys2Proof.Machine
end

section
/-! PROOFS. The step and the reset state (R28, R373), writes of ordinary registers by their codes (R35, R42), run control (R39 to R43), raised
sources (R397) and stored places (R128, R154). -/

namespace Sys2Proof.Machine

/-! ## The step and the reset state -/

/-- Settles O1. -/
theorem stepRunsFront : Obligations.StepRunsFront := by
  refine ⟨fun c s rest h => ?_, fun s h => ?_⟩
  · simp only [step, h]
  · simp only [step, h, idleTick, xbOn]

/-- The life-cycle store after reset is legal, whatever code the fuses hold. -/
theorem lifeLegal_reset : lifeLegal State.reset.life = true := by
  simp [lifeLegal, State.reset]

/-- Settles O2. -/
theorem resetLegal : Obligations.ResetLegal := by
  refine ⟨⟨fun p _ => rfl, fun b => ⟨rfl, rfl, rfl⟩, fun q => ⟨rfl, rfl⟩, by decide, by decide, rfl, rfl⟩, by decide, lifeLegal_reset, wf_reset⟩

/-! ## Writes by the access codes (R35, R42) -/

theorem regHome_ordinary {s : State} {p : Path} {b : Block} {n : RName} {i : Nat} {w : Word} (h : ordinary s p b n i w = true) :
    highOf n = none ∧ lowOf n = none ∧ regHome b n = b := by
  simp only [ordinary, Bool.and_eq_true, decide_eq_true_eq] at h
  obtain ⟨⟨⟨_, hh⟩, hl⟩, hb⟩ := h
  exact ⟨hh, hl, hb⟩

/-- A register write at a register's offset is the command on the register. -/
theorem registerWrite_eq {s : State} {p : Path} {b : Block} {n : RName} {i : Nat} (w : Word) (h : admitted s p b n i = true) :
    exec (.registerWrite p (regOff b n i) 4 w) s = regCmd s p b n w i := by
  show writeCmd s p (regOff b n i).toNat w 4 = _
  rw [regOff_toNat (admitted_block h)]
  rfl

/-- Settles O5: by the code of each bit. -/
theorem registerWriteByCode : Obligations.RegisterWriteByCode := by
  intro s p b n i w ha hn hi ho
  obtain ⟨hh, hl, hb⟩ := regHome_ordinary ho
  refine ⟨coded n.row (decide (p = .secure)) (rget s.dev b n i) w, codedWrite s.dev (decide (p = .secure)) b n i w,
    coded_bit _ _ _ _, fun h0 => ?_, fun h0 hc => ?_, fun h0 hc => ?_, ?_⟩
  · simp only [codedWrite, hb, cwWrite, if_pos h0]
  · simp only [codedWrite, hb, cwWrite, if_neg h0]
    exact if_pos hc
  · simp only [codedWrite, hb, cwWrite, if_neg h0]
    exact if_neg hc
  · rw [registerWrite_eq w ha, regCmd_admitted w ha hn hi hh hl, writeReg_ordinary ho]
    rfl

/-! ## Requests of RUN_CTL (R40) -/

theorem withDev_self (s : State) : withDev s s.dev = s := rfl

/-- The four requests as writes of RUN_CTL. -/
theorem runRequests {s : State} {p : Path} {b : Block} (u : Word) (h : admitted s p b .hdrRunCtl = true) :
    exec (.cut p (BitVec.ofNat 8 b.page) u) s = .next (wrote p b .hdrRunCtl (withDev s (runCtlWrite s.dev b (u ||| 1))))
    ∧ exec (.action p (BitVec.ofNat 8 b.page) u) s = .next (wrote p b .hdrRunCtl (withDev s (runCtlWrite s.dev b (u ||| 2))))
    ∧ exec (.blockReset p (BitVec.ofNat 8 b.page) u) s = .next (wrote p b .hdrRunCtl (withDev s (runCtlWrite s.dev b (u ||| 4))))
    ∧ exec (.fenceReq p (BitVec.ofNat 8 b.page) u) s = .next (wrote p b .hdrRunCtl (withDev s (runCtlWrite s.dev b (u ||| 8)))) :=
  ⟨runCmd_admitted u 1 h, runCmd_admitted u 2 h, runCmd_admitted u 4 h, runCmd_admitted u 8 h⟩

theorem runCtlWrite_cut {d : Dev} {b : Block} {w : Word} (h : fld w 3 0 = 1) : runCtlWrite d b w =
    if ¬ b.caps.1 ∨ (pget d b).run = .resetting ∨ (pget d b).run = .fenced then runRefused d b
    else if (pget d b).run = .rolling then pmod d b fun p => { p with run := .cutting } else d := by
  unfold runCtlWrite; rw [h]; rfl

theorem runCtlWrite_action {d : Dev} {b : Block} {w : Word} (h : fld w 3 0 = 2) : runCtlWrite d b w =
    if ¬ b.caps.1 ∨ (pget d b).run = .cutting ∨ (pget d b).run = .resetting ∨ (pget d b).run = .fenced then runRefused d b
    else if (pget d b).run = .cut then actionApply d b else d := by
  unfold runCtlWrite; rw [h]; rfl

theorem runCtlWrite_reset {d : Dev} {b : Block} {w : Word} (h : fld w 3 0 = 4) : runCtlWrite d b w =
    if ¬ b.caps.2.1 ∨ (pget d b).run = .rolling ∨ (pget d b).run = .cutting ∨ (pget d b).run = .resetting ∨ ((pget d b).run = .fenced ∧ fenceRecorded d b)
      then runRefused d b else resetStart d b := by
  unfold runCtlWrite; rw [h]; rfl

theorem runCtlWrite_fence {d : Dev} {b : Block} {w : Word} (h : fld w 3 0 = 8) : runCtlWrite d b w =
    if ¬ b.caps.2.2 ∨ (pget d b).run = .resetting then runRefused d b else if (pget d b).run = .fenced then d else softFencePage d b := by
  unfold runCtlWrite; rw [h]; rfl

/-- A write with two bits or more is refused. -/
theorem runCtlWrite_several {d : Dev} {b : Block} {w : Word} (h0 : fld w 3 0 ≠ 0) (h1 : fld w 3 0 ≠ 1) (h2 : fld w 3 0 ≠ 2) (h4 : fld w 3 0 ≠ 4)
    (h8 : fld w 3 0 ≠ 8) : runCtlWrite d b w = runRefused d b := by
  unfold runCtlWrite
  split <;> simp_all

/-- The low four bits of a request. -/
theorem fld_or_lt (u : Word) (k : Nat) (hk : k < 16) : fld (u ||| BitVec.ofNat 32 k) 3 0 = fld u 3 0 ||| k := by
  unfold fld
  simp only [BitVec.toNat_or, BitVec.toNat_ofNat, Nat.shiftRight_zero]
  rw [Nat.or_mod_two_pow, Nat.mod_eq_of_lt (by omega : k < 2 ^ 32), Nat.mod_eq_of_lt (by omega : k < 2 ^ (3 + 1 - 0))]

/-- A request whose low four bits are not its own alone has several. -/
theorem several_bits : ∀ m < 16, ∀ k ∈ [1, 2, 4, 8], m ||| k ≠ k → m ||| k ∉ [0, 1, 2, 4, 8] := by decide

theorem runCtlWrite_notOne {d : Dev} {b : Block} (u : Word) {k : Nat} (hk : k ∈ [1, 2, 4, 8]) (h : fld (u ||| BitVec.ofNat 32 k) 3 0 ≠ k) :
    runCtlWrite d b (u ||| BitVec.ofNat 32 k) = runRefused d b := by
  have hk16 : k < 16 := by
    simp only [List.mem_cons, List.not_mem_nil, or_false] at hk
    omega
  have hm : fld u 3 0 < 16 := Nat.mod_lt _ (by decide)
  rw [fld_or_lt u k hk16] at h
  have := several_bits _ hm k hk h
  simp only [List.mem_cons, List.not_mem_nil, or_false, not_or] at this
  obtain ⟨h0, h1, h2, h4, h8⟩ := this
  exact runCtlWrite_several (by rwa [fld_or_lt u k hk16]) (by rwa [fld_or_lt u k hk16]) (by rwa [fld_or_lt u k hk16]) (by rwa [fld_or_lt u k hk16])
    (by rwa [fld_or_lt u k hk16])

/-- What `runRefusal` says of each request is refused. -/
theorem runCtlWrite_refusal (d : Dev) (b : Block) (p : Path) (page : BitVec 8) (u : Word) :
    (runRefusal d b (.cut p page u) = true → runCtlWrite d b (u ||| 1) = runRefused d b)
    ∧ (runRefusal d b (.action p page u) = true → runCtlWrite d b (u ||| 2) = runRefused d b)
    ∧ (runRefusal d b (.blockReset p page u) = true → runCtlWrite d b (u ||| 4) = runRefused d b)
    ∧ (runRefusal d b (.fenceReq p page u) = true → runCtlWrite d b (u ||| 8) = runRefused d b) := by
  refine ⟨fun h => ?_, fun h => ?_, fun h => ?_, fun h => ?_⟩
  · by_cases h1 : fld (u ||| 1#32) 3 0 = 1
    · refine (runCtlWrite_cut h1).trans (if_pos ?_)
      simpa [runRefusal, h1, or_assoc] using h
    · exact runCtlWrite_notOne (k := 1) u (by simp) h1
  · by_cases h1 : fld (u ||| 2#32) 3 0 = 2
    · refine (runCtlWrite_action h1).trans (if_pos ?_)
      simpa [runRefusal, h1, or_assoc] using h
    · exact runCtlWrite_notOne (k := 2) u (by simp) h1
  · by_cases h1 : fld (u ||| 4#32) 3 0 = 4
    · refine (runCtlWrite_reset h1).trans (if_pos ?_)
      simpa [runRefusal, h1, or_assoc] using h
    · exact runCtlWrite_notOne (k := 4) u (by simp) h1
  · by_cases h1 : fld (u ||| 8#32) 3 0 = 8
    · refine (runCtlWrite_fence h1).trans (if_pos ?_)
      simpa [runRefusal, h1, or_assoc] using h
    · exact runCtlWrite_notOne (k := 8) u (by simp) h1

/-- The clauses of O8 on requests. -/
theorem runRequests_hold (s : State) (p : Path) (b : Block) (v : Word) (ha : admitted s p b .hdrRunCtl = true) (hv : fld v 3 0 = 0) :
    (b.caps.1 = true → (pget s.dev b).run = .rolling →
      exec (.cut p (BitVec.ofNat 8 b.page) v) s = .next (wrote p b .hdrRunCtl (withDev s (pmod s.dev b fun x => { x with run := .cutting }))))
    ∧ (b.caps.1 = true → (pget s.dev b).run = .cutting ∨ (pget s.dev b).run = .cut →
      exec (.cut p (BitVec.ofNat 8 b.page) v) s = .next (wrote p b .hdrRunCtl s))
    ∧ (b.caps.1 = true → (pget s.dev b).run = .rolling → exec (.action p (BitVec.ofNat 8 b.page) v) s = .next (wrote p b .hdrRunCtl s))
    ∧ (b.caps.2.2 = true → (pget s.dev b).run = .fenced → exec (.fenceReq p (BitVec.ofNat 8 b.page) v) s = .next (wrote p b .hdrRunCtl s))
    ∧ (b.caps.1 = true → (pget s.dev b).run = .cut →
      exec (.action p (BitVec.ofNat 8 b.page) v) s = .next (wrote p b .hdrRunCtl (withDev s (actionApply s.dev b))))
    ∧ (b.caps.2.1 = true → (pget s.dev b).run = .cut ∨ (pget s.dev b).run = .fenced ∧ fenceRecorded s.dev b = false →
      exec (.blockReset p (BitVec.ofNat 8 b.page) v) s = .next (wrote p b .hdrRunCtl (withDev s (resetStart s.dev b))))
    ∧ (b.caps.2.2 = true → (pget s.dev b).run ≠ .resetting → (pget s.dev b).run ≠ .fenced →
      exec (.fenceReq p (BitVec.ofNat 8 b.page) v) s = .next (wrote p b .hdrRunCtl (withDev s (softFencePage s.dev b)))) := by
  obtain ⟨hc, ht, hr, hf⟩ := runRequests v ha
  have h1 : runCtlWrite s.dev b (v ||| 1) = _ := runCtlWrite_cut (fld_or v 1 (by decide) hv)
  have h2 : runCtlWrite s.dev b (v ||| 2) = _ := runCtlWrite_action (fld_or v 2 (by decide) hv)
  have h4 : runCtlWrite s.dev b (v ||| 4) = _ := runCtlWrite_reset (fld_or v 4 (by decide) hv)
  have h8 : runCtlWrite s.dev b (v ||| 8) = _ := runCtlWrite_fence (fld_or v 8 (by decide) hv)
  refine ⟨fun hcap hrun => ?_, fun hcap hrun => ?_, fun hcap hrun => ?_, fun hcap hrun => ?_, fun hcap hrun => ?_, fun hcap hrun => ?_,
    fun hcap hrun hnf => ?_⟩
  · rw [hc, h1]; simp [hcap, hrun]
  · rw [hc, h1]; rcases hrun with hrun | hrun <;> simp [hcap, hrun, withDev_self]
  · rw [ht, h2]; simp [hcap, hrun, withDev_self]
  · rw [hf, h8]; simp [hcap, hrun, withDev_self]
  · rw [ht, h2]; simp [hcap, hrun]
  · rw [hr, h4]
    rcases hrun with hrun | ⟨hrun, hrec⟩
    · simp [hcap, hrun]
    · simp [hcap, hrun, hrec]
  · rw [hf, h8]; simp [hcap, hrun, hnf]

theorem runRefused_requests (s : State) (p : Path) (b : Block) (ha : admitted s p b .hdrRunCtl = true) (u : Word) (c : Instr)
    (hc : c ∈ [Instr.cut p (BitVec.ofNat 8 b.page) u, .action p (BitVec.ofNat 8 b.page) u, .blockReset p (BitVec.ofNat 8 b.page) u,
      .fenceReq p (BitVec.ofNat 8 b.page) u]) (h : runRefusal s.dev b c = true) :
    exec c s = .next (wrote p b .hdrRunCtl (withDev s (runRefused s.dev b))) := by
  obtain ⟨h1, h2, h4, h8⟩ := runCtlWrite_refusal s.dev b p (BitVec.ofNat 8 b.page) u
  obtain ⟨e1, e2, e4, e8⟩ := runRequests u ha
  simp only [List.mem_cons, List.not_mem_nil, or_false] at hc
  rcases hc with rfl | rfl | rfl | rfl
  · rw [e1, h1 h]
  · rw [e2, h2 h]
  · rw [e4, h4 h]
  · rw [e8, h8 h]

/-! ## The ends of a cut, a reset and a pace window; stalls -/

theorem pmod_congr {d : Dev} {b : Block} {f g : PageSt → PageSt} (h : f (pget d b) = g (pget d b)) : pmod d b f = pmod d b g := by
  unfold pmod; rw [h]

theorem exec_cutDone {s : State} {page : BitVec 8} {b : Block} (hb : blockOf s.dev page.toNat = some b) (hr : (pget s.dev b).run = .cutting)
    (hd : domOn s.dev b.domain = true) (hq : blockQuiet s.dev b = true) :
    exec (.cutDone page) s = .next (onDev s (pmod s.dev b fun x => { x with run := .cut })) := by
  show execCutDone page s = _
  simp only [execCutDone, hb]
  exact doneIf_next (by simp [hr, hd, hq])

theorem exec_blockResetEnd {s : State} {page : BitVec 8} {b : Block} (hb : blockOf s.dev page.toNat = some b) (hr : (pget s.dev b).run = .resetting)
    (hd : domOn s.dev b.domain = true) : exec (.blockResetEnd page) s = .next (onDev s (pmod s.dev b fun p => match p.fenceAtEnd with
      | some src => { p with run := .fenced, fencedBy := some src, fenceAtEnd := none }
      | none => { p with run := .cut })) := by
  show execBlockResetEnd page s = _
  simp only [execBlockResetEnd, hb]
  exact doneIf_next (by simp [hr, hd])

/-- The cycle time is the nearest number where one is nearest (R14). -/
theorem paceCycle_nearest {count n : Nat} (free : Nat) (hn : n < 2 ^ 16) (hlo : 2 * count * n < 2000000 + count) (hhi : 2000000 < 2 * count * n + count) :
    paceCycle count free = n := by
  have hpos : 0 < count := by
    rcases Nat.eq_zero_or_pos count with rfl | h
    · omega
    · exact h
  have hdiv : count * (1000000 / count) + 1000000 % count = 1000000 := Nat.div_add_mod ..
  have hmod : 1000000 % count < count := Nat.mod_lt _ hpos
  unfold paceCycle
  rw [if_neg (by omega)]
  dsimp only
  generalize 1000000 / count = m at hdiv ⊢
  generalize 1000000 % count = r at hdiv hmod ⊢
  have hlt : ∀ a b : Nat, count * a < count * b → a < b := fun a b => Nat.lt_of_mul_lt_mul_left
  have hassoc : 2 * count * n = 2 * (count * n) := Nat.mul_assoc ..
  have key : (if 2 * r = count then m + free % 2 else if count < 2 * r then m + 1 else m) = n := by
    split
    · have h1 := hlt m n (by omega)
      have h2 := hlt n (m + 1) (by rw [Nat.mul_add]; omega)
      omega
    · split
      · have h1 := hlt m n (by omega)
        have h2 := hlt n (m + 2) (by rw [Nat.mul_add]; omega)
        omega
      · have h1 := hlt n (m + 1) (by rw [Nat.mul_add]; omega)
        have h2 := hlt m (n + 1) (by rw [Nat.mul_add]; omega)
        omega
  rw [key, if_pos hn]

theorem exec_paceWindowEnd {s : State} {m : Fin 5} {count n : Nat} (hb : domOn s.dev (paceBlock m).domain = true) (h3 : domOn s.dev 3 = true) (hn : n < 2 ^ 16)
    (hlo : 2 * count * n < 2000000 + count) (hhi : 2000000 < 2 * count * n + count) :
    exec (.paceWindowEnd m count) s = .next (onDev s (rput (bumpFree s.dev) (paceBlock m) .pace (packW [(0, n), (31, 1)]))) := by
  show execPaceWindowEnd m count s = _
  unfold execPaceWindowEnd
  rw [doneIf_next (by simp [hb, h3]), paceCycle_nearest _ hn hlo hhi]

/-! ## What a raise does to the Continuity state (R397) -/

theorem record_flt (d : Dev) (id sev : Nat) (ctx : BitVec 256) (inj : Bool) :
    (record d id sev ctx inj).flt.latched = d.flt.latched ∧ (record d id sev ctx inj).flt.stalls = d.flt.stalls := by
  unfold record
  extract_lets r s d1
  have h1 : d1.flt.latched = d.flt.latched ∧ d1.flt.stalls = d.flt.stalls := ⟨rfl, rfl⟩
  split
  · exact h1
  · split
    · exact h1
    · split <;> exact h1

/-- A raise latches the source's bit and no other, and reports no stall. -/
theorem raise_flt (d : Dev) (b : Block) (bit : Nat) (u : FUnit) (ctx : BitVec 256) (cond inj : Bool) (named : List Nat) :
    (raise d b bit u ctx cond inj named).flt.latched = d.flt.latched ||| BitVec.ofNat 512 (2 ^ srcId b bit)
    ∧ (raise d b bit u ctx cond inj named).flt.stalls = d.flt.stalls := by
  unfold raise
  extract_lets id sev m xb d1 s d2 d3 d4
  have h1 : d1.flt.latched = d.flt.latched ∧ d1.flt.stalls = d.flt.stalls := by
    unfold d1; split
    · exact record_flt ..
    · exact ⟨rfl, rfl⟩
  have h2 : d2.flt.latched = d.flt.latched ||| m ∧ d2.flt.stalls = d.flt.stalls := ⟨congrArg (· ||| m) h1.1, h1.2⟩
  have h3 : d3.flt = d2.flt := by
    unfold d3; repeat' split
    · exact logEvents_flt ..
    all_goals rfl
  have h4 : d4.flt = d3.flt := by
    unfold d4; split <;> rfl
  rw [← h3, ← h4] at h2
  split <;> exact h2

theorem raise_latched_ne (d : Dev) (b : Block) (bit : Nat) (u : FUnit) (ctx : BitVec 256) (cond inj : Bool) (named : List Nat) {k : Nat}
    (h : k ≠ srcId b bit) : (raise d b bit u ctx cond inj named).flt.latched.getLsbD k = d.flt.latched.getLsbD k := by
  rw [(raise_flt ..).1, BitVec.getLsbD_or, BitVec.getLsbD_ofNat, Nat.testBit_two_pow]
  simp [Ne.symm h]

/-- Settles O10. -/
theorem raiseLatches : Obligations.RaiseLatches := fun d b i u ctx cond inj named h =>
  ⟨raise_latched d b i u ctx cond inj named h, fun _ hk => raise_latched_ne d b i u ctx cond inj named hk, raise_unreported ..⟩

theorem exec_stageStall {s : State} (u : FUnit) (id : BitVec 16) (slate : Slate) (began : DWord) (h3 : domOn s.dev 3 = true) :
    (2 ≤ sevOf s.dev 0 → exec (.stageStall u id slate began) s = .next (onDev s (raise s.dev .flt 0 u (ctxStall id.toNat slate.toNat began.toNat))))
    ∧ (sevOf s.dev 0 < 2 → ∃ e, exec (.stageStall u id slate began) s = .next (onDev s e) ∧ e.flt.stalls = s.dev.flt.stalls ++ [(u, id)]
        ∧ e.unreported = s.dev.unreported ∧ e.flt.latched.getLsbD 0 = true) := by
  have he : exec (.stageStall u id slate began) s = execStageStall u id slate began s := rfl
  rw [he]
  unfold execStageStall
  rw [doneIf_next h3]
  dsimp only
  refine ⟨fun h => ?_, fun h => ?_⟩
  · rw [decide_eq_false (by omega)]
    rfl
  · rw [decide_eq_true h, if_pos rfl]
    generalize hr : raise s.dev .flt 0 u (ctxStall id.toNat slate.toNat began.toNat) true = r
    refine ⟨_, rfl, ?_, ?_, ?_⟩
    · show r.flt.stalls ++ [(u, id)] = _
      rw [← hr, (raise_flt ..).2]
    · show r.unreported = _
      rw [← hr, raise_unreported]
    · show r.flt.latched.getLsbD 0 = true
      rw [← hr]
      exact raise_latched s.dev .flt 0 u _ true false [] (by decide)

/-- Settles O8: by the request, and by what ends. -/
theorem runControl : Obligations.RunControl := by
  refine ⟨fun s p b v ha hv => ?_, fun s page b hb hr hd hq => exec_cutDone hb hr hd hq, fun s page b hb hr hd => ⟨fun h => ?_, fun f h => ?_⟩,
    fun s p v ha => execWinErrClear_admitted v ha, fun s m count n hb h3 hn hlo hhi => exec_paceWindowEnd hb h3 hn hlo hhi,
    fun s u id slate began h3 => exec_stageStall u id slate began h3⟩
  · obtain ⟨hcut, hcut2, hact, hfen, hgo, hres, hfence⟩ := runRequests_hold s p b v ha hv
    refine ⟨hcut, hcut2, hact, hfen, fun hc hr hok => ?_, fun hc hr hok => ?_, hres, hfence, fun u c hc h => runRefused_requests s p b ha u c hc h⟩
    · rw [hgo hc hr, actionApply, if_pos hok]
    · rw [hgo hc hr, actionApply, hok]
      rfl
  · rw [exec_blockResetEnd hb hr hd, pmod_congr (g := fun x => { x with run := .cut })]
    rw [h]
  · rw [exec_blockResetEnd hb hr hd, pmod_congr (g := fun x => { x with run := .fenced, fencedBy := some f, fenceAtEnd := none })]
    rw [h]

/-! ## Stored places (R128, R154) -/

/-- Settles O11. -/
theorem storedPlaceReadsBack : Obligations.StoredPlaceReadsBack := fun d loc w =>
  ⟨dramGet_dramPut_self d loc w, fun _ h => dramGet_dramPut_ne d w h, wf_dramPut d loc w, lineWord_reads d⟩

end Sys2Proof.Machine
end

section
/-! PROOFS. Requests of a host that Stage answers, over CXL.mem and over CXL.io, on a clear way (R20, R45, R64, R202, R205, R273). -/

namespace Sys2Proof.Machine

/-! ## The device that a request finds at its home -/

theorem homeClear_met {d : Dev} {line : Nat} (P : Tab HPort) (D : Daily) (n : Nat) (R : Tab Gate) (h : homeClear d line = true) :
    homeClear (met d P D n R) line = true := h

theorem sameStage_trans {a b c : Dev} (h : SameStage a b) (k : SameStage b c) : SameStage a c := fun l => (k l).trans (h l)

theorem openLine_met {d : Dev} {line : Nat} (P : Tab HPort) (D : Daily) (n : Nat) (R : Tab Gate) (h : openLine d line = true) :
    openLine (met d P D n R) line = true := h

theorem stageOwn_met {d : Dev} {line : Nat} {x : Line} (P : Tab HPort) (D : Daily) (n : Nat) (R : Tab Gate) (h : stageOwn d line x = true) :
    stageOwn (met d P D n R) line x = true := h

theorem port_upId {d : Dev} {e : Dev} {p : Nat} {env : Env} (hp : portClear d p = true)
    (hq : port e p = { port d p with occ := env.occ, panic := false }) : (port e p).up = true ∧ (port e p).upId ≤ d.nextId := by
  rw [hq]; exact portClear_up hp

/-- A request with no data to move is completed at once. -/
theorem enterHome_notice {d : Dev} {r : Req} {p : Fin 16} {tag : Nat} (hh : homeClear d r.line = true) (hr : reqRight d r = true)
    (hs : r.src = .host p tag) (hk : r.kind = .evc ∨ r.op = .none) (hu : (port d p).up = true) (hi : (port d p).upId ≤ r.id) :
    enterHome d r = send d (.memCmp p tag 0) := by
  rw [enterHome_clear d r hh hr, if_pos hk]
  unfold respondWrite
  rw [hs]
  dsimp only
  rw [if_pos (by simp [owedTo, portUp, hu, hi]), hostGrant_clear (needsDir_clear hh).1]

/-! ## CXL.mem (R20, R45, R202) -/

section
variable {s : State} {p : Fin 16} {dpa : Nat} {h : Hdm} {hpa : BitVec 64} {env : Env} (hd : hpaToDpa s.dev p hpa.toNat = some (dpa, h))
  (hw : wayClear s.dev p env (port s.dev p).memBroken (dpa / 64) (fallbackSlate s.dev p (frameOf (pageOfLine (dpa / 64)))) = true)

include hd hw

/-- What a clear CXL.mem request comes to: a device that only met it, and the request at its home. -/
theorem memReq_way (tag : Nat) (k : Kind) (op : Op) (keep : Nat) :
    ∃ e r, memReq s.dev p tag hpa.toNat k op keep env = enterHome e r ∧ Served s.dev e ∧ SameStage s.dev e ∧ e.out = s.dev.out
      ∧ homeClear e r.line = true ∧ reqRight e r = true ∧ (port e p).up = true ∧ (port e p).upId ≤ r.id
      ∧ (openLine s.dev (dpa / 64) = true → openLine e (dpa / 64) = true)
      ∧ (∀ x, stageOwn s.dev (dpa / 64) x = true → stageOwn e (dpa / 64) x = true)
      ∧ r.src = .host p tag ∧ r.kind = k ∧ r.op = op ∧ r.line = dpa / 64 := by
  obtain ⟨hp, he, hb, hc, hs, hh, hr⟩ := wayClear_all hw
  obtain ⟨P, D, R, r, hm, hq, hid, hsrc, hk, ho, hl⟩ := memReq_home s.dev p tag hpa.toNat k op keep env dpa h hp he hb hd hc hs
  obtain ⟨hu, hi⟩ := port_upId hp hq
  refine ⟨_, r, hm, served_met .., fun _ => rfl, rfl, ?_, ?_, hu, ?_, openLine_met _ _ _ _, fun _ => stageOwn_met _ _ _ _, hsrc, hk, ho, hl⟩
  · rw [hl]; exact homeClear_met P D _ R hh
  · unfold reqRight
    rw [hsrc, hl]
    exact hr
  · rw [hid]; exact hi

/-- A clear read that Stage answers. -/
theorem memReq_read (tag : Nat) {k : Kind} (hk : k ≠ .evc) {x : Line} (hx : stageFind s.dev (dpa / 64) = some x) :
    Served s.dev (memReq s.dev p tag hpa.toNat k .read 0 env) ∧ SameStage s.dev (memReq s.dev p tag hpa.toNat k .read 0 env)
      ∧ (memReq s.dev p tag hpa.toNat k .read 0 env).out = .memData p tag x false 0 :: s.dev.out := by
  obtain ⟨e, r, hm, hserved, hsame, hout, hh, hr, hu, hi, _, _, hsrc, hkind, hop, hl⟩ := memReq_way hd hw tag k .read 0
  obtain ⟨h1, h2, h3⟩ := read_hit hh hr hsrc hop (hkind ▸ hk) hu hi (by rw [hl, hsame]; exact hx)
  rw [hm, ← hout]
  exact ⟨hserved.trans h1.served, sameStage_trans hsame h2, h3⟩

/-- A clear request without data. -/
theorem memReq_notice (tag : Nat) {k : Kind} :
    Served s.dev (memReq s.dev p tag hpa.toNat k .none 0 env) ∧ SameStage s.dev (memReq s.dev p tag hpa.toNat k .none 0 env)
      ∧ (memReq s.dev p tag hpa.toNat k .none 0 env).out = .memCmp p tag 0 :: s.dev.out := by
  obtain ⟨e, r, hm, hserved, hsame, hout, hh, hr, hu, hi, _, _, hsrc, _, hop, _⟩ := memReq_way hd hw tag k .none 0
  have hc := calm_send e (.memCmp p tag 0)
  rw [hm, enterHome_notice hh hr hsrc (.inr hop) hu hi, ← hout]
  exact ⟨hserved.trans hc.1.served, sameStage_trans hsame hc.stage, rfl⟩

/-- A clear write to an Open line of Stage. -/
theorem memReq_write (tag : Nat) {op : Op} (keep : Nat) {x : Line} (hop : (∃ y, op = .write y) ∨ ∃ y m, op = .writePtl y m)
    (ho : openLine s.dev (dpa / 64) = true) (hx : stageOwn s.dev (dpa / 64) x = true) :
    Served s.dev (memReq s.dev p tag hpa.toNat .wr op keep env)
      ∧ (∀ l, stageFind (memReq s.dev p tag hpa.toNat .wr op keep env) l = if l = dpa / 64 then some (written op x) else stageFind s.dev l)
      ∧ (memReq s.dev p tag hpa.toNat .wr op keep env).out = .memCmp p tag 0 :: s.dev.out := by
  obtain ⟨e, r, hm, hserved, hsame, hout, hh, hr, hu, hi, hopen, hown, hsrc, hkind, hop', hl⟩ := memReq_way hd hw tag .wr op keep
  obtain ⟨f, hf, hin, htr, hst, hfo⟩ := write_hit hh hr (by rw [hl]; exact hopen ho) (by rw [hl]; exact hown x hx) (by rw [hkind]; decide)
    (by rw [hop']; exact hop)
  obtain ⟨h1, h2, h3⟩ := finishWrite_host hin (htr _) hh hsrc hu hi
  rw [hm, hf]
  refine ⟨hserved.trans h1.served, fun l => ?_, ?_⟩
  · rw [h2 l, hst l, hl, hop', hsame l]
  · rw [h3, hfo, hout]

omit hd in
/-- A speculative read only meets the port. -/
theorem specRead_way : Served s.dev (specRead s.dev p hpa.toNat env) ∧ SameStage s.dev (specRead s.dev p hpa.toNat env)
    ∧ (specRead s.dev p hpa.toNat env).out = s.dev.out := by
  obtain ⟨hp, he, hb, _⟩ := wayClear_all hw
  obtain ⟨D, hg⟩ := hostGate_clear s.dev p env true hp he hb
  have hsram : env.sram = .none := by
    simp only [envClean, Bool.and_eq_true, decide_eq_true_eq] at he
    exact he.1.1.2
  have key : specRead s.dev p hpa.toNat env
      = { s.dev with ports := tabMod {} s.dev.ports p fun x => { x with occ := env.occ, panic := false }, daily := D } := by
    unfold specRead
    rw [hg]
    dsimp only
    split
    · rw [hsram]; rfl
    · rfl
  rw [key]
  exact ⟨rfl, fun _ => rfl, rfl⟩

end

theorem metaKind_ne_evc (m : MetaVal) : metaKind m ≠ .evc := by cases m <;> decide

/-- Settles O12: by the way of the request to its home, and what Stage answers there. -/
theorem hostReadsAndWrites : Obligations.HostReadsAndWrites := by
  refine ⟨fun s p tag dpa h hpa env hd hw => ⟨fun x hx => ⟨fun m => ?_, ?_⟩, ?_, ?_, ?_, ?_⟩,
    fun s p tag dpa h hpa env x hd hw ho hx => ⟨fun m data => ?_, fun m data mask => ?_⟩⟩
  · exact ⟨_, done_next s _, memReq_read hd hw tag (metaKind_ne_evc m) hx⟩
  · exact ⟨_, done_next s _, memReq_read hd hw tag (by decide) hx⟩
  · exact ⟨_, done_next s _, memReq_notice hd hw tag⟩
  · exact ⟨_, done_next s _, memReq_notice hd hw tag⟩
  · exact ⟨_, done_next s _, memReq_notice hd hw tag⟩
  · exact ⟨_, done_next s _, specRead_way hw⟩
  · exact ⟨_, done_next s _, memReq_write hd hw tag (metaKeep m) (.inl ⟨data, rfl⟩) ho hx⟩
  · exact ⟨_, done_next s _, memReq_write hd hw tag (metaKeep m) (.inr ⟨data, mask, rfl⟩) ho hx⟩

/-! ## CXL.io (R273) -/

/-- Bytes inside one line are one part. -/
theorem spanLines_single {dpa n : Nat} (hn : 0 < n) (h : dpa % 64 + n ≤ 64) : spanLines dpa n = [(dpa / 64, dpa % 64, n)] := by
  unfold spanLines
  rw [if_neg (by omega), show (dpa + n - 1) / 64 - dpa / 64 + 1 = 1 by omega]
  have h1 : min 64 (dpa + n - dpa / 64 * 64) - dpa % 64 = n := by omega
  simp only [List.range_one, List.map_cons, List.map_nil, if_true, Nat.add_zero, h1]

section
variable {s : State} {p : Fin 16} {dpa : Dpa} {pasid : Option (BitVec 20)} {env : Env}
  (hw : wayClear s.dev p env (port s.dev p).ioBroken (dpa.toNat / 64) (ioSlate s.dev p pasid (pageOfLine (dpa.toNat / 64))) = true)

include hw

/-- What a clear CXL.io request for one line comes to. -/
theorem ioLine_way (tag : Nat) (k : Kind) (op : Op) (lo n : Nat) (D0 : Daily) :
    ∃ e r, ioLine { s.dev with ports := tabMod {} s.dev.ports p fun x => { x with occ := env.occ, panic := false }, daily := D0 } p tag pasid env k op
        (dpa.toNat / 64) lo n = enterHome e r ∧ Served s.dev e ∧ SameStage s.dev e ∧ e.out = s.dev.out ∧ e.ioReads = s.dev.ioReads
      ∧ homeClear e r.line = true ∧ reqRight e r = true ∧ (port e p).up = true ∧ (port e p).upId ≤ r.id
      ∧ (openLine s.dev (dpa.toNat / 64) = true → openLine e (dpa.toNat / 64) = true)
      ∧ (∀ x, stageOwn s.dev (dpa.toNat / 64) x = true → stageOwn e (dpa.toNat / 64) x = true)
      ∧ r.src = .io p tag lo n ∧ r.kind = k ∧ r.op = op ∧ r.line = dpa.toNat / 64 := by
  obtain ⟨hp, he, _, hc, hs, hh, hr⟩ := wayClear_all hw
  obtain ⟨D, R, r, hm, hid, hsrc, hk, ho, hl⟩ := ioLine_home s.dev p tag pasid env k op (dpa.toNat / 64) lo n D0 hp he hc hs
  obtain ⟨hu, hi⟩ := port_upId (e := met s.dev (tabMod {} s.dev.ports p fun x => { x with occ := env.occ, panic := false }) D (s.dev.nextId + 1) R)
    (env := env) hp (by simp [port, met])
  refine ⟨_, r, hm, served_met .., fun _ => rfl, rfl, rfl, ?_, ?_, hu, ?_, openLine_met _ _ _ _, fun _ => stageOwn_met _ _ _ _, hsrc, hk, ho, hl⟩
  · rw [hl]; exact homeClear_met _ D _ R hh
  · unfold reqRight
    rw [hsrc, hl]
    exact hr
  · rw [hid]; exact hi

theorem ioGate_way : ∃ D, hostGate s.dev p env false
    = ({ s.dev with ports := tabMod {} s.dev.ports p fun x => { x with occ := env.occ, panic := false }, daily := D }, true) := by
  obtain ⟨hp, he, hb, _⟩ := wayClear_all hw
  exact hostGate_clear s.dev p env false hp he hb

theorem ioRead_way (tag : Nat) {len : Nat} (hn : 0 < len) (hlen : dpa.toNat % 64 + len ≤ 64) {x : Line}
    (hx : stageFind s.dev (dpa.toNat / 64) = some x) (hio : s.dev.ioReads = []) :
    Served s.dev (ioRead s.dev p tag dpa.toNat len pasid env) ∧ SameStage s.dev (ioRead s.dev p tag dpa.toNat len pasid env)
      ∧ (ioRead s.dev p tag dpa.toNat len pasid env).out = .ioData p tag (lineBytes x (dpa.toNat % 64) len) false :: s.dev.out := by
  obtain ⟨D, hg⟩ := ioGate_way hw
  have hlt := dpa.isLt
  have hone : ∃ D0, ioRead s.dev p tag dpa.toNat len pasid env
      = ioLine { s.dev with ports := tabMod {} s.dev.ports p fun x => { x with occ := env.occ, panic := false }, daily := D0 } p tag pasid env .rc .read
          (dpa.toNat / 64) (dpa.toNat % 64) len := by
    unfold ioRead
    rw [hg]
    dsimp only
    rw [if_neg (by omega), spanLines_single hn hlen]
    exact ⟨_, rfl⟩
  obtain ⟨D0, he0⟩ := hone
  obtain ⟨e, r, hm, hserved, hsame, hout, hior, hh, hr, hu, hi, _, _, hsrc, hkind, hop, hl⟩ :=
    ioLine_way hw tag .rc .read (dpa.toNat % 64) len D0
  obtain ⟨h1, h2, h3⟩ := ioRead_hit hh hr hsrc hop (by rw [hkind]; decide) hu hi (hior.trans hio) (by rw [hl, hsame]; exact hx)
  rw [he0, hm, ← hout]
  exact ⟨hserved.trans h1.served, sameStage_trans hsame h2, h3⟩

theorem ioWrite_way (tag : Nat) {bytes : List Byte} (hn : 0 < bytes.length) (hlen : dpa.toNat % 64 + bytes.length < 64) {x : Line}
    (ho : openLine s.dev (dpa.toNat / 64) = true) (hx : stageOwn s.dev (dpa.toNat / 64) x = true) :
    Served s.dev (ioWrite s.dev p tag dpa.toNat bytes pasid env) ∧ (ioWrite s.dev p tag dpa.toNat bytes pasid env).out = s.dev.out
      ∧ ∀ l, stageFind (ioWrite s.dev p tag dpa.toNat bytes pasid env) l = if l = dpa.toNat / 64 then
          some (mergeLine x (BitVec.ofNat 512 (ofBytes bytes * 2 ^ (8 * (dpa.toNat % 64))))
            (BitVec.ofNat 64 ((2 ^ bytes.length - 1) * 2 ^ (dpa.toNat % 64)))) else stageFind s.dev l := by
  obtain ⟨D, hg⟩ := ioGate_way hw
  have hlt := dpa.isLt
  have hone : ∃ D0, ioWrite s.dev p tag dpa.toNat bytes pasid env
      = ioLine { s.dev with ports := tabMod {} s.dev.ports p fun x => { x with occ := env.occ, panic := false }, daily := D0 } p tag pasid env .wr
          (.writePtl (BitVec.ofNat 512 (ofBytes bytes * 2 ^ (8 * (dpa.toNat % 64)))) (BitVec.ofNat 64 ((2 ^ bytes.length - 1) * 2 ^ (dpa.toNat % 64))))
          (dpa.toNat / 64) (dpa.toNat % 64) bytes.length := by
    unfold ioWrite
    rw [hg]
    dsimp only
    rw [if_neg (by omega), spanLines_single hn (Nat.le_of_lt hlen)]
    simp only [List.foldl_cons, List.foldl_nil]
    rw [if_neg (by omega), show dpa.toNat / 64 * 64 + dpa.toNat % 64 - dpa.toNat = 0 by omega, List.drop_zero, List.take_length,
      Nat.shiftLeft_eq, Nat.shiftLeft_eq]
    exact ⟨_, rfl⟩
  obtain ⟨D0, he0⟩ := hone
  obtain ⟨e, r, hm, hserved, hsame, hout, _, hh, hr, hu, hi, hopen, hown, hsrc, hkind, hop, hl⟩ :=
    ioLine_way hw tag .wr _ (dpa.toNat % 64) bytes.length D0
  obtain ⟨f, hf, hin, htr, hst, hfo⟩ := write_hit hh hr (by rw [hl]; exact hopen ho) (by rw [hl]; exact hown x hx) (by rw [hkind]; decide)
    (.inr ⟨_, _, hop⟩)
  obtain ⟨h1, h2, h3⟩ := finishWrite_io hin (htr _) hh hsrc
  rw [he0, hm, hf]
  refine ⟨hserved.trans h1.served, ?_, fun l => ?_⟩
  · rw [h3, hfo, hout]
  · rw [h2 l, hst l, hl, hop, hsame l]
    rfl

theorem hostAtomic_way (tag : Nat) {op : AtomOp} {bits : Nat} (operand compare : BitVec 128) (hok : hostAtomicOk op bits dpa.toNat = true) {x : Line}
    (ho : openLine s.dev (dpa.toNat / 64) = true) (hx : stageOwn s.dev (dpa.toNat / 64) x = true) :
    Served s.dev (hostAtomic s.dev p tag dpa.toNat op bits operand compare pasid env)
      ∧ (hostAtomic s.dev p tag dpa.toNat op bits operand compare pasid env).out
          = .ioAtomic p tag (lineAtomic x op bits (dpa.toNat % 64) operand compare).2 :: s.dev.out
      ∧ ∀ l, stageFind (hostAtomic s.dev p tag dpa.toNat op bits operand compare pasid env) l = if l = dpa.toNat / 64 then
          some (lineAtomic x op bits (dpa.toNat % 64) operand compare).1 else stageFind s.dev l := by
  obtain ⟨D, hg⟩ := ioGate_way hw
  have hone : hostAtomic s.dev p tag dpa.toNat op bits operand compare pasid env
      = ioLine { s.dev with ports := tabMod {} s.dev.ports p fun x => { x with occ := env.occ, panic := false }, daily := D } p tag pasid env .atm
          (.atomic op bits (dpa.toNat % 64) operand compare) (dpa.toNat / 64) (dpa.toNat % 64) (bits / 8) := by
    unfold hostAtomic
    rw [hg]
    exact if_neg (by simp [hok])
  obtain ⟨e, r, hm, hserved, hsame, hout, _, hh, hr, hu, hi, hopen, hown, hsrc, hkind, hop, hl⟩ :=
    ioLine_way hw tag .atm (.atomic op bits (dpa.toNat % 64) operand compare) (dpa.toNat % 64) (bits / 8) D
  obtain ⟨f, hf, hin, htr, hst, hfo⟩ := atomic_hit hh hr (by rw [hl]; exact hopen ho) (by rw [hl]; exact hown x hx) (by rw [hkind]; decide) hop
  obtain ⟨h1, h2, h3⟩ := finishAtomic_io (lineAtomic x op bits (dpa.toNat % 64) operand compare).2 hin (htr _) hh hsrc hu hi
  rw [hone, hm, hf]
  refine ⟨hserved.trans h1.served, ?_, fun l => ?_⟩
  · rw [h3, hfo, hout]
  · rw [h2 l, hst l, hl, hsame l]

end

/-- Settles O13: by the way of the request to its home, and what Stage answers there. -/
theorem hostIo : Obligations.HostIo := by
  intro s p tag dpa pasid env x hw
  refine ⟨fun len hn hlen hx hio => ?_, fun ho hx => ⟨fun bytes hn hlen => ?_, fun op bits operand compare hok => ?_⟩⟩
  · exact ⟨_, done_next s _, ioRead_way hw tag hn hlen hx hio⟩
  · exact ⟨_, done_next s _, ioWrite_way hw tag hn hlen ho hx⟩
  · exact ⟨_, done_next s _, hostAtomic_way hw tag operand compare hok ho hx⟩

end Sys2Proof.Machine
end

section
/-! PROOFS. Answers to snoops and their time limit (R213, R217), and the end of a transaction, the home queue, atomic windows and directory probes
(R209, R212, R219, R226). -/

namespace Sys2Proof.Machine

/-! ## Commands that write a register which starts something -/

section
variable {s : State} {p : Path} {b : Block} {n : RName} {i : Nat} {w : Word} {d : Dev}

/-- A command on a quadrant register whose write starts something. -/
theorem regCmd_quad (ha : admitted s p b n i = true) (hw : quadWrite s.dev p b n i w = some d) (hn : n ∈ regsHeader ++ b.regs) (hi : i < n.row.count)
    (h7 : highOf n = none) (h8 : lowOf n = none) (h1 : n.row.profile = false) (h2 : headerWrite s.dev b n w = none) (h3 : captureOf n = []) :
    regCmd s p b n w i = .next (wrote p b n (withDev s d) i) := by
  rw [regCmd_admitted w ha hn hi h7 h8, writeReg_quad h1 h2 h3 hw]

/-- A command on another register whose write starts something in the device. -/
theorem regCmd_device (ha : admitted s p b n i = true) (hw : deviceWrite s.dev p b n i w = some d) (hn : n ∈ regsHeader ++ b.regs)
    (hi : i < n.row.count) (h7 : highOf n = none) (h8 : lowOf n = none) (h1 : n.row.profile = false) (h2 : headerWrite s.dev b n w = none)
    (h3 : captureOf n = []) (h4 : quadWrite s.dev p b n i w = none) : regCmd s p b n w i = .next (wrote p b n (withDev s d) i) := by
  rw [regCmd_admitted w ha hn hi h7 h8, writeReg_device h1 h2 h3 h4 hw]

end

/-! ## Quadrants -/

theorem qmod_congr {d : Dev} {q : Nat} {f g : Quad → Quad} (h : f (quad d q) = g (quad d q)) : qmod d q f = qmod d q g := by
  unfold qmod tabMod
  rw [show tabGet {} d.quads q = quad d q from rfl, h]

theorem raise_quads (d : Dev) (b : Block) (bit : Nat) (u : FUnit) (ctx : BitVec 256) (cond inj : Bool) (named : List Nat) :
    (raise d b bit u ctx cond inj named).quads = d.quads := by
  have h := congrArg Dev.quads (raise_unreported d b bit u ctx cond inj named)
  exact h

/-! ## Answers to snoops (R213) -/

/-- An agent and another are awaited: more than one. -/
theorem one_lt_length_of_mem {α : Type} {l : List α} {a b : α} (ha : a ∈ l) (hb : b ∈ l) (h : b ≠ a) : 1 < l.length := by
  match l, ha, hb with
  | [x], ha, hb => exact absurd ((List.mem_singleton.1 hb).trans (List.mem_singleton.1 ha).symm) h
  | _ :: _ :: _, _, _ => simp

section
variable {d : Dev} {p : Fin 16} {line x : Nat} {t : Trans} (ht : transFor d line = some t) (hpeers : t.peers = []) (hp : p.val ∈ t.await) (hx : x ∈ t.await)
  (hne : x ≠ p.val)

include ht hpeers hp hx hne

/-- A host that gave the line up while others are awaited. -/
theorem snoopAnswer_gone : snoopAnswer d line p 0 false false false none
    = qmod (dirPut (if t.marked.contains p.val then d else rbump d (.dir (lineQuad line)) .dirStaleCount) line
        { dirEnt d line with vector := (dirEnt d line).vector &&& ~~~(agentBit p) }) (lineQuad line)
      fun y => { y with trans := mapIf (fun z => z.line = t.line) (fun z => { z with peers := [], await := z.await.filter (· ≠ p.val) }) y.trans } := by
  have hlen := one_lt_length_of_mem hp hx hne
  have hp20 : ¬ 20 ≤ p.val := by omega
  have hp16 : p.val < 16 := p.isLt
  unfold snoopAnswer
  rw [ht]
  dsimp only
  rw [if_neg (by simp [hp, hp20]), if_neg (by simp), if_neg (by simp)]
  by_cases hm : p.val ∈ t.marked <;> simp [hpeers, hlen, hp16, hm, staleHit]

/-- A host that kept the line shared while others are awaited. -/
theorem snoopAnswer_kept (hst : t.state = .downgrading) : snoopAnswer d line p 0 true false false none
    = qmod d (lineQuad line)
      fun y => { y with trans := mapIf (fun z => z.line = t.line) (fun z => { z with peers := [], await := z.await.filter (· ≠ p.val) }) y.trans } := by
  have hlen := one_lt_length_of_mem hp hx hne
  have hp20 : ¬ 20 ≤ p.val := by omega
  unfold snoopAnswer
  rw [ht]
  dsimp only
  rw [if_neg (by simp [hp, hp20]), if_neg (by simp), if_neg (by simp [hst])]
  simp [hpeers, hlen]

end

theorem exec_biRsp {s : State} {p : Fin 16} {line : LineNo} (hu : (port s.dev p).up = true) (hn : peerSnoopFor s.dev line.toNat p = none) :
    exec (.biRspI p line) s = .next (onDev s (snoopAnswer s.dev line.toNat p 0 false false false none))
    ∧ exec (.biRspS p line) s = .next (onDev s (snoopAnswer s.dev line.toNat p 0 true false false none)) := by
  have hb : ∀ keep, biAnswer s.dev p line.toNat keep = snoopAnswer s.dev line.toNat p 0 keep false false none := fun keep => by
    unfold biAnswer; rw [hn]
  constructor
  · show execBiRspI p line s = _
    rw [execBiRspI, doneIf_next hu, hb]
  · show execBiRspS p line s = _
    rw [execBiRspS, doneIf_next hu, hb]

theorem peerSnoopFor_congr {d e : Dev} (h : e.quads = d.quads) (line agent : Nat) : peerSnoopFor e line agent = peerSnoopFor d line agent := by
  unfold peerSnoopFor; rw [quad_congr h]

/-- The time limit of a snoop of a transaction (R217). -/
theorem snoopTimeout_waited {d : Dev} {line agent : Nat} {t : Trans} (hn : peerSnoopFor d line agent = none) (ht : transFor d line = some t)
    (ha : agent ∈ t.await) : snoopTimeout d line agent = unanswered
      (raise (rbump d (.dir (lineQuad line)) .dirTimeoutCount) (.dir (lineQuad line)) 1 .none (ctxCoh (.dir (lineQuad line)) 0 t.state.code agent (line * 64)))
      line agent := by
  unfold snoopTimeout
  dsimp only
  have hq : (rbump d (.dir (lineQuad line)) .dirTimeoutCount).quads = d.quads := rfl
  have hn' : ∀ c, peerSnoopFor (raise (rbump d (.dir (lineQuad line)) .dirTimeoutCount) (.dir (lineQuad line)) 1 .none c) line agent = none :=
    fun c => (peerSnoopFor_congr ((raise_quads ..).trans hq) line agent).trans hn
  rw [hn, ht, if_neg (by simp [ha]), hn']

/-- Settles O14. -/
theorem snoopAnswers : Obligations.SnoopAnswers := by
  refine ⟨fun s p line t x hu hn ht hpeers hp hx hne => ⟨?_, fun hst => ?_⟩, fun s p line hu => ?_, fun s q line agent t hn ht ha => ?_⟩
  · rw [(exec_biRsp hu hn).1, snoopAnswer_gone ht hpeers hp hx hne]
  · rw [(exec_biRsp hu hn).2, snoopAnswer_kept ht hpeers hp hx hne hst]
  · show execBiConflict p line s = _
    rw [execBiConflict, doneIf_next hu]
    rfl
  · show execSnoopTimeout q line agent s = _
    rw [execSnoopTimeout, snoopTimeout_waited hn ht ha, done_next]

/-! ## The end of a transaction (R212, R213) -/

theorem transOf_transDel (d : Dev) (line : Nat) : transOf (transDel d line) line = none := by
  unfold transOf transDel
  rw [quad_qmod_self, List.find?_eq_none]
  intro t ht
  simpa using (List.mem_filter.1 ht).2

theorem transOf_congr {d e : Dev} (h : e.quads = d.quads) (line : Nat) : transOf e line = transOf d line := by
  unfold transOf; rw [quad_congr h]

/-- The grant of a host's shared read: the line, the Shared state, and the transaction closed. -/
theorem grantClose_shared {d : Dev} {line : Nat} {t : Trans} {p : Fin 16} {tag : Nat} {x : Line} (hl : t.line = line) (hp : t.poison = false)
    (hd : t.data = some x) (hs : t.req.src = .host p tag) (hk : t.req.kind = .rs) (hrl : t.req.line = line) (htr : tracked d line = true)
    (hu : (port d p).up = true) (hi : (port d p).upId ≤ t.req.id) :
    ∃ Q D, grantClose d t = { d with out := .memData p tag x false 1 :: d.out, quads := Q, daily := D } ∧ transOf (grantClose d t) line = none := by
  have hdata : takesData t.req = true := by simp [takesData, hk]
  obtain ⟨Q, hQ⟩ : ∃ Q, transDel (dirPut d t.line (endEntry d t.req (dirEnt d t.line))) t.line = { d with quads := Q } := ⟨_, rfl⟩
  have hnone : transOf { d with quads := Q } line = none := by rw [← hQ, hl]; exact transOf_transDel _ _
  obtain ⟨D, hD⟩ := countSet_daily { d with quads := Q } t.req.slate 0 64
  have how : owedTo { d with quads := Q, daily := D } p t.req = true := by
    simp only [owedTo, portUp, Bool.and_eq_true, decide_eq_true_eq]
    exact ⟨hu, hi⟩
  have hgr : hostGrant { d with quads := Q, daily := D } t.req = 1 := by
    have : tracked { d with quads := Q, daily := D } t.req.line = true := hrl ▸ htr
    simp [hostGrant, this, grantOf, hk]
  have key : grantClose d t = countBw (countHost (send { d with quads := Q, daily := D } (.memData p tag x false 1)) p 0 64) p true 64 := by
    unfold grantClose
    rw [if_pos hdata, hp, hd, if_neg Bool.false_ne_true, hQ]
    unfold respondRead
    dsimp only
    rw [hs, hD]
    dsimp only
    rw [if_pos how, hgr]
    rfl
  refine ⟨Q, (countBw (countHost (send { d with quads := Q, daily := D } (.memData p tag x false 1)) p 0 64) p true 64).daily, key.trans rfl, ?_⟩
  rw [key]
  exact hnone

theorem exec_homeDataReady {s : State} {q : Fin 4} {line : LineNo} {t : Trans} (hq : lineQuad line.toNat = q) (ht : transOf s.dev line.toNat = some t)
    (hr : t.homeReady = true) (ha : t.await = []) (hst : t.state = .awaitData) :
    exec (.homeDataReady q line) s = .next (onDev s (grantClose s.dev t)) := by
  show execHomeDataReady q line s = _
  rw [execHomeDataReady, doneIf_next (by simp [hq])]
  unfold homeReady
  rw [ht]
  dsimp only
  rw [if_pos ⟨hr, by simp [ha], by rw [hst]; decide⟩]

/-- The oldest request that may leave the queue goes home; only the time it waits since can differ from its arrival there (R209). -/
theorem queueAdmit_home {d : Dev} {q : Nat} {w : Waiting} (h : oldestWait (d.waits.filter fun x => atWait q .queue x && queueReady d x) = some w) :
    ∃ W, queueAdmit d q false = { enterHome { d with waits := d.waits.filter fun x => x.req.id ≠ w.req.id } w.req with waits := W } := by
  unfold queueAdmit
  rw [h]
  exact ⟨_, rfl⟩

/-- The oldest window ends (R219). -/
theorem atomWindowEnd_cons {d : Dev} {q : Nat} {a : AtmMem} {rest : List AtmMem} (h : (quad d q).atms = a :: rest) :
    atomWindowEnd d q = qmod d q fun x => { x with atms := rest, pred := if a.hit then x.pred else tabMod 1 x.pred (predHash a.line) fun c => c - 1 } :=
  qmod_congr (by rw [h])

/-! ## Directory probes (R226) -/

theorem bitOf_or_one (v : Word) : bitOf (v ||| 1) 0 = true := by simp [bitOf]

theorem exec_dirProbe {s : State} {p : Path} {q : Fin 4} (v : Word) (ha : admitted s p (.dir q) .dirProbeCtl = true) :
    exec (.dirProbe p q v) s = .next (wrote p (.dir q) .dirProbeCtl (withDev s (probeWrite s.dev q (v ||| 1)))) := by
  show regCmd s p (.dir q) .dirProbeCtl (v ||| 1) 0 = _
  refine regCmd_quad ha rfl ?_ (by decide) (by decide) (by decide) (by decide) rfl (by decide)
  refine List.mem_append_right _ ?_
  show RName.dirProbeCtl ∈ if q.val = 0 then regsDir else regsDir.filter fun n => n.row.off < 0x080
  split <;> decide

theorem probeWrite_elsewhere {d : Dev} {q line : Nat} {w : Word} (h0 : bitOf w 0 = true)
    (hl : line = (rget d (.dir q) .dirProbeLineLo).toNat + rfld d (.dir q) .dirProbeLineHi 6 0 * 2 ^ 32) (hq : lineQuad line ≠ q) :
    probeWrite d q w = rput d (.dir q) .dirProbeCtl 0xA := by
  unfold probeWrite
  dsimp only
  rw [← hl, if_neg (by simp [h0]), if_pos hq]

theorem probeWrite_entry {d : Dev} {q line : Nat} {w : Word} {k : Nat} {e : DEnt} (h0 : bitOf w 0 = true)
    (hl : line = (rget d (.dir q) .dirProbeLineLo).toNat + rfld d (.dir q) .dirProbeLineHi 6 0 * 2 ^ 32) (hq : lineQuad line = q)
    (he : asFind (tabGet {} (quad d q).dir (dirSet line)) line = some (k, e)) :
    probeWrite d q w = rput (rput (rput d (.dir q) .dirProbeEntryLo ((dirWord line e ((quad d q).trans.any fun t => t.line = line)).setWidth 32))
      (.dir q) .dirProbeEntryHi ((dirWord line e ((quad d q).trans.any fun t => t.line = line) >>> 32).setWidth 32)) (.dir q) .dirProbeCtl 6 := by
  unfold probeWrite
  dsimp only
  rw [← hl, if_neg (by simp [h0]), if_neg (by simp [hq]), he]

/-- Settles O15. -/
theorem transactionsEnd : Obligations.TransactionsEnd := by
  refine ⟨fun s q line t p tag x hq ht hl hr ha hst hp hd hs hk hrl htr hu hi => ?_, fun s q w h => ?_, fun s q a rest h => ?_,
    fun s p q v line ha hl => ⟨fun hq => ?_, fun w e hq he => ?_⟩⟩
  · obtain ⟨Q, D, hg, hnone⟩ := grantClose_shared hl hp hd hs hk hrl htr hu hi
    exact ⟨_, exec_homeDataReady hq ht hr ha hst, by rw [hg], hnone⟩
  · obtain ⟨W, hW⟩ := queueAdmit_home h
    exact ⟨_, done_next s _, by rw [hW]⟩
  · show execAtomWindowEnd q s = _
    rw [execAtomWindowEnd, atomWindowEnd_cons h, done_next]
  · rw [exec_dirProbe v ha, probeWrite_elsewhere (bitOf_or_one v) hl hq]
  · rw [exec_dirProbe v ha, probeWrite_entry (bitOf_or_one v) hl hq he]

end Sys2Proof.Machine
end

section
/-! PROOFS. Heat epochs, the demotion scan and the steps of a move (R74 to R82), extents of Dynamic Capacity and writes that wait (R84 to R86). -/

namespace Sys2Proof.Machine

/-! ## Changes of the map alone -/

/-- The map cache and the map share may have changed, and nothing else. -/
def MapOnly (d e : Dev) : Prop :=
  e = { d with quads := e.quads, mapShare := e.mapShare } ∧ ∀ q, quad e q = { quad d q with mapSets := (quad e q).mapSets }

theorem MapOnly.refl (d : Dev) : MapOnly d d := ⟨rfl, fun _ => rfl⟩

theorem MapOnly.trans {a b c : Dev} (h : MapOnly a b) (h' : MapOnly b c) : MapOnly a c := by
  refine ⟨?_, fun q => ?_⟩
  · rw [h'.1, h.1]
  · rw [h'.2 q, h.2 q]

theorem mapOnly_foldl {α : Type} (f : Dev → α → Dev) (hf : ∀ d x, MapOnly d (f d x)) (l : List α) (d : Dev) : MapOnly d (l.foldl f d) := by
  induction l generalizing d with
  | nil => exact .refl d
  | cons x l ih => exact (hf d x).trans (ih _)

theorem mapOnly_qmod (d : Dev) (q : Nat) (f : Quad → Tab (ASet MapEnt)) : MapOnly d (qmod d q fun s => { s with mapSets := f s }) := by
  refine ⟨rfl, fun k => ?_⟩
  by_cases h : k = q
  · rw [h, quad_qmod_self]
  · rw [quad_qmod_ne _ _ h]

theorem mapOnly_putShare (d : Dev) (q lp : Nat) (e : DWord) : MapOnly d (putShare d q lp e) := ⟨rfl, fun _ => rfl⟩

theorem mapOnly_setEntry (d : Dev) (page : Nat) (e : DWord) : MapOnly d (setEntry d page e) := by
  unfold setEntry
  extract_lets q lp
  split
  · exact mapOnly_qmod ..
  · exact mapOnly_putShare ..

theorem mapOnly_removeLarge (d : Dev) (page : Nat) : MapOnly d (removeLarge d page) := by
  unfold removeLarge
  extract_lets q lp
  split
  · exact .refl d
  · exact (mapOnly_foldl _ (fun d p => mapOnly_setEntry ..) _ _).trans (mapOnly_qmod ..)

theorem mapOnly_clearWhole (d : Dev) (page : Nat) : MapOnly d (clearWhole d page) := by
  unfold clearWhole
  extract_lets d1
  split
  · exact (mapOnly_removeLarge d page).trans (mapOnly_foldl _ (fun d p => mapOnly_setEntry ..) _ _)
  · exact mapOnly_removeLarge d page

theorem mapOnly_mapEvict (d : Dev) (q set key : Nat) (v : MapEnt) : MapOnly d (mapEvict d q set key v) := by
  unfold mapEvict
  extract_lets drop
  split
  · exact (mapOnly_putShare ..).trans (mapOnly_qmod ..)
  · exact mapOnly_removeLarge ..

theorem mapOnly_mapInstall {d e : Dev} {q set key : Nat} {v : MapEnt} {busy : Nat → Bool} (h : mapInstall d q set key v busy = some e) :
    MapOnly d e := by
  have hput : ∀ d w, MapOnly d (qmod d q fun x => { x with mapSets := tabMod {} x.mapSets set fun a => asPut a w key v }) := fun d w => mapOnly_qmod ..
  unfold mapInstall at h
  extract_lets s put ok at h
  split at h
  · cases h; exact .refl d
  · split at h
    · cases h; exact hput ..
    · split at h
      · cases h
      · split at h
        · cases h; exact (mapOnly_mapEvict ..).trans (hput ..)
        · cases h

/-! ## Heat epochs (R75) -/

theorem quad_qmods (f : Quad → Quad) (l : List Nat) (hl : l.Nodup) (d : Dev) (q : Nat) :
    quad (l.foldl (fun d k => qmod d k f) d) q = if q ∈ l then f (quad d q) else quad d q := by
  induction l generalizing d with
  | nil => simp
  | cons k l ih =>
    obtain ⟨hk, hl⟩ := List.nodup_cons.1 hl
    rw [List.foldl_cons, ih hl]
    by_cases h : q = k
    · subst h; simp [hk]
    · simp [h, quad_qmod_ne _ _ h]

theorem quad_epochBoundary (d : Dev) (q : Fin 4) : quad (epochBoundary d) q = { quad d q with
    mapSets := (quad d q).mapSets.map fun x => (x.1, { x.2 with ways := x.2.ways.map fun y => (y.1, y.2.1, halveEnt y.2.2) }) } := by
  unfold epochBoundary
  rw [quad_qmods _ _ List.nodup_range, if_pos (List.mem_range.2 q.isLt)]

theorem halveEnt_eq (v : MapEnt) : halveEnt v = match v with
    | .small v c => if heatOf v = 0 then .small v c else .small (withHeat v (heatOf v / 2)) true
    | .large b h c => .large b (h / 2) (c || decide (h ≠ 0)) := by
  cases v <;> rfl

/-! ## The demotion scan (R75, R76) -/

/-- The map, and the demotion lists. -/
def ScanOnly (d e : Dev) : Prop :=
  e = { d with quads := e.quads, mapShare := e.mapShare } ∧ ∀ q, quad e q = { quad d q with mapSets := (quad e q).mapSets, demo := (quad e q).demo }

theorem MapOnly.scan {d e : Dev} (h : MapOnly d e) : ScanOnly d e := ⟨h.1, fun q => by rw [h.2 q]⟩

theorem ScanOnly.trans {a b c : Dev} (h : ScanOnly a b) (h' : ScanOnly b c) : ScanOnly a c := by
  refine ⟨?_, fun q => ?_⟩
  · rw [h'.1, h.1]
  · rw [h'.2 q, h.2 q]

theorem scanOnly_demo (d : Dev) (q : Nat) (f : Quad → List Nat) : ScanOnly d (qmod d q fun s => { s with demo := f s }) := by
  refine ⟨rfl, fun k => ?_⟩
  by_cases h : k = q
  · rw [h, quad_qmod_self]
  · rw [quad_qmod_ne _ _ h]

theorem scanOnly_scanEntry (d : Dev) (q lp : Nat) : ScanOnly d (scanEntry d q lp) := by
  unfold scanEntry
  extract_lets page list e h
  have hlist : ∀ d e h, ScanOnly d (list d e h) := fun d e h => by
    unfold list
    extract_lets s
    split
    · exact scanOnly_demo ..
    · exact (MapOnly.refl d).scan
  split
  · exact hlist ..
  · refine ScanOnly.trans ?_ (hlist ..)
    split
    · exact (MapOnly.refl d).scan
    · exact (mapOnly_putShare ..).scan

theorem scanOnly_scan (q base : Nat) (l : List Nat) (d : Dev) : ScanOnly d (l.foldl (fun d i => scanEntry d q (base + i)) d) := by
  induction l generalizing d with
  | nil => exact (MapOnly.refl d).scan
  | cons i l ih => exact (scanOnly_scanEntry ..).trans (ih _)

/-- What the scan leaves (R76). -/
theorem demotionScan_eq (d : Dev) (q : Nat) : demotionScan d q = { d with quads := (demotionScan d q).quads, mapShare := (demotionScan d q).mapShare }
    ∧ (quad (demotionScan d q) q).scanPos = (if ((quad d q).scanPos + 1) * 8 < localPages d q then (quad d q).scanPos + 1 else 0)
    ∧ (quad (demotionScan d q) q).stage = (quad d q).stage ∧ (quad (demotionScan d q) q).move = (quad d q).move := by
  have h := scanOnly_scan q ((quad d q).scanPos * 8) (List.range 8) d
  unfold demotionScan
  dsimp only
  generalize (List.range 8).foldl (fun d i => scanEntry d q _) d = d1 at h ⊢
  obtain ⟨h1, h2⟩ := h
  have hp : localPages d1 q = localPages d q := by rw [h1]; rfl
  rw [quad_qmod_self, hp, h2 q]
  refine ⟨?_, rfl, rfl, rfl⟩
  show qmod d1 q _ = _
  unfold qmod
  rw [h1]

/-! ## The steps of a move (R77 to R82) -/

/-- The quadrants show the same, and nothing but their list may differ. -/
def SameQuads (d e : Dev) : Prop := e = { d with quads := e.quads } ∧ ∀ q, quad e q = quad d q

theorem urgentReady_congr {d e : Dev} (h : SameQuads d e) (q page : Nat) : urgentReady e q page = urgentReady d q page := by
  obtain ⟨h1, h2⟩ := h
  generalize e.quads = Q at h1
  subst h1
  have hm : entryNow { d with quads := Q } page = entryNow d page := by
    simp only [entryNow, mapHit, smallEntry, largeEntry, h2]
    rfl
  have hr : hasRoom { d with quads := Q } q = hasRoom d q := by
    simp only [hasRoom, levelNow, freePages, h2]
    rfl
  have hp : packAvailable { d with quads := Q } q = packAvailable d q := by
    simp only [packAvailable, engAvailable, engFenced, h2]
    rfl
  unfold urgentReady
  rw [hm, hr, hp]
  rfl

theorem startMove_promotion (d : Dev) (q page : Nat) : ∃ m, (quad (startMove d q 2 true page) q).move = some m ∧ m.kind = 2 ∧ m.urgent = true
    ∧ m.page = page ∧ m.phase = .started ∧ (startMove d q 2 true page).dram = d.dram ∧ (quad (startMove d q 2 true page) q).urgent = (quad d q).urgent
    ∧ (quad (startMove d q 2 true page) q).moveSeq = (quad d q).moveSeq + 1 := by
  unfold startMove
  extract_lets lp d1 e d2 d3 m d4
  have h1 : MapOnly d d1 := mapOnly_clearWhole d page
  have h2 : MapOnly d1 d2 := by
    unfold d2
    split
    · exact .refl d1
    · rename_i hn
      cases hi : mapInstall d1 q (mapSet lp) lp (.small e false) (mapBusy d1 q) with
      | none => exact .refl d1
      | some x => exact mapOnly_mapInstall hi
  obtain ⟨h3, h4⟩ := (h1.trans h2).trans (mapOnly_setEntry d2 page (withMoving e true))
  have h5 : d4.dram = d.dram := by
    have := congrArg (fun x : Dev => x.dram) h3
    exact this
  have h6 : quad d4 q = { quad d3 q with move := some m, moveSeq := (quad d3 q).moveSeq + 1 } := quad_qmod_self ..
  have h7 : (quad d4 q).urgent = (quad d q).urgent := by rw [h6, h4 q]
  have h8 : (quad d4 q).moveSeq = (quad d q).moveSeq + 1 := by rw [h6, h4 q]
  exact ⟨m, by show (quad d4 q).move = _; rw [h6], rfl, rfl, rfl, rfl, h5, h7, h8⟩

/-- An urgent promotion that is ready starts first (R78). -/
theorem chooseMove_urgent {d : Dev} {q page : Nat} (hu : (quad d q).urgent = [page]) (ht : tierOf (entryNow d page) = .packed)
    (hr : urgentReady d q page = true) : ∃ e, chooseMove d q = startMove e q 2 true page ∧ e.dram = d.dram ∧ (quad e q).urgent = []
      ∧ (quad e q).moveSeq = (quad d q).moveSeq := by
  unfold chooseMove
  extract_lets d1
  have hq : quad d1 q = quad d q := by
    unfold d1
    rw [quad_qmod_self, hu]
    simp only [List.filter_cons, ht, decide_true, if_true, List.filter_nil]
    rw [← hu]
  have hs : SameQuads d d1 := by
    refine ⟨rfl, fun k => ?_⟩
    by_cases h : k = q
    · rw [h, hq]
    · exact quad_qmod_ne _ _ h
  rw [hq, hu, List.find?_cons_of_pos (by rw [urgentReady_congr hs]; exact hr)]
  exact ⟨_, rfl, rfl, by rw [quad_qmod_self, hq, hu]; simp, by rw [quad_qmod_self, hq]⟩

theorem exec_moveSourceReady {s : State} {q : Fin 4} {m : Move} (h : (quad s.dev q).move = some m) (hp : m.phase = .started) (hk : m.kind = 2)
    (hr : m.ready = true ∨ engineOn s.dev q m.page = true) (hs : (needsSeal s.dev m.page && sealDown s.dev q) = false) :
    exec (.moveSourceReady q) s = .next (onDev s (openSource s.dev q m)) := by
  have hg : ¬ ((¬ m.ready = true ∧ ¬ engineOn s.dev q m.page = true) ∨ (needsSeal s.dev m.page = true ∧ sealDown s.dev q = true)) := by
    rintro (⟨h1, h2⟩ | h1)
    · exact hr.elim h1 h2
    · rw [h1.1, h1.2] at hs; cases hs
  show execMoveSourceReady q s = _
  unfold execMoveSourceReady
  rw [h]
  dsimp only
  have hm : moveSource s.dev q m = openSource s.dev q m := by
    unfold moveSource
    rw [hk]
    exact if_neg hg
  rw [if_pos hp, hm, done_next]

theorem moveWrite_pack (d : Dev) (q : Nat) {m : Move} (hk : m.kind = 0) :
    moveWrite d q m = leaveOpen (moveSwitch (storePacked d m.page m.newEntry m.data) q m) m.page := by
  unfold moveWrite
  rw [hk]
  rfl

theorem exec_moveDestinationWritten {s : State} {q : Fin 4} {m : Move} (h : (quad s.dev q).move = some m) (hp : m.phase = .taken) (hk : m.kind = 0) :
    exec (.moveDestinationWritten q) s = .next (onDev s (leaveOpen (journalPut (qmod (setEntryThrough (storePacked s.dev m.page m.newEntry m.data)
      m.page m.newEntry) q fun x => { x with move := some { m with phase := .switched } }) q { m with phase := .switched } 2) m.page)) := by
  show execMoveDestinationWritten q s = _
  unfold execMoveDestinationWritten
  rw [h]
  dsimp only
  rw [if_pos hp, moveWrite_pack _ _ hk, done_next]
  rfl

theorem exec_moveFreeOld {s : State} {q : Fin 4} {m : Move} (h : (quad s.dev q).move = some m) (hp : m.phase = .switched)
    (hr : oldReads s.dev m = false) (ht : tierOf m.oldEntry = .open_) :
    exec (.moveFreeOld q) s = .next (onDev s (markDecode (qmod (journalIdle (setUse s.dev (homeOf m.page) (mpnOf m.oldEntry) .free) q) q
      fun x => { x with move := none }) q)) := by
  show execMoveFreeOld q s = _
  unfold execMoveFreeOld
  rw [h]
  dsimp only
  rw [if_pos ⟨hp, by simp [hr]⟩, moveFree, freePlace, ht, done_next]

/-- Settles O17. -/
theorem heatAndMoves : Obligations.HeatAndMoves := by
  refine ⟨⟨fun s => ⟨_, done_next s _, ?_, fun q => ?_⟩, fun s q hd hg hl => ⟨_, ?_, demotionScan_eq s.dev q⟩⟩,
    fun s q page hd hm hu ht hr => ?_, fun s q m h hp hk hr hs => exec_moveSourceReady h hp hk hr hs,
    fun s q m h hp hk => exec_moveDestinationWritten h hp hk, fun s q m h hp hr ht => exec_moveFreeOld h hp hr ht⟩
  · exact qmods_eq _ _ _
  · rw [quad_epochBoundary]
    simp only [halveEnt_eq] <;> rfl
  · show execDemotionScan q s = _
    rw [execDemotionScan, doneIf_next (by simp [hd, hg, hl])]
  · obtain ⟨e, he, h1, h2, h3⟩ := chooseMove_urgent hu ht hr
    obtain ⟨m, g1, g2, g3, g4, g5, g6, g7, g8⟩ := startMove_promotion e q page
    refine ⟨chooseMove s.dev q, m, ?_, ?_⟩
    · show execDollyMoveStart q s = _
      rw [execDollyMoveStart, doneIf_next (by simp [hd, hm])]
    · rw [he]
      exact ⟨g1, g2, g3, g4, g5, g6.trans h1, g7.trans h2, by rw [g8, h3]⟩

/-! ## Extents of Dynamic Capacity (R84, R85) -/

theorem extentOffer_next {d : Dev} {x p : Nat} (hc : (rget d (.dolly 1) .dolly1CapCfg).getLsbD 0 = true) (hr : capRuns d = true) (ho : offerRoom d = true)
    (hx : lowestUnoffered d = some x) (hp : nextHost d = some p) : extentOffer d = raiseEvent (logEvent { d with cap := { d.cap with
      offers := d.cap.offers ++ [(x, p)], lastHost := p, lastOffer := some d.pwr.now } } p 4 (.addCapacity x)) (.dolly 1) 0 := by
  unfold extentOffer
  rw [if_pos ⟨hc, hr, ho⟩, hx, hp]

theorem releaseRequest_newest {d : Dev} {p x : Nat} (hc : capRuns d = true) (hl : ∃ q, q < 4 ∧ levelNow d q ≠ 0)
    (hr : d.cap.release.all (fun r => decide (r.1 ≠ p)) = true) (hx : newestExtent d p = some x) :
    releaseRequest d p = logEvent { d with cap := { d.cap with release := d.cap.release ++ [(p, x)] } } p 4 (.releaseCapacity x) := by
  have h2 : ¬ (List.range 4).all (fun q => levelNow d q = 0) = true := by
    obtain ⟨q, hq, hn⟩ := hl
    exact fun h => hn (of_decide_eq_true (List.all_eq_true.1 h q (List.mem_range.2 hq)))
  have h3 : ¬ d.cap.release.any (fun r => r.1 = p) = true := fun h => by
    obtain ⟨r, hm, he⟩ := List.any_eq_true.1 h
    exact of_decide_eq_true (List.all_eq_true.1 hr r hm) (of_decide_eq_true he)
  unfold releaseRequest
  rw [if_neg (by rintro (h | h | h); exacts [h hc, h2 h, h3 h]), hx]

theorem releaseEnded_of_mem {d : Dev} {p x : Nat} (h : (p, x) ∈ d.cap.release) : releaseEnded d p = { d with cap := { d.cap with
    release := d.cap.release.filter fun r => r.1 ≠ p, lastRelease := (d.cap.lastRelease.filter fun r => r.1 ≠ p) ++ [(p, d.pwr.now)] } } :=
  if_pos (List.any_eq_true.2 ⟨_, h, by simp⟩)

/-! ## Writes that wait for room (R86) -/

/-- The oldest write past its limit, where its line can be marked (R86, R171). -/
theorem writeTimeout_write {d : Dev} {q : Nat} {w : Waiting} (hw : oldestWait (d.waits.filter (timedWait d q)) = some w)
    (hp : tierOf (entryNow d (pageOfLine w.req.line)) = .open_ ∨ d.poison.length < 4096) :
    ∃ e hs, poisonLine { d with waits := d.waits.filter fun x => x.req.id ≠ w.req.id } w.req.line .vendor = (e, hs)
      ∧ writeTimeout d q = finishLost (raise (rbump e (.dolly 1) .dolly1Timeouts) (.dolly 1) 0 .none
          (ctxLine (.dolly 1) (finderOf w.req) (portOf w.req) w.req.slate 0 (w.req.line * 64) 0) false false hs) w.req := by
  refine ⟨_, _, rfl, ?_⟩
  unfold writeTimeout
  rw [hw]
  dsimp only
  rw [if_neg (by rintro ⟨h1, h2, _⟩; exact hp.elim h1 (by omega))]
  rfl

/-- Settles O18. -/
theorem capacityMoves : Obligations.CapacityMoves := by
  refine ⟨fun s x p hc hr ho hx hp => ?_, fun s => done_next s _, fun s p x hc hl hr hx => ?_, fun s p x h => ?_, fun s q h => ?_, fun s q w hw hp => ?_⟩
  · show execExtentOffer s = _
    rw [execExtentOffer, extentOffer_next hc hr ho hx hp, done_next]
  · show execReleaseCapacityRequest p s = _
    rw [execReleaseCapacityRequest, releaseRequest_newest hc hl hr hx, done_next]
  · show execReleaseRequestLapse p s = _
    rw [execReleaseRequestLapse, releaseEnded_of_mem h, done_next]
  · show execWriteWaitAdmit q s = _
    rw [execWriteWaitAdmit, doneIf_next h]
    rfl
  · obtain ⟨e, hs, h1, h2⟩ := writeTimeout_write hw hp
    refine ⟨e, hs, h1, ?_⟩
    show execCapacityWriteTimeout q s = _
    rw [execCapacityWriteTimeout, h2, done_next]

end Sys2Proof.Machine
end

section
/-! PROOFS. The pack engines' choice of work, the end of a decode and software fences (R92, R95, R15, R43), and commands on ranges (R133, R134). -/

namespace Sys2Proof.Machine

/-! ## The choice of a pack engine (R92) -/

theorem exec_packEngineSchedule {s : State} {q : Fin 4} {e : Fin 2} {d : Dev} (ha : engAvailable s.dev q e = true)
    (hr : (pget s.dev (.pack q)).run = .rolling) (hd : engineChoose s.dev q e = d) :
    exec (.packEngineSchedule q e) s = .next (onDev s (markDecode d q)) := by
  show execPackEngineSchedule q e s = _
  rw [execPackEngineSchedule, doneIf_next (by simp [ha, hr]), hd]

/-- A page decode that waits comes first. -/
theorem engineChoose_decode {d : Dev} {q e : Nat} {x : Decode} {rest : List Decode} (hd : (quad d q).decodes = x :: rest) (hr : x.running = false)
    (hp : x.promote = false) (hw : ∀ p, ((quad d q).engines.getD e {}).work ≠ some (.decode p)) :
    engineChoose d q e = qmod (engMod d q e fun g => { g with work := some (.decode x.page), aside := g.work }) q
      fun a => { a with decodes := mapIf (fun y => y.page = x.page) (fun y => { y with running := true }) a.decodes } := by
  have hfind : (x :: rest).find? (fun x => !x.running) = some x := List.find?_cons_of_pos (by simp [hr])
  unfold engineChoose
  extract_lets g decoding take
  have hdec : decoding = false := by
    unfold decoding
    split
    · rename_i p h; exact absurd h (hw p)
    · rfl
  rw [hdec, hd, if_neg Bool.false_ne_true, hfind]
  dsimp only [takeDecode]
  rw [if_neg (by simp [hp])]

/-- Without a decode, an idle engine takes what the rule gives among the move and the job that wait. -/
theorem engineChoose_idle {d : Dev} {q e : Nat} {w : PackWork} {job : Bool} (hd : (quad d q).decodes = [])
    (hg : (quad d q).engines.getD e {} = { lastJob := ((quad d q).engines.getD e {}).lastJob })
    (h : (match moveWaiting d q, jobWaiting d q with
      | some (page, true), _ => some (PackWork.promotion page, false)
      | some (page, false), none => some (.dolly page, false)
      | some (page, false), some lane => if ((quad d q).engines.getD e {}).lastJob then some (.dolly page, false) else some (.job lane, true)
      | none, some lane => some (.job lane, true)
      | none, none => none) = some (w, job)) :
    engineChoose d q e = engMod d q e fun g => { g with work := some w, lastJob := job } := by
  unfold engineChoose
  rw [hd, hg]
  dsimp only
  revert h
  cases hm : moveWaiting d q with
  | none =>
    cases hj : jobWaiting d q with
    | none => intro h; cases h
    | some lane => intro h; cases h; rfl
  | some m =>
    obtain ⟨page, urgent⟩ := m
    cases urgent with
    | true => intro h; cases h; rfl
    | false =>
      cases hj : jobWaiting d q with
      | none => intro h; cases h; rfl
      | some lane =>
        cases hl : ((quad d q).engines.getD e {}).lastJob with
        | true => intro h; cases h; rfl
        | false => intro h; cases h; rfl

/-! ## The end of a decode (R95) -/

theorem decodeDone_good {d e : Dev} {q k page n : Nat} {ls : List Line} (h : decodePacked d .host page (entryNow d page) = (e, some ls, n))
    (hf : (rget e (.pack q) .packCfg).getLsbD 1 = false) (hp : ∀ x ∈ (quad d q).decodes, x.promote = false) :
    decodeDone d q k page = ((d.waits.filter fun w => atWait q .decode w && pageOfLine w.req.line = page).map (·.req)).foldl
      (fun d r => serveData d r (some (ls.getD (r.line % 64) 0)) false)
      (qmod { engMod e q k fun g => { g with work := none, lastJob := false } with
          waits := e.waits.filter fun w => !(atWait q .decode w && pageOfLine w.req.line = page) } q
        fun a => { a with decodes := a.decodes.filter fun x => x.page ≠ page }) := by
  have hpr : ((quad d q).decodes.any fun x => x.page = page && x.promote) = false :=
    List.any_eq_false.2 fun x hx => by simp [hp x hx]
  unfold decodeDone
  extract_lets ent mine readers promote known
  have hpr : promote = false := hpr
  rw [h, hpr]
  dsimp only
  have hfD : ∀ D : Dev, D.regs = e.regs → (rget D (.pack q) .packCfg).getLsbD 1 = false := fun D hD => by rw [rget_congr hD]; exact hf
  generalize hD : qmod { engMod e q k fun g => { g with work := none, lastJob := false } with waits := _ } q _ = D
  have hfD : (rget D (.pack q) .packCfg).getLsbD 1 = false := hfD D (by rw [← hD]; rfl)
  simp only [hfD, Bool.false_eq_true, false_and, if_false, Option.isSome_some, true_or, if_true]
  cases moveOn D page <;> exact congrArg (fun D => List.foldl _ D readers) hD.symm

theorem exec_packedPageDecode {s : State} {q : Fin 4} {e : Fin 2} {page : Nat} (h : ((quad s.dev q).engines.getD e {}).work = some (.decode page)) :
    exec (.packedPageDecode q e) s = .next (onDev s (decodeDone s.dev q e page)) := by
  show execPackedPageDecode q e s = _
  unfold execPackedPageDecode
  rw [h]
  rfl

/-! ## Software fences (R15, R43) -/

theorem exec_packEngFence {s : State} {p : Path} {q : Fin 4} (v : Word) (ha : admitted s p (.pack q) .packEngFence = true) :
    exec (.packEngFence p q v) s = .next (wrote p (.pack q) .packEngFence (withDev s
      (((List.range 2).filter fun k => v.getLsbD k && !(rget s.dev (.pack q) .packEngFence).getLsbD k).foldl (fun d k => softFenceEngine d q k) s.dev))) := by
  show regCmd s p (.pack q) .packEngFence v 0 = _
  exact regCmd_quad ha rfl (List.mem_append_right _ (show RName.packEngFence ∈ regsPack by decide)) (by decide) (by decide) (by decide) (by decide) rfl
    (by decide)

theorem mem_regsSeal {q : Nat} {n : RName} (hn : n ∈ regsSeal) (ho : n.row.off < 0x080 ∨ q = 0) : n ∈ (Block.seal q).regs := by
  show n ∈ if q = 0 then regsSeal else regsSeal.filter fun n => n.row.off < 0x080
  split
  · exact hn
  · rename_i h
    exact List.mem_filter.2 ⟨hn, decide_eq_true (ho.resolve_right h)⟩

theorem exec_pipeFence {s : State} {p : Path} {q : Fin 4} (v : Word) (ha : admitted s p (.seal q) .sealPipeFence = true) :
    exec (.pipeFence p q v) s = .next (wrote p (.seal q) .sealPipeFence (withDev s
      (((List.range 4).filter fun k => v.getLsbD k && !(rget s.dev (.seal q) .sealPipeFence).getLsbD k).foldl (fun d k => softFencePipe d q k) s.dev))) := by
  show regCmd s p (.seal q) .sealPipeFence v 0 = _
  exact regCmd_quad ha rfl (List.mem_append_right _ (mem_regsSeal (by decide) (.inl (by decide)))) (by decide) (by decide) (by decide) (by decide) rfl
    (by decide)

/-- What SUB_FENCE shows of the two sub-channels of a channel. -/
theorem newBits_subFence (a b : Bool) (v : Word) : newBits (packW [(0, b2n a), (1, b2n b)]) v 2
    = (List.range 2).filter fun k => v.getLsbD k && !(if k = 0 then a else b) := by
  cases a <;> cases b <;> rfl

theorem exec_subFence {s : State} {p : Path} {c : Fin 16} (v : Word) (ha : admitted s p (.dmc c) .dmcSubFence = true) :
    exec (.subFence p c v) s = .next (wrote p (.dmc c) .dmcSubFence (withDev s
      (((List.range 2).filter fun k => v.getLsbD k && !(subc s.dev (2 * c + k)).swFence).foldl (fun d k => softFenceSub d (2 * c + k)) s.dev))) := by
  show regCmd s p (.dmc c) .dmcSubFence v 0 = _
  have hl : ((List.range 2).filter fun k => v.getLsbD k && !(subc s.dev (2 * c + k)).swFence)
      = newBits (packW [(0, b2n (subc s.dev (2 * c)).swFence), (1, b2n (subc s.dev (2 * c + 1)).swFence)]) v 2 := by
    rw [newBits_subFence]
    rfl
  rw [hl]
  exact regCmd_quad ha rfl (List.mem_append_right _ (show RName.dmcSubFence ∈ regsDmc by decide)) (by decide) (by decide) (by decide) (by decide) rfl
    (by decide)

/-- Settles O19. -/
theorem packEngineWork : Obligations.PackEngineWork := by
  refine ⟨⟨fun s q e ha hr => ⟨fun x rest hd hx hp hw => exec_packEngineSchedule ha hr (engineChoose_decode hd hx hp hw), fun hd hg => ⟨fun page hm => ?_,
    fun page lane hm hj => ?_, fun lane hm hj => ?_, fun page hm hj => ?_⟩⟩, fun s q e page n d ls hw hd hf hp => ?_⟩,
    fun s p q v ha => exec_packEngFence v ha, fun s p q v ha => exec_pipeFence v ha, fun s p c v ha => exec_subFence v ha⟩
  · exact exec_packEngineSchedule ha hr (engineChoose_idle hd hg (by rw [hm]))
  · refine exec_packEngineSchedule ha hr ?_
    cases hl : ((quad s.dev q).engines.getD e {}).lastJob with
    | true => exact engineChoose_idle hd hg (by rw [hm, hj, hl]; rfl)
    | false => exact engineChoose_idle hd hg (by rw [hm, hj, hl]; rfl)
  · exact exec_packEngineSchedule ha hr (engineChoose_idle hd hg (by rw [hm, hj]))
  · exact exec_packEngineSchedule ha hr (engineChoose_idle hd hg (by rw [hm, hj]))
  · rw [exec_packedPageDecode hw, decodeDone_good hd hf hp]

/-! ## Commands on ranges (R133, R134) -/

theorem rangeSelWrite_shows (v : Word) (d : Dev) : rget (rangeSelWrite d v) (.seal 0) .sealRangeSel = BitVec.ofNat 32 (fld v 5 0)
    ∧ rget (rangeSelWrite d v) (.seal 0) .sealRangeBase = BitVec.ofNat 32 (range d (fld v 5 0)).base
    ∧ rget (rangeSelWrite d v) (.seal 0) .sealRangeLen = BitVec.ofNat 32 (range d (fld v 5 0)).len
    ∧ rget (rangeSelWrite d v) (.seal 0) .sealRangeHosts = (range d (fld v 5 0)).hosts.setWidth 32 := by
  unfold rangeSelWrite
  dsimp only
  refine ⟨?_, ?_, ?_, rget_rput_self ..⟩
  · rw [rget_rput_ne _ _ (by decide), rget_rput_ne _ _ (by decide), rget_rput_ne _ _ (by decide), rget_rput_ne _ _ (by decide), rget_rput_self]
  · rw [rget_rput_ne _ _ (by decide), rget_rput_ne _ _ (by decide), rget_rput_ne _ _ (by decide), rget_rput_self]
  · rw [rget_rput_ne _ _ (by decide), rget_rput_ne _ _ (by decide), rget_rput_self]

/-- A write of RANGE_CMD. -/
theorem regCmd_rangeCmd {s : State} {p : Path} (ha : admitted s p (.seal 0) .sealRangeCmd = true) (w : Word) :
    regCmd s p (.seal 0) .sealRangeCmd w = .next (wrote p (.seal 0) .sealRangeCmd (withDev s (rangeIssue s.dev (fld w 2 0)))) :=
  regCmd_quad ha rfl (List.mem_append_right _ (mem_regsSeal (by decide) (.inr rfl))) (by decide) (by decide) (by decide) (by decide) rfl (by decide)

/-- Every command on a range is a write of RANGE_CMD with its code. -/
theorem exec_rangeCmd {s : State} {p : Path} {op : BitVec 3} {c : Instr} (ha : admitted s p (.seal 0) .sealRangeCmd = true)
    (hc : (c, op) ∈ [(Instr.rangeDefine p, (1 : BitVec 3)), (.rangeClear p, 2), (.rangeRetire p, 3), (.rangeRepaint p, 4), (.rangeSetRights p, 5),
      (.rangeCmdBadOp p op, op)]) :
    exec c s = .next (wrote p (.seal 0) .sealRangeCmd (withDev s (rangeIssue s.dev op.toNat))) := by
  have hop : fld (op.setWidth 32) 2 0 = op.toNat := by
    unfold fld
    simp only [BitVec.toNat_setWidth, Nat.shiftRight_zero]
    omega
  have key : exec c s = regCmd s p (.seal 0) .sealRangeCmd (op.setWidth 32) := by
    simp only [List.mem_cons, Prod.mk.injEq, List.not_mem_nil, or_false] at hc
    obtain ⟨rfl, rfl⟩ | ⟨rfl, rfl⟩ | ⟨rfl, rfl⟩ | ⟨rfl, rfl⟩ | ⟨rfl, rfl⟩ | ⟨rfl, -⟩ := hc
    all_goals rfl
  rw [key, regCmd_rangeCmd ha, hop]

theorem exec_rangeCmdComplete {s : State} {c : RangeCmd} (h : s.dev.rangeBusy = some c) :
    exec .rangeCmdComplete s = .next (onDev s (rangeComplete s.dev c)) := by
  show execRangeCmdComplete s = _
  unfold execRangeCmdComplete
  rw [h]
  rfl

theorem rangeComplete_refused {d : Dev} {c : RangeCmd} (h : rangeRefusal d c ≠ 0) :
    rangeComplete d c = raiseEvent { d with rangeBusy := none, rangeResult := rangeRefusal d c } (.seal 0) 0 := by
  unfold rangeComplete
  dsimp only
  rw [if_neg h]

theorem rangeComplete_accepted {d : Dev} {c : RangeCmd} (h : rangeRefusal d c = 0) :
    rangeComplete d c = raiseEvent (rangeApply { d with rangeBusy := none, rangeResult := 0 } c) (.seal 0) 0 := by
  unfold rangeComplete
  dsimp only
  rw [h, if_pos rfl]

theorem rangeRefusal_rights {d : Dev} {c : RangeCmd} (h : c.op = 5) (ha : (range d c.r).state = .active) : rangeRefusal d c = 0 := by
  unfold rangeRefusal
  rw [h]
  exact if_pos (.inl ha)

theorem rangeApply_rights (d : Dev) {c : RangeCmd} (h : c.op = 5) :
    rangeApply d c = rangeMod d c.r fun x => { x with hosts := c.new.hosts, debugRd := c.new.debugRd, test := c.new.test } := by
  unfold rangeApply
  rw [h]
  rfl

/-- Settles O20. -/
theorem rangeCommands : Obligations.RangeCommands := by
  refine ⟨fun s p v ha => ?_, fun v d => rangeSelWrite_shows v d, fun s p op c ha hc => ⟨fun hb => ?_, fun hb => ?_⟩,
    fun s c h => ⟨fun hr => ?_, fun ho hs => ?_, fun hr => ?_⟩⟩
  · show regCmd s p (.seal 0) .sealRangeSel v = _
    exact regCmd_quad ha rfl (List.mem_append_right _ (mem_regsSeal (by decide) (.inr rfl))) (by decide) (by decide) (by decide) (by decide) rfl (by decide)
  · rw [exec_rangeCmd ha hc, rangeIssue, if_pos hb]
  · rw [exec_rangeCmd ha hc, rangeIssue, hb]
    rfl
  · rw [exec_rangeCmdComplete h, rangeComplete_refused hr]
  · rw [exec_rangeCmdComplete h, rangeComplete_accepted (rangeRefusal_rights ho hs), rangeApply_rights _ ho]
  · rw [exec_rangeCmdComplete h, rangeComplete_accepted hr]

end Sys2Proof.Machine
end

section
/-! PROOFS. Command retry, self-refresh, power-down and training (R195, R197, R360, R468), and the registers of Coat that act (R160, R162, R180). -/

namespace Sys2Proof.Machine

/-! ## Command retry (R195, R196) -/

theorem exec_alertNAssert {s : State} {u : Fin 32} (span : Nat) (hf : subFenced s.dev u = false) :
    exec (.alertNAssert u span) s = .next (onDev s (alertAssert s.dev u span)) := by
  show execAlertNAssert u span s = _
  rw [execAlertNAssert, doneIf_next (by simp [hf])]

theorem alertAssert_first {d : Dev} {u span : Nat} (ha : (subc d u).alert = false) (hr : (subc d u).inRetry = false) :
    alertAssert d u span = umod d u fun a => { a with
      alert := true, inRetry := true, failedReplays := 0, replays := a.retry.drop (a.retry.length - span) } := by
  unfold alertAssert
  dsimp only
  rw [ha, hr]
  rfl

theorem alertAssert_again {d : Dev} {u span : Nat} (ha : (subc d u).alert = false) (hr : (subc d u).inRetry = true) (hn : (subc d u).failedReplays < 2) :
    alertAssert d u span = umod d u fun a => { a with alert := true, failedReplays := a.failedReplays + 1 } := by
  unfold alertAssert
  dsimp only
  rw [ha, hr, if_neg Bool.false_ne_true, if_pos rfl, if_neg (by omega)]

/-- The third failure of a replay without writes (R195). -/
theorem alertAssert_third {d : Dev} {u span : Nat} (ha : (subc d u).alert = false) (hr : (subc d u).inRetry = true) (hn : 2 ≤ (subc d u).failedReplays)
    (hw : ∀ c ∈ (subc d u).replays, ∀ l w, c ≠ .write l w) :
    alertAssert d u span = raise (umod d u fun a => { a with alert := false, inRetry := false, failedReplays := 0 })
      (.dmc (u / 2)) 1 (.sub (Fin.ofNat 32 u)) (ctxKind 0 (.dmc (u / 2))) := by
  have hf : replayFence d u = raise (umod d u fun a => { a with alert := false, inRetry := false, failedReplays := 0 })
      (.dmc (u / 2)) 1 (.sub (Fin.ofNat 32 u)) (ctxKind 0 (.dmc (u / 2))) := by
    unfold replayFence
    dsimp only
    rw [if_neg]
    intro h
    obtain ⟨c, hc, hp⟩ := List.any_eq_true.1 h
    cases c with
    | write l w => exact hw _ hc l w rfl
    | _ => cases hp
  unfold alertAssert
  dsimp only
  rw [ha, hr, if_neg Bool.false_ne_true, if_pos rfl, if_pos (by omega), hf]

/-! ## Self-refresh and power-down (R468, R360) -/

/-- What holds of every entry of a key, and of the value of an unlisted one, holds of what the key reads as. -/
theorem tabGet_of_forall {α : Type} {P : α → Prop} {d : α} (hd : P d) {t : Tab α} {k : Nat} (h : ∀ e ∈ t, e.1 = k → P e.2) : P (tabGet d t k) := by
  induction t with
  | nil => exact hd
  | cons e t ih =>
    unfold tabGet
    split
    · rename_i hk; exact h e List.mem_cons_self hk
    · exact ih fun x hx => h x (List.mem_cons_of_mem _ hx)

theorem closeBanks_openRow (d : Dev) (u : Nat) {i : Nat} (hi : i < 4096) : (bank (closeBanks d u) u i).openRow = none := by
  have hk : bankKey u i / 2 ^ 12 = u := by unfold bankKey; omega
  refine tabGet_of_forall (P := fun b : Bank => b.openRow = none) rfl fun e he hek => ?_
  obtain ⟨x, _, rfl⟩ := List.mem_map.1 (List.mem_filter.1 he).1
  by_cases hx : x.1 / 2 ^ 12 = u
  · rw [if_pos hx]
    dsimp only
    split
    · rfl
    · rename_i h; simpa using h
  · rw [if_neg hx] at hek
    exact absurd (hek ▸ hk) hx

theorem bank_umod (d : Dev) (u k i : Nat) (f : Sub → Sub) : bank (umod d u f) k i = bank d k i := rfl

theorem bank_issued (d : Dev) (u k i : Nat) (c : DCmd) : bank (issued d u c) k i = bank d k i := rfl

theorem subc_closeBanks (d : Dev) (u k : Nat) : subc (closeBanks d u) k = subc d k := rfl

/-- A sub-channel put to sleep: its rows are closed, and no other sub-channel changes. -/
theorem closed_next (d : Dev) (u : Nat) (f : Sub → Sub) (c : DCmd) :
    (∀ i, i < 4096 → (bank (issued (umod (closeBanks d u) u f) u c) u i).openRow = none)
    ∧ issued (umod (closeBanks d u) u f) u c = { d with
        subs := (issued (umod (closeBanks d u) u f) u c).subs, banks := (issued (umod (closeBanks d u) u f) u c).banks }
    ∧ ∀ k : Nat, k ≠ u → subc (issued (umod (closeBanks d u) u f) u c) k = subc d k := by
  refine ⟨fun i hi => ?_, rfl, fun k hk => ?_⟩
  · rw [bank_issued, bank_umod]
    exact closeBanks_openRow d u hi
  · unfold issued
    rw [subc_umod_ne _ _ hk, subc_umod_ne _ _ hk, subc_closeBanks]

theorem subc_issued_self (d : Dev) (u : Nat) (c : DCmd) : subc (issued d u c) u = { subc d u with
    retry := ((subc d u).retry ++ [c]).drop ((subc d u).retry.length + 1 - 64) } := subc_umod_self ..

/-! ## Training (R197, R201) -/

theorem exec_ddrTrainingDone {s : State} {c : Fin 16} (hd : s.dev.pwr.dom.getLsbD (Block.dphy c).domain = true) (hp : s.dev.pwr.pads.getLsbD (c / 4) = false) :
    exec (.ddrTrainingDone c .stored) s = .next (onDev s (rput s.dev (.dphy c) .dphyTrainStat 5))
    ∧ exec (.ddrTrainingDone c .full) s = .next (onDev s (trainingRecord (rput s.dev (.dphy c) .dphyTrainStat 6) c))
    ∧ ∀ step rank, exec (.ddrTrainingDone c (.fail step rank)) s
      = .next (onDev s (rput s.dev (.dphy c) .dphyTrainStat (packW [(3, 1), (4, step.toNat), (8, rank.toNat)]))) := by
  have hg : (s.dev.pwr.dom.getLsbD (Block.dphy c).domain && !s.dev.pwr.pads.getLsbD (c / 4)) = true := by simp [hd, hp]
  refine ⟨?_, ?_, fun step rank => ?_⟩
  · show execDdrTrainingDone c .stored s = _
    rw [execDdrTrainingDone, doneIf_next hg]
    rfl
  · show execDdrTrainingDone c .full s = _
    rw [execDdrTrainingDone, doneIf_next hg]
    rfl
  · show execDdrTrainingDone c (.fail step rank) s = _
    rw [execDdrTrainingDone, doneIf_next hg]

/-- Settles O23. -/
theorem dramRetryAndSleep : Obligations.DramRetryAndSleep := by
  refine ⟨fun s u span hf ha => ⟨fun hr => ?_, fun hr hn => ?_, fun hr hn hw => ?_⟩, fun s u ha => ?_, fun s u hr ha hp => ?_,
    fun s u hd hs hw => ?_, fun s u hs hr hw hf hu => ?_, fun s c hd hp => exec_ddrTrainingDone hd hp⟩
  · rw [exec_alertNAssert span hf, alertAssert_first ha hr]
  · rw [exec_alertNAssert span hf, alertAssert_again ha hr hn]
  · rw [exec_alertNAssert span hf, alertAssert_third ha hr hn hw]
  · show execAlertNDeassert u s = _
    rw [execAlertNDeassert, doneIf_next ha]
  · show execCommandReplayDone u s = _
    rw [execCommandReplayDone, doneIf_next (by simp [hr, ha]), replayDone, hp]
    rfl
  · obtain ⟨h1, h2, h3⟩ := closed_next s.dev u (fun s => { s with selfRefresh := true, powerDown := false }) .selfRefresh
    refine ⟨_, ?_, ?_, h1, h2, h3⟩
    · show execSelfRefreshEntry u s = _
      rw [execSelfRefreshEntry, doneIf_next (by simp [hd, hs, hw])]
      rfl
    · rw [subc_issued_self, subc_umod_self]
  · obtain ⟨h1, h2, h3⟩ := closed_next s.dev u (fun s => { s with powerDown := true }) .powerDown
    refine ⟨_, ?_, ?_, h1, h2⟩
    · show execPrechargePowerDown u s = _
      rw [execPrechargePowerDown, doneIf_next (by simp [hs, hr, hw, hf, hu])]
    · rw [subc_issued_self, subc_umod_self]

/-! ## Registers of Coat that act (R160, R162, R180) -/

/-- A command on a quadrant register that a profile may load, when no load is under way. -/
theorem regCmd_quad_unloaded {s : State} {p : Path} {b : Block} {n : RName} {w : Word} {d : Dev} (ha : admitted s p b n = true)
    (hw : quadWrite s.dev p b n 0 w = some d) (hn : n ∈ regsHeader ++ b.regs) (hi : 0 < n.row.count) (h7 : highOf n = none) (h8 : lowOf n = none)
    (h1 : profileLoad s.dev p b n = false) (h2 : headerWrite s.dev b n w = none) (h3 : captureOf n = []) :
    regCmd s p b n w = .next (wrote p b n (withDev s d)) := by
  rw [regCmd_admitted w ha hn hi h7 h8]
  unfold writeReg
  simp only [h1, h2, h3, hw, Bool.false_eq_true, if_false, ne_eq, not_true_eq_false]
  rfl

theorem mem_regsCoat {q : Nat} {n : RName} (hn : n ∈ regsCoat) (ho : n.row.off < 0x0C0 ∨ q = 0) : n ∈ (Block.coat q).regs := by
  show n ∈ if q = 0 then regsCoat else regsCoat.filter fun n => n.row.off < 0x0C0
  split
  · exact hn
  · rename_i h
    exact List.mem_filter.2 ⟨hn, decide_eq_true (ho.resolve_right h)⟩

theorem devFailWrite_eq {d e : Dev} {q : Nat} {n : RName} {w : Word} (h : codedWrite d true (.coat q) n 0 w = e) : devFailWrite d q n w =
    if (rget e (.coat q) .coatDevFail0 ||| rget e (.coat q) .coatDevFail1) &&& 0x80808080 = 0 then deassert e (.coat q) 3
    else if e.flt.asserting.getLsbD (srcId (.coat q) 3) then e
    else raise e (.coat q) 3 .none (ctxKind 0 (.coat q)) true := by
  unfold devFailWrite
  rw [h]
  simp only [ne_eq, Decidable.not_not]

theorem exec_devFailWrite {s : State} {p : Path} {q : Fin 4} {n : Fin 2} {v : Word}
    (ha : admitted s p (.coat q) (if n = 0 then .coatDevFail0 else .coatDevFail1) = true)
    (hl : profileLoad s.dev p (.coat q) (if n = 0 then .coatDevFail0 else .coatDevFail1) = false) :
    exec (.devFailWrite p q n v) s = .next (wrote p (.coat q) (if n = 0 then .coatDevFail0 else .coatDevFail1)
      (withDev s (devFailWrite s.dev q (if n = 0 then .coatDevFail0 else .coatDevFail1) v))) := by
  show regCmd s p (.coat q) (if n = 0 then .coatDevFail0 else .coatDevFail1) v = _
  obtain rfl | rfl : n = 0 ∨ n = 1 := by omega
  · exact regCmd_quad_unloaded ha rfl (List.mem_append_right _ (mem_regsCoat (by decide) (.inl (by decide)))) (by decide) (by decide) (by decide) hl rfl
      (by decide)
  · exact regCmd_quad_unloaded ha rfl (List.mem_append_right _ (mem_regsCoat (by decide) (.inl (by decide)))) (by decide) (by decide) (by decide) hl rfl
      (by decide)

theorem regionSelWrite_cfg (a b : Bool) :
    (packW [(0, b2n a), (1, b2n b)]).getLsbD 0 = a ∧ (packW [(0, b2n a), (1, b2n b)]).getLsbD 1 = b := by
  cases a <;> cases b <;> decide

theorem regionComplete_refused {d : Dev} {x : Nat} {cfg : Word} (h : regionRefusal d x cfg ≠ 0) :
    regionComplete d x cfg = raiseEvent { d with regionBusy := none, regionResult := regionRefusal d x cfg } (.coat 0) 2 := by
  unfold regionComplete
  dsimp only
  rw [if_neg h]

/-- An accepted SET that leaves the Lined bit as it is puts in the extent's entry (R162). -/
theorem regionComplete_set {d : Dev} {x : Nat} {cfg : Word} (h : regionRefusal d x cfg = 0) (hl : (tabGet (false, false) d.regions x).2 = cfg.getLsbD 1) :
    regionComplete d x cfg = raiseEvent { d with
      regionBusy := none, regionResult := 0, regions := tabPut (false, false) d.regions x (cfg.getLsbD 0, cfg.getLsbD 1) } (.coat 0) 2 := by
  have hs : liningSet { d with regionBusy := none, regionResult := 0 } x (cfg.getLsbD 1) = { d with regionBusy := none, regionResult := 0 } :=
    if_pos hl.symm
  unfold regionComplete
  dsimp only
  rw [h, if_pos rfl, hs]

theorem exec_regionCmdComplete {s : State} {x : Nat} {cfg : Word} (h : s.dev.regionBusy = some (x, cfg)) :
    exec .regionCmdComplete s = .next (onDev s (regionComplete s.dev x cfg)) := by
  show execRegionCmdComplete s = _
  unfold execRegionCmdComplete
  rw [h]
  rfl

theorem regCmd_flipCtl {s : State} {p : Path} {q : Fin 4} (w : Word) (ha : admitted s p (.coat q) .coatFlipCtl = true) :
    regCmd s p (.coat q) .coatFlipCtl w = .next (wrote p (.coat q) .coatFlipCtl (withDev s (flipCtlWrite s.dev q w))) :=
  regCmd_quad ha rfl (List.mem_append_right _ (mem_regsCoat (by decide) (.inl (by decide)))) (by decide) (by decide) (by decide) (by decide) rfl (by decide)

theorem flipCtlWrite_arm (d : Dev) (q : Nat) (v : Word) : flipCtlWrite d q (v ||| 0x80000000)
    = qmod (codedWrite d true (.coat q) .coatFlipCtl 0 (v ||| 0x80000000)) q fun a => { a with flip := some 0 } := by
  have h : bitOf (v ||| 0x80000000) 31 = true := by simp [bitOf]
  unfold flipCtlWrite
  rw [h]
  rfl

theorem flipCtlWrite_disarm (d : Dev) (q : Nat) (v : Word) : flipCtlWrite d q (v &&& 0x7FFFFFFF)
    = qmod (codedWrite d true (.coat q) .coatFlipCtl 0 (v &&& 0x7FFFFFFF)) q fun a => { a with flip := none } := by
  have h : bitOf (v &&& 0x7FFFFFFF) 31 = false := by simp [bitOf]
  unfold flipCtlWrite
  rw [h]
  rfl

theorem regCmd_region {s : State} {p : Path} {w : Word} : (admitted s p (.coat 0) .coatRegionSel = true →
      regCmd s p (.coat 0) .coatRegionSel w = .next (wrote p (.coat 0) .coatRegionSel (withDev s (regionSelWrite s.dev w))))
    ∧ (admitted s p (.coat 0) .coatRegionCmd = true →
      regCmd s p (.coat 0) .coatRegionCmd w = .next (wrote p (.coat 0) .coatRegionCmd (withDev s (regionCmdWrite s.dev w)))) := by
  constructor
  · exact fun ha => regCmd_quad ha rfl (List.mem_append_right _ (mem_regsCoat (by decide) (.inr rfl))) (by decide) (by decide) (by decide) (by decide) rfl
      (by decide)
  · exact fun ha => regCmd_quad ha rfl (List.mem_append_right _ (mem_regsCoat (by decide) (.inr rfl))) (by decide) (by decide) (by decide) (by decide) rfl
      (by decide)

theorem regionCmdWrite_set (d : Dev) (v : Word) : regionCmdWrite d (v ||| 1) = if d.regionBusy.isSome then { d with regionResult := 4 }
    else { d with regionBusy := some (rfld d (.coat 0) .coatRegionSel 14 0, rget d (.coat 0) .coatRegionCfg) } := by
  unfold regionCmdWrite
  rw [if_neg (not_not_intro (bitOf_or_one v))]

/-- Settles O24. -/
theorem coatRegisters : Obligations.CoatRegisters := by
  refine ⟨fun s p q n v d ha hl hd => ?_, fun s p v ha => ⟨regionSelWrite s.dev v, regCmd_region.1 ha, rfl, ?_, ?_, ?_⟩,
    fun s p v ha => ⟨fun hb => ?_, fun hb => ?_⟩, fun s x cfg hb => ⟨fun hr => ?_, fun hr hl => ⟨_, by
      rw [exec_regionCmdComplete hb, regionComplete_set hr hl], rfl, tabGet_tabPut_self .., fun k hk => tabGet_tabPut_ne _ _ _ _ hk⟩⟩,
    fun s p q v ha => ⟨?_, ?_⟩⟩
  · rw [exec_devFailWrite ha hl, devFailWrite_eq hd]
  · rw [regionSelWrite, rget_rput_ne _ _ (by decide), rget_rput_self]
  · rw [regionSelWrite, rget_rput_self, (regionSelWrite_cfg _ _).1]
  · rw [regionSelWrite, rget_rput_self, (regionSelWrite_cfg _ _).2]
  · show regCmd s p (.coat 0) .coatRegionCmd (v ||| 1) = _
    rw [regCmd_region.2 ha, regionCmdWrite_set, hb]
    rfl
  · show regCmd s p (.coat 0) .coatRegionCmd (v ||| 1) = _
    rw [regCmd_region.2 ha, regionCmdWrite_set, if_pos hb]
  · rw [exec_regionCmdComplete hb, regionComplete_refused hr]
  · show regCmd s p (.coat q) .coatFlipCtl (v ||| 0x80000000) = _
    rw [regCmd_flipCtl _ ha, flipCtlWrite_arm]
  · show regCmd s p (.coat q) .coatFlipCtl (v &&& 0x7FFFFFFF) = _
    rw [regCmd_flipCtl _ ha, flipCtlWrite_disarm]

end Sys2Proof.Machine
end

section
/-! PROOFS. Job rings: doorbells, fetches, the checks of a job and ring commands (R248, R259, R260, R263). -/

namespace Sys2Proof.Machine

/-! ## Rings of a cluster -/

theorem quad_cmod (d : Dev) (q : Nat) (f : Cluster → Cluster) : quad (cmod d q f) q = { quad d q with cluster := f (quad d q).cluster } := quad_qmod_self ..

@[simp] theorem ringOf_ringMod_self (d : Dev) (q i : Nat) (f : Ring → Ring) : ringOf (ringMod d q i f) q i = f (ringOf d q i) := by
  unfold ringOf ringMod
  rw [quad_cmod]
  exact tabGet_tabMod_self ..

theorem queue_ringMod (d : Dev) (q i : Nat) (f : Ring → Ring) : (quad (ringMod d q i f) q).cluster.queue = (quad d q).cluster.queue := by
  unfold ringMod
  rw [quad_cmod]

/-- A change of a cluster that leaves its rings alone. -/
theorem ringOf_cmod {d : Dev} {q i : Nat} {f : Cluster → Cluster} (h : (f (quad d q).cluster).rings = (quad d q).cluster.rings) :
    ringOf (cmod d q f) q i = ringOf d q i := by
  unfold ringOf
  rw [quad_cmod, h]

/-! ## Doorbells (R248) -/

theorem exec_doorbell {s : State} {p : Path} {q : Fin 4} {i : BitVec 8} (v : Word) (ha : admitted s p (.nme q) .nmeDoorbell i.toNat = true) :
    exec (.doorbell p q i v) s = .next (wrote p (.nme q) .nmeDoorbell (withDev s (doorbellWrite s.dev p q i.toNat v)) i.toNat) := by
  show regCmd s p (.nme q) .nmeDoorbell v i.toNat = _
  exact regCmd_quad ha rfl (List.mem_append_right _ (show RName.nmeDoorbell ∈ regsNme by decide)) i.isLt (by decide) (by decide) (by decide) rfl (by decide)

theorem doorbellWrite_tail {d : Dev} {p : Path} {q i : Nat} {v : Word} (h : fld v 15 0 < ringSize (ringOf d q i)) :
    doorbellWrite d p q i v = ringMod d q i fun r => { r with tail := fld v 15 0 } := by
  unfold doorbellWrite
  dsimp only
  rw [if_pos h]

theorem doorbellWrite_shown {d : Dev} {p : Path} {q i : Nat} {v : Word} (h : ringSize (ringOf d q i) ≤ fld v 15 0)
    (hb : bitOf (rget d (.nme q) .nmeDbErr) 31 = true) : doorbellWrite d p q i v = raiseEvent d (.nme q) 2 := by
  unfold doorbellWrite
  dsimp only
  rw [if_neg (by omega), if_pos hb]

theorem doorbellWrite_recorded {d : Dev} {p : Path} {q i : Nat} {v : Word} (h : ringSize (ringOf d q i) ≤ fld v 15 0)
    (hb : bitOf (rget d (.nme q) .nmeDbErr) 31 = false) : doorbellWrite d p q i v = raiseEvent (rput d (.nme q) .nmeDbErr
      (packW [(0, i), (8, fld v 15 0), (24, Path.code p), (27, match p with | .host k => k.val | _ => 0), (31, 1)])) (.nme q) 2 := by
  unfold doorbellWrite
  dsimp only
  rw [if_neg (by omega), if_neg (by rw [hb]; exact Bool.false_ne_true)] <;> rfl

/-! ## Fetching (R259) -/

theorem exec_descriptorFetch {s : State} {q : Fin 4} {i : Nat} (h : nextRing s.dev q = some i) (hr : (pget s.dev (.nme q)).run = .rolling)
    (hq : (quad s.dev q).cluster.queue.length < 64) : exec (.descriptorFetch q) s = .next (onDev s (fetchOne s.dev q i)) := by
  show execDescriptorFetch q s = _
  unfold execDescriptorFetch
  rw [h]
  exact doneIf_next (by simp [hr, hq])

/-- A descriptor that is read joins the queue, and HEAD moves on. -/
theorem fetchOne_read {d e : Dev} {q i : Nat} {b : List Byte} (hc : ctxValid d (ringOf d q i).owner = true)
    (h : engRead d { q, lane := 0, slate := (ringOf d q i).owner, late := false } ((ringOf d q i).descPage * 4096 + 64 * (ringOf d q i).head) 64 = .ok e b) :
    (quad (fetchOne d q i) q).cluster.queue = (quad e q).cluster.queue ++
        [{ ring := i, index := (ringOf d q i).head, phase := decide ((ringOf d q i).pass % 2 = 1), desc := b, slate := (ringOf d q i).owner }]
      ∧ (ringOf (fetchOne d q i) q i).head = (if (ringOf d q i).head + 1 = ringSize (ringOf d q i) then 0 else (ringOf e q i).head + 1)
      ∧ fetchOne d q i = { e with quads := (fetchOne d q i).quads } := by
  unfold fetchOne
  dsimp only
  rw [if_pos hc, h]
  dsimp only
  refine ⟨?_, ?_, ?_⟩
  · rw [quad_cmod, queue_ringMod, quad_cmod]
  · rw [ringOf_cmod rfl, ringOf_ringMod_self, ringOf_cmod rfl]
  · unfold ringMod cmod qmod
    rfl

/-! ## Taking jobs (R260) -/

section
variable {s : State} {q : Fin 4} {l : Fin 8} {j : Job} (hc : clusterRuns s.dev q = true) (he : (rget s.dev (.nme q) .nmeCfg).getLsbD l = true)
  (hl : laneJob s.dev q l = none) (hj : pickJob s.dev q = some j)

include hc he hl hj

theorem exec_laneTakeJob : exec (.laneTakeJob q l) s = .next (onDev s
    (match jobCheck (cmod s.dev q fun c => { c with queue := c.queue.erase j }) j with
    | 0 => setLane (cmod s.dev q fun c => { c with queue := c.queue.erase j }) q l (some j)
    | 8 => completeJob (slateRefused (cmod s.dev q fun c => { c with queue := c.queue.erase j }) j.slate) q j 8 0 0 0
    | st => completeJob (cmod s.dev q fun c => { c with queue := c.queue.erase j }) q j st 0 0 0)) := by
  show execLaneTakeJob q l s = _
  rw [execLaneTakeJob, doneIf_next (by simp [hc, he, hl]), takeJob, hj] <;> rfl

end

/-! ## Ring commands (R263) -/

theorem exec_ringCmd {s : State} {p : Path} {q : Fin 4} {c : Instr} {op : Nat} (ha : admitted s p (.nme q) .nmeRingCmd = true)
    (hc : (c, op) ∈ [(Instr.ringLoad p q, 1), (.ringEnable p q, 2), (.ringDisable p q, 3), (.ringResume p q, 4), (.ringSetOwner p q, 5)]) :
    exec c s = .next (wrote p (.nme q) .nmeRingCmd (withDev s (ringCommand s.dev q op (decide (p = .secure))))) := by
  have hw : ∀ w : Word, regCmd s p (.nme q) .nmeRingCmd w
      = .next (wrote p (.nme q) .nmeRingCmd (withDev s (ringCommand s.dev q (fld w 2 0) (decide (p = .secure))))) := fun w =>
    regCmd_quad ha rfl (List.mem_append_right _ (show RName.nmeRingCmd ∈ regsNme by decide)) (by decide) (by decide) (by decide) (by decide) rfl (by decide)
  simp only [List.mem_cons, Prod.mk.injEq, List.not_mem_nil, or_false] at hc
  obtain ⟨rfl, rfl⟩ | ⟨rfl, rfl⟩ | ⟨rfl, rfl⟩ | ⟨rfl, rfl⟩ | ⟨rfl, rfl⟩ := hc
  · exact hw 1
  · exact hw 2
  · exact hw 3
  · exact hw 4
  · exact hw 5

section
variable {d : Dev} {q : Nat} {sec : Bool}

theorem ringCommand_busy {op : Nat} (h : (ringOf d q (ringSel d q)).state = .stopping) : ringCommand d q op sec = ringResult d q 1 := if_pos h

theorem ringCommand_enable (h : (ringOf d q (ringSel d q)).state = .off) (h1 : 4 ≤ fld (rget d (.nme q) .nmeRingCfg) 4 0)
    (h2 : fld (rget d (.nme q) .nmeRingCfg) 4 0 ≤ 16) (h3 : stagedPage d q .nmeRingDescLo .nmeRingDescHi < limitPages d 0)
    (h4 : stagedPage d q .nmeRingCompLo .nmeRingCompHi < limitPages d 0) :
    ringCommand d q 2 sec = ringResult (ringMod d q (ringSel d q) fun r => { r with
      descPage := stagedPage d q .nmeRingDescLo .nmeRingDescHi, compPage := stagedPage d q .nmeRingCompLo .nmeRingCompHi
      cfg := rget d (.nme q) .nmeRingCfg, head := 0, tail := 0, pass := 1, state := .running }) q 0 := by
  unfold ringCommand
  dsimp only
  rw [if_neg (by simp [h])]
  exact (if_neg (by simp [h])).trans (if_neg (by omega))

/-- A ring that is disabled with nothing fetched is Stopping. -/
theorem ringCommand_disable (h : (ringOf d q (ringSel d q)).state = .running) (hq : ∀ j ∈ (quad d q).cluster.queue, j.ring ≠ ringSel d q) :
    (ringOf (ringCommand d q 3 sec) q (ringSel d q)).state = .stopping := by
  have hm : ((quad d q).cluster.queue.filter fun j => j.ring = ringSel d q) = [] :=
    List.filter_eq_nil_iff.2 fun j hj => by simp [hq j hj]
  have key : ringCommand d q 3 sec = ringAbort d q (ringSel d q) := by
    unfold ringCommand
    dsimp only
    rw [if_neg (by simp [h])]
    exact if_pos (.inl h)
  rw [key]
  unfold ringAbort
  dsimp only
  rw [queue_ringMod, hm, List.foldl_nil, ringOf_cmod rfl, ringOf_ringMod_self]

theorem ringCommand_resume (h : (ringOf d q (ringSel d q)).state = .error) :
    ringCommand d q 4 sec = ringResult (ringMod d q (ringSel d q) fun r => { r with state := .running }) q 0 := by
  unfold ringCommand
  dsimp only
  rw [if_neg (by simp [h])]
  exact if_pos h

theorem ringCommand_owner (h : (ringOf d q (ringSel d q)).state = .off) : ringCommand d q 5 false = ringResult d q 4
    ∧ ringCommand d q 5 true = ringResult (ringMod d q (ringSel d q) fun r => { r with
      owner := rfld d (.nme q) .nmeRingOwner 17 0, hosts := (rget d (.nme q) .nmeRingHosts).setWidth 16 }) q 0 := by
  have hs : ∀ sec, ringCommand d q 5 sec = if ¬ sec = true then ringResult d q 4
      else if (ringOf d q (ringSel d q)).state ≠ .off then ringResult d q 2
      else ringResult (ringMod d q (ringSel d q) fun r => { r with
        owner := rfld d (.nme q) .nmeRingOwner 17 0, hosts := (rget d (.nme q) .nmeRingHosts).setWidth 16 }) q 0 := fun sec => by
    unfold ringCommand
    dsimp only
    rw [if_neg (by simp [h])]
    rfl
  exact ⟨by rw [hs, if_pos Bool.false_ne_true], by rw [hs, if_neg (not_not_intro rfl), if_neg (not_not_intro h)]⟩

end

theorem ringStopped_off {d : Dev} {q i : Nat} (h : (ringOf d q i).state = .stopping) (hr : ∀ l ∈ runningJobs d q, l.2.ring ≠ i) :
    ringStopped d q i = ringResult (ringMod d q i fun r => { r with state := .off }) q 0 :=
  if_pos ⟨h, fun ha => by
    obtain ⟨l, hl, he⟩ := List.any_eq_true.1 ha
    exact hr l hl (of_decide_eq_true he)⟩

/-- Settles O27. -/
theorem ringsAndLanes : Obligations.RingsAndLanes := by
  refine ⟨fun s p q i v ha => ⟨fun h => ?_, fun h hb => ?_, fun h hb => ?_⟩, fun s q i d b hn hr hq hc he => ?_, fun s q l j hc he hl hj => ⟨fun h => ?_,
    fun h => ?_, fun h => ?_⟩, fun s p q c op ha hc => exec_ringCmd ha hc, fun d q op sec => ⟨ringCommand_busy, ringCommand_enable, ringCommand_disable,
    ringCommand_resume, fun h => (ringCommand_owner h).1, fun h => (ringCommand_owner h).2⟩, fun s q i h hr => ?_⟩
  · rw [exec_doorbell v ha, doorbellWrite_tail h]
  · rw [exec_doorbell v ha, doorbellWrite_shown h hb]
  · rw [exec_doorbell v ha, doorbellWrite_recorded h hb] <;> rfl
  · exact ⟨_, exec_descriptorFetch hn hr hq, fetchOne_read hc he⟩
  · rw [exec_laneTakeJob hc he hl hj, h]
    rfl
  · rw [exec_laneTakeJob hc he hl hj]
    rcases h with h | h
    · rw [h]; rfl
    · rw [h]; rfl
  · rw [exec_laneTakeJob hc he hl hj, h]
    rfl
  · show execRingStopped q i s = _
    rw [execRingStopped, ringStopped_off h hr, done_next]

end Sys2Proof.Machine
end

section
/-! PROOFS. Lane hardware and SPDM (R148, R272, R279, R280), and the mailbox of a head (R168 to R170, R276). -/

namespace Sys2Proof.Machine

/-- The outcome of a command, with the device told otherwise. -/
theorem next_of_eq {o : Host.Outcome State Fault Refusal} {s : State} {d e : Dev} (h : o = .next (onDev s d)) (he : d = e) : o = .next (onDev s e) := he ▸ h

/-! ## Level histograms (R280) -/

theorem exec_histStart {s : State} {p : Path} {b : Fin 8} (v : Word) (ha : admitted s p (.hpt b) .hptHistCtl = true) :
    exec (.histStart p b v) s = .next (wrote p (.hpt b) .hptHistCtl
      (withDev s (histBegin (codedWrite s.dev true (.hpt b) .hptHistCtl 0 (v ||| 0x80000000)) b))) := by
  have hb : bitOf (v ||| 0x80000000) 31 = true := by simp [bitOf]
  have hw : histCtlWrite s.dev (.hpt b) b .hptHistCtl (v ||| 0x80000000)
      = histBegin (codedWrite s.dev true (.hpt b) .hptHistCtl 0 (v ||| 0x80000000)) b := if_pos hb
  show regCmd s p (.hpt b) .hptHistCtl (v ||| 0x80000000) = _
  rw [← hw]
  exact regCmd_device ha rfl (List.mem_append_right _ (show RName.hptHistCtl ∈ regsHpt by decide)) (by decide) (by decide) (by decide) (by decide) rfl
    (by decide) rfl

/-- The counts and offsets of a histogram as a host brick stores them. -/
def histStored (d : Dev) (b : Nat) (c0 c1 c2 c3 o : Word) : Dev :=
  rput (rput (rput (rput (rput d (.hpt b) .hptHistCnt c0 0) (.hpt b) .hptHistCnt c1 1) (.hpt b) .hptHistCnt c2 2) (.hpt b) .hptHistCnt c3 3)
    (.hpt b) .hptHistOfs o

theorem regKey_hist (b i j : Nat) (hi : i < 4) :
    (i ≠ j → regKey (.hpt b) .hptHistCnt i ≠ regKey (.hpt b) .hptHistCnt j) ∧ regKey (.hpt b) .hptHistCnt i ≠ regKey (.hpt b) .hptHistOfs 0 := by
  simp only [regKey, RName.row]
  omega

theorem histStored_shows (d : Dev) (b : Nat) (c0 c1 c2 c3 o : Word) :
    rget (histStored d b c0 c1 c2 c3 o) (.hpt b) .hptHistCnt 0 = c0 ∧ rget (histStored d b c0 c1 c2 c3 o) (.hpt b) .hptHistCnt 1 = c1
    ∧ rget (histStored d b c0 c1 c2 c3 o) (.hpt b) .hptHistCnt 2 = c2 ∧ rget (histStored d b c0 c1 c2 c3 o) (.hpt b) .hptHistCnt 3 = c3
    ∧ rget (histStored d b c0 c1 c2 c3 o) (.hpt b) .hptHistOfs = o := by
  have hne : ∀ i j, i < 4 → j < 4 → i ≠ j → regKey (.hpt b) .hptHistCnt i ≠ regKey (.hpt b) .hptHistCnt j := fun i j hi _ => (regKey_hist b i j hi).1
  have ho : ∀ i, i < 4 → regKey (.hpt b) .hptHistCnt i ≠ regKey (.hpt b) .hptHistOfs 0 := fun i hi => (regKey_hist b i 0 hi).2
  unfold histStored
  refine ⟨?_, ?_, ?_, ?_, rget_rput_self ..⟩
  · rw [rget_rput_ne _ _ (ho 0 (by decide)), rget_rput_ne _ _ (hne 0 3 (by decide) (by decide) (by decide)),
      rget_rput_ne _ _ (hne 0 2 (by decide) (by decide) (by decide)), rget_rput_ne _ _ (hne 0 1 (by decide) (by decide) (by decide)), rget_rput_self]
  · rw [rget_rput_ne _ _ (ho 1 (by decide)), rget_rput_ne _ _ (hne 1 3 (by decide) (by decide) (by decide)),
      rget_rput_ne _ _ (hne 1 2 (by decide) (by decide) (by decide)), rget_rput_self]
  · rw [rget_rput_ne _ _ (ho 2 (by decide)), rget_rput_ne _ _ (hne 2 3 (by decide) (by decide) (by decide)), rget_rput_self]
  · rw [rget_rput_ne _ _ (ho 3 (by decide)), rget_rput_self]

/-- The end of a count on a host brick: at an NRZ rate the inner levels and their offsets are zero. -/
theorem exec_histDone {s : State} {b : Fin 8} {c0 c1 c2 c3 o : Word} (hr : (brick s.dev b).histRun = true) (hm : s.dev.marwen.getLsbD b = false) :
    exec (.histDone b [c0, c1, c2, c3] o) s = .next (onDev s (raiseEvent (brickMod (histStored s.dev b c0 (if brickNrz s.dev b then 0 else c1)
      (if brickNrz s.dev b then 0 else c2) c3 (if brickNrz s.dev b then o &&& 0xFF0000FF else o)) b
        fun x => { x with histDone := true, histRun := false }) (brickBlock s.dev b) 2)) := by
  show execHistDone b [c0, c1, c2, c3] o s = _
  rw [execHistDone, doneIf_next hr, hm]
  cases brickNrz s.dev b <;> rfl

theorem histDone_stored {s : State} {b : Fin 8} {c0 c1 c2 c3 o : Word} (hr : (brick s.dev b).histRun = true) (hm : s.dev.marwen.getLsbD b = false) :
    ∃ e, exec (.histDone b [c0, c1, c2, c3] o) s = .next (onDev s (raiseEvent e (brickBlock s.dev b) 2))
      ∧ (brick e b).histDone = true ∧ (brick e b).histRun = false
      ∧ rget e (.hpt b) .hptHistCnt 0 = c0 ∧ rget e (.hpt b) .hptHistCnt 3 = c3
      ∧ (brickNrz s.dev b = true → rget e (.hpt b) .hptHistCnt 1 = 0 ∧ rget e (.hpt b) .hptHistCnt 2 = 0 ∧ rget e (.hpt b) .hptHistOfs = o &&& 0xFF0000FF)
      ∧ (brickNrz s.dev b = false → rget e (.hpt b) .hptHistCnt 1 = c1 ∧ rget e (.hpt b) .hptHistCnt 2 = c2 ∧ rget e (.hpt b) .hptHistOfs = o)
      ∧ e = { s.dev with regs := e.regs, bricks := e.bricks } := by
  obtain ⟨h0, h1, h2, h3, h4⟩ := histStored_shows s.dev b c0 (if brickNrz s.dev b then 0 else c1) (if brickNrz s.dev b then 0 else c2) c3
    (if brickNrz s.dev b then o &&& 0xFF0000FF else o)
  refine ⟨_, exec_histDone hr hm, ?_, ?_, h0, h3, fun hn => ?_, fun hn => ?_, rfl⟩
  · rw [brick_brickMod_self]
  · rw [brick_brickMod_self]
  · exact ⟨h1.trans (if_pos hn), h2.trans (if_pos hn), h4.trans (if_pos hn)⟩
  · exact ⟨h1.trans (if_neg (by simp [hn])), h2.trans (if_neg (by simp [hn])), h4.trans (if_neg (by simp [hn]))⟩

/-! ## Lane checkers (R279) -/

theorem getLsbD_ofNat_two_pow {w : Nat} (i k : Nat) (hk : k < w) : (BitVec.ofNat w (2 ^ i)).getLsbD k = decide (i = k) := by
  rw [BitVec.getLsbD_ofNat, decide_eq_true hk, Bool.true_and, Nat.testBit_two_pow]

/-- The lock of a lane, and no other, follows its checker. -/
theorem lock_bit (lock : BitVec 8) (lane : Nat) (locked : Bool) {k : Nat} (hk : k < 8) :
    (if locked then lock ||| BitVec.ofNat 8 (2 ^ lane) else lock &&& ~~~(BitVec.ofNat 8 (2 ^ lane))).getLsbD k
      = if lane = k then locked else lock.getLsbD k := by
  cases locked with
  | true =>
    rw [if_pos rfl, BitVec.getLsbD_or, getLsbD_ofNat_two_pow lane k hk]
    by_cases h : lane = k <;> simp [h]
  | false =>
    rw [if_neg Bool.false_ne_true, BitVec.getLsbD_and, BitVec.getLsbD_not, getLsbD_ofNat_two_pow lane k hk, decide_eq_true hk]
    by_cases h : lane = k <;> simp [h]

theorem exec_prbsCheckerLock {s : State} {b lane : Fin 8} (locked : Bool) (n : BitVec 48) (ht : (brick s.dev b).testing = true)
    (hp : (prbsCtl s.dev b).getLsbD 3 = true) : exec (.prbsCheckerLock b lane locked n) s = .next (onDev s (brickMod s.dev b fun x => { x with
      lock := if locked then x.lock ||| BitVec.ofNat 8 (2 ^ lane.val) else x.lock &&& ~~~(BitVec.ofNat 8 (2 ^ lane.val))
      errs := tabMod 0 x.errs lane fun v => BitVec.ofNat 48 (min (v.toNat + n.toNat) (2 ^ 48 - 1)) })) := by
  show execPrbsCheckerLock b lane locked n s = _
  rw [execPrbsCheckerLock, doneIf_next (by simp [ht, hp])]

/-- Settles O30. -/
theorem laneHardware : Obligations.LaneHardware := by
  refine ⟨fun s p b v ha => exec_histStart v ha, fun s b c0 c1 c2 c3 o hr hm => histDone_stored hr hm, fun s b lane locked n ht hp => ?_,
    fun s p msg answer hu hd => ?_, fun s msg answer hd => ?_⟩
  · refine ⟨_, exec_prbsCheckerLock locked n ht hp, ?_, fun k hk hne => ?_, ?_, rfl⟩
    · rw [brick_brickMod_self]
      exact (lock_bit _ _ _ lane.isLt).trans (if_pos rfl)
    · rw [brick_brickMod_self]
      exact (lock_bit _ _ _ hk).trans (if_neg (Ne.symm hne))
    · rw [brick_brickMod_self]
      dsimp only
      rw [tabGet_tabMod_self, BitVec.toNat_ofNat, Nat.mod_eq_of_lt (by omega)]
  · show execSpdmDoe p msg answer s = _
    rw [execSpdmDoe, doneIf_next (by simp [hu, islandUp, domOn, hd])]
  · show execSpdmOverMctp msg answer s = _
    rw [execSpdmOverMctp, doneIf_next (by simp [islandUp, domOn, hd])]

/-! ## The mailbox (R276) -/

section
variable {s : State} {p : Fin 16} (h : mbServed s.dev p = true)

include h

theorem mbDo_served (f : Dev → Dev) : mbDo s p f = .next (onDev s (f s.dev)) := doneIf_next h

theorem exec_getFwInfo (hf : (head s.dev p).fwOk = true) : exec (.getFwInfo p) s = .next (onDev s (mbAnswer s.dev p 0x0200
    (.firmware (bitOf (rget s.dev .mgt .mgtFwStat) 0) (bitOf (rget s.dev .mgt .mgtFwStat) 1) (s.dev.bootFlag.getLsbD 0) (s.dev.bootFlag.getLsbD 1)))) := by
  show execGetFwInfo p s = _
  rw [execGetFwInfo, mbDo_served h]
  dsimp only
  rw [if_pos hf]

end

/-- Settles O31. -/
theorem mailboxReports : Obligations.MailboxReports := by
  intro s p h
  refine ⟨fun log => ?_, ?_, exec_getFwInfo h, ?_, ?_, ⟨mbOpcodes, ?_, by decide, by decide, by decide, by decide⟩, ?_, ?_, ?_, ⟨Config.free (fresh s.dev), ?_⟩,
    ⟨bytesOf (Config.free (fresh s.dev)) 16, ?_⟩, ?_, ?_, ?_, ?_, ?_, fun op => ?_⟩
  · show execGetEventRecords p log s = _
    exact mbDo_served h _
  · show execGetEventInterruptPolicy p s = _
    exact mbDo_served h _
  · show execGetTimestamp p s = _
    exact mbDo_served h _
  · show execGetSupportedLogs p s = _
    exact mbDo_served h _
  · show execGetLog p true s = _
    exact mbDo_served h _
  · show execGetLog p false s = _
    exact mbDo_served h _
  · show execIdentifyMemoryDevice p s = _
    exact mbDo_served h _
  · show execGetPartitionInfo p s = _
    exact mbDo_served h _
  · show execGetHealthInfo p s = _
    exact mbDo_served h _
  · show execGetAlertConfiguration p s = _
    exact mbDo_served h _
  · show execGetPoisonList p s = _
    exact mbDo_served h _
  · show execGetDynamicCapacityConfiguration p s = _
    exact mbDo_served h _
  · show execGetDynamicCapacityExtentList p s = _
    exact mbDo_served h _
  · show execSanitize p s = _
    exact mbDo_served h _
  · show execSecureErase p s = _
    exact mbDo_served h _
  · show execUnsupportedOpcode p op s = _
    exact mbDo_served h _

/-! ## Mailbox commands that change something (R85, R86, R168, R169, R348) -/

theorem clearRecords_oldest {d : Dev} {p log : Nat} {hs : List Nat} (h : (((head d p).logs.getD log []).take hs.length).map (·.handle) = hs) :
    clearRecords d p log (some hs) = mbAnswer (headMod d p fun x => { x with
      logs := x.logs.set log (((head d p).logs.getD log []).drop hs.length), lost := x.lost.set log 0 }) p 0x0101 .none := if_pos h

theorem clearRecords_other {d : Dev} {p log : Nat} {hs : List Nat} (h : (((head d p).logs.getD log []).take hs.length).map (·.handle) ≠ hs) :
    clearRecords d p log (some hs) = mbAnswer d p 0x0101 .none 0xE := if_neg h

section
variable {d : Dev} {p n : Nat} {sec last : Bool}

theorem transferFw_refused (h : (head d p).fwOk = false) : transferFw d p sec last n = mbAnswer d p 0x0201 .none 3 := if_pos (by simp [h])

theorem transferFw_first (h : (head d p).fwOk = true) (hx : d.fwXfer = none) : transferFw d p sec last n
    = mbAnswer { d with fwXfer := some { head := p, secure := sec, bytes := n, complete := last } } p 0x0201 .none := by
  unfold transferFw
  dsimp only
  rw [if_neg (not_not_intro h), hx]
  rfl

theorem transferFw_kept {x : FwXfer} (h : (head d p).fwOk = true) (hx : d.fwXfer = some x) (hc : x.complete = false) (hp : x.head ≠ p) :
    transferFw d p sec last n = mbAnswer d p 0x0201 .none 6 := by
  unfold transferFw
  dsimp only
  rw [if_neg (not_not_intro h), hx]
  dsimp only
  rw [if_neg (by simp [hc]), if_pos hp]
  rfl

theorem transferFw_next {x : FwXfer} (h : (head d p).fwOk = true) (hx : d.fwXfer = some x) (hc : x.complete = false) (hp : x.head = p) :
    transferFw d p sec last n
      = mbAnswer { d with fwXfer := some { x with secure := sec, bytes := x.bytes + n, complete := last } } p 0x0201 .none := by
  unfold transferFw
  dsimp only
  rw [if_neg (not_not_intro h), hx]
  dsimp only
  rw [if_neg (by simp [hc]), if_neg (not_not_intro hp)]
  rfl

end

section
variable {d : Dev} {p : Nat} {x : FwXfer} (h : (head d p).fwOk = true) (hx : d.fwXfer = some x)

include h hx

theorem activateFw_incomplete {ok : Bool} (hc : x.complete = false) : activateFw d p ok = mbAnswer d p 0x0202 .none 8 := by
  unfold activateFw
  dsimp only
  rw [hx, if_neg (not_not_intro h), if_pos (by simp [hc])]
  rfl

theorem activateFw_unverified (hc : x.complete = true) : activateFw d p false = mbAnswer d p 0x0202 .none 2 := by
  unfold activateFw
  dsimp only
  rw [hx, if_neg (not_not_intro h), if_neg (by simp [hc]), if_pos Bool.false_ne_true]
  rfl

/-- A secure image that verifies is what the flag names from now on: the copy that does not run. -/
theorem activateFw_secure (hc : x.complete = true) (hs : x.secure = true) : activateFw d p true = mbAnswer { d with
    fwXfer := none, bootFlag := if bitOf (rget d .mgt .mgtFwStat) 0 then d.bootFlag &&& ~~~1 else d.bootFlag ||| 1 } p 0x0202 .none := by
  unfold activateFw
  dsimp only
  rw [hx, if_neg (not_not_intro h), if_neg (by simp [hc]), if_neg (not_not_intro rfl)]
  dsimp only
  rw [if_pos hs]
  rfl

end

theorem exec_activateFw {s : State} {p : Fin 16} (h : mbServed s.dev p = true) (ok : Bool) :
    exec (.activateFw p ok) s = .next (onDev s (activateFw s.dev p ok)) := by
  show execActivateFw p ok s = _
  exact mbDo_served h _

/-- The flag of the secure image flips, the other stays. -/
theorem bootFlag_bits (c : Bool) (v : BitVec 2) : (if c then v &&& ~~~1 else v ||| 1).getLsbD 1 = v.getLsbD 1
    ∧ (if c then v &&& ~~~1 else v ||| 1).getLsbD 0 = !c := by
  revert c v
  decide

theorem acceptExtent_offered {d : Dev} {p x : Nat} (h : (x, p) ∈ d.cap.offers) : acceptExtent d p x = mbAnswer (raiseEvent { d with cap := { d.cap with
    offers := d.cap.offers.filter fun e => e ≠ (x, p), granted := d.cap.granted ++ [(x, p)] } } (.dolly 1) 1) p 0x4802 .none := if_pos (by simpa using h)

theorem acceptExtent_other {d : Dev} {p x : Nat} (h : (x, p) ∉ d.cap.offers) : acceptExtent d p x = mbAnswer d p 0x4802 .none 0xF := if_neg (by simpa using h)

theorem exec_addDynamicCapacityResponse {s : State} {p : Fin 16} (h : mbServed s.dev p = true) (x : BitVec 15) :
    exec (.addDynamicCapacityResponse p x) s = .next (onDev s (acceptExtent s.dev p x.toNat)) := by
  show execAddDynamicCapacityResponse p x s = _
  exact mbDo_served h _

theorem giveBack_granted {d : Dev} {p x : Nat} (h : (x, p) ∈ d.cap.granted) :
    giveBack d p x = mbAnswer (releaseEnded (releaseExtent d x) p) p 0x4803 .none := if_pos (by simpa using h)

theorem giveBack_other {d : Dev} {p x : Nat} (h : (x, p) ∉ d.cap.granted) : giveBack d p x = mbAnswer d p 0x4803 .none 0xF := if_neg (by simpa using h)

theorem poisonCmd_may {d : Dev} {p op page : Nat} (f : Dev → Dev) (ho : outsideCapacity d p page = false) (hr : hostRight d p page = true)
    (hf : quadFenced d (homeOf page) = false) : poisonCmd d p op page f = mbAnswer (f d) p op .none := by
  unfold poisonCmd
  rw [if_neg (by simp [ho]), if_neg (by simp [hr]), if_neg (by simp [hf])]
  rfl

/-- Settles O32. -/
theorem mailboxChanges : Obligations.MailboxChanges := by
  intro s p h
  refine ⟨fun log => ?_, fun log hs => ⟨fun hh => ?_, fun hh => ?_⟩, fun policy => ?_, fun cfg => ?_, fun ns => ?_, fun sec last chunk => ⟨fun hf => ?_,
    fun hf hx => ?_, fun x hf hx hc hp => ?_, fun x hf hx hc hp => ?_⟩, fun ok x hf hx => ⟨fun hc => ?_, fun hc ho => ?_, fun hc ho hs => ?_⟩,
    fun x => ⟨fun hm => ?_, fun hm => ?_, fun hm => ?_, fun hm => ?_⟩, fun dpa data ho hr hf => ⟨?_, ?_⟩⟩
  · show execClearEventRecords p log none s = _
    exact mbDo_served h _
  · show execClearEventRecords p log (some hs) s = _
    rw [execClearEventRecords, mbDo_served h, clearRecords_oldest hh]
  · show execClearEventRecords p log (some hs) s = _
    rw [execClearEventRecords, mbDo_served h, clearRecords_other hh]
  · show execSetEventInterruptPolicy p policy s = _
    exact mbDo_served h _
  · show execSetAlertConfiguration p cfg s = _
    exact mbDo_served h _
  · show execSetTimestamp p ns s = _
    exact mbDo_served h _
  · show execTransferFw p sec last chunk s = _
    rw [execTransferFw, mbDo_served h, transferFw_refused hf]
  · show execTransferFw p sec last chunk s = _
    rw [execTransferFw, mbDo_served h, transferFw_first hf hx]
  · show execTransferFw p sec last chunk s = _
    rw [execTransferFw, mbDo_served h, transferFw_kept hf hx hc hp]
  · show execTransferFw p sec last chunk s = _
    rw [execTransferFw, mbDo_served h, transferFw_next hf hx hc hp]
  · rw [exec_activateFw h, activateFw_incomplete hf hx hc]
  · rw [exec_activateFw h, ho, activateFw_unverified hf hx hc]
  · subst ho
    exact ⟨_, next_of_eq (exec_activateFw h true) (activateFw_secure hf hx hc hs), rfl, (bootFlag_bits _ _).1,
      (bootFlag_bits _ _).2⟩
  · exact ⟨_, next_of_eq (exec_addDynamicCapacityResponse h x) (acceptExtent_offered hm), rfl, rfl, by simp⟩
  · rw [exec_addDynamicCapacityResponse h, acceptExtent_other hm]
  · show execReleaseDynamicCapacity p x s = _
    rw [execReleaseDynamicCapacity, mbDo_served h, giveBack_granted hm]
  · show execReleaseDynamicCapacity p x s = _
    rw [execReleaseDynamicCapacity, mbDo_served h, giveBack_other hm]
  · show execInjectPoison p dpa s = _
    rw [execInjectPoison, mbDo_served h, poisonCmd_may _ ho hr hf]
  · show execClearPoison p dpa data s = _
    rw [execClearPoison, mbDo_served h, poisonCmd_may _ ho hr hf]

end Sys2Proof.Machine
end

section
/-! PROOFS. The Marwen link: bring-up (R284 to R286), flits received (R295 to R302, R306, R308), timers and the choice of the next flit (R295 to
R303). -/

namespace Sys2Proof.Machine

/-! ## Ports and received flits -/

theorem mportMod_congr {d : Dev} {b : Nat} {f g : MPort → MPort} (h : f (mport d b) = g (mport d b)) : mportMod d b f = mportMod d b g := by
  unfold mportMod tabMod
  rw [show tabGet {} d.mports b = mport d b from rfl, h]

theorem mport_congr {d e : Dev} (h : e.mports = d.mports) (b : Nat) : mport e b = mport d b := by unfold mport; rw [h]

theorem kindOf_data (h : Hdr) (slots : List (BitVec 128)) : kindOf h slots = .data ↔ h.typ = 1 := by
  unfold kindOf
  split <;> simp_all

/-- A received flit is a bad one, or what its header says. -/
theorem openFlit_kind {d : Dev} {b : Nat} {f : BitVec 2048} {k : FlitKind} {h : Hdr} {slots : List (BitVec 128)} (ho : openFlit d b f = (k, h, slots)) :
    (∃ t, k = .bad t) ∨ k = kindOf h slots := by
  unfold openFlit at ho
  dsimp only at ho
  repeat' split at ho
  all_goals
    cases ho
    first
      | exact .inl ⟨_, rfl⟩
      | exact .inr rfl

theorem openFlit_congr {d e : Dev} (h1 : e.mports = d.mports) (h2 : e.mwKeys = d.mwKeys) (b : Nat) (f : BitVec 2048) : openFlit e b f = openFlit d b f := by
  simp only [openFlit, mport_congr h1, mwKey, h2]

section
variable {s : State} {b : Fin 8} {f : BitVec 2048} {k : FlitKind} {h : Hdr} {slots : List (BitVec 128)}

theorem flitRow_next (is : FlitKind → Bool) (act : Dev → Hdr → List (BitVec 128) → Dev) (hr : linkReceives s.dev b = true)
    (ho : openFlit s.dev b f = (k, h, slots)) (hi : is k = true) : flitRow s b f is act = .next (onDev s (act s.dev h slots)) := by
  unfold flitRow
  rw [ho]
  exact doneIf_next (by simp [hr, hi])

theorem seqDist_self (a : BitVec 12) : seqDist a.toNat a.toNat = 0 := by
  have := a.isLt
  unfold seqDist
  omega

theorem flitGood_quiet (act : Dev → Dev) {d : Dev} {b : Nat} (ha : h.ackv = false) (hs : h.seq = (mport d b).rxE.toNat) :
    flitGood d b h slots act = if h.typ = 1 then acceptGeneral (deliverFlit d b h slots false) b else act d := by
  have hau : ackUse d b h = d := if_pos (by simp [ha])
  unfold flitGood
  dsimp only
  rw [hau, hs, seqDist_self, if_pos rfl]

/-- A flit that is next and is no DATA does what its kind does. -/
theorem flitRow_inSequence (is : FlitKind → Bool) (act : Dev → Hdr → List (BitVec 128) → Dev) (hq : inSequence s b f k h slots) (hi : is k = true)
    (hd : k ≠ .data) (hb : ∀ t, k ≠ .bad t) :
    flitRow s b f is (fun d h slots => flitGood d b h slots fun d => act d h slots) = .next (onDev s (act s.dev h slots)) := by
  obtain ⟨hr, ho, ha, hs⟩ := hq
  rw [flitRow_next is _ hr ho hi, flitGood_quiet _ ha hs, if_neg]
  intro ht
  rcases openFlit_kind ho with ⟨t, hk⟩ | hk
  · exact hb t hk
  · exact hd (hk.trans ((kindOf_data h slots).2 ht))

theorem typ_of_data {d : Dev} {b : Nat} (ho : openFlit d b f = (.data, h, slots)) : h.typ = 1 := by
  rcases openFlit_kind ho with ⟨t, hk⟩ | hk
  · cases hk
  · exact (kindOf_data h slots).1 hk.symm

end

section
variable {s : State} {b : Fin 8} {f : BitVec 2048} {h : Hdr} {slots : List (BitVec 128)}

theorem exec_init (hq : inSequence s b f (.lctl 1) h slots) : exec (.init b f) s = .next (onDev s (initReceive s.dev b (slots.headD 0))) := by
  show execInit b f s = _
  rw [execInit]
  exact flitRow_inSequence (· = .lctl 1) (fun d _ slots => initReceive d b (slots.headD 0)) hq rfl (by decide) (by simp)

theorem exec_initDone (hq : inSequence s b f (.lctl 2) h slots) : exec (.initDone b f) s = .next (onDev s (initDoneReceive s.dev b)) := by
  show execInitDone b f s = _
  rw [execInitDone]
  exact flitRow_inSequence (· = .lctl 2) (fun d _ _ => initDoneReceive d b) hq rfl (by decide) (by simp)

theorem exec_ccFlit (hq : inSequence s b f .cc h slots) : exec (.ccFlit b f) s = .next (onDev s (ccReceive s.dev b h slots f)) := by
  show execCcFlit b f s = _
  rw [execCcFlit]
  exact flitRow_inSequence (· = .cc) (fun d h slots => ccReceive d b h slots f) hq rfl (by decide) (by simp)

theorem exec_nakFlit (hq : inSequence s b f .nak h slots) : exec (.nakFlit b f) s = .next (onDev s (nakReceive s.dev b h.ack)) := by
  show execNakFlit b f s = _
  rw [execNakFlit]
  exact flitRow_inSequence (· = .nak) (fun d h _ => nakReceive d b h.ack) hq rfl (by decide) (by simp)

theorem exec_keyswAck (hq : inSequence s b f (.lctl 8) h slots) {k : Bool} (hk : decide (lctlField (slots.headD 0) 10 1 % 2 = 1) = k)
    (hs : (mport s.dev b).switch = some k) : exec (.keyswAck b f) s = .next (onDev s (mportMod s.dev b fun m => { m with
      ks := some k, switch := none, txCtr := 0, ccCtr := 0, rekeyed := false, lctl := m.lctl.filter fun x => lctlOp x ≠ 7 })) := by
  subst hk
  show execKeyswAck b f s = _
  rw [execKeyswAck]
  refine (flitRow_inSequence (· = .lctl 8) _ hq rfl (by decide) (by simp)).trans ?_
  dsimp only
  rw [if_pos hs]

theorem exec_flitSlotOpen (hr : linkReceives s.dev b = true) (hv : (mport s.dev b).recovering = false) :
    exec (.flitSlotOpen b) s = .next (onDev s (flitSlot s.dev b)) := by
  show execFlitSlotOpen b s = _
  rw [execFlitSlotOpen, doneIf_next (by simp [hr, hv])]

end

/-! ## LCTL messages -/

theorem lctlOp_lctlSlot (d : Dev) {op : Nat} (rest : Nat) (h : op < 256) : lctlOp (lctlSlot d op rest) = op := by
  unfold lctlOp lctlField lctlSlot
  simp only [BitVec.toNat_ofNat]
  omega

theorem lctlOps (d : Dev) (ks : Bool) : lctlOp (lctlInitDone d) = 2 ∧ lctlOp (lctlKeyswAck d ks) = 8 :=
  ⟨lctlOp_lctlSlot d _ (by decide), lctlOp_lctlSlot d _ (by decide)⟩

theorem mport_lctlDue (d : Dev) (b : Nat) (x : BitVec 128) : mport (lctlDue d b x) b = { mport d b with
    lctl := if (mport d b).lctl.any (fun y => lctlOp y = lctlOp x) then (mport d b).lctl else (mport d b).lctl ++ [x] } := by
  unfold lctlDue
  rw [mport_mportMod_self]
  split <;> rfl

/-! ## Bring-up (R284 to R286) -/

theorem exec_linkTrained {s : State} {b : Fin 8} (lanes : BitVec 8) (hm : s.dev.marwen.getLsbD b = true) (hs : (mport s.dev b).state = 1) :
    exec (.linkTrained b lanes []) s = .next (onDev s (if chooseLanes (lanes &&& (mport s.dev b).lock) = 0 then s.dev
      else lctlDue (mportMod s.dev b fun m => { m with
        state := 2, mask := chooseLanes (lanes &&& (mport s.dev b).lock), width := laneCount (chooseLanes (lanes &&& (mport s.dev b).lock))
        leader := decide (selfId s.dev < expectedPeer s.dev b), since := s.dev.pwr.now }) b (lctlInit s.dev))) := by
  show execLinkTrained b lanes [] s = _
  rw [execLinkTrained, doneIf_next (by simp [hm, hs])]
  rfl

section
variable {d : Dev} {b : Nat} {x : BitVec 128} (hs : (mport d b).state = 2)

include hs

/-- INIT of the expected peer (R286). -/
theorem initReceive_peer (hp : lctlField x 9 1 % 64 = expectedPeer d b) (hc : ∀ i, i < 5 → 14 ≤ lctlField x (10 + 2 * i) 2)
    (hg : (mport d b).initGot = false) : initReceive d b x = lctlDue (mportMod d b fun m => { m with
      initGot := true, peerInit := (List.range 5).map fun i => lctlField x (10 + 2 * i) 2, credits := (List.range 5).map fun i => lctlField x (10 + 2 * i) 2
      peerId := BitVec.ofNat 6 (lctlField x 9 1), lctl := m.lctl.filter fun x => lctlOp x ≠ 1 }) b (lctlInitDone d) := by
  have hn : ¬ ((List.range 5).map fun i => lctlField x (10 + 2 * i) 2).any (· < 14) = true := fun h => by
    obtain ⟨y, hy, hlt⟩ := List.any_eq_true.1 h
    obtain ⟨i, hi, rfl⟩ := List.mem_map.1 hy
    exact absurd (hc i (List.mem_range.1 hi)) (Nat.not_le.2 (of_decide_eq_true hlt))
  unfold initReceive
  dsimp only
  rw [if_neg (by simp [hs]), if_neg (by simp [hp]), if_neg hn, if_neg (by simp [hg])]

/-- INIT of another peer (R285). -/
theorem initReceive_other (hp : lctlField x 9 1 % 64 ≠ expectedPeer d b) :
    (mport (initReceive d b x) b).state = 0 ∧ (mport (initReceive d b x) b).initRetry = true := by
  unfold initReceive
  dsimp only
  rw [if_neg (by simp [hs]), if_pos hp, mport_mportMod_self]
  exact ⟨rfl, rfl⟩

theorem initDoneReceive_active (hd : (mport d b).doneSent = true) (hg : (mport d b).initGot = true) :
    initDoneReceive d b = linkActive (mportMod d b fun m => { m with doneGot := true }) b := by
  unfold initDoneReceive
  rw [if_neg (by simp [hs])]
  dsimp only
  rw [if_pos (by rw [mport_mportMod_self]; exact ⟨hd, hg⟩)]

theorem initDoneReceive_first (hd : (mport d b).doneSent = false) : initDoneReceive d b = mportMod d b fun m => { m with doneGot := true } := by
  unfold initDoneReceive
  rw [if_neg (by simp [hs])]
  dsimp only
  rw [if_neg (by rw [mport_mportMod_self]; simp [hd])]

end

/-- The INIT of the expected peer is kept, with its credits, and INIT_DONE is due instead of INIT. -/
theorem init_kept {d : Dev} {b : Nat} {x : BitVec 128} (hs : (mport d b).state = 2) (hp : lctlField x 9 1 % 64 = expectedPeer d b)
    (hc : ∀ i, i < 5 → 14 ≤ lctlField x (10 + 2 * i) 2) (hg : (mport d b).initGot = false) :
    (mport (initReceive d b x) b).initGot = true ∧ (mport (initReceive d b x) b).state = 2
      ∧ (∀ i, i < 5 → (mport (initReceive d b x) b).peerInit.getD i 0 = lctlField x (10 + 2 * i) 2)
      ∧ (∃ y ∈ (mport (initReceive d b x) b).lctl, lctlOp y = 2) ∧ (∀ y ∈ (mport (initReceive d b x) b).lctl, lctlOp y ≠ 1)
      ∧ initReceive d b x = { d with mports := (initReceive d b x).mports } := by
  rw [initReceive_peer hs hp hc hg, mport_lctlDue, mport_mportMod_self]
  refine ⟨rfl, hs, fun i hi => ?_, ?_, ?_, rfl⟩
  · simp [hi]
  · dsimp only
    split
    · rename_i h
      obtain ⟨y, hy, he⟩ := List.any_eq_true.1 h
      exact ⟨y, hy, (of_decide_eq_true he).trans (lctlOps d false).1⟩
    · exact ⟨_, List.mem_append_right _ List.mem_cons_self, (lctlOps d false).1⟩
  · have hf : ∀ y ∈ (mport d b).lctl.filter (fun x => lctlOp x ≠ 1), lctlOp y ≠ 1 := fun y hy => of_decide_eq_true (List.mem_filter.1 hy).2
    dsimp only
    split
    · exact hf
    · intro y hy
      rcases List.mem_append.1 hy with hy | hy
      · exact hf y hy
      · rw [List.mem_singleton.1 hy, (lctlOps d false).1]
        decide

/-- A link that becomes Active begins afresh with its peer's credits (R286). -/
theorem linkActive_shows (d : Dev) (b : Nat) : ∃ e, linkActive d b = raiseEvent e (.mwl b) 0 ∧ (mport e b).state = 3
    ∧ (mport e b).credits = (mport d b).peerInit ∧ (mport e b).rxE = 0 ∧ (mport e b).txN = 0 ∧ (mport e b).cce = 0 ∧ (mport e b).ccN = 0
    ∧ (mport e b).replayBuf = [] ∧ e = { d with mports := e.mports } := by
  refine ⟨mportMod d b fun m => { m with
    state := 3, credits := m.peerInit, rxE := 0, txN := 0, cce := 0, ccN := 0, replayBuf := [], ccOut := [], reorder := [] }, rfl, ?_⟩
  refine ⟨?_, ?_, ?_, ?_, ?_, ?_, ?_, rfl⟩ <;> rw [mport_mportMod_self]

/-- Settles O33. -/
theorem linkBringUp : Obligations.LinkBringUp := by
  refine ⟨fun s b lanes hm hs => ⟨fun h0 => ?_, fun h0 => ?_⟩, fun s b f h x rest hq hs => ?_, fun s b f h slots hq hs => ?_, fun s b hr => ?_,
    fun s b hr hs hw hrs hsw => ?_⟩
  · rw [exec_linkTrained lanes hm hs, if_pos h0]
  · rw [exec_linkTrained lanes hm hs, if_neg h0]
  · exact ⟨fun hp hc hg => ⟨_, exec_init hq, init_kept hs hp hc hg⟩, fun hp => ⟨_, exec_init hq, initReceive_other hs hp⟩⟩
  · refine ⟨fun hd hg => ?_, fun hd => ?_⟩
    · obtain ⟨e, h1, h2, h3, h4, h5, h6, h7, h8, h9⟩ := linkActive_shows (mportMod s.dev b fun m => { m with doneGot := true }) b
      rw [mport_mportMod_self] at h3
      exact ⟨e, by rw [exec_initDone hq, initDoneReceive_active hs hd hg, h1], h2, h3, h4, h5, h6, h7, h8, h9⟩
    · rw [exec_initDone hq, initDoneReceive_first hs hd]
  · show execInitRetry b s = _
    rw [execInitRetry, doneIf_next hr]
  · show execLctlRepeat b s = _
    rw [execLctlRepeat, doneIf_next hr]
    dsimp only
    rw [hs, hw, hrs, hsw]
    simp

/-! ## Flits received (R295 to R302) -/

theorem ccDist_self (a : BitVec 10) : ccDist a.toNat a.toNat = 0 := by
  have := a.isLt
  unfold ccDist
  omega

/-- A CC flit that is next, with none held behind it (R298). -/
theorem ccReceive_next {d : Dev} {b : Nat} {h : Hdr} {slots : List (BitVec 128)} {f : BitVec 2048} (hn : h.ccseq = (mport d b).cce.toNat)
    (hr : (mport (acceptCc (deliverFlit d b h slots true) b) b).reorder = []) :
    ccReceive d b h slots f = acceptCc (deliverFlit d b h slots true) b := by
  unfold ccReceive
  dsimp only
  rw [hn, ccDist_self, if_pos rfl, drainReorder, hr]
  rfl

/-- A CC flit ahead of the next one, within the window, is held (R299). -/
theorem ccReceive_held {d : Dev} {b : Nat} {h : Hdr} {slots : List (BitVec 128)} {f : BitVec 2048} (h0 : 0 < ccDist h.ccseq (mport d b).cce.toNat)
    (h1 : ccDist h.ccseq (mport d b).cce.toNat < 64) (hn : ∀ x ∈ (mport d b).reorder, x.1.toNat ≠ h.ccseq) :
    ccReceive d b h slots f = mportMod d b fun m => { m with reorder := m.reorder ++ [(BitVec.ofNat 10 h.ccseq, f)], sackDue := true } := by
  unfold ccReceive
  dsimp only
  rw [if_neg (by omega), if_pos h1, if_neg]
  intro ha
  obtain ⟨x, hx, he⟩ := List.any_eq_true.1 ha
  exact hn x hx (of_decide_eq_true he)

/-- A NAK for the oldest flit (R296). -/
theorem nakReceive_oldest {d : Dev} {b : Nat} {x : BitVec 12 × BitVec 2048} {rest : List (BitVec 12 × BitVec 2048)}
    (hb : (mport d b).replayBuf = x :: rest) : nakReceive d b x.1.toNat = replayStart d b true := by
  unfold nakReceive
  dsimp only
  rw [hb]
  dsimp only
  rw [seqDist_self, if_neg (by decide), if_neg (by simp), if_pos rfl]

/-- KEYSW with the numbers that come next begins the counters of the set at 0 (R306). -/
theorem keyswReceive_next {d : Dev} {b : Nat} {x : BitVec 128} (hr : (mport d b).rxStart = []) (h1 : lctlField x 12 2 % 4096 = (mport d b).rxE.toNat)
    (h2 : lctlField x 14 2 % 1024 = (mport d b).cce.toNat) (hl : ∀ y ∈ (mport d b).lctl, lctlOp y ≠ 8) :
    tabGet (1, 1) (mport (keyswReceive d b x) b).rxCtr (lctlField x 10 1 % 2) = (0, 0)
      ∧ (mport (keyswReceive d b x) b).lctl = (mport d b).lctl ++ [lctlKeyswAck d (decide (lctlField x 10 1 % 2 = 1))]
      ∧ keyswReceive d b x = { d with mports := (keyswReceive d b x).mports } := by
  have hn : ¬ (mport d b).lctl.any (fun y => lctlOp y = lctlOp (lctlKeyswAck d (decide (lctlField x 10 1 % 2 = 1)))) = true := fun h => by
    obtain ⟨y, hy, he⟩ := List.any_eq_true.1 h
    exact hl y hy ((of_decide_eq_true he).trans (lctlOps d _).2)
  have key : keyswReceive d b x = lctlDue (mportMod d b fun m => { m with
      rxStart := tabIns m.rxStart (lctlField x 10 1 % 2) (BitVec.ofNat 12 (lctlField x 12 2 % 4096), BitVec.ofNat 10 (lctlField x 14 2 % 1024))
      rxCtr := tabIns m.rxCtr (lctlField x 10 1 % 2) (0, 0) }) b (lctlKeyswAck d (decide (lctlField x 10 1 % 2 = 1))) := by
    unfold keyswReceive
    dsimp only
    rw [if_neg (by rw [hr]; simp)]
    refine congrArg (fun d => lctlDue d b _) (mportMod_congr ?_)
    rw [h1, h2, seqDist_self, ccDist_self]
    rfl
  rw [key, mport_lctlDue, mport_mportMod_self]
  dsimp only
  rw [if_neg hn]
  exact ⟨tabGet_tabIns_self .., rfl, rfl⟩

section
variable {s : State} {b : Fin 8} {f : BitVec 2048} {h : Hdr} {slots : List (BitVec 128)} (hr : linkReceives s.dev b = true)

include hr

/-- A DATA flit ahead of the one expected asks for a NAK once (R295). -/
theorem exec_dataFlit_ahead (ho : openFlit s.dev b f = (.data, h, slots)) (ha : h.ackv = false) (h0 : 0 < seqDist h.seq (mport s.dev b).rxE.toNat)
    (h1 : seqDist h.seq (mport s.dev b).rxE.toNat < 2048) :
    exec (.dataFlit b f) s = .next (onDev s (if (mport s.dev b).nakSent then s.dev else nakAsk s.dev b)) := by
  show execDataFlit b f s = _
  rw [execDataFlit, flitRow_next (· = .data) _ hr ho rfl]
  have hau : ackUse s.dev b h = s.dev := if_pos (by simp [ha])
  unfold flitGood
  dsimp only
  rw [hau, if_neg (Nat.ne_of_gt h0), if_pos h1, if_pos (by simp [typ_of_data ho])]

theorem exec_badFlit {t : Bool} (ho : openFlit s.dev b f = (.bad t, h, slots)) : exec (.badFlit b f) s
    = .next (onDev s (if t then mwlRaise (rbump (countMarwen (rbump s.dev (.mwl b) .mwlBadFlits) b 5 1) (.mwl b) .mwlTagFails) b 2 h.seq
      else countMarwen (rbump s.dev (.mwl b) .mwlBadFlits) b 5 1)) := by
  have hc : openFlit (countMarwen (rbump s.dev (.mwl b) .mwlBadFlits) b 5 1) b f = (.bad t, h, slots) := (openFlit_congr rfl rfl b f).trans ho
  show execBadFlit b f s = _
  rw [execBadFlit, flitRow_next _ _ hr ho (by cases t <;> rfl)]
  dsimp only
  rw [hc]
  cases t <;> rfl

end

/-- Settles O35. -/
theorem flitsReceived : Obligations.FlitsReceived := by
  refine ⟨fun s b f h slots => ⟨fun hq => ⟨_, ?_, rfl⟩, fun hq => ?_, fun hq hn _ hr => ?_, fun hq h0 h1 hn => ?_, fun hq x rest hb hk => ?_, fun hq => ?_,
    fun hq => ?_, fun hq k hk he => ?_, fun hq hr h1 h2 hl => ⟨_, ?_, keyswReceive_next hr h1 h2 hl⟩⟩,
    fun s b f h slots hr => ⟨fun ho ha h0 h1 => ⟨fun hn => ?_, fun hn => ?_⟩, fun ho => ?_, fun ho => ?_⟩⟩
  · obtain ⟨hr, ho, ha, hs⟩ := hq
    show execDataFlit b f s = _
    rw [execDataFlit, flitRow_next (· = .data) _ hr ho rfl, flitGood_quiet _ ha hs, if_pos (typ_of_data ho)]
  · show execIdleFlit b f s = _
    rw [execIdleFlit]
    exact flitRow_inSequence (· = .idle) (fun d _ _ => d) hq rfl (by decide) (by simp)
  · rw [exec_ccFlit hq, ccReceive_next hn hr]
  · rw [exec_ccFlit hq, ccReceive_held h0 h1 hn]
  · rw [exec_nakFlit hq, hk, nakReceive_oldest hb]
  · show execSackFlit b f s = _
    rw [execSackFlit]
    exact flitRow_inSequence (· = .sack) (fun d _ slots => sackReceive d b (slots.headD 0)) hq rfl (by decide) (by simp)
  · obtain ⟨hr, ho, ha, hs⟩ := hq
    show execReservedFlit b f s = _
    have hau : ackUse s.dev b h = s.dev := if_pos (by simp [ha])
    rw [execReservedFlit, flitRow_next (· = .reserved) _ hr ho rfl, hau]
    rfl
  · exact exec_keyswAck hq he hk
  · show execKeysw b f s = _
    rw [execKeysw]
    exact flitRow_inSequence (· = .lctl 7) (fun d _ slots => keyswReceive d b (slots.headD 0)) hq rfl (by decide) (by simp)
  · rw [exec_dataFlit_ahead hr ho ha h0 h1, hn]
    rfl
  · rw [exec_dataFlit_ahead hr ho ha h0 h1, hn]
    rfl
  · rw [exec_badFlit hr ho, if_neg Bool.false_ne_true]
  · rw [exec_badFlit hr ho, if_pos rfl]

/-! ## Timers and slots (R295 to R303) -/

theorem replayStart_early {d : Dev} {b : Nat} (hb : (mport d b).replayBuf ≠ []) (ht : (mport d b).replayTries < 3) :
    replayStart d b true = countMarwen (rbump (mportMod d b fun m => { m with
      replayAt := some 0, replayRun := m.replayBuf.getLast?.map (·.1), replayTries := (mport d b).replayTries + 1 }) (.mwl b) .mwlReplays) b 3 1 := by
  unfold replayStart
  dsimp only
  rw [if_neg (by simpa using hb), if_neg (fun h => absurd h.1 (by simp only [if_true]; omega))]
  rfl

/-- A slot with no message due looks at NAK and SACK first, then at a replay (R303). -/
theorem flitSlot_nak {d : Dev} {b : Nat} (hl : (mport d b).lctl = []) (h : (mport d b).nakDue = true ∨ (mport d b).sackDue = true) :
    flitSlot d b = sendNak d b := by
  unfold flitSlot
  dsimp only
  rw [hl]
  exact if_pos h

section
variable {d : Dev} {b : Nat} (hl : (mport d b).lctl = []) (hn : (mport d b).nakDue = false) (hk : (mport d b).sackDue = false)

include hl hn hk

theorem flitSlot_replay {i : Nat} {x : BitVec 12 × BitVec 2048} (hi : (mport d b).replayAt = some i) (hx : (mport d b).replayBuf[i]? = some x) :
    flitSlot d b = sendReplay d b i x.2 := by
  unfold flitSlot
  dsimp only
  rw [hl, if_neg (by simp [hn, hk]), hi]
  dsimp only [Option.bind_some]
  rw [hx]
  rfl

theorem flitSlot_again {x : CcOut} {rest : List CcOut} (hi : (mport d b).replayAt = none) (hc : (mport d b).ccOut = x :: rest) (ha : x.again = true) :
    flitSlot d b = sendAgain d b x := by
  unfold flitSlot
  dsimp only
  rw [hl, if_neg (by simp [hn, hk]), hi, hc, List.find?_cons_of_pos ha]
  rfl

theorem flitSlot_idle (hi : (mport d b).replayAt = none) (hc : (mport d b).ccOut = []) (hs : (mport d b).state ≠ 3) :
    flitSlot d b = sentFlit d b (sendHdr d b 0) (mkFlit (sendHdr d b 0) [] none) := by
  have hg : newFlits d b = false := by simp [newFlits, hs]
  unfold flitSlot
  dsimp only
  rw [hl, if_neg (by simp [hn, hk]), hi, hc, hg]
  simp

end

/-- Settles O36. -/
theorem linkTimersAndSlots : Obligations.LinkTimersAndSlots := by
  refine ⟨fun s b hn => ⟨fun hc => ?_, fun hc => ?_⟩, fun s b x rest hb ht => ?_, fun s b x hc => ?_, fun s b hr => ?_,
    fun s b ha => ?_, fun s b hr hv => ⟨fun x rest hl => ?_, fun hl h => ?_, fun i x hl hn hk hi hx => ?_,
      fun x rest hl hn hk hi hc ha => ?_, fun hl hn hk hi hc hs => ?_⟩⟩
  · show execNakTimer b s = _
    rw [execNakTimer, doneIf_next hn, if_neg (Nat.not_le.2 hc)]
    rfl
  · show execNakTimer b s = _
    rw [execNakTimer, doneIf_next hn, if_pos hc]
  · have he : exec (.replayTimer b) s = .next (onDev s (replayStart s.dev b true)) := by
      show execReplayTimer b s = _
      rw [execReplayTimer, doneIf_next (by simp [hb])]
    have hm : mport (replayStart s.dev b true) b = { mport s.dev b with
        replayAt := some 0, replayRun := (mport s.dev b).replayBuf.getLast?.map (·.1), replayTries := (mport s.dev b).replayTries + 1 } := by
      rw [replayStart_early (by simp [hb]) ht]
      exact (mport_congr (d := mportMod s.dev b fun m => { m with
        replayAt := some 0, replayRun := m.replayBuf.getLast?.map (·.1), replayTries := (mport s.dev b).replayTries + 1 }) rfl b).trans (mport_mportMod_self ..)
    refine ⟨_, he, ?_, ?_, ?_, ?_⟩
    · rw [hm]
    · rw [hm]
    · rw [hm]
    · rw [replayStart_early (by simp [hb]) ht]
      rfl
  · show execCcRtxTimer b s = _
    rw [execCcRtxTimer, doneIf_next (by simp [hc])]
    refine congrArg (fun d => Host.Outcome.next (onDev s d)) (mportMod_congr ?_)
    have hx := x.sent.isLt
    dsimp only
    rw [hc]
    simp only [List.foldl_cons, List.foldl_nil, List.map_cons, List.map_nil, min_eq_right (Nat.le_of_lt hx), if_true]
  · show execSackTimer b s = _
    rw [execSackTimer, doneIf_next (by simpa using hr)]
  · show execAckCoalesceTimer b s = _
    rw [execAckCoalesceTimer, doneIf_next (by simpa using ha)]
  · rw [exec_flitSlotOpen hr hv, flitSlot, hl]
  · rw [exec_flitSlotOpen hr hv, flitSlot_nak hl h]
  · rw [exec_flitSlotOpen hr hv, flitSlot_replay hl hn hk hi hx]
  · rw [exec_flitSlotOpen hr hv, flitSlot_again hl hn hk hi hc ha]
  · rw [exec_flitSlotOpen hr hv, flitSlot_idle hl hn hk hi hc hs]

end Sys2Proof.Machine
end

section
/-! PROOFS. Marwen packets: requests of peers (R212, R219, R315 to R317), grants, management packets and transit (R318, R320, R325, R326, R328), answers
of peers (R316, R323), and snoops between devices (R213, R222). -/

namespace Sys2Proof.Machine

/-! ## The checks of a packet (R315, R319) -/

section
variable {s : State} {b : Fin 8} {slots : List (BitVec 128)} {op : Nat}

theorem mwRow_served (act : Dev → Dev) (ha : mwArrives s b slots op) : mwRow s b slots op act = .next (onDev s (act (mwTaken s.dev b slots op))) := by
  obtain ⟨hr, ho, hd, hc⟩ := ha
  unfold mwRow
  rw [doneIf_next (by simp [hr, ho, hd]), hc]
  rfl

theorem mwRow_refused (act : Dev → Dev) (hr : linkReceives s.dev b = true) (ho : pkOp slots = op) (hd : pkDst slots = selfId s.dev) {cause : Nat}
    (hc : packetCheck s.dev b slots = some cause) : mwRow s b slots op act = .next (onDev s (packetRefused (takeIn s.dev b slots true) b cause slots)) := by
  unfold mwRow
  rw [doneIf_next (by simp [hr, ho, hd]), hc]

end

/-! ## Requests served here (R317) -/

/-- The requests of peers with what each asks of the home, as in the model's execMw rows. -/
def peerRequests (b : Fin 8) (slots : List (BitVec 128)) (env : Env) : List (Instr × Nat × Kind × Op × Nat) :=
  [(.mwRd b slots env, 0x01, .rc, .read, 0), (.mwWr b slots env, 0x02, .wr, .write (lineOf slots), 0),
    (.mwWrp b slots env, 0x03, .wr, ptlOf slots, 0), (.mwRds b slots env, 0x40, .rs, .read, 0), (.mwRde b slots env, 0x41, .re, .read, 0),
    (.mwRdcur b slots env, 0x42, .rc, .read, 0), (.mwOwn b slots env, 0x43, .own, .none, 0), (.mwWrc b slots env, 0x44, .wr, .write (lineOf slots), 0),
    (.mwWrcp b slots env, 0x45, .wr, ptlOf slots, 0), (.mwWbd b slots env, 0x46, .wb, .write (lineOf slots), if pkFlag slots then 2 else 0),
    (.mwEvc b slots env, 0x47, .evc, .none, 0)]

section
variable {s : State} {b : Fin 8} {slots : List (BitVec 128)} {env : Env}

theorem exec_peerRequest {c : Instr} {op : Nat} {kind : Kind} {o : Op} {keep : Nat} (hm : (c, op, kind, o, keep) ∈ peerRequests b slots env) :
    exec c s = mwRow s b slots op fun d => mwServe d b slots env kind o keep := by
  simp only [peerRequests, List.mem_cons, Prod.mk.injEq, List.not_mem_nil, or_false] at hm
  rcases hm with ⟨rfl, rfl, rfl, rfl, rfl⟩ | ⟨rfl, rfl, rfl, rfl, rfl⟩ | ⟨rfl, rfl, rfl, rfl, rfl⟩ | ⟨rfl, rfl, rfl, rfl, rfl⟩ | ⟨rfl, rfl, rfl, rfl, rfl⟩ |
    ⟨rfl, rfl, rfl, rfl, rfl⟩ | ⟨rfl, rfl, rfl, rfl, rfl⟩ | ⟨rfl, rfl, rfl, rfl, rfl⟩ | ⟨rfl, rfl, rfl, rfl, rfl⟩ | ⟨rfl, rfl, rfl, rfl, rfl⟩ |
    ⟨rfl, rfl, rfl, rfl, rfl⟩ <;> rfl

theorem envClean_iff : envClean env = true ↔ env.ideOk = true ∧ env.sram = .none ∧ env.datapath = false ∧ env.misrouted = false := by
  simp [envClean, and_assoc]

variable {d : Dev} {kind : Kind} {o : Op} {keep : Nat}

theorem mwServe_arrives (he : envClean env = true)
    (hl : pageOfLine (pkAddr slots / 64) < limitPages (mwOcc d b env.occ) (homeOf (pageOfLine (pkAddr slots / 64)))) :
    mwServe d b slots env kind o keep = arrive (mwOcc d b env.occ) (mwReqOf (mwOcc d b env.occ) b slots kind o keep) (16 + b.val) := by
  obtain ⟨-, hs, hd, hm⟩ := envClean_iff.1 he
  have hs' : ∀ d line slate, sramMet d line slate env.sram = d := fun d line slate => by rw [hs]; rfl
  unfold mwServe
  dsimp only
  refine (if_neg (Nat.not_le.2 hl)).trans ?_
  rw [hm, hd]
  simp only [Bool.false_eq_true, if_false, false_and, hs']

theorem mwServe_refused (hl : limitPages (mwOcc d b env.occ) (homeOf (pageOfLine (pkAddr slots / 64))) ≤ pageOfLine (pkAddr slots / 64)) :
    mwServe d b slots env kind o keep = respondRefused (mwOcc d b env.occ) (mwReqOf (mwOcc d b env.occ) b slots kind o keep) 5 := by
  unfold mwServe
  dsimp only
  exact if_pos hl

theorem exec_mwAtom (ha : mwArrives s b slots 0x04) : exec (.mwAtom b slots env) s = .next (onDev s (mwAtomicServe (mwTaken s.dev b slots 0x04) b slots env false)) := by
  show execMwAtom b slots env s = _
  exact mwRow_served _ ha

theorem exec_mwAtmc (ha : mwArrives s b slots 0x48) : exec (.mwAtmc b slots env) s = .next (onDev s (mwAtomicServe (mwTaken s.dev b slots 0x48) b slots env true)) := by
  show execMwAtmc b slots env s = _
  exact mwRow_served _ ha

/-- An atomic that no home grants is served as an atomic (R219). -/
theorem mwAtomicServe_atm {grant : Bool} (ho : mwAtomic slots = some o) (hg : ¬ (grant = true ∧ tracked d (pkAddr slots / 64) = true ∧ ¬ atmHome d (pkAddr slots / 64) = true)) :
    mwAtomicServe d b slots env grant = mwServe d b slots env .atm o := by
  unfold mwAtomicServe
  rw [ho]
  exact if_neg hg

theorem mwAtomicServe_grant (ho : mwAtomic slots = some o) (ht : tracked d (pkAddr slots / 64) = true) (hh : atmHome d (pkAddr slots / 64) = false) :
    mwAtomicServe d b slots env true = mwServe d b slots env .re .read := by
  unfold mwAtomicServe
  rw [ho]
  exact if_pos ⟨rfl, ht, by simp [hh]⟩

theorem mwAtomicServe_none {grant : Bool} (ho : mwAtomic slots = none) :
    mwAtomicServe d b slots env grant = respondRefused d (mwReqOf d b slots .atm (.atomic .add 32 0 0 0) 0) 6 := by
  unfold mwAtomicServe
  rw [ho]

end

/-! ## Grants, management packets, transit (R318, R320, R325, R326, R328) -/

section
variable {d : Dev} {slots : List (BitVec 128)}

theorem pageGrant_closed (h : (rget d (.mwt 0) .mwtDonorBase).getLsbD 31 = false) :
    pageGrant d slots = mwSend d (pkSrc slots) 0x21 (pkSlate slots) (pkTag slots) 4 [] := by
  unfold pageGrant
  dsimp only
  exact if_pos (by rw [h]; decide)

theorem pageGrant_bound {page : Nat} {e : Dev} (h : (rget d (.mwt 0) .mwtDonorBase).getLsbD 31 = true)
    (hp : donorPage d (rfld d (.mwt 0) .mwtDonorLen 24 0) (fld (rget d (.mwt 0) .mwtDonorBase) 23 0) = some page)
    (hr : slateRight d (pkSlate slots) page = true) (hb : bindNow d page = some e) :
    pageGrant d slots = mwSend { e with grantee := tabPut none e.grantee page (some (pkSrc slots)) } (pkSrc slots) 0x21 (pkSlate slots) (pkTag slots) (page * 2 ^ 8) [] := by
  unfold pageGrant
  dsimp only
  rw [if_neg (not_not_intro h), hp]
  dsimp only
  rw [if_neg (not_not_intro hr), hb, Nat.zero_add]

theorem pageRelease_own (h : tabGet none d.grantee (pkAddr slots / 4096) = some (pkSrc slots)) : pageRelease d slots
    = mwSend (unbindPage { d with grantee := tabPut none d.grantee (pkAddr slots / 4096) none } (pkAddr slots / 4096)) (pkSrc slots) 0x20 (pkSlate slots) (pkTag slots) 0 [] :=
  if_pos h

theorem pageRelease_other (h : tabGet none d.grantee (pkAddr slots / 4096) ≠ some (pkSrc slots)) :
    pageRelease d slots = mwSend d (pkSrc slots) 0x20 (pkSlate slots) (pkTag slots) 1 [] := if_neg h

/-- ECHO (R328). -/
theorem mgtReceive_echo {answer : List (BitVec 128)} (h : hdrFld (slots.headD 0) 75 73 = 1) :
    mgtReceive d slots answer = mwSend d (pkSrc slots) 0x70 (pkSlate slots) (pkTag slots) (hdrFld (slots.headD 0) 127 64) (slots.drop 1) := by
  unfold mgtReceive
  dsimp only
  rw [h]
  rfl

end

section
variable {s : State} {b : Fin 8} {slots : List (BitVec 128)} (hr : linkReceives s.dev b = true) (hd : pkDst slots ≠ selfId s.dev)
  (hc : packetCheck (takeIn s.dev b slots true) b slots = none)

include hr hd hc

theorem exec_transitPacket_forwarded {d : Dev} (hh : pkHop slots ≠ 4) (hq : queueTx (takeIn s.dev b slots true) (nextHop slots) = some d) :
    exec (.transitPacket b slots) s = .next (onDev s (countMarwen d b 2 1)) := by
  show execTransitPacket b slots s = _
  rw [execTransitPacket, doneIf_next (by simp [hr, hd])]
  dsimp only
  rw [hc]
  dsimp only
  rw [if_neg hh, hq]

theorem exec_transitPacket_notForwarded (h : pkHop slots = 4 ∨ queueTx (takeIn s.dev b slots true) (nextHop slots) = none) :
    exec (.transitPacket b slots) s = .next (onDev s (notForwarded (takeIn s.dev b slots true) slots)) := by
  show execTransitPacket b slots s = _
  rw [execTransitPacket, doneIf_next (by simp [hr, hd])]
  dsimp only
  rw [hc]
  dsimp only
  by_cases hh : pkHop slots = 4
  · rw [if_pos hh]
  · rw [if_neg hh, h.resolve_left hh]

end

theorem exec_mwUnknownOpcode {s : State} {b : Fin 8} {slots : List (BitVec 128)} (hr : linkReceives s.dev b = true) (hl : listed slots = false)
    (h0 : pkHop slots ≠ 0) (h4 : pkHop slots ≤ 4) (h1 : pkHop slots ≠ 1) :
    exec (.mwUnknownOpcode b slots) s = .next (onDev s (packetRefused (takeIn s.dev b slots true) b 6 slots)) := by
  have hc : packetCheck s.dev b slots = some 6 := by
    unfold packetCheck
    dsimp only
    rw [if_neg (by omega), if_neg (fun h => h1 h.1), if_pos (by simp [hl])]
  show execMwUnknownOpcode b slots s = _
  rw [execMwUnknownOpcode, doneIf_next (by simp [hr, hl]), hc]
  rfl

/-- Settles O37. -/
theorem peerRequestsAndPackets : Obligations.PeerRequestsAndPackets := by
  refine ⟨⟨fun s b slots env c op kind o keep hm => ⟨fun ha he => ⟨rfl, rfl, rfl, fun hl => ?_, fun hl => ?_⟩, fun hr ho hd cause hc => ?_⟩,
    fun s b slots env => ⟨fun ha => ⟨fun o ho => ?_, fun ho => ?_⟩, fun ha o ho => ⟨fun h => ?_, fun ht hh => ?_⟩⟩⟩,
    fun s b slots ha => ⟨fun h => ?_, fun page e h hp hr hb => ?_⟩, fun s b slots ha => ⟨fun h => ?_, fun h => ?_⟩, fun s b slots answer ha h => ?_,
    fun s b slots hr hd _ hc => ⟨fun d hh hq => exec_transitPacket_forwarded hr hd hc hh hq, exec_transitPacket_notForwarded hr hd hc⟩,
    fun s b slots hr hl h0 h4 h1 => exec_mwUnknownOpcode hr hl h0 h4 h1⟩
  · rw [exec_peerRequest hm, mwRow_served _ ha, mwServe_arrives he hl]
  · rw [exec_peerRequest hm, mwRow_served _ ha, mwServe_refused hl]
  · rw [exec_peerRequest hm, mwRow_refused _ hr ho hd hc]
  · rw [exec_mwAtom ha, mwAtomicServe_atm ho (by simp)]
  · rw [exec_mwAtom ha, mwAtomicServe_none ho]
  · rw [exec_mwAtmc ha, mwAtomicServe_atm ho fun ⟨_, ht, hh⟩ => h.elim (fun h => by rw [ht] at h; cases h) hh]
  · rw [exec_mwAtmc ha, mwAtomicServe_grant ho ht hh]
  · show execMwPgrant b slots s = _
    rw [execMwPgrant, mwRow_served _ ha, pageGrant_closed h]
  · show execMwPgrant b slots s = _
    rw [execMwPgrant, mwRow_served _ ha, pageGrant_bound h hp hr hb]
  · show execMwPrel b slots s = _
    rw [execMwPrel, mwRow_served _ ha, pageRelease_own h]
  · show execMwPrel b slots s = _
    rw [execMwPrel, mwRow_served _ ha, pageRelease_other h]
  · show execMwMgt b slots answer s = _
    rw [execMwMgt, mwRow_served _ ha, mgtReceive_echo h]

/-! ## Answers to this device's requests (R316, R323) -/

theorem takeIn_tags (d : Dev) (b : Nat) (slots : List (BitVec 128)) (credit : Bool) : (takeIn d b slots credit).tags = d.tags := by
  unfold takeIn
  split
  · dsimp only
    split
    · unfold owe
      split <;> rfl
    · rfl
  · rfl

section
variable {s : State} {b : Fin 8} {slots : List (BitVec 128)} {op : Nat}

/-- What an answer does that its tag expects: the tag is free, and what the tag is for goes on. -/
theorem mwRow_answered {u : TagUse} (ok : Nat → Bool) (act : Dev → TagUse → Dev) (he : mwExpected s b slots op u) (ho : ok u.opcode = true) :
    mwRow s b slots op (fun d => mwAnswered d b slots ok act) = .next (onDev s (retryPeer (act (mwFreed s.dev b slots op) u))) := by
  obtain ⟨ha, ht, hh, hp⟩ := he
  have ht' : tabGet none (mwTaken s.dev b slots op).tags (pkTag slots) = some u := by rw [mwTaken, takeIn_tags, ht]
  rw [mwRow_served _ ha, mwAnswered, ht']
  dsimp only
  rw [if_neg (by simp [hh, hp, ho])]
  rfl

theorem mwRow_stray (ok : Nat → Bool) (act : Dev → TagUse → Dev) (ha : mwArrives s b slots op) (ht : tabGet none s.dev.tags (pkTag slots) = none) :
    mwRow s b slots op (fun d => mwAnswered d b slots ok act)
      = .next (onDev s (mwtErr (rbump (mwTaken s.dev b slots op) (.mwt 0) .mwtStrayCount) b 5 op (pkSrc slots) (pkDst slots))) := by
  have ht' : tabGet none (mwTaken s.dev b slots op).tags (pkTag slots) = none := by rw [mwTaken, takeIn_tags, ht]
  rw [mwRow_served _ ha, mwAnswered, ht', ← ha.2.1]

end

/-- The answers of peers, as in the model's execMw rows. -/
def peerAnswerOps (b : Fin 8) (slots : List (BitVec 128)) : List (Instr × Nat) :=
  [(.mwCmp b slots, 0x20), (.mwGranted b slots, 0x21), (.mwData b slots, 0x30), (.mwAdata b slots, 0x31), (.mwGnti b slots, 0x60), (.mwGnts b slots, 0x61),
    (.mwGnte b slots, 0x62), (.mwFwddata b slots, 0x63), (.mwWcmp b slots, 0x64), (.mwAcmp b slots, 0x65), (.mwRspi b slots, 0x58), (.mwRsps b slots, 0x59),
    (.mwRspfwd b slots, 0x5A)]

theorem exec_peerAnswer {s : State} {b : Fin 8} {slots : List (BitVec 128)} {c : Instr} {op : Nat} (hm : (c, op) ∈ peerAnswerOps b slots) :
    ∃ ok act, exec c s = mwRow s b slots op fun d => mwAnswered d b slots ok act := by
  simp only [peerAnswerOps, List.mem_cons, Prod.mk.injEq, List.not_mem_nil, or_false] at hm
  rcases hm with ⟨rfl, rfl⟩ | ⟨rfl, rfl⟩ | ⟨rfl, rfl⟩ | ⟨rfl, rfl⟩ | ⟨rfl, rfl⟩ | ⟨rfl, rfl⟩ | ⟨rfl, rfl⟩ | ⟨rfl, rfl⟩ | ⟨rfl, rfl⟩ | ⟨rfl, rfl⟩ |
    ⟨rfl, rfl⟩ | ⟨rfl, rfl⟩ | ⟨rfl, rfl⟩ <;> exact ⟨_, _, rfl⟩

/-- Settles O38. -/
theorem peerAnswers : Obligations.PeerAnswers := by
  refine ⟨fun s b slots u => ⟨fun he hs => ?_, fun q l o he hs ho hu => ?_, fun q i he ho hu m hm => ⟨fun hs => ?_, fun hs => ?_⟩, fun q l o he ho hu => ?_,
    fun he ho => ?_, fun line he ho hu => ?_, fun line he ho hu => ?_, fun line he ho hu => ?_, fun line he ho hu => ?_,
    fun q i he hlo hhi hu => ⟨fun hs => ?_, fun hs => ?_⟩, fun he ho => ?_⟩, fun s b slots c op ht ha hm => ?_⟩
  · show execMwCmp b slots s = _
    rw [execMwCmp, mwRow_answered _ _ he (by simp [hs]), if_pos hs]
  · show execMwCmp b slots s = _
    rw [execMwCmp, mwRow_answered _ _ he (by rcases ho with ho | ho <;> simp [ho]), if_neg hs, hu]
  · show execMwGranted b slots s = _
    rw [execMwGranted, mwRow_answered _ _ he (by simp [ho]), hu]
    dsimp only
    rw [hm]
    dsimp only
    rw [if_pos hs]
  · show execMwGranted b slots s = _
    rw [execMwGranted, mwRow_answered _ _ he (by simp [ho]), hu]
    dsimp only
    rw [hm]
    dsimp only
    rw [if_neg (not_not_intro hs)]
  · show execMwData b slots s = _
    rw [execMwData, mwRow_answered _ _ he (by simp [ho]), hu]
  · show execMwAdata b slots s = _
    rw [execMwAdata, mwRow_answered _ _ he (by simp [ho])]
  · show execMwGnti b slots s = _
    rw [execMwGnti, mwRow_answered _ _ he (by simp [ho]), hu]
  · show execMwGnts b slots s = _
    rw [execMwGnts, mwRow_answered _ _ he (by simp [ho]), hu]
  · show execMwGnte b slots s = _
    rw [execMwGnte, mwRow_answered _ _ he (by simpa [or_assoc] using ho), hu]
  · show execMwFwddata b slots s = _
    rw [execMwFwddata, mwRow_answered _ _ he (by simp [ho]), hu]
  · show execMwWcmp b slots s = _
    rw [execMwWcmp, mwRow_answered _ _ he (by simp [hlo, hhi]), hu]
    dsimp only
    rw [if_pos hs]
  · show execMwWcmp b slots s = _
    rw [execMwWcmp, mwRow_answered _ _ he (by simp [hlo, hhi]), hu]
    dsimp only
    rw [if_neg hs]
  · show execMwAcmp b slots s = _
    rw [execMwAcmp, mwRow_answered _ _ he (by simp [ho])]
  · obtain ⟨ok, act, hc⟩ := exec_peerAnswer (s := s) hm
    rw [hc, mwRow_stray ok act ha ht]

/-! ## Snoops between devices and tags (R213, R222, R323) -/

/-- The gates' answers to snoops, as in the model's execMw rows. -/
def gateAnswers (b : Fin 8) (slots : List (BitVec 128)) : List (Instr × Nat × Bool × Bool) :=
  [(.mwRspi b slots, 0x58, false, false), (.mwRsps b slots, 0x59, true, false), (.mwRspfwd b slots, 0x5A, false, true)]

/-- The peers' snoops, as in the model's execMw rows. -/
def peerSnoops (b : Fin 8) (slots : List (BitVec 128)) : List (Instr × Nat) :=
  [(.mwSnpinv b slots, 0x50), (.mwSnpdata b slots, 0x51), (.mwSnpfwds b slots, 0x52), (.mwSnpfwde b slots, 0x53)]

section
variable {s : State} {b : Fin 8} {slots : List (BitVec 128)} {c : Instr} {op : Nat}

theorem exec_gateAnswer {keepS fwd : Bool} (hm : (c, op, keepS, fwd) ∈ gateAnswers b slots) :
    exec c s = mwRow s b slots op fun d => gateAnswer d b slots keepS fwd := by
  simp only [gateAnswers, List.mem_cons, Prod.mk.injEq, List.not_mem_nil, or_false] at hm
  rcases hm with ⟨rfl, rfl, rfl, rfl⟩ | ⟨rfl, rfl, rfl, rfl⟩ | ⟨rfl, rfl, rfl, rfl⟩ <;> rfl

theorem exec_peerSnoop (hm : (c, op) ∈ peerSnoops b slots) : exec c s = mwRow s b slots op fun d => peerSnoop d b slots := by
  simp only [peerSnoops, List.mem_cons, Prod.mk.injEq, List.not_mem_nil, or_false] at hm
  rcases hm with ⟨rfl, rfl⟩ | ⟨rfl, rfl⟩ | ⟨rfl, rfl⟩ | ⟨rfl, rfl⟩ <;> rfl

/-- A gate's answer without poison counts for the agent of its sender. -/
theorem mwRow_gateAnswer {u : TagUse} {line : Nat} (keepS fwd : Bool) (he : mwExpected s b slots op u) (hlo : 0x50 ≤ u.opcode) (hhi : u.opcode ≤ 0x53)
    (hu : u.use = .span line) (hb : ¬ (slots.length = 5 ∧ pkStatus slots = 2)) : mwRow s b slots op (fun d => gateAnswer d b slots keepS fwd)
      = .next (onDev s (retryPeer (snoopAnswer (mwFreed s.dev b slots op) line (20 + gateOf (mwFreed s.dev b slots op) (pkSrc slots)) (pkSrc slots) keepS (pkFlag slots)
        fwd (if slots.length = 5 then some (lineOf slots) else none)))) := by
  unfold gateAnswer
  rw [mwRow_answered _ _ he (by simp [hlo, hhi]), hu]
  dsimp only
  rw [if_neg hb]
  simp only [hb, not_false_eq_true, and_true]

end

section
variable {d : Dev} {b : Nat} {slots : List (BitVec 128)}

theorem peerSnoop_unknown (h : spanPage d (pkSrc slots) (pkAddr slots / 4096) = none) :
    peerSnoop d b slots = mwSend d (pkSrc slots) 0x58 0 (pkTag slots) (2 ^ 63) [] := by
  unfold peerSnoop
  dsimp only
  rw [h]

variable {page : Nat} (h : spanPage d (pkSrc slots) (pkAddr slots / 4096) = some page)

include h

theorem peerSnoop_notHeld (hp : (dirEnt d (page * 64 + pkAddr slots / 64 % 64)).pg = 0) :
    peerSnoop d b slots = mwSend d (pkSrc slots) 0x58 0 (pkTag slots) (2 ^ 63) [] := by
  unfold peerSnoop
  dsimp only
  rw [h]
  exact if_pos hp

theorem peerSnoop_data (hp : (dirEnt d (page * 64 + pkAddr slots / 64 % 64)).pg ≠ 0) (ho : pkOp slots = 0x51)
    (hs : (dirEnt d (page * 64 + pkAddr slots / 64 % 64)).state ≠ .e) (ha : agentsOf (dirEnt d (page * 64 + pkAddr slots / 64 % 64)).vector = []) :
    peerSnoop d b slots = peerSnoopEnd d { line := page * 64 + pkAddr slots / 64 % 64, port := b, peer := pkSrc slots, tag := pkTag slots, opcode := 0x51, fwdPeer := hdrFld (slots.headD 0) 114 109, fwdTag := hdrFld (slots.headD 0) 126 115, await := [], data := none } false false := by
  unfold peerSnoop
  dsimp only
  rw [h]
  dsimp only
  rw [if_neg hp, ho, ha]
  simp [hs, snoopAll]

end

section
variable {s : State} {tag : BitVec 12} {u : TagUse} (ht : tabGet none s.dev.tags tag.toNat = some u)

include ht

theorem exec_responseTimeout_held (hh : u.held = true) : exec (.responseTimeout tag) s = .next (onDev s s.dev) := by
  show execResponseTimeout tag s = _
  rw [execResponseTimeout, done_next, tagTimeout, ht]
  dsimp only
  rw [if_pos hh]

theorem exec_tagHoldbackEnd (hh : u.held = true) :
    exec (.tagHoldbackEnd tag) s = .next (onDev s (retryPeer { s.dev with tags := tabPut none s.dev.tags tag.toNat none })) := by
  show execTagHoldbackEnd tag s = _
  rw [execTagHoldbackEnd, ht]
  dsimp only
  rw [if_pos hh, done_next]

end

/-- A tag without answer whose time is over, held back. -/
def heldBack (d : Dev) (tag : Nat) (u : TagUse) : Dev := { d with tags := tabPut none d.tags tag (some { u with held := true, since := d.pwr.now }) }

theorem tabGet_heldBack (d : Dev) (tag : Nat) (u : TagUse) :
    tabGet none (heldBack d tag u).tags tag = some { u with held := true, since := d.pwr.now } := by
  show tabGet none (tabPut none d.tags tag (some { u with held := true, since := d.pwr.now })) tag = _
  rw [tabGet_tabPut_self]

/-- What the time limit of a tag that notes something does, and one of a transfer. -/
theorem tagTimeout_out {d : Dev} {tag : Nat} {u : TagUse} (ht : tabGet none d.tags tag = some u) (hh : u.held = false) :
    (u.use = .note → tagTimeout d tag = mwtRaise (rbump (heldBack d tag u) (.mwt 0) .mwtTimeoutCount) u.port 0 1 u.opcode (selfId d) u.peer)
      ∧ ∀ q l o, u.use = .xfer q l o → ∃ x, tagTimeout d tag = xferFail x q l 0x0C := by
  unfold tagTimeout
  rw [ht]
  dsimp only
  rw [if_neg (by simp [hh])]
  exact ⟨fun hu => by unfold heldBack; rw [hu]; rfl, fun q l o hu => by rw [hu]; exact ⟨_, rfl⟩⟩

/-- Settles O39. -/
theorem peerSnoopsAndTags : Obligations.PeerSnoopsAndTags := by
  refine ⟨fun s b slots u line c op keepS fwd hm he hlo hhi hu => ⟨fun hl => ?_, fun hl hs => ?_⟩,
    fun s b slots c op hm ha => ⟨fun h => ?_, fun page h => ⟨fun hp => ?_, fun hp ho hs hv => ?_⟩⟩,
    fun s tag u ht => ⟨fun hh => ⟨exec_responseTimeout_held ht hh, exec_tagHoldbackEnd ht hh⟩, fun hh => ?_⟩⟩
  · rw [exec_gateAnswer hm, mwRow_gateAnswer _ _ he hlo hhi hu (by simp [hl]), if_neg (by simp [hl])]
  · rw [exec_gateAnswer hm, mwRow_gateAnswer _ _ he hlo hhi hu (by simp [hs]), if_pos hl]
  · rw [exec_peerSnoop hm, mwRow_served _ ha, peerSnoop_unknown h]
  · rw [exec_peerSnoop hm, mwRow_served _ ha, peerSnoop_notHeld h hp]
  · rw [exec_peerSnoop hm, mwRow_served _ ha, peerSnoop_data h hp (ha.2.1.trans ho) hs hv, ho]
  · obtain ⟨hn, hx⟩ := tagTimeout_out ht hh
    refine ⟨tagTimeout s.dev tag.toNat, ?_, fun hu => ⟨heldBack s.dev tag.toNat u, hn hu, tabGet_heldBack s.dev tag.toNat u, rfl⟩, hx⟩
    show execResponseTimeout tag s = _
    rw [execResponseTimeout, done_next]

end Sys2Proof.Machine
end

section
/-! PROOFS. Key commands (R132, R305, R342), the life cycle and unlock tokens (R343 to R345). -/

namespace Sys2Proof.Machine

/-! ## The start of key commands (R342) -/

section
variable {s : State} {t : BitVec 2} {i : BitVec 12} {block : List Byte}

theorem keyIssue_busy {d : Dev} (h : d.keyRun.isSome = true) (op target index : Nat) (block : List Byte) :
    keyIssue d op target index block = rputFld d .seci .seciKeyStat 3 1 1 := if_pos h

theorem keyIssue_runs {d : Dev} (h : d.keyRun = none) {op : Nat} {block b : List Byte} {n : Nat} (target index : Nat) (hn : keyBlockLen op block = some n)
    (hb : b = (block ++ List.replicate n 0).take n) : keyIssue d op target index block = { d with keyRun := some { op, target, index, block := b, srcBad := decide (rfld d .seci .seciKeySrc 17 0 % 16 ≠ 0 ∨ 2 ^ 18 < rfld d .seci .seciKeySrc 17 0 + b.length) } } := by
  have hl : b.length = n := by simp [hb]
  subst hb
  unfold keyIssue
  rw [if_neg (by simp [h])]
  dsimp only
  rw [hn, hl, Bool.decide_or]
  rfl

theorem keyIssue_bad {d : Dev} (h : d.keyRun = none) {op : Nat} {block : List Byte} (target index : Nat) (hn : keyBlockLen op block = none) :
    keyIssue d op target index block = { d with keyRun := some { op := 0, target, index, block := [], srcBad := false } } := by
  unfold keyIssue
  rw [if_neg (by simp [h])]
  dsimp only
  rw [hn]

theorem take_padded {b : List Byte} {n : Nat} (h : b.length = n) : b = (b ++ List.replicate n 0).take n := by
  subst h
  simp

theorem keyBlockLen_derive {l c : Nat} (hl : ofBytes (block.take 2) = l) (hc : ofBytes ((block.drop 2).take 2) = c) :
    keyBlockLen 2 block = if l ≤ 64 ∧ c ≤ 64 then some (4 + l + c) else none := by
  subst hl hc
  rfl

theorem keyBlockLen_badOp {op : BitVec 3} (h : 4 < op.toNat) : keyBlockLen op.toNat [] = some 0 := by
  revert op
  decide

theorem exec_keyUnwrap (h : domOn s.dev 2 = true) : exec (.keyUnwrap t i block) s = .next (onDev s (keyIssue s.dev 1 t.toNat i.toNat block)) := by
  show execKeyUnwrap t i block s = _
  rw [execKeyUnwrap, doneIf_next h]

theorem exec_keyDerive (h : domOn s.dev 2 = true) : exec (.keyDerive t i block) s = .next (onDev s (keyIssue s.dev 2 t.toNat i.toNat block)) := by
  show execKeyDerive t i block s = _
  rw [execKeyDerive, doneIf_next h]

theorem exec_keyZeroise (h : domOn s.dev 2 = true) : exec (.keyZeroise t i) s = .next (onDev s (keyIssue s.dev 3 t.toNat i.toNat [])) := by
  show execKeyZeroise t i s = _
  rw [execKeyZeroise, doneIf_next h]

theorem exec_keyLoadPlain (h : domOn s.dev 2 = true) : exec (.keyLoadPlain t i block) s = .next (onDev s (keyIssue s.dev 4 t.toNat i.toNat block)) := by
  show execKeyLoadPlain t i block s = _
  rw [execKeyLoadPlain, doneIf_next h]

theorem exec_keyCmdBadOp {op : BitVec 3} (h : domOn s.dev 2 = true) (ho : 4 < op.toNat) :
    exec (.keyCmdBadOp op t i) s = .next (onDev s (keyIssue s.dev op.toNat t.toNat i.toNat [])) := by
  have h0 : op ≠ 0 := fun he => by
    rw [he] at ho
    exact absurd ho (by decide)
  show execKeyCmdBadOp op t i s = _
  rw [execKeyCmdBadOp, doneIf_next (by simp [h, ho, show ¬ op = 0#3 from h0])]

end

/-! ## The end of key commands (R132, R305, R342) -/

section
variable {s : State} {r : KeyRun} (hr : s.dev.keyRun = some r)

include hr

theorem exec_keyCmdComplete {d : Dev} {n : Nat} (h : keyApply s.dev s.life.state r = (d, n)) : exec .keyCmdComplete s
    = .next (onDev s (raiseEvent (rputFld { d with keyRun := none } .seci .seciKeyStat 3 1 n) .seci 0)) := by
  show execKeyCmdComplete s = _
  rw [execKeyCmdComplete, hr]
  dsimp only
  rw [done_next, keyComplete, h]
  rfl

end

section
variable {d : Dev} {st : BitVec 2} {r : KeyRun}

/-- Whether the target of a key command is in use, which every operation but zeroising refuses (R342). -/
def keyTargetUsed (d : Dev) (r : KeyRun) : Bool :=
  r.op ≠ 3 && (decide (r.target = 1) && ideInUse d r.index || decide (r.target = 2) && mwSetActive d r.index)

/-- A key of 256 bits put where the command names. -/
def keyLoad (d : Dev) (r : KeyRun) (f : BitVec 256) : Dev := if r.target = 1 then ideLoad d r.index (some f) else mwLoad d r.index (some f)

/-- What the operation of a key command does when nothing refuses it: the last branch of the model's keyApply. -/
def keyOperate (d : Dev) (r : KeyRun) : Dev × Nat :=
  match r.op with
  | 1 => match Config.keyUnwrap r.block with
    | some k => (slotBind d r.index k false, 0)
    | none => (d, 3)
  | 2 => (if r.target = 0 then slotBind d r.index (Config.keyDerive r.block) true else keyLoad d r ((Config.keyDerive r.block).setWidth 256), 0)
  | 3 => (if r.target = 0 then slotZero d r.index else if r.target = 1 then ideLoad d r.index none else mwLoad d r.index none, 0)
  | _ => (keyLoad d r (BitVec.ofNat 256 (ofBytes r.block)), 0)

theorem keyApply_decommissioned (h : st = 3) : keyApply d st r = (d, 6) := if_pos h

variable (h3 : st ≠ 3)

include h3

theorem keyApply_badTarget (h : keyArgsOk r.op r.target r.index = false ∨ keyTargetUsed d r = true) : keyApply d st r = (d, 4) := by
  unfold keyApply
  rw [if_neg h3]
  by_cases ha : keyArgsOk r.op r.target r.index = true
  · have hu := h.resolve_left (by simp [ha])
    simp only [keyTargetUsed, Bool.and_eq_true, Bool.or_eq_true, decide_eq_true_eq] at hu
    obtain ⟨ho, ⟨ht, hu⟩ | ⟨ht, hu⟩⟩ := hu
    · rw [if_neg (not_not_intro ha), if_pos ⟨ho, ht, hu⟩]
    · rw [if_neg (not_not_intro ha), if_neg (fun hx => absurd (ht.symm.trans hx.2.1) (by decide)), if_pos ⟨ho, ht, hu⟩]
  · rw [if_pos ha]

variable (ha : keyArgsOk r.op r.target r.index = true) (hu : keyTargetUsed d r = false)

include ha hu

/-- With good arguments the source block and the use of a Seal slot decide, then the operation. -/
theorem keyApply_free : keyApply d st r = if r.op ≠ 3 ∧ r.srcBad then (d, 5) else if r.target = 0 ∧ slotInUse d r.index then (d, 2) else keyOperate d r := by
  have hn : ∀ t, r.op ≠ 3 → r.target = t → ¬ (decide (t = 1) && ideInUse d r.index || decide (t = 2) && mwSetActive d r.index) = true := fun t ho ht hx => by
    rw [keyTargetUsed, ht, hx] at hu
    simp [ho] at hu
  unfold keyApply keyOperate
  rw [if_neg h3, if_neg (not_not_intro ha), if_neg fun hx => hn 1 hx.1 hx.2.1 (by simp [hx.2.2]), if_neg fun hx => hn 2 hx.1 hx.2.1 (by simp [hx.2.2])]
  rfl

theorem keyApply_srcBad (ho : r.op ≠ 3) (hb : r.srcBad = true) : keyApply d st r = (d, 5) := by
  rw [keyApply_free h3 ha hu, if_pos ⟨ho, hb⟩]

theorem keyApply_slotUsed (hb : r.op = 3 ∨ r.srcBad = false) (ht : r.target = 0) (hs : slotInUse d r.index = true) : keyApply d st r = (d, 2) := by
  have hn : ¬ (r.op ≠ 3 ∧ r.srcBad = true) := fun ⟨h1, h2⟩ => hb.elim h1 (by simp [h2])
  rw [keyApply_free h3 ha hu, if_neg hn, if_pos ⟨ht, hs⟩]

theorem keyApply_operate (hb : r.op = 3 ∨ r.srcBad = false) (hs : r.target ≠ 0 ∨ slotInUse d r.index = false) : keyApply d st r = keyOperate d r := by
  have hn : ¬ (r.op ≠ 3 ∧ r.srcBad = true) := fun ⟨h1, h2⟩ => hb.elim h1 (by simp [h2])
  have hf : ¬ (r.target = 0 ∧ slotInUse d r.index = true) := fun ⟨h1, h2⟩ => hs.elim (fun h => h h1) (by simp [h2])
  rw [keyApply_free h3 ha hu, if_neg hn, if_neg hf]

end

section
variable {d : Dev} {r : KeyRun}

theorem keyOperate_unwrap (ho : r.op = 1) : keyOperate d r = ((Config.keyUnwrap r.block).map fun k => (slotBind d r.index k false, 0)).getD (d, 3) := by
  unfold keyOperate
  rw [ho]
  cases Config.keyUnwrap r.block <;> rfl

theorem keyOperate_derive (ho : r.op = 2) : keyOperate d r
    = (if r.target = 0 then slotBind d r.index (Config.keyDerive r.block) true else keyLoad d r ((Config.keyDerive r.block).setWidth 256), 0) := by
  unfold keyOperate
  rw [ho]
  rfl

theorem keyOperate_zeroise (ho : r.op = 3) : keyOperate d r
    = (if r.target = 0 then slotZero d r.index else if r.target = 1 then ideLoad d r.index none else mwLoad d r.index none, 0) := by
  unfold keyOperate
  rw [ho]
  rfl

theorem keyOperate_plain (ho : r.op = 4) : keyOperate d r = (keyLoad d r (BitVec.ofNat 256 (ofBytes r.block)), 0) := by
  unfold keyOperate
  rw [ho]
  rfl

end

/-- What key commands do to the keys (R132, R305). -/
theorem tabGet_slotBind (d : Dev) (k : Nat) (key : BitVec 768) (derived : Bool) :
    tabGet {} (slotBind d k key derived).slots k = { bound := true, derived, generation := (tabGet {} d.slots k).generation + 1, key } := by
  unfold slotBind
  dsimp only
  rw [tabGet_tabMod_self]

theorem tabGet_slotZero (d : Dev) (k : Nat) :
    tabGet {} (slotZero d k).slots k = { bound := false, derived := false, generation := (tabGet {} d.slots k).generation, key := 0 } := by
  unfold slotZero
  dsimp only
  rw [tabGet_tabMod_self]

theorem tabGet_slots_ne (d : Dev) {k j : Nat} (key : BitVec 768) (derived : Bool) (hj : j ≠ k) :
    tabGet {} (slotBind d k key derived).slots j = tabGet {} d.slots j ∧ tabGet {} (slotZero d k).slots j = tabGet {} d.slots j := by
  unfold slotBind slotZero
  dsimp only
  rw [tabGet_tabMod_ne _ _ _ hj, tabGet_tabMod_ne _ _ _ hj]
  exact ⟨rfl, rfl⟩

theorem ideLoad_ideKeys (d : Dev) (i : Nat) (key : Option (BitVec 256)) : (ideLoad d i key).ideKeys = tabPut none d.ideKeys i key := rfl

theorem mwLoad_mwKeys (d : Dev) (i : Nat) (key : Option (BitVec 256)) : (mwLoad d i key).mwKeys = tabPut none d.mwKeys i key := by
  unfold mwLoad
  dsimp only
  split <;> rfl

/-- A transmit key starts the switch to its set (R306). -/
theorem mwLoad_switch (d : Dev) {i : Nat} (key : BitVec 256) (h : i / 16 % 2 = 1) :
    (mport (mwLoad d i (some key)) (i % 8)).switch = some (decide (i / 8 % 2 = 1)) := by
  unfold mwLoad
  dsimp only
  rw [if_neg (not_not_intro h), mport_mportMod_self]
  rfl

/-- Settles O41. -/
theorem keyCommands : Obligations.KeyCommands := by
  refine ⟨fun s t i block h2 => ⟨fun h0 => ⟨fun hl => ?_, fun l c hb hl hc => ⟨fun hl64 hc64 => ?_, fun h64 => ?_⟩, ?_, fun hl => ?_, fun op ho => ?_⟩, fun hb => ⟨?_, ?_, ?_, ?_, fun op ho => ?_⟩⟩,
    fun s r hr => ⟨fun h3 => ?_, fun h3 h => ?_, fun h3 ha hu => ⟨fun ho hb => ?_, fun hb ht hs => ?_, fun hb hs => ?_⟩⟩,
    fun d k key derived => ⟨tabGet_slotBind .., tabGet_slotZero .., fun j hj => tabGet_slots_ne d key derived hj⟩,
    fun d i key => ⟨?_, ?_, fun j hj => ⟨?_, ?_⟩⟩, fun d i key h => mwLoad_switch d key h⟩
  · rw [exec_keyUnwrap h2, keyIssue_runs h0 _ _ rfl (take_padded hl)]
  · rw [exec_keyDerive h2, keyIssue_runs h0 _ _ ((keyBlockLen_derive hl hc).trans (if_pos ⟨hl64, hc64⟩)) (take_padded hb)]
  · rw [exec_keyDerive h2, keyIssue_bad h0 _ _ ((keyBlockLen_derive hl hc).trans (if_neg (by omega)))]
  · rw [exec_keyZeroise h2, keyIssue_runs h0 (b := []) _ _ rfl rfl]
  · rw [exec_keyLoadPlain h2, keyIssue_runs h0 _ _ rfl (take_padded hl)]
  · rw [exec_keyCmdBadOp h2 ho, keyIssue_runs h0 (b := []) _ _ (keyBlockLen_badOp ho) rfl]
  · rw [exec_keyUnwrap h2, keyIssue_busy hb]
  · rw [exec_keyDerive h2, keyIssue_busy hb]
  · rw [exec_keyZeroise h2, keyIssue_busy hb]
  · rw [exec_keyLoadPlain h2, keyIssue_busy hb]
  · rw [exec_keyCmdBadOp h2 ho, keyIssue_busy hb]
  · exact exec_keyCmdComplete hr (keyApply_decommissioned h3)
  · exact exec_keyCmdComplete hr (keyApply_badTarget h3 h)
  · exact exec_keyCmdComplete hr (keyApply_srcBad h3 ha hu ho hb)
  · exact exec_keyCmdComplete hr (keyApply_slotUsed h3 ha hu hb ht hs)
  · have hk := keyApply_operate h3 ha hu hb hs
    refine ⟨fun ho hx => ?_, fun k ho hx => ?_, fun ho ht => ?_, fun ho ht => ?_, fun ho ht => ?_, fun ho ht => ?_, fun ho ht => ?_, fun ho ht => ?_,
      fun ho ht => ?_, fun ho ht => ?_⟩
    · exact exec_keyCmdComplete hr (hk.trans (by rw [keyOperate_unwrap ho, hx]; rfl))
    · exact exec_keyCmdComplete hr (hk.trans (by rw [keyOperate_unwrap ho, hx]; rfl))
    · exact exec_keyCmdComplete hr (hk.trans (by rw [keyOperate_derive ho, if_pos ht]))
    · exact exec_keyCmdComplete hr (hk.trans (by rw [keyOperate_derive ho, if_neg (by omega), keyLoad, if_pos ht]))
    · exact exec_keyCmdComplete hr (hk.trans (by rw [keyOperate_derive ho, if_neg (by omega), keyLoad, if_neg (by omega)]))
    · exact exec_keyCmdComplete hr (hk.trans (by rw [keyOperate_zeroise ho, if_pos ht]))
    · exact exec_keyCmdComplete hr (hk.trans (by rw [keyOperate_zeroise ho, if_neg (by omega), if_pos ht]))
    · exact exec_keyCmdComplete hr (hk.trans (by rw [keyOperate_zeroise ho, if_neg (by omega), if_neg (by omega)]))
    · exact exec_keyCmdComplete hr (hk.trans (by rw [keyOperate_plain ho, keyLoad, if_pos ht]))
    · exact exec_keyCmdComplete hr (hk.trans (by rw [keyOperate_plain ho, keyLoad, if_neg (by omega)]))
  · rw [ideLoad_ideKeys, tabGet_tabPut_self]
  · rw [mwLoad_mwKeys, tabGet_tabPut_self]
  · rw [ideLoad_ideKeys, tabGet_tabPut_ne _ _ _ _ hj]
  · rw [mwLoad_mwKeys, tabGet_tabPut_ne _ _ _ _ hj]

/-! ## The life cycle and debug (R343 to R345) -/

theorem regCmd_state {s t : State} {p : Path} {b : Block} {n : RName} {w : Word} (ha : admitted s p b n = true)
    (hw : stateWrite s p b n w = some t) (hn : n ∈ regsHeader ++ b.regs) (hi : 0 < n.row.count) (h7 : highOf n = none) (h8 : lowOf n = none)
    (h1 : n.row.profile = false) (h2 : headerWrite s.dev b n w = none) (h3 : captureOf n = []) (h4 : quadWrite s.dev p b n 0 w = none)
    (h5 : deviceWrite s.dev p b n 0 w = none) : regCmd s p b n w = .next (wrote p b n t) := by
  rw [regCmd_admitted w ha hn hi h7 h8, writeReg_state h1 h2 h3 h4 h5 hw]

theorem exec_lifecycleAdvance {s : State} {p : Path} (v : Word) (ha : admitted s p .seci .seciLifecycle = true) :
    exec (.lifecycleAdvance p v) s = .next (wrote p .seci .seciLifecycle { s with life := lifecycleWrite s.life v }) := by
  show regCmd s p .seci .seciLifecycle v = _
  exact regCmd_state ha rfl (List.mem_append_right _ (show RName.seciLifecycle ∈ regsSeci by decide)) (by decide) (by decide) (by decide) (by decide) rfl (by decide) rfl rfl

theorem lifecycleWrite_next {l : Life} {v : Word} (h : fld v 17 16 = l.state.toNat + 1) : lifecycleWrite l v = { l with burn := some (l.state + 1) } := by
  have hb : BitVec.ofNat 2 (fld v 17 16) = l.state + 1 := by
    rw [h]
    apply BitVec.eq_of_toNat_eq
    simp
  unfold lifecycleWrite
  rw [if_pos h, hb]

/-- A token asks for no enable beyond what the state has or lets its key unlock (R345). -/
theorem enables_within {x y z : BitVec 4} : x &&& ~~~(y ||| z) = 0 ↔ ∀ i, x.getLsbD i = true → y.getLsbD i = true ∨ z.getLsbD i = true := by
  constructor
  · intro h i hx
    have hi := BitVec.lt_of_getLsbD hx
    have := congrArg (fun v => v.getLsbD i) h
    simpa [hx, hi, or_iff_not_imp_left] using this
  · intro h
    apply BitVec.eq_of_getLsbD_eq
    intro i hi
    cases hx : x.getLsbD i
    · simp [hx]
    · rcases h i hx with hy | hz
      · simp [hy]
      · simp [hz]

theorem tokenOk_iff {l : Life} {t : Token} : tokenOk l t = true ↔ t.sigValid = true ∧ t.nonce ∈ l.nonces
    ∧ ∀ i, t.enables.getLsbD i = true → (baseEnables l.state).getLsbD i = true ∨ (unlockable l.state t.vendor).getLsbD i = true := by
  rw [← enables_within]
  simp [tokenOk, and_assoc]

theorem exec_debugUnlockToken_granted {s : State} {t : Token} (h2 : domOn s.dev 2 = true) (ht : tokenOk s.life t = true) : exec (.debugUnlockToken t) s
    = .next { s with life := { s.life with nonces := s.life.nonces.filter (· ≠ t.nonce), unlocked := s.life.unlocked ||| (t.enables &&& unlockable s.life.state t.vendor) } } := by
  show execDebugUnlockToken t s = _
  rw [execDebugUnlockToken, if_neg (not_not_intro h2)]
  exact if_pos ht

theorem exec_debugUnlockToken_refused {s : State} {t : Token} (h2 : domOn s.dev 2 = true) (ht : ¬ tokenOk s.life t = true) : exec (.debugUnlockToken t) s
    = .next { onDev s (raise0 s.dev .seci 1) with life := { s.life with nonces := s.life.nonces.filter (· ≠ t.nonce) } } := by
  show execDebugUnlockToken t s = _
  rw [execDebugUnlockToken, if_neg (not_not_intro h2)]
  exact if_neg ht

theorem relockLife_enables (l : Life) : enables (relockLife l) = enablesOf (baseEnables l.state) := by
  show enablesOf (baseEnables l.state ||| 0#4) = _
  rw [BitVec.or_zero]

theorem relockLife_core {l : Life} {k : Nat} (hk : k < l.cores.length) : (relockLife l).cores.getD k {}
    = if (enables (relockLife l)).getLsbD (if (l.cores.getD k {}).secure = true then 3 else 1) = true then l.cores.getD k {}
      else { l.cores.getD k {} with halted := false } := by
  have hc : (relockLife l).cores.getD k {} = (fun c : CoreSt => if c.halted ∧ ¬ (if c.secure then (enables (relockLife l)).getLsbD 3 else (enables (relockLife l)).getLsbD 1)
      then { c with halted := false } else c) (l.cores.getD k {}) := by
    simp only [relockLife, resumeCores, List.getD_eq_getElem?_getD, List.getElem?_map, List.getElem?_eq_getElem hk, Option.map_some, Option.getD_some]
    rfl
  rw [hc]
  generalize l.cores.getD k {} = c
  obtain ⟨running, secure, halted⟩ := c
  cases secure <;> cases halted <;> simp <;> split <;> simp_all

theorem exec_relock {s : State} {p : Path} (v : Word) (ha : admitted s p .seci .seciDebugEn = true) :
    exec (.relock p v) s = .next (wrote p .seci .seciDebugEn { s with life := relockLife s.life }) := by
  have hb : bitOf (v ||| 0x100) 8 = true := by simp [bitOf]
  show regCmd s p .seci .seciDebugEn (v ||| 0x100) = _
  refine (regCmd_state ha rfl (List.mem_append_right _ (show RName.seciDebugEn ∈ regsSeci by decide)) (by decide) (by decide) (by decide) (by decide) rfl
    (by decide) rfl rfl).trans ?_
  rw [if_pos hb]

/-- Settles O42. -/
theorem lifeAndDebug : Obligations.LifeAndDebug := by
  refine ⟨fun s p v ha => ⟨fun h => ?_, fun h => ?_⟩, fun s p nonce h2 hp => ?_, fun s nonce => ⟨_, rfl, fun n => ?_⟩,
    fun s t h2 => ⟨fun hs hn hk => ?_, fun h => ?_⟩, fun vendor => ?_, fun s p v ha => ⟨relockLife s.life, ?_, rfl, ?_, relockLife_enables _, fun k hk => relockLife_core hk⟩⟩
  · rw [exec_lifecycleAdvance v ha, lifecycleWrite_next h]
  · rw [exec_lifecycleAdvance v ha, lifecycleWrite, if_neg h]
  · show execDebugNonceRequest p nonce s = _
    rw [execDebugNonceRequest, if_pos ⟨h2, hp⟩]
    rfl
  · simp
  · exact exec_debugUnlockToken_granted h2 (tokenOk_iff.2 ⟨hs, hn, hk⟩)
  · refine exec_debugUnlockToken_refused h2 fun ht => ?_
    obtain ⟨hs, hn, hk⟩ := tokenOk_iff.1 ht
    rcases h with h | h | h
    · rw [hs] at h
      cases h
    · exact h hn
    · exact h hk
  · decide +revert
  · exact exec_relock v ha
  · simp [relockLife, resumeCores]

end Sys2Proof.Machine
end

section
/-! PROOFS. Debug reads (R146, R343), claims, the TEST right and the watchdog (R349, R351, R352, R355); requests on the mode (R359 to R362, R367). -/

namespace Sys2Proof.Machine

/-! ## Words with one bit for each member of a list -/

theorem foldl_bits_getLsbD (L : List Nat) (hL : ∀ j ∈ L, j < 32) (a : Word) (i : Nat) :
    ((L.map fun j => (j, 1)).foldl (fun a e => a ||| BitVec.ofNat 32 (e.2 <<< e.1)) a).getLsbD i = (a.getLsbD i || decide (i ∈ L)) := by
  induction L generalizing a with
  | nil => simp
  | cons j L ih =>
    have hj := hL j List.mem_cons_self
    have hb : (BitVec.ofNat 32 (1 <<< j)).getLsbD i = decide (i = j) := by
      rw [BitVec.getLsbD_ofNat, Nat.one_shiftLeft, Nat.testBit_two_pow]
      by_cases h : i = j
      · subst h
        simp [hj]
      · simp [h, Ne.symm h]
    rw [List.map_cons, List.foldl_cons, ih (fun k hk => hL k (List.mem_cons_of_mem _ hk)), BitVec.getLsbD_or, hb, Bool.or_assoc]
    simp [Bool.decide_or]

theorem packW_bits_getLsbD (L : List Nat) (hL : ∀ j ∈ L, j < 32) (i : Nat) : (packW (L.map fun j => (j, 1))).getLsbD i = decide (i ∈ L) := by
  unfold packW
  rw [foldl_bits_getLsbD L hL]
  simp

/-! ## Debug reads (R146, R343) -/

/-- A debug read at its home, of a line that Stage holds: the line is sent, and no heat is sampled. -/
theorem finishRead_debug {d : Dev} {r : Req} {x : Line} (hh : homeClear d r.line = true) (hs : r.src = .debug) :
    Inner d (finishRead (stageTouch d r.line) r (some x) true) ∧ SameStage d (finishRead (stageTouch d r.line) r (some x) true)
      ∧ (finishRead (stageTouch d r.line) r (some x) true).out = .debugData x false :: d.out := by
  obtain ⟨_, _, _, hno⟩ := needsDir_clear hh
  have h1 := calm_countSet (stageTouch d r.line) r.slate 2 1
  have h2 := (calm_countSet (countSet (stageTouch d r.line) r.slate 2 1) r.slate 0 64).trans (calm_send _ (.debugData x false))
  have key : finishRead (stageTouch d r.line) r (some x) true = send (countSet (countSet (stageTouch d r.line) r.slate 2 1) r.slate 0 64) (.debugData x false) := by
    unfold finishRead
    simp only [hs, if_true]
    rw [transById_none r h1.2 (by rw [trans_stageTouch]; exact hno)]
    unfold respondRead
    rw [hs]
  rw [key]
  refine ⟨((inner_stageTouch ..).trans h1.1).trans h2.1, fun l => ?_, ?_⟩
  · rw [h2.stage l, h1.stage l, stageFind_stageTouch]
  · show Out.debugData x false :: (countSet (countSet (stageTouch d r.line) r.slate 2 1) r.slate 0 64).out = _
    rw [out_countSet, out_countSet, out_stageTouch]

section
variable {s : State} {dpa : Dpa} (h3 : domOn s.dev 3 = true) (hq : domOn s.dev (4 + homeOf (pageOfLine (dpa.toNat / 64))) = true)
  (hm : s.dev.pwr.mode ∈ [Mode.service, .degraded, .maintain])

include h3 hq hm

theorem debugUp : (domOn s.dev 3 && domOn s.dev (4 + homeOf (pageOfLine (dpa.toNat / 64)))
    && (decide (s.dev.pwr.mode = .service) || decide (s.dev.pwr.mode = .degraded) || decide (s.dev.pwr.mode = .maintain))) = true := by
  rw [h3, hq]
  simpa [or_assoc] using hm

theorem exec_debugDpaRead : exec (.debugDpaRead dpa) s = .next (onDev s
    (if limitPages s.dev (homeOf (pageOfLine (dpa.toNat / 64))) ≤ pageOfLine (dpa.toNat / 64) then send s.dev (.debugData (BitVec.allOnes 512) true)
    else if ¬ (enables s.life).getLsbD 0 then send (accessRefused s.dev (pageOfLine (dpa.toNat / 64)) 3 0 0) (.debugData (BitVec.allOnes 512) true)
    else enterHome { s.dev with nextId := s.dev.nextId + 1 }
      { id := s.dev.nextId, src := .debug, kind := .rc, op := .read, line := dpa.toNat / 64, agent := 24, slate := 2 ^ 18, heatW := 0 })) := by
  show execDebugDpaRead dpa s = _
  unfold execDebugDpaRead
  exact doneIf_next (debugUp h3 hq hm)

end

theorem debugRead_hit {d : Dev} {r : Req} {x : Line} (hh : homeClear d r.line = true) (hr : debugRight d (pageOfLine r.line) = true)
    (hs : r.src = .debug) (ho : r.op = .read) (hk : r.kind ≠ .evc) (hx : stageFind d r.line = some x) :
    Inner d (enterHome d r) ∧ SameStage d (enterHome d r) ∧ (enterHome d r).out = .debugData x false :: d.out := by
  rw [enterHome_op hh (by unfold reqRight; rw [hs]; exact hr) ho hk hx]
  exact finishRead_debug hh hs

/-! ## Claims, TEST and the watchdog (R349, R351, R352, R355) -/

theorem exec_claim {s : State} {p : Path} (v : Word) (ha : admitted s p .seci .seciClaim = true) :
    exec (.claim p v) s = .next (wrote p .seci .seciClaim (withDev s (claimWrite s.dev v))) := by
  show regCmd s p .seci .seciClaim v = _
  exact regCmd_device ha rfl (List.mem_append_right _ (show RName.seciClaim ∈ regsSeci by decide)) (by decide) (by decide) (by decide) (by decide) rfl (by decide) rfl

/-- The claims that a write of CLAIM applies (R349). -/
def claimsOf (d : Dev) (v : Word) : List Nat := (List.range 20).filter fun i => v.getLsbD i && i ≠ 0 && i ≠ 2 && domOn d i && d.pwr.domReq ≠ some (i, 1)

theorem claimWrite_eq (d : Dev) (v : Word) : claimWrite d v = rput d .seci .seciClaim (packW ((claimsOf d v).map fun i => (i, 1))) := rfl

theorem mem_claimsOf {d : Dev} {v : Word} {i : Nat} :
    i ∈ claimsOf d v ↔ v.getLsbD i = true ∧ i < 20 ∧ i ≠ 0 ∧ i ≠ 2 ∧ domOn d i = true ∧ d.pwr.domReq ≠ some (i, 1) := by
  simp only [claimsOf, List.mem_filter, List.mem_range, Bool.and_eq_true, decide_eq_true_eq]
  constructor
  · rintro ⟨h1, ⟨⟨⟨h2, h3⟩, h4⟩, h5⟩, h6⟩
    exact ⟨h2, h1, h3, h4, h5, h6⟩
  · rintro ⟨h2, h1, h3, h4, h5, h6⟩
    exact ⟨h1, ⟨⟨⟨h2, h3⟩, h4⟩, h5⟩, h6⟩

theorem claimWrite_bit (d : Dev) (v : Word) (i : Nat) : (packW ((claimsOf d v).map fun i => (i, 1))).getLsbD i = true
    ↔ v.getLsbD i = true ∧ i < 20 ∧ i ≠ 0 ∧ i ≠ 2 ∧ domOn d i = true ∧ d.pwr.domReq ≠ some (i, 1) := by
  rw [packW_bits_getLsbD _ (fun j hj => by have := (mem_claimsOf.1 hj).2.1; omega), decide_eq_true_eq, mem_claimsOf]

theorem exec_testEn {s : State} {p : Path} (v : Word) (ha : admitted s p .seci .seciTestEn = true) :
    exec (.testEn p v) s = .next (wrote p .seci .seciTestEn (testEnWrite s v)) := by
  show regCmd s p .seci .seciTestEn v = _
  exact regCmd_state ha rfl (List.mem_append_right _ (show RName.seciTestEn ∈ regsSeci by decide)) (by decide) (by decide) (by decide) (by decide) rfl (by decide) rfl rfl

theorem exec_wdogKick {s : State} {p : Path} (v : Word) (ha : admitted s p .mgt .mgtWdogKick = true) :
    exec (.wdogKick p v) s = .next (wrote p .mgt .mgtWdogKick (withDev s { s.dev with wdogSince := s.dev.pwr.now })) := by
  have hw : wdogKickWrite s.dev (v ||| 1) = { s.dev with wdogSince := s.dev.pwr.now } := if_pos (bitOf_or_one v)
  show regCmd s p .mgt .mgtWdogKick (v ||| 1) = _
  rw [← hw]
  exact regCmd_device ha rfl (List.mem_append_right _ (show RName.mgtWdogKick ∈ regsMgt by decide)) (by decide) (by decide) (by decide) (by decide) rfl (by decide) rfl

/-- Settles O43. -/
theorem debugClaimsWatchdog : Obligations.DebugClaimsWatchdog := by
  refine ⟨fun s dpa h3 hq hm => ⟨fun x hl hn hh hr hx => ?_, fun hl hn => ?_, fun hl => ?_⟩, fun s p v ha => ⟨_, ?_, claimWrite_bit s.dev v⟩,
    fun s p v ha => ⟨fun hl => ?_, fun hl => ?_⟩, fun s p v ha => exec_wdogKick v ha, fun s h1 hc hr => ?_, fun s h => ?_⟩
  · refine ⟨_, exec_debugDpaRead h3 hq hm, ?_⟩
    rw [if_neg (Nat.not_le.2 hl), if_neg (not_not_intro hn)]
    obtain ⟨h1, h2, h4⟩ := debugRead_hit (d := { s.dev with nextId := s.dev.nextId + 1 })
      (r := { id := s.dev.nextId, src := .debug, kind := .rc, op := .read, line := dpa.toNat / 64, agent := 24, slate := 2 ^ 18, heatW := 0 }) hh hr rfl rfl (show Kind.rc ≠ .evc by decide) hx
    have hn : Served s.dev { s.dev with nextId := s.dev.nextId + 1 } := rfl
    exact ⟨hn.trans h1.served, h2, h4⟩
  · rw [exec_debugDpaRead h3 hq hm, if_neg (Nat.not_le.2 hl), if_pos (by rw [hn]; exact Bool.false_ne_true)]
  · rw [exec_debugDpaRead h3 hq hm, if_pos hl]
  · rw [exec_claim v ha, claimWrite_eq]
  · rw [exec_testEn v ha, testEnWrite, if_neg hl]
    rfl
  · rw [exec_testEn v ha, testEnWrite, if_pos hl]
  · show execManagementWatchdog s = _
    rw [execManagementWatchdog, doneIf_next (by simp [h1, hc, hr])]
  · show execManagementWatchdog s = _
    rw [execManagementWatchdog]
    refine if_neg fun hx => ?_
    simp only [Bool.and_eq_true, decide_eq_true_eq] at hx
    rcases h with h | h
    · rw [h] at hx
      cases hx.1.2
    · exact hx.2 h

/-! ## Requests on the mode (R359 to R362, R367) -/

theorem fld_packW_modeReq (req : Fin 8) (sub : Fin 4) : fld (packW [(0, req.val), (4, sub.val)]) 2 0 = req.val ∧ fld (packW [(0, req.val), (4, sub.val)]) 5 4 = sub.val := by
  revert req sub
  decide

section
variable {s : State} {p : Path}

/-- A write of MODE_REQ that the window admits. -/
theorem modeCmd_next (ha : admitted s p .pwr .pwrModeReq = true) {req sub : Nat} (hr : req < 8) (hs : sub < 4) :
    modeCmd s p req sub = .next (wrote p .pwr .pwrModeReq (modeRequest s p req sub)) := by
  obtain ⟨h1, h2⟩ := fld_packW_modeReq ⟨req, hr⟩ ⟨sub, hs⟩
  unfold modeCmd
  refine (regCmd_state ha rfl (List.mem_append_right _ (show RName.pwrModeReq ∈ regsPwr by decide)) (by decide) (by decide) (by decide) (by decide) rfl
    (by decide) rfl rfl).trans ?_
  rw [h1, h2]

theorem modeRequest_busy (h : s.dev.pwr.req.isSome = true) (req sub : Nat) : modeRequest s p req sub = withDev s (reqDone s.dev 1) := by
  unfold modeRequest
  dsimp only
  rw [if_pos h]
  rfl

variable (h : s.dev.pwr.req = none)

include h

theorem modeRequest_sub {sub : Nat} : modeRequest s p 0 sub = withDev s
    (if inService s.dev ∧ sub < 3 then reqDone (applySub { s.dev with pwr := { s.dev.pwr with subReq := sub } }) 0 else reqDone s.dev 3) := by
  unfold modeRequest
  dsimp only
  rw [if_neg (by simp [h])]
  rfl

theorem modeRequest_leave : modeRequest s p 1 0 = withDev s (if s.dev.pwr.mode = .maintain then reqDone (leaveMaintain s.dev) 0 else reqDone s.dev 3) := by
  unfold modeRequest
  dsimp only
  rw [if_neg (by simp [h])]
  rfl

theorem modeRequest_maintain : modeRequest s p 3 0 = withDev s (if inService s.dev then stopIntake s.dev .maintain else reqDone s.dev 3) := by
  unfold modeRequest
  dsimp only
  rw [if_neg (by simp [h])]
  rfl

theorem modeRequest_retain_free (hc : anyClaim s.dev = none) : modeRequest s p 4 0 = withDev s (if inService s.dev then stopIntake s.dev .retain else reqDone s.dev 3) := by
  unfold modeRequest
  dsimp only
  rw [if_neg (by simp [h]), hc]
  rfl

theorem modeRequest_retain_claimed {i : Nat} (hc : anyClaim s.dev = some i) :
    modeRequest s p 4 0 = withDev s (reqDone (claimRefused s.dev i 2 (Path.code p)) 2) := by
  unfold modeRequest
  dsimp only
  rw [if_neg (by simp [h]), hc]
  rfl

theorem modeRequest_factory : modeRequest s p 5 0 = withDev s
    (if p = .secure ∧ s.dev.pwr.mode = .boot ∧ s.life.state = 0 then reqDone (modeTo s.dev .factory) 0 else reqDone s.dev 3) := by
  unfold modeRequest
  dsimp only
  rw [if_neg (by simp [h])]
  rfl

theorem modeRequest_none {req : Nat} (hr : req = 2 ∨ req = 6 ∨ req = 7) : modeRequest s p req 0 = withDev s (reqDone s.dev 3) := by
  unfold modeRequest
  dsimp only
  rw [if_neg (by simp [h])]
  rcases hr with rfl | rfl | rfl <;> rfl

end

theorem inService_iff {d : Dev} : inService d = true ↔ d.pwr.mode = .service ∨ d.pwr.mode = .degraded := by simp [inService]

theorem anyClaim_none {d : Dev} (h : ∀ i, i < 20 → i ≠ 0 → claimed d i = false) : anyClaim d = none := by
  unfold anyClaim
  rw [List.find?_eq_none]
  intro i hi
  by_cases h0 : i = 0
  · simp [h0]
  · simp [h i (List.mem_range.1 hi) h0]

theorem anyClaim_first {d : Dev} {i : Nat} (hi : i < 20) (h0 : i ≠ 0) (hc : claimed d i = true) (hl : ∀ j, 0 < j → j < i → claimed d j = false) :
    anyClaim d = some i := by
  unfold anyClaim
  rw [List.find?_range_eq_some]
  refine ⟨by simp [h0, hc], List.mem_range.2 hi, fun j hj => ?_⟩
  by_cases hj0 : j = 0
  · simp [hj0]
  · simp [hl j (Nat.pos_of_ne_zero hj0) hj]

/-! ## Entering Maintain (R361) -/

/-- A cluster that rolls is cut for the entry: one step of the model's stopIntake. -/
def cutCluster (d : Dev) (q : Nat) : Dev :=
  if (pget d (.nme q)).run = .rolling then
    pmod { d with pwr := { d.pwr with cutBy := d.pwr.cutBy ||| BitVec.ofNat 4 (2 ^ q) } } (.nme q) fun p => { p with run := .cutting }
  else d

/-- A cluster that cuts is cut: one step of the model's execMaintainReached. -/
def endCut (d : Dev) (q : Nat) : Dev := if (pget d (.nme q)).run = .cutting then pmod d (.nme q) fun p => { p with run := .cut } else d

theorem stopIntake_eq (d : Dev) (r : ModeReq) : stopIntake d r = (List.range 4).foldl cutCluster { d with pwr := { d.pwr with req := some r } } := rfl

theorem nme_page_ne {q j : Nat} (h : j ≠ q) : (Block.nme j).page ≠ (Block.nme q).page := by
  show 0x27 + 8 * j ≠ 0x27 + 8 * q
  omega

theorem cutCluster_ne (d : Dev) {q j : Nat} (h : j ≠ q) :
    pget (cutCluster d q) (.nme j) = pget d (.nme j) ∧ (d.pwr.cutBy.getLsbD j = true → (cutCluster d q).pwr.cutBy.getLsbD j = true) := by
  unfold cutCluster
  split
  · refine ⟨pget_pmod_ne _ _ (nme_page_ne h), fun hj => ?_⟩
    show (d.pwr.cutBy ||| _).getLsbD j = true
    simp [hj]
  · exact ⟨rfl, id⟩

theorem cutCluster_self {d : Dev} {q : Nat} (hq : q < 4) (h : (pget d (.nme q)).run = .rolling) :
    (pget (cutCluster d q) (.nme q)).run = .cutting ∧ (cutCluster d q).pwr.cutBy.getLsbD q = true := by
  unfold cutCluster
  rw [if_pos h]
  refine ⟨by rw [pget_pmod_self], ?_⟩
  show (d.pwr.cutBy ||| BitVec.ofNat 4 (2 ^ q)).getLsbD q = true
  rw [BitVec.getLsbD_or, BitVec.getLsbD_ofNat, Nat.testBit_two_pow_self]
  simp [hq]

/-- Clusters cut one after another: each one that rolled is cutting at the end. -/
theorem foldl_cutCluster {q : Nat} (hq : q < 4) (L : List Nat) (d : Dev) :
    ((pget d (.nme q)).run = .rolling → q ∈ L → (pget (L.foldl cutCluster d) (.nme q)).run = .cutting ∧ (L.foldl cutCluster d).pwr.cutBy.getLsbD q = true)
      ∧ ((pget d (.nme q)).run = .cutting → d.pwr.cutBy.getLsbD q = true →
        (pget (L.foldl cutCluster d) (.nme q)).run = .cutting ∧ (L.foldl cutCluster d).pwr.cutBy.getLsbD q = true) := by
  induction L generalizing d with
  | nil => exact ⟨fun _ h => absurd h List.not_mem_nil, fun h1 h2 => ⟨h1, h2⟩⟩
  | cons j L ih =>
    obtain ⟨ih1, ih2⟩ := ih (cutCluster d j)
    rw [List.foldl_cons]
    refine ⟨fun hr hm => ?_, fun hr hb => ?_⟩
    · by_cases hj : q = j
      · subst hj
        exact ih2 (cutCluster_self hq hr).1 (cutCluster_self hq hr).2
      · exact ih1 (by rw [(cutCluster_ne d hj).1]; exact hr) ((List.mem_cons.1 hm).resolve_left hj)
    · by_cases hj : q = j
      · subst hj
        have he : cutCluster d q = d := if_neg (by rw [hr]; decide)
        exact ih2 (by rw [he]; exact hr) (by rw [he]; exact hb)
      · exact ih2 (by rw [(cutCluster_ne d hj).1]; exact hr) ((cutCluster_ne d hj).2 hb)

theorem foldl_cutCluster_req (L : List Nat) (d : Dev) : (L.foldl cutCluster d).pwr.req = d.pwr.req := by
  induction L generalizing d with
  | nil => rfl
  | cons j L ih =>
    rw [List.foldl_cons, ih]
    unfold cutCluster
    split <;> rfl

theorem stopIntake_cuts (d : Dev) (r : ModeReq) {q : Nat} (hq : q < 4) (h : (pget d (.nme q)).run = .rolling) :
    (pget (stopIntake d r) (.nme q)).run = .cutting ∧ (stopIntake d r).pwr.cutBy.getLsbD q = true := by
  have hr : (pget { d with pwr := { d.pwr with req := some r } } (.nme q)).run = .rolling := h
  have key := (foldl_cutCluster hq (List.range 4) { d with pwr := { d.pwr with req := some r } }).1 hr (List.mem_range.2 hq)
  rw [stopIntake_eq]
  exact key

theorem stopIntake_req (d : Dev) (r : ModeReq) : (stopIntake d r).pwr.req = some r := by
  rw [stopIntake_eq, foldl_cutCluster_req]

theorem admitting_stopIntake (d : Dev) (r : ModeReq) : admitting (stopIntake d r) = false := by
  unfold admitting
  rw [stopIntake_req]
  simp

theorem endCut_ne (d : Dev) {q j : Nat} (h : j ≠ q) : pget (endCut d q) (.nme j) = pget d (.nme j) := by
  unfold endCut
  split
  · exact pget_pmod_ne _ _ (nme_page_ne h)
  · rfl

theorem endCut_eq (d : Dev) (q : Nat) : endCut d q = { d with pages := (endCut d q).pages } := by
  unfold endCut
  split <;> rfl

theorem foldl_endCut_eq (L : List Nat) (d : Dev) : L.foldl endCut d = { d with pages := (L.foldl endCut d).pages } := by
  induction L generalizing d with
  | nil => rfl
  | cons j L ih =>
    rw [List.foldl_cons, ih]
    rw [endCut_eq d j]

theorem foldl_endCut_run {q : Nat} (L : List Nat) (d : Dev) :
    ((pget d (.nme q)).run = .cutting → q ∈ L → (pget (L.foldl endCut d) (.nme q)).run = .cut)
      ∧ ((pget d (.nme q)).run = .cut → (pget (L.foldl endCut d) (.nme q)).run = .cut) := by
  induction L generalizing d with
  | nil => exact ⟨fun _ h => absurd h List.not_mem_nil, id⟩
  | cons j L ih =>
    obtain ⟨ih1, ih2⟩ := ih (endCut d j)
    rw [List.foldl_cons]
    refine ⟨fun hr hm => ?_, fun hr => ?_⟩
    · by_cases hj : q = j
      · subst hj
        refine ih2 ?_
        rw [endCut, if_pos hr, pget_pmod_self]
      · exact ih1 (by rw [endCut_ne d hj]; exact hr) ((List.mem_cons.1 hm).resolve_left hj)
    · by_cases hj : q = j
      · subst hj
        exact ih2 (by rw [endCut, if_neg (by rw [hr]; decide)]; exact hr)
      · exact ih2 (by rw [endCut_ne d hj]; exact hr)

/-- The mode changes to Maintain as the request ends. -/
theorem pget_toMaintain (d : Dev) (q : Nat) : pget (modeTo (reqEnd d 0) .maintain) (.nme q) = pget d (.nme q) := by
  have hp : (Block.nme q).page ≠ Block.pwr.page := by
    show 0x27 + 8 * q ≠ 4
    omega
  unfold modeTo raiseEvent
  rw [pget_pmod_ne _ _ hp]
  show pget (reqEnd d 0) (.nme q) = _
  unfold reqEnd reqDone raiseEvent
  rw [pget_pmod_ne _ _ hp]
  rfl

theorem toMaintain_eq (d : Dev) (P : Tab (Option PageSt)) : modeTo (reqEnd { d with pages := P } 0) .maintain
    = { d with pages := (modeTo (reqEnd { d with pages := P } 0) .maintain).pages, pwr := { d.pwr with mode := .maintain, req := none, reqResult := 0 } } := rfl

theorem done_settled (s : State) (d : Dev) : done s d = .next (settled (withDev s d)) := rfl

theorem done_withDev (s : State) (d e : Dev) : done (withDev s d) e = done s e := rfl

/-- The device in Maintain (R361). -/
def maintained (d : Dev) : Dev := modeTo (reqEnd ((List.range 4).foldl endCut d) 0) .maintain

theorem maintained_run {d : Dev} {q : Nat} (hq : q < 4) (h : (pget d (.nme q)).run = .cutting) : (pget (maintained d) (.nme q)).run = .cut := by
  rw [maintained, pget_toMaintain]
  exact (foldl_endCut_run _ d).1 h (List.mem_range.2 hq)

theorem maintained_eq (d : Dev) : maintained d = { d with pages := (maintained d).pages, pwr := { d.pwr with mode := .maintain, req := none, reqResult := 0 } } := by
  have h := toMaintain_eq d ((List.range 4).foldl endCut d).pages
  rw [← foldl_endCut_eq] at h
  exact h

theorem execMaintainReached_eq {s : State} (h : s.dev.pwr.req = some .maintain ∧ maintainReady s.dev = true ∧ ¬ s.dev.pwr.holdUp = true) :
    execMaintainReached s = if (maintained s.dev).pwr.activating.isSome = true
      then done (coresToSecure (withDev s (maintained s.dev))) (swapNormal (coresToSecure (withDev s (maintained s.dev))).dev false)
      else done (withDev s (maintained s.dev)) (maintained s.dev) := by
  unfold execMaintainReached maintained endCut withDev
  rw [if_pos h]

section
variable {s : State} (hr : s.dev.pwr.req = some .maintain) (hm : maintainReady s.dev = true) (hh : s.dev.pwr.holdUp = false)

include hr hm hh

theorem exec_maintainReached_idle (ha : s.dev.pwr.activating = none) : exec .maintainReached s = .next (onDev s (maintained s.dev)) := by
  have hi : (maintained s.dev).pwr.activating.isSome = false := by
    rw [maintained_eq]
    simp [ha]
  show execMaintainReached s = _
  rw [execMaintainReached_eq ⟨hr, hm, by simp [hh]⟩, if_neg (by rw [hi]; exact Bool.false_ne_true), done_withDev, done_next]

theorem exec_maintainReached_activating (ha : s.dev.pwr.activating.isSome = true) :
    exec .maintainReached s = .next (settled (withDev (coresToSecure (withDev s (maintained s.dev))) (swapNormal (coresToSecure (withDev s (maintained s.dev))).dev false))) := by
  have hi : (maintained s.dev).pwr.activating.isSome = true := by
    rw [maintained_eq]
    exact ha
  show execMaintainReached s = _
  rw [execMaintainReached_eq ⟨hr, hm, by simp [hh]⟩, if_pos hi, done_settled]

end

theorem coreAt_withDev (s : State) (d : Dev) (k : Nat) : coreAt (withDev s d) k = coreAt s k := rfl

/-- The cores go back to the secure world (R362). -/
theorem coresToSecure_core (s : State) {k : Nat} (hk : k < s.life.cores.length) :
    ((coreAt s k).running = true → (coreAt (coresToSecure s) k).secure = true ∧ (coreAt (coresToSecure s) k).pc = (coreAt s k).stvec)
      ∧ ((coreAt s k).running = false → coreAt (coresToSecure s) k = coreAt s k) := by
  have hc : coreAt (coresToSecure s) k = (fun c : CoreSt => if c.running then { c with secure := true, sepc := BitVec.ofNat 64 (Config.free (fresh s.dev)), pc := c.stvec } else c) (coreAt s k) := by
    simp only [coreAt, coresToSecure, List.getD_eq_getElem?_getD, List.getElem?_map, List.getElem?_eq_getElem hk, Option.map_some, Option.getD_some]
  rw [hc]
  exact ⟨fun h => by simp [h], fun h => by simp [h]⟩

/-! ## Leaving Maintain (R359, R361, R362) -/

theorem fin_ofNat_val (p : Fin 16) : Fin.ofNat 16 p.val = p := by simp

theorem exec_maintainOverrun {s : State} (hm : s.dev.pwr.mode = .maintain) (hh : s.dev.pwr.holdUp = false) :
    exec .maintainOverrun s = .next (settled (maintainOver s)) := by
  show execMaintainOverrun s = _
  rw [execMaintainOverrun, if_pos ⟨hm, by simp [hh]⟩]
  rfl

theorem maintainOver_idle {s : State} (ha : (raise (resumeIntake (toService s.dev)) .pwr 1 .none (pwrCtx s.dev)).pwr.activating = none) :
    maintainOver s = withDev s (raise (resumeIntake (toService s.dev)) .pwr 1 .none (pwrCtx s.dev)) := by
  unfold maintainOver
  dsimp only
  rw [ha]
  rfl

theorem maintainOver_activating {s : State} {p : Fin 16}
    (ha : (raise (resumeIntake (toService s.dev)) .pwr 1 .none (pwrCtx s.dev)).pwr.activating = some p.val) :
    (maintainOver s).dev.pwr.activating = none
      ∧ (maintainOver s).dev.out = .mailbox p 0x0202 0x000C .none :: (raise (resumeIntake (toService s.dev)) .pwr 1 .none (pwrCtx s.dev)).out := by
  unfold maintainOver
  dsimp only
  rw [ha]
  refine ⟨rfl, ?_⟩
  show Out.mailbox (Fin.ofNat 16 p.val) _ _ _ :: _ = _
  rw [fin_ofNat_val]
  rfl

theorem leaveMaintain_idle {d : Dev} (h : (resumeIntake (toService d)).pwr.activating = none) : leaveMaintain d = resumeIntake (toService d) := by
  unfold leaveMaintain
  dsimp only
  rw [h]

theorem leaveMaintain_activating {d : Dev} {p : Fin 16} (h : (resumeIntake (toService d)).pwr.activating = some p.val) :
    (leaveMaintain d).out = .mailbox p 0x0202 0 .none :: (resumeIntake (toService d)).out ∧ (leaveMaintain d).pwr.activating = none := by
  unfold leaveMaintain
  dsimp only
  rw [h]
  refine ⟨?_, rfl⟩
  show Out.mailbox (Fin.ofNat 16 p.val) _ _ _ :: _ = _
  rw [fin_ofNat_val]

/-- Settles O45. -/
theorem modeRequests : Obligations.ModeRequests := by
  refine ⟨fun s p ha => ⟨fun hb => ⟨fun v => ?_, ?_, ?_, ?_, ?_⟩, fun h => ⟨fun v => ⟨fun hs hv => ?_, fun hs => ?_⟩, fun hm => ?_, fun hm => ?_, fun hs => ?_, fun hs => ?_,
      fun hc => ⟨fun hs => ?_, fun hs => ?_⟩, fun i hi h0 hc hl => ?_, fun hp hm hl => ?_, fun hn => ?_, fun req hr => ?_⟩⟩,
    fun d r => ⟨stopIntake_req d r, admitting_stopIntake d r, fun q hq => stopIntake_cuts d r q.isLt hq⟩,
    fun s hr hm hh => ⟨fun ha => ?_, fun ha => ?_⟩, fun s hm hh => ⟨fun ha => ?_, fun p ha => ?_⟩, fun d => ⟨rfl, leaveMaintain_idle, fun p hp => leaveMaintain_activating hp⟩⟩
  · exact (modeCmd_next ha (by decide) v.isLt).trans (by rw [modeRequest_busy hb]; rfl)
  · exact (modeCmd_next ha (by decide) (by decide)).trans (by rw [modeRequest_busy hb]; rfl)
  · exact (modeCmd_next ha (by decide) (by decide)).trans (by rw [modeRequest_busy hb]; rfl)
  · exact (modeCmd_next ha (by decide) (by decide)).trans (by rw [modeRequest_busy hb]; rfl)
  · exact (modeCmd_next ha (by decide) (by decide)).trans (by rw [modeRequest_busy hb]; rfl)
  · have hv3 : v.toNat < 3 := by
      have := v.isLt
      have : v.toNat ≠ 3 := fun hx => hv (BitVec.eq_of_toNat_eq hx)
      omega
    exact (modeCmd_next ha (by decide) v.isLt).trans (by rw [modeRequest_sub h, if_pos ⟨inService_iff.2 hs, hv3⟩]; rfl)
  · have hn : ¬ (inService s.dev = true ∧ v.toNat < 3) := fun hx => hs.elim (fun hs => hs (inService_iff.1 hx.1)) fun hv => by
      have h3 := hx.2
      rw [hv] at h3
      exact absurd h3 (by decide)
    exact (modeCmd_next ha (by decide) v.isLt).trans (by rw [modeRequest_sub h, if_neg hn]; rfl)
  · exact (modeCmd_next ha (by decide) (by decide)).trans (by rw [modeRequest_leave h, if_pos hm]; rfl)
  · exact (modeCmd_next ha (by decide) (by decide)).trans (by rw [modeRequest_leave h, if_neg hm]; rfl)
  · exact (modeCmd_next ha (by decide) (by decide)).trans (by rw [modeRequest_maintain h, if_pos (inService_iff.2 hs)])
  · exact (modeCmd_next ha (by decide) (by decide)).trans (by rw [modeRequest_maintain h, if_neg (fun hx => hs (inService_iff.1 hx))]; rfl)
  · exact (modeCmd_next ha (by decide) (by decide)).trans (by rw [modeRequest_retain_free h (anyClaim_none hc), if_pos (inService_iff.2 hs)])
  · exact (modeCmd_next ha (by decide) (by decide)).trans (by rw [modeRequest_retain_free h (anyClaim_none hc), if_neg (fun hx => hs (inService_iff.1 hx))]; rfl)
  · exact (modeCmd_next ha (by decide) (by decide)).trans (by rw [modeRequest_retain_claimed h (anyClaim_first hi h0 hc hl)]; rfl)
  · exact (modeCmd_next ha (by decide) (by decide)).trans (by rw [modeRequest_factory h, if_pos ⟨hp, hm, hl⟩]; rfl)
  · have hx : ¬ (p = .secure ∧ s.dev.pwr.mode = .boot ∧ s.life.state = 0) := fun ⟨h1, h2, h3⟩ => hn.elim (fun h => h h1) fun h => h.elim (fun h => h h2) fun h => h h3
    exact (modeCmd_next ha (by decide) (by decide)).trans (by rw [modeRequest_factory h, if_neg hx]; rfl)
  · have hq : req.toNat = 2 ∨ req.toNat = 6 ∨ req.toNat = 7 := by
      rcases hr with rfl | rfl | rfl
      · exact .inl rfl
      · exact .inr (.inl rfl)
      · exact .inr (.inr rfl)
    exact (modeCmd_next ha req.isLt (by decide)).trans (by rw [modeRequest_none h hq]; rfl)
  · refine ⟨_, exec_maintainReached_idle hr hm hh ha, ?_, ?_, ?_, fun q hq => maintained_run q.isLt hq, ?_⟩ <;> rw [maintained_eq]
  · refine ⟨_, exec_maintainReached_activating hr hm hh ha, ?_, ?_, fun k hk => ?_⟩
    · show (maintained s.dev).pwr.mode = _
      rw [maintained_eq]
    · simp [withDev, coresToSecure]
    · have hc := coresToSecure_core (withDev s (maintained s.dev)) (k := k) hk
      rw [coreAt_withDev] at hc
      rw [coreAt_withDev]
      exact hc
  · rw [exec_maintainOverrun hm hh, maintainOver_idle ha]
    rfl
  · exact ⟨_, exec_maintainOverrun hm hh, maintainOver_activating ha⟩

end Sys2Proof.Machine
end

section
/-! PROOFS. The wake sequence (R371) and device time across sleep (R373). -/

namespace Sys2Proof.Machine

/-! ## Writes of the high word of a 64-bit register (R25) -/

theorem writeCmd_at {s : State} {p : Path} {b : Block} {n : RName} {i : Nat} (w : Word) (h : admitted s p b n i = true) :
    writeCmd s p (regKey b n i) w = .next (wrote p b n (writeAt s p b (regKey b n i) w) i) := by
  simp only [admitted, Bool.and_eq_true, decide_eq_true_eq] at h
  obtain ⟨⟨hp, hb⟩, hr⟩ := h
  have hw : winWrite s { path := p, off := regKey b n i, bytes := 4, write := true } w = (writeAt s p b (regKey b n i) w, none) := by
    unfold winWrite
    simp only [hr, hb]
  unfold writeCmd
  simp only [hp, not_true_eq_false, if_false, hw, winDone, wrote, answered, settled]
  split <;> rfl

section
variable {s : State} {p : Path} {b : Block} {n lo : RName} {w : Word} (hf : findReg b (regKey b n 0 % 4096) = some (n, 0)) (hh : highOf n = none)
  (hl : lowOf n = some lo)

include hf hh hl

theorem writeAt_high (h : (latchGet s.dev (latchKey p b.page)).wr = none) : writeAt s p b (regKey b n 0) w = writeReg s p b n 0 w := by
  unfold writeAt
  rw [hf]
  dsimp only
  rw [hh, hl]
  dsimp only
  rw [h]

theorem writeAt_both {x : Word} (h : (latchGet s.dev (latchKey p b.page)).wr = some (regKey b lo 0, x)) : writeAt s p b (regKey b n 0) w
    = writeReg (writeReg (withDev s (latchMod s.dev (latchKey p b.page) fun l => { l with wr := none })) p b lo 0 x) p b n 0 w := by
  unfold writeAt
  rw [hf]
  dsimp only
  rw [hh, hl]
  dsimp only
  rw [h]
  exact if_pos rfl

end

/-! ## Device time (R373) -/

theorem coded_all (r : RegRow) (hr : r.rw = 0xFFFFFFFF) (h1 : r.w1c = 0) (h2 : r.w1s = 0) (sec : Bool) (old w : Word) : coded r sec old w = w := by
  apply BitVec.eq_of_getLsbD_eq
  intro i hi
  have ho : (0xFFFFFFFF : Word).getLsbD i = true := by
    show (BitVec.allOnes 32).getLsbD i = true
    rw [BitVec.getLsbD_allOnes, decide_eq_true hi]
  rw [coded_bit, hr, h1, h2, ho]
  simp

theorem writeReg_coded {s : State} {p : Path} {b : Block} {n : RName} {i : Nat} {w : Word} (h1 : n.row.profile = false)
    (h2 : headerWrite s.dev b n w = none) (h3 : captureOf n = []) (h4 : quadWrite s.dev p b n i w = none)
    (h5 : deviceWrite s.dev p b n i w = none) (h6 : stateWrite s p b n w = none) :
    writeReg s p b n i w = withDev s (codedWrite s.dev (decide (p = .secure)) b n i w) := by
  unfold writeReg profileLoad
  simp only [h1, Bool.false_and, Bool.false_eq_true, if_false, h2, h3, h4, h5, h6, withDev]
  simp

theorem writeReg_timeSetLo (s : State) (p : Path) (x : Word) : writeReg s p .time .timeSetLo 0 x = withDev s (rput s.dev .time .timeSetLo x) := by
  rw [writeReg_coded (by decide) rfl (by decide) rfl rfl rfl, codedWrite, cwWrite, if_pos (by decide), coded_all _ (by decide) (by decide) (by decide)]
  rfl

theorem writeReg_timeSetHi (s : State) (p : Path) (v : Word) : writeReg s p .time .timeSetHi 0 v
    = withDev s (timeLoad (rput s.dev .time .timeSetHi v) (BitVec.ofNat 64 ((rget s.dev .time .timeSetLo).toNat + v.toNat * 2 ^ 32))) := by
  have hr : rget (rput s.dev .time .timeSetHi v) .time .timeSetLo = rget s.dev .time .timeSetLo := rget_rput_ne _ _ (by decide)
  rw [writeReg_device (by decide) rfl (by decide) rfl rfl, hr]

/-- The device after a load of the time: both halves in the registers, NOW loaded. -/
theorem timeLoad_shows (d : Dev) (v : Word) (now : DWord) : ∀ e, e = timeLoad (rput d .time .timeSetHi v) now →
    e.pwr.now = now ∧ e.pwr.valid = true ∧ e.pwr.unc = 0 ∧ rget e .time .timeSetHi = v ∧ e.latches = d.latches
      ∧ e = { d with regs := e.regs, pwr := { d.pwr with now := e.pwr.now, valid := true, unc := 0 }, boot := { d.boot with began := e.boot.began } }
      ∧ ∀ b n i, regKey b n i ≠ regKey .time .timeSetHi 0 → rget e b n i = rget d b n i := by
  rintro _ rfl
  have hr : ∀ b n i, rget (timeLoad (rput d .time .timeSetHi v) now) b n i = rget (rput d .time .timeSetHi v) b n i := fun b n i => rget_congr rfl b n i
  refine ⟨rfl, rfl, rfl, ?_, rfl, rfl, fun b n i hk => ?_⟩
  · rw [hr, rget_rput_self]
  · rw [hr, rget_rput_ne _ _ hk]

/-- A write of SET_HI over a device whose SET_LO is lo and whose write latch is spent (R25, R373). -/
theorem timeSet_shows {s : State} {p : Path} {v lo : Word} {d : Dev} {r : Host.Outcome State Fault Refusal}
    (hr : r = .next (wrote p .time .timeSetHi (withDev s (timeLoad (rput d .time .timeSetHi v)
      (BitVec.ofNat 64 ((rget d .time .timeSetLo).toNat + v.toNat * 2 ^ 32))))))
    (hlo : rget d .time .timeSetLo = lo) (hw : (latchGet d (latchKey p Block.time.page)).wr = none)
    (hg : ∀ b n i, regKey b n i ≠ regKey .time .timeSetLo 0 → rget d b n i = rget s.dev b n i)
    (hd : d = { s.dev with regs := d.regs, latches := d.latches }) :
    ∃ e, r = .next (wrote p .time .timeSetHi (withDev s e))
      ∧ e.pwr.now = BitVec.ofNat 64 (lo.toNat + v.toNat * 2 ^ 32) ∧ e.pwr.valid = true ∧ e.pwr.unc = 0
      ∧ rget e .time .timeSetHi = v ∧ rget e .time .timeSetLo = lo ∧ (latchGet e (latchKey p Block.time.page)).wr = none
      ∧ e = { s.dev with regs := e.regs, latches := e.latches, pwr := { s.dev.pwr with now := e.pwr.now, valid := true, unc := 0 }, boot := { s.dev.boot with began := e.boot.began } }
      ∧ ∀ b n i, regKey b n i ≠ regKey .time .timeSetHi 0 → regKey b n i ≠ regKey .time .timeSetLo 0 → rget e b n i = rget s.dev b n i := by
  rw [hlo] at hr
  obtain ⟨h1, h2, h3, h4, h5, h6, h7⟩ := timeLoad_shows d v (BitVec.ofNat 64 (lo.toNat + v.toNat * 2 ^ 32)) _ rfl
  generalize timeLoad (rput d .time .timeSetHi v) (BitVec.ofNat 64 (lo.toNat + v.toNat * 2 ^ 32)) = e at *
  refine ⟨e, hr, h1, h2, h3, h4, ?_, ?_, ?_, fun b n i hk hl => ?_⟩
  · rw [h7 _ _ _ (by decide), hlo]
  · unfold latchGet at hw ⊢
    rw [h5, hw]
  · rw [hd] at h6
    exact h6.trans (by rw [h5])
  · rw [h7 b n i hk, hg b n i hl]

theorem timeRestore_pwr (d : Dev) {slept : Nat} (hs : slept = d.pwr.aoTicks.toNat * d.pwr.ratio.toNat / 2 ^ 16) :
    (∀ k, d.pwr.kept = some k → (timeRestore d).pwr.now = k + BitVec.ofNat 64 slept
        ∧ (timeRestore d).pwr.unc = d.pwr.unc + BitVec.ofNat 64 (slept * (if d.pwr.calValid = true then 5 else 100) / 1000000))
      ∧ (d.pwr.kept = none → (timeRestore d).pwr.now = 0) ∧ (timeRestore d).pwr.kept = none ∧ (timeRestore d).pwr.aoTicks = 0 := by
  subst hs
  unfold timeRestore
  refine ⟨fun k hk => ?_, fun hk => ?_, ?_, ?_⟩
  · dsimp only
    rw [hk]
    exact ⟨rfl, rfl⟩
  · dsimp only
    rw [hk]
  · dsimp only
    split
    · rfl
    · assumption
  · dsimp only
    cases d.pwr.kept <;> rfl

/-! ## The wake sequence (R371) -/

theorem fld_low {v w : Word} {k : Nat} (h : ∀ i, i < k + 1 → v.getLsbD i = w.getLsbD i) : fld v k 0 = fld w k 0 := by
  unfold fld
  apply Nat.eq_of_testBit_eq
  intro i
  simp only [Nat.shiftRight_zero, Nat.testBit_mod_two_pow]
  by_cases hi : i < k + 1
  · have := h i hi
    simp only [BitVec.getLsbD] at this
    simp [hi, this]
  · simp [hi]

/-- BOOT_STAT at the entry to Boot at step 4 on the warm path, whatever PREV is. -/
theorem bootStat_warm (prev x : Nat) {i : Nat} (hi : i < 16) :
    (setFld (packW [(0, 4), (5, 1), (16, prev)]) 17 16 x).getLsbD i = (0x24 : Word).getLsbD i := by
  have hs : ∀ y : Nat, (BitVec.ofNat 32 (y <<< 16)).getLsbD i = false := fun y => by
    rw [BitVec.getLsbD_ofNat, Nat.testBit_shiftLeft]
    simp [Nat.not_le.2 hi]
  have hp : packW [(0, 4), (5, 1), (16, prev)] = 0x24 ||| BitVec.ofNat 32 (prev <<< 16) := by
    show (((0 : Word) ||| 4) ||| 32) ||| BitVec.ofNat 32 (prev <<< 16) = _
    rfl
  unfold setFld
  dsimp only
  rw [hp, BitVec.getLsbD_or, BitVec.getLsbD_and, BitVec.getLsbD_and, BitVec.getLsbD_not, BitVec.getLsbD_or, hs, hs, hs]
  simp [show i < 32 by omega]

theorem pwr_wipe (d : Dev) {k : Nat} (h : k = 1 ∨ k = 2 ∨ k = 3) : (wipe d k).pwr = d.pwr := by
  have hw : ∀ d : Dev, (wipePages d k).pwr = d.pwr := fun d => by
    unfold wipePages
    dsimp only
    split <;> rfl
  rcases h with rfl | rfl | rfl
  · exact hw _
  · exact hw _
  · exact hw _

/-- A domain that comes on: MG, SI or XB. -/
theorem domainOn_pwr (d : Dev) {k : Nat} (h : k = 1 ∨ k = 2 ∨ k = 3) :
    domOn (domainOn d k) k = true ∧ (∀ i, domOn d i = true → domOn (domainOn d k) i = true) ∧ (∀ i, i ≠ k → domOn (domainOn d k) i = domOn d i)
      ∧ (domainOn d k).pwr.wakeStep = d.pwr.wakeStep := by
  have hk : k < 20 := by omega
  have hb : ∀ i, (d.pwr.dom ||| BitVec.ofNat 20 (2 ^ k)).getLsbD i = (d.pwr.dom.getLsbD i || decide (i = k)) := fun i => by
    rw [BitVec.getLsbD_or, BitVec.getLsbD_ofNat, Nat.testBit_two_pow]
    by_cases hi : i = k
    · subst hi
      simp [hk]
    · simp [hi, Ne.symm hi]
  have hd : ∀ e : Dev, (timeRestore e).pwr.dom = e.pwr.dom ∧ (timeRestore e).pwr.wakeStep = e.pwr.wakeStep := fun e => by
    unfold timeRestore
    dsimp only
    split <;> exact ⟨rfl, rfl⟩
  unfold domainOn
  split
  · rename_i ho
    exact ⟨ho, fun _ h => h, fun _ _ => rfl, rfl⟩
  · have hdom : ∀ e : Dev, e = wipe { d with pwr := { d.pwr with dom := d.pwr.dom ||| BitVec.ofNat 20 (2 ^ k) } } k →
        (∀ i, domOn (if k = 3 then timeRestore e else e) i = (domOn d i || decide (i = k))) ∧ (if k = 3 then timeRestore e else e).pwr.wakeStep = d.pwr.wakeStep := by
      intro e he
      have hp : e.pwr = { d.pwr with dom := d.pwr.dom ||| BitVec.ofNat 20 (2 ^ k) } := by rw [he, pwr_wipe _ h]
      refine ⟨fun i => ?_, ?_⟩
      · show (if k = 3 then timeRestore e else e).pwr.dom.getLsbD i = _
        split
        · rw [(hd e).1, hp]
          exact hb i
        · rw [hp]
          exact hb i
      · split
        · rw [(hd e).2, hp]
        · rw [hp]
    obtain ⟨h1, h2⟩ := hdom _ rfl
    exact ⟨(h1 k).trans (by simp), fun i hi => (h1 i).trans (by simp [hi]), fun i hi => (h1 i).trans (by simp [hi]), h2⟩

/-- The hold-up area read sets PREV alone (R452). -/
theorem readHoldArea_bootStat (d : Dev) : ∃ x, rget (readHoldArea d) .sbi .sbiBootStat = setFld (rget d .sbi .sbiBootStat) 17 16 x := by
  unfold readHoldArea
  exact ⟨_, (rget_congr rfl _ _ _).trans (rget_rput_self ..)⟩

/-- The device on its entry to Boot at step 4, before the hold-up area is read: the first part of the model's bootEnter. -/
def bootArea (d : Dev) : Dev :=
  let e := rput (rput d .sbi .sbiBootStat (packW [(0, 4), (5, b2n true), (16, rfld d .sbi .sbiBootStat 17 16)])) .sbi .sbiBootMs 0
  { modeTo e .boot with boot := { active := true, began := e.pwr.now } }

theorem bootArea_bootStat (d : Dev) : rget (bootArea d) .sbi .sbiBootStat = packW [(0, 4), (5, 1), (16, rfld d .sbi .sbiBootStat 17 16)] := by
  show rget (rput (rput d .sbi .sbiBootStat _) .sbi .sbiBootMs 0) .sbi .sbiBootStat = _
  rw [rget_rput_ne _ _ (by decide), rget_rput_self]
  rfl

/-- Boot entered at step 4 on the warm path (R453). -/
theorem bootEnter_warm (d : Dev) : (bootEnter d 4 true).pwr = { d.pwr with mode := .boot } ∧ (bootEnter d 4 true).boot.active = true
    ∧ rfld (bootEnter d 4 true) .sbi .sbiBootStat 3 0 = 4 ∧ bitOf (rget (bootEnter d 4 true) .sbi .sbiBootStat) 5 = true := by
  obtain ⟨prev, x, hx⟩ : ∃ prev x, rget (bootEnter d 4 true) .sbi .sbiBootStat = setFld (packW [(0, 4), (5, 1), (16, prev)]) 17 16 x := by
    obtain ⟨x, hx⟩ := readHoldArea_bootStat (bootArea d)
    have hb : bootEnter d 4 true = readHoldArea (bootArea d) := rfl
    have hr : rget (bootArea d) .sbi .sbiBootStat = packW [(0, 4), (5, 1), (16, rfld d .sbi .sbiBootStat 17 16)] := bootArea_bootStat d
    exact ⟨_, x, by rw [hb, hx, hr]⟩
  refine ⟨rfl, rfl, ?_, ?_⟩
  · unfold rfld
    rw [hx, fld_low (w := 0x24) fun i hi => bootStat_warm prev x (by omega)]
    rfl
  · unfold bitOf
    rw [hx, bootStat_warm prev x (by decide)]
    rfl

/-- The three domains of the wake come on. -/
def wokenUp (d : Dev) : Dev := domainOn (domainOn (domainOn { d with pwr := { d.pwr with wakeStep := 0 } } 1) 2) 3

theorem wokenUp_pwr (d : Dev) : (wokenUp d).pwr.wakeStep = 0 ∧ domOn (wokenUp d) 1 = true ∧ domOn (wokenUp d) 2 = true ∧ domOn (wokenUp d) 3 = true
    ∧ ∀ i, 4 ≤ i → domOn (wokenUp d) i = domOn d i := by
  unfold wokenUp
  obtain ⟨a1, a2, a3, a4⟩ := domainOn_pwr { d with pwr := { d.pwr with wakeStep := 0 } } (k := 1) (.inl rfl)
  generalize domainOn { d with pwr := { d.pwr with wakeStep := 0 } } 1 = e at *
  obtain ⟨b1, b2, b3, b4⟩ := domainOn_pwr e (k := 2) (.inr (.inl rfl))
  obtain ⟨c1, c2, c3, c4⟩ := domainOn_pwr (domainOn e 2) (k := 3) (.inr (.inr rfl))
  refine ⟨(c4.trans b4).trans a4, c2 1 (b2 1 a1), c2 2 b1, c1, fun i hi => ?_⟩
  rw [c3 i (by omega), b3 i (by omega), a3 i (by omega)]
  rfl

section
variable {s : State} (hr : s.dev.pwr.regOff = false)

include hr

theorem exec_wakeStepDone_next (h0 : 0 < s.dev.pwr.wakeStep) (h4 : s.dev.pwr.wakeStep < 4) :
    exec .wakeStepDone s = .next (onDev s { s.dev with pwr := { s.dev.pwr with wakeStep := s.dev.pwr.wakeStep + 1 } }) := by
  show execWakeStepDone s = _
  unfold execWakeStepDone
  dsimp only
  rw [if_neg (by simp [hr]; omega), if_pos h4, done_next]

theorem exec_wakeStepDone_last (h4 : s.dev.pwr.wakeStep = 4) :
    exec .wakeStepDone s = .next { onDev s (bootEnter (wokenUp s.dev) 4 true) with life := { s.life with cores := coresReset, unlocked := 0, nonces := [] } } := by
  show execWakeStepDone s = _
  unfold execWakeStepDone
  dsimp only
  rw [if_neg (by simp [hr, h4]), if_neg (by omega), done_next]
  rfl

theorem exec_wakeStepTimeout (h0 : s.dev.pwr.wakeStep ≠ 0) : exec .wakeStepTimeout s = .next (onDev s (if s.dev.pwr.wakeAttempts < 3
    then { s.dev with pwr := { s.dev.pwr with wakeAttempts := s.dev.pwr.wakeAttempts + 1, regOff := true, vrEn := false } }
    else raise { s.dev with pwr := { s.dev.pwr with failStep := s.dev.pwr.wakeStep, wakeStep := 0, wakeFail := true, vrEn := false } } .pwr 0 .none
      (pwrCtx { s.dev with pwr := { s.dev.pwr with failStep := s.dev.pwr.wakeStep, wakeStep := 0, wakeFail := true, vrEn := false } }) true)) := by
  show execWakeStepTimeout s = _
  rw [execWakeStepTimeout, doneIf_next (by simp [hr, h0])]

end

/-- What a source leaves of the power state, and that it is latched and asserts. -/
@[simp] theorem raise_pwr (d : Dev) (b : Block) (bit : Nat) (u : FUnit) (ctx : BitVec 256) (cond inj : Bool) (named : List Nat) :
    (raise d b bit u ctx cond inj named).pwr = d.pwr := by
  have h := congrArg Dev.pwr (raise_unreported d b bit u ctx cond inj named)
  exact h

/-- A report changes no assertion but its own. -/
theorem record_asserting (d : Dev) (id sev : Nat) (ctx : BitVec 256) (inj : Bool) : (record d id sev ctx inj).flt.asserting = d.flt.asserting := by
  unfold record
  extract_lets r d1
  split
  · rfl
  · split
    · rfl
    · split <;> rfl

/-- A source raised as a condition asserts; another raise leaves what asserts (R396). -/
theorem raise_asserting (d : Dev) (b : Block) (bit : Nat) (u : FUnit) (ctx : BitVec 256) (cond inj : Bool) (named : List Nat) :
    (raise d b bit u ctx cond inj named).flt.asserting
      = if cond = true then d.flt.asserting ||| BitVec.ofNat 512 (2 ^ srcId b bit) else d.flt.asserting := by
  unfold raise
  extract_lets id sev m xb d1 s d2 d3 d4
  have h1 : d1.flt.asserting = d.flt.asserting := by
    unfold d1; split
    · exact record_asserting ..
    · rfl
  have h2 : d2.flt.asserting = if cond = true then d.flt.asserting ||| m else d.flt.asserting := by rw [← h1]
  have h3 : d3.flt = d2.flt := by
    unfold d3; repeat' split
    · exact logEvents_flt ..
    all_goals rfl
  have h4 : d4.flt = d3.flt := by
    unfold d4; split <;> rfl
  rw [← h3, ← h4] at h2
  split <;> exact h2

theorem raise_asserts (d : Dev) (b : Block) (bit : Nat) (u : FUnit) (ctx : BitVec 256) (inj : Bool) (named : List Nat) (h : srcId b bit < 512) :
    (raise d b bit u ctx true inj named).flt.asserting.getLsbD (srcId b bit) = true := by
  rw [raise_asserting, if_pos rfl, BitVec.getLsbD_or, BitVec.getLsbD_ofNat, Nat.testBit_two_pow_self]
  simp [h]

/-- Settles O47. -/
theorem wakeAndTime : Obligations.WakeAndTime := by
  refine ⟨⟨fun s hr => ⟨fun h0 h4 => exec_wakeStepDone_next hr h0 h4, fun h4 => ?_, fun h0 ha => ?_, fun h0 ha => ?_⟩, fun s hr => ?_⟩,
    fun s p v lo ha hw => ?_, fun s ratio hm => ?_, fun d slept hs => timeRestore_pwr d hs⟩
  · obtain ⟨b1, b2, b3, b4⟩ := bootEnter_warm (wokenUp s.dev)
    obtain ⟨w0, w1, w2, w3, w4⟩ := wokenUp_pwr s.dev
    have hd : ∀ i, domOn (bootEnter (wokenUp s.dev) 4 true) i = domOn (wokenUp s.dev) i := fun i => by
      unfold domOn
      rw [b1]
    refine ⟨_, exec_wakeStepDone_last hr h4, by rw [b1], b2, by rw [b1, ← w0], ?_, ?_, ?_, b3, b4, fun i hi => ?_⟩
    · rw [hd, w1]
    · rw [hd, w2]
    · rw [hd, w3]
    · rw [hd, w4 i hi]
  · rw [exec_wakeStepTimeout hr h0, if_pos ha]
  · refine ⟨_, exec_wakeStepTimeout hr h0, ?_⟩
    rw [if_neg (Nat.not_lt.2 ha), raise_pwr]
    exact ⟨rfl, rfl, rfl, rfl, rfl, raise_latched _ _ _ _ _ _ _ _ (by decide), raise_asserts _ _ _ _ _ _ _ (by decide)⟩
  · show execWakeRegulatorOffEnd s = _
    rw [execWakeRegulatorOffEnd, doneIf_next hr]
  · have hf : findReg .time (regKey .time .timeSetHi 0 % 4096) = some (.timeSetHi, 0) := findReg_regKey (by decide) (by decide)
    have he : exec (.timeSet p v) s = .next (wrote p .time .timeSetHi (writeAt s p .time (regKey .time .timeSetHi 0) v)) := writeCmd_at v ha
    rcases hw with hw | ⟨hw, rfl⟩
    · refine timeSet_shows (d := rput (latchMod s.dev (latchKey p Block.time.page) fun l => { l with wr := none }) .time .timeSetLo lo)
        (he.trans ?_) (rget_rput_self ..) ?_ (fun b n i hk => rget_rput_ne _ _ hk) rfl
      · rw [writeAt_both hf (by decide) (lo := .timeSetLo) (by decide) hw, writeReg_timeSetLo, writeReg_timeSetHi]
        rfl
      · show (latchGet (latchMod s.dev (latchKey p Block.time.page) fun l => { l with wr := none }) (latchKey p Block.time.page)).wr = none
        unfold latchGet latchMod
        dsimp only
        rw [tabGet_tabMod_self]
    · refine timeSet_shows (he.trans ?_) rfl hw (fun _ _ _ _ => rfl) rfl
      rw [writeAt_high hf (by decide) (lo := .timeSetLo) (by decide) hw, writeReg_timeSetHi]
  · show execAoRatioWindow ratio s = _
    rw [execAoRatioWindow, doneIf_next (by simp [hm])]

end Sys2Proof.Machine
end

section
/-! PROOFS. The Gaffer (R363 to R366). -/

namespace Sys2Proof.Machine

/-! ## What a raise and the end of a source leave (R397, R403) -/

theorem raise_gaffer (d : Dev) (b : Block) (bit : Nat) (u : FUnit) (ctx : BitVec 256) (cond inj : Bool) (named : List Nat) :
    (raise d b bit u ctx cond inj named).gaffer = d.gaffer := by
  have h := congrArg Dev.gaffer (raise_unreported d b bit u ctx cond inj named)
  exact h

theorem deassert_asserting (d : Dev) (b : Block) (bit : Nat) : (deassert d b bit).flt.asserting.getLsbD (srcId b bit) = false := by
  show (d.flt.asserting &&& ~~~BitVec.ofNat 512 (2 ^ srcId b bit)).getLsbD (srcId b bit) = false
  rw [BitVec.getLsbD_and, BitVec.getLsbD_not, BitVec.getLsbD_ofNat, Nat.testBit_two_pow_self]
  by_cases h : srcId b bit < 512 <;> simp [h]

theorem follow_gaffer (d : Dev) (bit : Nat) (c : Bool) : (follow d bit c).gaffer = d.gaffer := by
  unfold follow
  dsimp only
  split
  · exact raise_gaffer ..
  · split <;> rfl

theorem follow_on (d : Dev) {bit : Nat} (h : srcId .gaffer bit < 512) : (follow d bit true).flt.asserting.getLsbD (srcId .gaffer bit) = true := by
  unfold follow
  dsimp only
  split
  · exact raise_asserts _ _ _ _ _ _ _ h
  · rename_i hn
    rw [if_neg (by simp)]
    simpa using hn

theorem follow_off (d : Dev) (bit : Nat) : (follow d bit false).flt.asserting.getLsbD (srcId .gaffer bit) = false := by
  unfold follow
  dsimp only
  rw [if_neg (by simp), if_pos (by simp)]
  exact deassert_asserting ..

/-! ## Grants (R364) -/

/-- What the items of a list that want a grant need together. -/
def neededBy (sub : Nat) (work : BitVec 7) (l : List Nat) : Nat := ((l.filter fun k => !barred sub k && work.getLsbD (k - 1)).map allowance).sum

/-- Item k behind the first items of the list is granted where it wants to be and all that want before it fit with it. -/
theorem grantFrom_bit {sub : Nat} {work : BitVec 7} {k : Nat} (hk : 1 ≤ k ∧ k ≤ 7) {post : List Nat} :
    ∀ (pre : List Nat) (head : Int), (∀ j ∈ pre, 1 ≤ j ∧ j ≤ 7 ∧ j ≠ k) → (∀ j ∈ post, 1 ≤ j ∧ j ≠ k) →
      ((grantFrom sub work (pre ++ k :: post) head).getLsbD (k - 1) = true
        ↔ (!barred sub k && work.getLsbD (k - 1)) = true ∧ (neededBy sub work (pre ++ [k]) : Int) ≤ head) := by
  have htail : ∀ (l : List Nat) (head : Int), (∀ j ∈ l, 1 ≤ j ∧ j ≠ k) → (grantFrom sub work l head).getLsbD (k - 1) = false := by
    intro l
    induction l with
    | nil => intro head _; simp [grantFrom]
    | cons j l ih =>
      intro head hl
      have hj := hl j List.mem_cons_self
      have hl' := fun i hi => hl i (List.mem_cons_of_mem _ hi)
      unfold grantFrom
      split
      · exact ih head hl'
      · split
        · rw [BitVec.getLsbD_or, ih _ hl', BitVec.getLsbD_ofNat, Nat.testBit_two_pow]
          simp; omega
        · simp
  intro pre
  induction pre with
  | nil =>
    intro head _ hpost
    rw [List.nil_append, grantFrom]
    by_cases hw : barred sub k = true ∨ ¬ work.getLsbD (k - 1) = true
    · rw [if_pos hw, htail _ _ hpost]
      simp only [Bool.false_eq_true, Bool.and_eq_true, Bool.not_eq_true', false_iff]
      rintro ⟨⟨h1, h2⟩, -⟩
      rcases hw with h | h
      · rw [h1] at h; exact absurd h (by decide)
      · exact h h2
    · have hw' : (!barred sub k && work.getLsbD (k - 1)) = true := by simpa using hw
      have hn : neededBy sub work ([] ++ [k]) = allowance k := by simp [neededBy, hw']
      rw [if_neg hw, hn]
      by_cases hf : (allowance k : Int) ≤ head
      · rw [if_pos hf, BitVec.getLsbD_or, BitVec.getLsbD_ofNat, Nat.testBit_two_pow_self]
        exact iff_of_true (by simp [show k - 1 < 7 by omega]) ⟨hw', hf⟩
      · rw [if_neg hf]
        simp [hf]
  | cons j pre ih =>
    intro head hpre hpost
    have hj := hpre j List.mem_cons_self
    have hpre' := fun i hi => hpre i (List.mem_cons_of_mem _ hi)
    rw [List.cons_append, List.cons_append, grantFrom]
    by_cases hw : barred sub j = true ∨ ¬ work.getLsbD (j - 1) = true
    · have hw' : (!barred sub j && work.getLsbD (j - 1)) = false := by
        rcases hw with h | h
        · simp [h]
        · simp [h]
      have hn : neededBy sub work (j :: (pre ++ [k])) = neededBy sub work (pre ++ [k]) := by simp [neededBy, hw']
      rw [if_pos hw, ih head hpre' hpost, hn]
    · have hw' : (!barred sub j && work.getLsbD (j - 1)) = true := by simpa using hw
      have hn : neededBy sub work (j :: (pre ++ [k])) = allowance j + neededBy sub work (pre ++ [k]) := by simp [neededBy, hw']
      rw [if_neg hw, hn]
      by_cases hf : (allowance j : Int) ≤ head
      · have hb : (BitVec.ofNat 7 (2 ^ (j - 1)) : BitVec 7).getLsbD (k - 1) = false := by
          rw [BitVec.getLsbD_ofNat, Nat.testBit_two_pow]
          simp; omega
        rw [if_pos hf, BitVec.getLsbD_or, hb, Bool.false_or, ih _ hpre' hpost]
        refine and_congr_right fun _ => ?_
        push_cast
        omega
      · rw [if_neg hf]
        refine iff_of_false (by simp) ?_
        rintro ⟨-, h⟩
        push_cast at h
        omega

theorem gafferGrants_first (d : Dev) (est : Nat) (work : BitVec 7) : (gafferGrants d est work).getLsbD 0 = true := by
  unfold gafferGrants
  split
  · rw [BitVec.getLsbD_or]
    rfl
  · rfl

theorem gafferGrants_bit (d : Dev) (est : Nat) (work : BitVec 7) (k : Fin 7) (hk : k.val ≠ 0) :
    (gafferGrants d est work).getLsbD k = true ↔ (pget d .gaffer).run = .rolling ∧ (!barred d.pwr.sub (k + 1) && work.getLsbD k) = true
      ∧ est + neededBy d.pwr.sub work ((List.range' 2 k.val)) ≤ gafferCap d := by
  have hbit : (1 : BitVec 7).getLsbD k = false := by
    revert hk; revert k; decide
  have hone : ∀ x : BitVec 7, ((1 : BitVec 7) ||| x).getLsbD k = x.getLsbD k := fun x => by
    rw [BitVec.getLsbD_or, hbit, Bool.false_or]
  have hl : [2, 3, 4, 5, 6, 7] = List.range' 2 (k - 1) ++ (k.val + 1) :: List.range' (k.val + 2) (6 - k.val) := by
    revert hk; revert k; decide
  have hr : List.range' 2 (k - 1) ++ [k.val + 1] = List.range' 2 k.val := by
    revert hk; revert k; decide
  unfold gafferGrants
  split
  · rename_i hrun
    have hg := grantFrom_bit (sub := d.pwr.sub) (work := work) (k := k.val + 1) (post := List.range' (k.val + 2) (6 - k.val)) ⟨by omega, by omega⟩ (List.range' 2 (k - 1))
      ((gafferCap d : Int) - est) (fun j hj => by rw [List.mem_range'_1] at hj; omega) (fun j hj => by rw [List.mem_range'_1] at hj; omega)
    rw [← hl, hr] at hg
    rw [hone]
    refine Iff.trans hg ?_
    simp only [hrun, true_and, Nat.add_sub_cancel]
    refine and_congr_right fun _ => ?_
    omega
  · rename_i hrun
    rw [hbit]
    simp [hrun]

/-- The items of the statement, counted from bit 0, need what the list of the model needs. -/
theorem neededBy_range' (sub : Nat) (work : BitVec 7) (k : Fin 7) :
    (((List.range 7).filter fun j => j ≠ 0 ∧ j ≤ k.val ∧ (!barred sub (j + 1) && work.getLsbD j) = true).map fun j => allowance (j + 1)).sum
      = neededBy sub work (List.range' 2 k.val) := by
  have hf : ((List.range 7).filter fun j => j ≠ 0 ∧ j ≤ k.val ∧ (!barred sub (j + 1) && work.getLsbD j) = true)
      = ((List.range 7).filter fun j => j ≠ 0 ∧ j ≤ k.val).filter fun j => !barred sub (j + 1) && work.getLsbD j := by
    rw [List.filter_filter]
    refine List.filter_congr fun j _ => ?_
    by_cases h1 : j ≠ 0 <;> by_cases h2 : j ≤ k.val <;> simp [h1, h2]
  have hm : ((List.range 7).filter fun j => j ≠ 0 ∧ j ≤ k.val).map (· + 1) = List.range' 2 k.val := by
    clear hf
    revert k; decide
  rw [hf, neededBy, ← hm, List.filter_map, List.map_map]
  rfl

/-! ## The core voltage (R365) -/

/-- VCORE control moves the step and its count alone of the Gaffer, takes no step while one is under way, and one step of 10 mV else. -/
theorem vcoreStep_gaffer (d : Dev) (est : Nat) :
    (vcoreStep d est).gaffer = { d.gaffer with step := (vcoreStep d est).gaffer.step, upCount := (vcoreStep d est).gaffer.upCount }
    ∧ (d.gaffer.step.isSome = true → (vcoreStep d est).gaffer.step = d.gaffer.step)
    ∧ (∀ mv, d.gaffer.step = none → (vcoreStep d est).gaffer.step = some mv →
        (mv = d.gaffer.vcore - 10 ∨ mv = d.gaffer.vcore + 10) ∧ (vcoreStep d est).gaffer.upCount = 0) := by
  unfold vcoreStep
  extract_lets g cap target ask low n
  split
  · split
    · rename_i hs
      refine ⟨rfl, fun h => ?_, fun mv _ h => ⟨.inl (Option.some.inj h).symm, rfl⟩⟩
      rw [Option.isNone_iff_eq_none.1 hs] at h
      exact absurd h (by decide)
    · exact ⟨rfl, fun _ => rfl, fun mv h h' => absurd (h.symm.trans h') (by simp)⟩
  · split
    · rename_i hs
      refine ⟨rfl, fun h => ?_, fun mv _ h => ⟨.inr (Option.some.inj h).symm, rfl⟩⟩
      rw [Option.isNone_iff_eq_none.1 hs.2.2] at h
      exact absurd h (by decide)
    · exact ⟨rfl, fun _ => rfl, fun mv h h' => absurd (h.symm.trans h') (by simp)⟩

theorem vcoreStep_down {d : Dev} {est : Nat} (hs : d.gaffer.step = none)
    (h : (gafferCap d < est ∧ 600 < d.gaffer.vcore) ∨ vcoreTarget d < d.gaffer.vcore) :
    (vcoreStep d est).gaffer.step = some (d.gaffer.vcore - 10) ∧ (vcoreStep d est).out = .avsbus (d.gaffer.vcore - 10) :: d.out := by
  unfold vcoreStep
  extract_lets g cap target ask low n
  rw [if_pos h, if_pos (by rw [show g.step = none from hs]; rfl)]
  exact ⟨rfl, rfl⟩

theorem vcoreStep_low {d : Dev} {est : Nat} (hs : d.gaffer.step = none) (hc : est + 16 * rfld d .gaffer .gafferCfg 7 0 < gafferCap d)
    (ht : d.gaffer.vcore < vcoreTarget d) :
    (vcoreStep d est).gaffer.step = (if rfld d .gaffer .gafferCfg 15 8 ≤ d.gaffer.upCount + 1 then some (d.gaffer.vcore + 10) else none)
    ∧ (d.gaffer.upCount + 1 < rfld d .gaffer .gafferCfg 15 8 → (vcoreStep d est).gaffer.upCount = d.gaffer.upCount + 1) := by
  unfold vcoreStep
  extract_lets g cap target ask low n
  have hlow : low = true := by simp only [low, Bool.and_eq_true, decide_eq_true_eq]; exact ⟨hc, ht⟩
  have hn : n = d.gaffer.upCount + 1 := if_pos hlow
  have hnone : g.step.isNone = true := by rw [show g.step = none from hs]; rfl
  rw [if_neg (by simp only [cap, target, g]; omega)]
  by_cases h : rfld d .gaffer .gafferCfg 15 8 ≤ d.gaffer.upCount + 1
  · rw [if_pos ⟨hlow, hn ▸ h, hnone⟩, if_pos h]
    exact ⟨rfl, fun h' => absurd h (by omega)⟩
  · rw [if_neg (fun h' => h (hn ▸ h'.2.1)), if_neg h]
    exact ⟨hs, fun _ => hn⟩

/-! ## Trim and the thermal fence (R366) -/

theorem thermTrim_gaffer (d : Dev) (hot : Int) : (thermTrim d hot).gaffer = { d.gaffer with trimForced := (thermTrim d hot).gaffer.trimForced } := by
  unfold thermTrim
  split
  · rfl
  · split <;> rfl

theorem thermTrim_forced (d : Dev) (hot : Int) :
    (thermTrim d hot).gaffer.trimForced = (if 115 ≤ hot then true else if hot < 110 then false else d.gaffer.trimForced) := by
  unfold thermTrim
  by_cases h1 : 115 ≤ hot
  · rw [if_pos h1]
    by_cases hf : d.gaffer.trimForced = true
    · rw [if_neg (by simp [hf]), if_neg (by omega), hf]
    · rw [if_pos ⟨h1, hf⟩]
      rfl
  · rw [if_neg h1, if_neg (fun h => h1 h.1)]
    by_cases h2 : hot < 110
    · rw [if_pos h2]
      by_cases hf : d.gaffer.trimForced = true
      · rw [if_pos ⟨h2, hf⟩]
        rfl
      · rw [if_neg (fun h => hf h.2)]
        exact Bool.not_eq_true _ ▸ hf
    · rw [if_neg h2, if_neg (fun h => h2 h.1)]

theorem applySub_sub (d : Dev) : (applySub d).pwr.sub = if d.gaffer.trimForced = true ∧ d.pwr.subReq ≠ 2 then 1 else d.pwr.subReq := by
  unfold applySub
  extract_lets sub d'
  show _ = sub
  split
  · rename_i h
    exact h.symm
  · repeat' split
    all_goals rfl

theorem applySub_gaffer (d : Dev) : (applySub d).gaffer = d.gaffer := by
  unfold applySub
  extract_lets sub d'
  repeat' split
  all_goals rfl

/-- One candidate more: the model's step of hottest. -/
def hotter (temps : List Int) (a : Option Nat) (q : Nat) : Option Nat := match a with
  | none => some q
  | some x => if temps.getD x 0 < temps.getD q 0 then some q else some x

theorem hottest_eq (temps : List Int) (l : List Nat) : hottest temps l = l.foldl (hotter temps) none := rfl

theorem foldl_hotter_below {temps : List Int} {t : Int} : ∀ (l : List Nat) (a : Option Nat), (∀ x, a = some x → temps.getD x 0 < t) →
    (∀ j ∈ l, temps.getD j 0 < t) → ∀ x, l.foldl (hotter temps) a = some x → temps.getD x 0 < t := by
  intro l
  induction l with
  | nil => exact fun a ha _ => ha
  | cons j l ih =>
    intro a ha hl
    have hj := hl j List.mem_cons_self
    refine ih _ (fun x hx => ?_) (fun i hi => hl i (List.mem_cons_of_mem _ hi))
    cases a with
    | none => exact Option.some.inj hx ▸ hj
    | some y =>
      unfold hotter at hx
      dsimp only at hx
      split at hx
      · exact Option.some.inj hx ▸ hj
      · exact Option.some.inj hx ▸ ha y rfl

theorem foldl_hotter_stays {temps : List Int} {q : Nat} : ∀ l : List Nat, (∀ j ∈ l, temps.getD j 0 ≤ temps.getD q 0) → l.foldl (hotter temps) (some q) = some q := by
  intro l
  induction l with
  | nil => exact fun _ => rfl
  | cons j l ih =>
    intro hl
    have hq : hotter temps (some q) j = some q := if_neg (Int.not_lt.2 (hl j List.mem_cons_self))
    rw [List.foldl_cons, hq]
    exact ih fun i hi => hl i (List.mem_cons_of_mem _ hi)

/-- The hottest of the candidates, where q is hotter than each before it and at least as hot as each behind it. -/
theorem hottest_of_max {temps : List Int} {pre post : List Nat} {q : Nat} (hpre : ∀ j ∈ pre, temps.getD j 0 < temps.getD q 0)
    (hpost : ∀ j ∈ post, temps.getD j 0 ≤ temps.getD q 0) : hottest temps (pre ++ q :: post) = some q := by
  rw [hottest_eq, List.foldl_append, List.foldl_cons]
  have h3 := foldl_hotter_below pre none (fun _ h => absurd h (by simp)) hpre
  have hq : hotter temps (pre.foldl (hotter temps) none) q = some q := by
    cases ha : pre.foldl (hotter temps) none with
    | none => rfl
    | some x => exact if_pos (h3 x ha)
  rw [hq]
  exact foldl_hotter_stays post hpost

theorem hottest_ne_nil {temps : List Int} {l : List Nat} (h : l ≠ []) : ∃ q, hottest temps l = some q := by
  have hs : ∀ (l : List Nat) (x : Nat), ∃ q, l.foldl (hotter temps) (some x) = some q := by
    intro l
    induction l with
    | nil => exact fun x => ⟨x, rfl⟩
    | cons j l ih =>
      intro x
      have hx : ∃ y, hotter temps (some x) j = some y := by
        unfold hotter
        dsimp only
        split
        · exact ⟨_, rfl⟩
        · exact ⟨_, rfl⟩
      obtain ⟨y, hy⟩ := hx
      rw [List.foldl_cons, hy]
      exact ih y
  cases l with
  | nil => exact absurd rfl h
  | cons j l => exact hs l j

/-- The quadrants that are not fenced, in their order. -/
def unfenced (d : Dev) : List Nat := (List.range 4).filter fun q => !quadFenced d q

theorem mem_unfenced {d : Dev} {q : Fin 4} (h : quadFenced d q = false) : q.val ∈ unfenced d :=
  List.mem_filter.2 ⟨List.mem_range.2 q.isLt, by simp [h]⟩

theorem hottest_unfenced {d : Dev} {temps : List Int} {q : Fin 4} (hq : quadFenced d q = false)
    (hm : ∀ j : Fin 4, quadFenced d j = false → temps.getD j 0 ≤ temps.getD q 0 ∧ (j < q → temps.getD j 0 < temps.getD q 0)) :
    hottest temps (unfenced d) = some q.val := by
  have hl : List.range 4 = List.range q ++ q.val :: List.range' (q.val + 1) (3 - q) := by
    clear hm hq
    revert q; decide
  have hf : unfenced d = (List.range q).filter (fun q => !quadFenced d q) ++ q.val :: (List.range' (q.val + 1) (3 - q)).filter fun q => !quadFenced d q := by
    unfold unfenced
    rw [hl, List.filter_append, List.filter_cons_of_pos (by simp [hq])]
  rw [hf]
  refine hottest_of_max (fun j hj => ?_) (fun j hj => ?_)
  · obtain ⟨hj, hn⟩ := List.mem_filter.1 hj
    have hlt := List.mem_range.1 hj
    exact (hm ⟨j, by omega⟩ (by simpa using hn)).2 hlt
  · obtain ⟨hj, hn⟩ := List.mem_filter.1 hj
    rw [List.mem_range'_1] at hj
    exact (hm ⟨j, by omega⟩ (by simpa using hn)).1

/-- The device as the fence of the hottest quadrant finds it when its source is raised. -/
def thermMarked (d : Dev) (q : Nat) : Dev :=
  let d := { d with gaffer := { d.gaffer with lastThermal := some d.pwr.now, thermFenced := d.gaffer.thermFenced ||| BitVec.ofNat 4 (2 ^ q) } }
  if sevOf d thermalSource < 2 then { d with react := d.react ++ [.fence (.quadrant (quadOf q)) thermalSource] } else d

theorem thermAct_fence {d : Dev} {temps : List Int} {hot : Int} {q : Nat} (hh : 125 ≤ hot) (hq : hottest temps (unfenced d) = some q)
    (ht : d.gaffer.lastThermal = none ∨ ∃ t, d.gaffer.lastThermal = some t ∧ tenMs d t = true) :
    thermAct d temps hot = raise (thermMarked d q) .gaffer 2 (.quadrant (quadOf q)) (gafferCtx (thermMarked d q)) := by
  unfold unfenced at hq
  unfold thermAct
  rw [if_neg (Int.not_lt.2 hh), hq]
  dsimp only
  rw [if_pos]
  · rfl
  · rcases ht with h | ⟨t, h, h'⟩
    · rw [h]
    · rw [h]
      exact h'

theorem thermAct_wait {d : Dev} {temps : List Int} {hot : Int} {q : Nat} {t : DWord} (hh : 125 ≤ hot) (hq : hottest temps (unfenced d) = some q)
    (hl : d.gaffer.lastThermal = some t) (ht : tenMs d t = false) : thermAct d temps hot = d := by
  unfold unfenced at hq
  unfold thermAct
  rw [if_neg (Int.not_lt.2 hh), hq]
  dsimp only
  rw [if_neg]
  rw [hl]
  dsimp only
  rw [ht]
  exact Bool.false_ne_true

theorem thermMarked_gaffer (d : Dev) (q : Nat) : (thermMarked d q).gaffer
    = { d.gaffer with lastThermal := some d.pwr.now, thermFenced := d.gaffer.thermFenced ||| BitVec.ofNat 4 (2 ^ q) } := by
  unfold thermMarked
  dsimp only
  split <;> rfl

theorem thermMarked_react (d : Dev) (q : Nat) : (thermMarked d q).pages = d.pages
    ∧ (sevOf d thermalSource < 2 → (thermMarked d q).react = d.react ++ [.fence (.quadrant (quadOf q)) thermalSource])
    ∧ (2 ≤ sevOf d thermalSource → (thermMarked d q).react = d.react) := by
  have hs : sevOf { d with gaffer := { d.gaffer with lastThermal := some d.pwr.now, thermFenced := d.gaffer.thermFenced ||| BitVec.ofNat 4 (2 ^ q) } } thermalSource
      = sevOf d thermalSource := rfl
  unfold thermMarked
  dsimp only
  rw [hs]
  refine ⟨?_, fun h => ?_, fun h => ?_⟩
  · split <;> rfl
  · rw [if_pos h]
  · rw [if_neg (Nat.not_lt.2 h)]

/-- The thermal rules move the mark of the last fence and the fenced quadrants alone of the Gaffer. -/
theorem thermAct_gaffer (d : Dev) (temps : List Int) (hot : Int) : (thermAct d temps hot).gaffer
    = { d.gaffer with lastThermal := (thermAct d temps hot).gaffer.lastThermal, thermFenced := (thermAct d temps hot).gaffer.thermFenced } := by
  by_cases hh : 125 ≤ hot
  · cases hq : hottest temps (unfenced d) with
    | some q =>
      by_cases ht : d.gaffer.lastThermal = none ∨ ∃ t, d.gaffer.lastThermal = some t ∧ tenMs d t = true
      · rw [thermAct_fence hh hq ht, raise_gaffer, thermMarked_gaffer]
      · obtain ⟨t, hl⟩ : ∃ t, d.gaffer.lastThermal = some t := by
          cases hl : d.gaffer.lastThermal with
          | none => exact absurd (.inl hl) ht
          | some t => exact ⟨t, rfl⟩
        rw [thermAct_wait hh hq hl (by
          cases h : tenMs d t with
          | false => rfl
          | true => exact absurd (.inr ⟨t, hl, h⟩) ht)]
    | none =>
      unfold unfenced at hq
      unfold thermAct
      rw [if_neg (Int.not_lt.2 hh), hq]
      dsimp only
      split
      · rw [follow_gaffer]
      · rfl
  · unfold thermAct
    rw [if_pos (by omega), follow_gaffer]

/-! ## The epoch -/

/-- The device of an epoch once Trim and the sub-state follow the sensors, and then the grants: the first parts of the model's gafferEpoch. -/
def epochTrimmed (d : Dev) (temps : List Int) (counts : List Nat) : Dev :=
  applySub (thermTrim { d with gaffer := { d.gaffer with est := gafferEst d temps counts, temps } } (temps.foldl max (temps.headD 0)))

def epochGranted (d : Dev) (temps : List Int) (counts : List Nat) (work : BitVec 7) : Dev :=
  let e := epochTrimmed d temps counts
  { e with gaffer := { e.gaffer with grants := gafferGrants e (gafferEst d temps counts) work } }

theorem epochTrimmed_gaffer (d : Dev) (temps : List Int) (counts : List Nat) : (epochTrimmed d temps counts).gaffer
    = { d.gaffer with est := gafferEst d temps counts, temps, trimForced := (epochTrimmed d temps counts).gaffer.trimForced } := by
  unfold epochTrimmed
  rw [applySub_gaffer, thermTrim_gaffer]

theorem epochGranted_gaffer (d : Dev) (temps : List Int) (counts : List Nat) (work : BitVec 7) : (epochGranted d temps counts work).gaffer
    = { d.gaffer with est := gafferEst d temps counts, temps, trimForced := (epochTrimmed d temps counts).gaffer.trimForced
                      grants := gafferGrants (epochTrimmed d temps counts) (gafferEst d temps counts) work } := by
  unfold epochGranted
  dsimp only
  rw [epochTrimmed_gaffer]

theorem gafferEpoch_gaffer (d : Dev) (temps : List Int) (counts : List Nat) (work : BitVec 7) :
    ∃ lastThermal thermFenced, (gafferEpoch d temps counts work).gaffer
      = { (vcoreStep (epochGranted d temps counts work) (gafferEst d temps counts)).gaffer with lastThermal, thermFenced } := by
  have he : gafferEpoch d temps counts work = follow (thermAct (vcoreStep (epochGranted d temps counts work) (gafferEst d temps counts)) temps
      (temps.foldl max (temps.headD 0))) 0 _ := rfl
  rw [he, follow_gaffer, thermAct_gaffer]
  exact ⟨_, _, rfl⟩

theorem take_six {temps : List Int} (h : temps.length = 6) : (temps ++ List.replicate 6 0).take 6 = temps := by
  rw [← h, List.take_left]

/-- Settles O48. -/
theorem gaffer : Obligations.Gaffer := by
  refine ⟨⟨fun s temps counts work h3 hl => ?_, fun d est work k hk => ?_, fun s mv hs => ?_, fun s hs => ?_, fun s hs hf => ?_⟩,
    fun d est hs => ⟨vcoreStep_down hs, vcoreStep_low hs⟩, thermTrim_forced, applySub_sub, fun d temps hot q hh hq hm ht => ?_, fun d temps hot q t hh hq hl ht => ?_⟩
  · have he : exec (.gafferEpoch temps counts work) s = .next (onDev s (gafferEpoch s.dev temps counts work)) := by
      show execGafferEpoch temps counts work s = _
      rw [execGafferEpoch, doneIf_next h3, take_six hl]
    obtain ⟨lt, tf, hg⟩ := gafferEpoch_gaffer s.dev temps counts work
    obtain ⟨hv, hsome, hnone⟩ := vcoreStep_gaffer (epochGranted s.dev temps counts work) (gafferEst s.dev temps counts)
    rw [epochGranted_gaffer] at hv hsome hnone
    refine ⟨_, he, ?_⟩
    rw [hg]
    refine ⟨?_, ?_, ?_, ?_, hsome, hnone⟩
    · have h := congrArg (fun g : Gaffer => g.est) hv
      exact h
    · have h := congrArg (fun g : Gaffer => g.temps) hv
      exact h
    · have h := congrArg (fun g : Gaffer => g.vcore) hv
      exact h
    · have h := congrArg (fun g : Gaffer => g.grants.getLsbD 0) hv
      exact h.trans (gafferGrants_first _ _ _)
  · dsimp only
    rw [gafferGrants_bit d est work k hk, neededBy_range']
  · have he : exec .avsbusAck s = .next (onDev s (follow { s.dev with gaffer := { s.dev.gaffer with vcore := mv, step := none, avsFault := false } } 1 false)) := by
      show execAvsbusAck s = _
      unfold execAvsbusAck
      rw [hs]
      rfl
    exact ⟨_, he, follow_gaffer _ 1 false, follow_off _ 1⟩
  · show execAvsbusAck s = _
    unfold execAvsbusAck
    rw [hs]
    rfl
  · have he : exec .avsbusFault s = .next (onDev s (follow { s.dev with gaffer := { s.dev.gaffer with avsFault := true } } 1 true)) := by
      show execAvsbusFault s = _
      rw [execAvsbusFault, doneIf_next (by simp [hs, hf])]
    exact ⟨_, he, follow_gaffer _ 1 true, follow_on _ (by decide)⟩
  · refine ⟨thermMarked d q, thermAct_fence hh (hottest_unfenced hq hm) ht, ?_, ?_, thermMarked_react d q⟩
    · rw [thermMarked_gaffer]
    · rw [thermMarked_gaffer]
  · obtain ⟨x, hx⟩ := hottest_ne_nil (temps := temps) (List.ne_nil_of_mem (mem_unfenced hq))
    exact thermAct_wait hh hx hl ht

end Sys2Proof.Machine
end

section
/-! PROOFS. The feeds, the states of insertion and protection, and their telemetry (R380 to R386). -/

namespace Sys2Proof.Machine

/-! ## What a raise leaves of the registers (R397) -/

theorem record_rget (d : Dev) (id sev : Nat) (ctx : BitVec 256) (inj : Bool) {b : Block} {n : RName} {i : Nat} (h : regKey b n i ≠ regKey .flt .fltEvtCount 0) :
    rget (record d id sev ctx inj) b n i = rget d b n i := by
  unfold record
  extract_lets r s d1
  have h1 : rget d1 b n i = rget d b n i := rget_rput_ne _ _ h
  split
  · exact h1
  · split
    · exact h1
    · split <;> exact h1

theorem logEvents_regs (d : Dev) (ps : List Nat) (log : Nat) (ev : Ev) : (logEvents d ps log ev).regs = d.regs := by
  unfold logEvents
  induction ps generalizing d with
  | nil => rfl
  | cons a ps ih => exact (ih (logEvent d a log ev)).trans rfl

/-- A source raised changes no register but the count of records. -/
theorem raise_rget (d : Dev) (b : Block) (bit : Nat) (u : FUnit) (ctx : BitVec 256) (cond inj : Bool) (named : List Nat) {c : Block} {n : RName} {i : Nat}
    (h : regKey c n i ≠ regKey .flt .fltEvtCount 0) : rget (raise d b bit u ctx cond inj named) c n i = rget d c n i := by
  unfold raise
  extract_lets id sev m xb d1 s d2 d3 d4
  have h1 : rget d1 c n i = rget d c n i := by
    unfold d1; split
    · exact record_rget _ _ _ _ _ h
    · rfl
  have h3 : rget d3 c n i = rget d2 c n i := by
    unfold d3; repeat' split
    · exact rget_congr (logEvents_regs ..) ..
    all_goals rfl
  have h4 : rget d4 c n i = rget d3 c n i := by
    unfold d4; split <;> rfl
  have h5 : rget d4 c n i = rget d c n i := h4.trans (h3.trans h1)
  split <;> exact h5

/-- A source that is latched stays latched when another is raised. -/
theorem raise_latched_keep (d : Dev) (b : Block) (bit : Nat) (u : FUnit) (ctx : BitVec 256) (cond inj : Bool) (named : List Nat) {k : Nat}
    (h : d.flt.latched.getLsbD k = true) : (raise d b bit u ctx cond inj named).flt.latched.getLsbD k = true := by
  rw [(raise_flt ..).1, BitVec.getLsbD_or, h, Bool.true_or]

/-! ## Operations of the feed controller -/

theorem feedRetries_raise (s : State) (bit : Nat) (cond : Bool) : feedRetries (feedRaise s bit cond).dev = feedRetries s.dev := by
  unfold feedRetries rfld feedRaise
  rw [raise_rget _ _ _ _ _ _ _ _ (by decide)]

theorem pgFall_regs (s : State) : (pgFall s).dev.regs = s.dev.regs := by
  unfold pgFall
  split <;> rfl

theorem feedRetries_off (s : State) (st : Nat) : feedRetries (feedOff s st).dev = feedRetries s.dev :=
  rfld_congr (pgFall_regs { s with feed := { s.feed with st, timerRun := false, pairs := 0 } }) ..

theorem holdUpStart_feed (s : State) : ∃ ran done began, (holdUpStart s).feed = { s.feed with ran, done, began } := by
  unfold holdUpStart
  split
  · exact ⟨_, _, _, rfl⟩
  · exact ⟨_, _, _, rfl⟩

theorem warnCheck_flush (s : State) : ∃ ran done began warnPin, (warnCheck s).feed = { s.feed with ran, done, began, warnPin } := by
  unfold warnCheck
  split
  · obtain ⟨r, d, b, h⟩ := holdUpStart_feed (feedEvent { s with feed := { s.feed with warnPin := true } } 3)
    exact ⟨r, d, b, true, h⟩
  · exact ⟨_, _, _, _, rfl⟩

/-- A feed that stops being healthy: what else of the feed controller can change is the hold-up flush that it starts (R381, R382). -/
theorem feedSick_feed (s : State) (b : Bool) : ∃ degraded ran done began warnPin,
    (feedSick s b).feed = { s.feed with healthy := s.feed.healthy &&& ~~~(feedBit b), degraded, ran, done, began, warnPin } := by
  unfold feedSick
  split
  · rename_i h
    have hb : s.feed.healthy &&& ~~~(feedBit b) = s.feed.healthy := by
      revert h
      generalize s.feed.healthy = x
      cases b <;> revert x <;> decide
    exact ⟨_, _, _, _, _, by rw [hb]⟩
  · exact ⟨_, warnCheck_flush _⟩

/-- A trip before the count of RETRIES is looked at: the first part of the model's feedTrip. -/
def tripped (s : State) (cause bit : Nat) : State := feedRaise (feedOff { s with feed := { s.feed with trips := s.feed.trips + 1, lastFault := cause } } 5) bit

theorem tripped_feed (s : State) (cause bit : Nat) : (tripped s cause bit).feed
    = { s.feed with trips := s.feed.trips + 1, lastFault := cause, st := 5, timerRun := false, pairs := 0, powerGood := false } := feedOff_feed _ 5

theorem feedTrip_tripped (s : State) (cause bit : Nat) : feedTrip s cause bit = if rfld s.dev .feed .feedCfg 25 24 ≤ s.feed.trips + 1
    then feedRaise { tripped s cause bit with feed := { (tripped s cause bit).feed with st := 6 } } 0 true else tripped s cause bit := by
  have h1 : (tripped s cause bit).feed.trips = s.feed.trips + 1 := by rw [tripped_feed]
  have h2 : feedRetries (tripped s cause bit).dev = rfld s.dev .feed .feedCfg 25 24 := (feedRetries_raise ..).trans (feedRetries_off ..)
  rw [← h1, ← h2]
  rfl

/-- What a trip records (R384, R385). -/
theorem feedTrip_feed (s : State) (cause bit : Nat) : (feedTrip s cause bit).feed = { s.feed with
      st := if rfld s.dev .feed .feedCfg 25 24 ≤ s.feed.trips + 1 then 6 else 5, trips := s.feed.trips + 1, lastFault := cause
      timerRun := false, pairs := 0, powerGood := false } := by
  rw [feedTrip_tripped]
  split
  · show ({ (tripped s cause bit).feed with st := 6 } : Feed) = _
    rw [tripped_feed]
  · exact tripped_feed s cause bit

theorem feedTrip_latched (s : State) (cause : Nat) {bit : Nat} (hb : srcId .feed bit < 512) : (feedTrip s cause bit).dev.flt.latched.getLsbD (srcId .feed bit) = true
    ∧ (rfld s.dev .feed .feedCfg 25 24 ≤ s.feed.trips + 1 → (feedTrip s cause bit).dev.flt.latched.getLsbD (srcId .feed 0) = true) := by
  have h0 : (tripped s cause bit).dev.flt.latched.getLsbD (srcId .feed bit) = true := raise_latched _ _ _ _ _ _ _ _ hb
  rw [feedTrip_tripped]
  split
  · exact ⟨raise_latched_keep _ _ _ _ _ _ _ _ h0, fun _ => raise_latched _ _ _ _ _ _ _ _ (by decide)⟩
  · rename_i h
    exact ⟨h0, fun h' => absurd h' h⟩

theorem feedDone_settled (s : State) : feedDone s = .next (settled s) := rfl

/-! ## States (R383 to R385) -/

theorem exec_stableIdleDone {s : State} (h3 : s.feed.st = 3) (ht : s.feed.timerRun = false) (hh : s.feed.healthy ≠ 0) : exec .stableIdleDone s
    = .next (settled { s with feed := { s.feed with st := 4, powerGood := true, warnPin := false }, dev := wakeEvent (raiseEvent s.dev .feed 0) 3 }) := by
  show execStableIdleDone s = _
  unfold execStableIdleDone
  rw [if_pos ⟨h3, by simp [ht]⟩]
  dsimp only
  rw [warnCheck, if_neg (fun h => hh h.2.1), feedDone_settled]
  rfl

theorem exec_trip {s : State} {c : Instr} {cause bit : Nat} (h : (c, cause, bit) ∈ (if s.feed.st = 1 then [(Instr.prechargeTimeout, 1, 1)] else [])
      ++ (if s.feed.st = 2 ∨ s.feed.st = 3 ∨ s.feed.st = 4 then [(.fastTrip, 3, 2)] else []) ++ (if s.feed.timerRun = true then [(.faultTimerExpiry, 2, 2)] else [])) :
    exec c s = .next (settled (feedTrip s cause bit)) ∧ srcId .feed bit < 512 := by
  rw [List.mem_append, List.mem_append] at h
  rcases h with (h | h) | h
  · by_cases hs : s.feed.st = 1
    · rw [if_pos hs, List.mem_singleton] at h
      cases h
      refine ⟨?_, by decide⟩
      show execPrechargeTimeout s = _
      rw [execPrechargeTimeout, if_pos hs, feedDone_settled]
    · rw [if_neg hs] at h
      exact absurd h List.not_mem_nil
  · by_cases hs : s.feed.st = 2 ∨ s.feed.st = 3 ∨ s.feed.st = 4
    · rw [if_pos hs, List.mem_singleton] at h
      cases h
      refine ⟨?_, by decide⟩
      show execFastTrip s = _
      rw [execFastTrip, if_pos hs, feedDone_settled]
    · rw [if_neg hs] at h
      exact absurd h List.not_mem_nil
  · by_cases hs : s.feed.timerRun = true
    · rw [if_pos hs, List.mem_singleton] at h
      cases h
      refine ⟨?_, by decide⟩
      show execFaultTimerExpiry s = _
      rw [execFaultTimerExpiry, if_pos hs, feedDone_settled]
    · rw [if_neg hs] at h
      exact absurd h List.not_mem_nil

theorem regCmd_feedCtl {s : State} {p : Path} (w : Word) (ha : admitted s p .feed .feedCtl = true) :
    regCmd s p .feed .feedCtl w = .next (wrote p .feed .feedCtl (feedCtlWrite s w)) :=
  regCmd_state ha rfl (List.mem_append_right _ (show RName.feedCtl ∈ Block.feed.regs by decide)) (by decide) (by decide) (by decide) (by decide) rfl (by decide) rfl rfl

/-- A clear of the latch: Off, and Pre-charge at once where a feed is admitted. -/
theorem feedCtlWrite_unlatch {s : State} {v : Word} {f : Feed} (h6 : s.feed.st = 6) (h0 : v.getLsbD 0 = true)
    (hf : f = if v.getLsbD 1 = true then { s.feed with energy := [0, 0, 0] } else s.feed) : (feedCtlWrite s v).dev = deassert s.dev .feed 0
    ∧ (feedCtlWrite s v).feed = if f.admitted = 0 then { f with st := 0 } else { f with st := 1, pairs := f.admitted } := by
  have hs : (if v.getLsbD 1 = true then { s with feed := { s.feed with energy := [0, 0, 0] } } else s) = { s with feed := f } := by
    rw [hf]
    split <;> rfl
  have h6' : f.st = 6 := by
    rw [hf]
    split <;> exact h6
  unfold feedCtlWrite
  rw [hs]
  dsimp only
  rw [if_pos ⟨h0, h6'⟩]
  unfold feedStart
  dsimp only
  by_cases ha : f.admitted = 0
  · rw [if_neg (fun h => h.2 ha), if_pos ha]
    exact ⟨rfl, rfl⟩
  · rw [if_pos ⟨rfl, ha⟩, if_neg ha]
    exact ⟨rfl, rfl⟩

theorem feedCtlWrite_energy {s : State} {v : Word} (h : v.getLsbD 0 = false ∨ s.feed.st ≠ 6) (h1 : v.getLsbD 1 = true) :
    feedCtlWrite s v = { s with feed := { s.feed with energy := [0, 0, 0] } } := by
  unfold feedCtlWrite
  rw [if_pos h1]
  dsimp only
  rw [if_neg]
  rintro ⟨h0, h6⟩
  rcases h with h | h
  · rw [h] at h0
    exact absurd h0 (by decide)
  · exact h h6

/-- Settles O50. -/
theorem feedStates : Obligations.FeedStates := by
  refine ⟨fun s => ⟨fun h => if_pos h, fun h => if_pos h, fun h => if_pos h, rfl, fun h => if_pos h, fun h3 ht => ?_, exec_stableIdleDone, fun h5 ht => ?_, fun h5 ht => ?_⟩,
    fun s c cause bit h => ?_, fun s p v ha => ?_⟩
  · exact if_neg fun h => h.2 ht
  · show execRetryWaitEnd s = _
    exact (if_pos h5).trans (if_pos ht)
  · refine ⟨feedRaise { s with feed := { s.feed with st := 6 } } 0 true, ?_, rfl, raise_latched _ _ _ _ _ _ _ _ (by decide)⟩
    show execRetryWaitEnd s = _
    exact (if_pos h5).trans (if_neg (Nat.not_lt.2 ht))
  · obtain ⟨he, hb⟩ := exec_trip h
    obtain ⟨hl, hl0⟩ := feedTrip_latched s cause hb
    exact ⟨_, he, feedTrip_feed s cause bit, hl, hl0⟩
  · have h0 : (v ||| 1).getLsbD 0 = true := by simp
    have h1 : (v ||| 1).getLsbD 1 = v.getLsbD 1 := by simp
    refine ⟨fun hv h6 => ?_, fun hv h6 => ?_, fun h => ?_⟩
    · exact ⟨_, regCmd_feedCtl _ ha, feedCtlWrite_unlatch h6 h0 (by rw [h1, hv]; rfl)⟩
    · exact ⟨_, regCmd_feedCtl _ ha, feedCtlWrite_unlatch h6 h0 (by rw [h1, hv]; rfl)⟩
    · refine (regCmd_feedCtl (v ||| 2) ha).trans ?_
      rw [feedCtlWrite_energy (h.imp_left fun h => by rw [BitVec.getLsbD_or, h]; rfl) (by simp)]

/-! ## Feeds (R380 to R382) -/

theorem ones_or_feedBit {x : BitVec 2} {b : Bool} : x ||| feedBit b ≠ 0 := by
  revert x b; decide

theorem feedStart_feed {s : State} {f : Feed} (hf : s.feed = f) (ha : f.admitted ≠ 0) :
    (feedStart s).feed = if f.st = 0 then { f with st := 1, pairs := f.admitted } else f := by
  subst hf
  unfold feedStart
  by_cases h : s.feed.st = 0
  · rw [if_pos ⟨h, ha⟩, if_pos h]
  · rw [if_neg fun h' => h h'.1, if_neg h]

theorem feedStart_dev (s : State) : (feedStart s).dev = s.dev := by
  unfold feedStart
  split <;> rfl

theorem feedStart_life (s : State) : (feedStart s).life = s.life := by
  unfold feedStart
  split <;> rfl

/-- An enabled wake event in Retain starts the wake (R369). -/
theorem wakeEvent_starts {d : Dev} {w : Pwr} {k : Nat} (hw : d.pwr = w) (hm : w.mode = .retain) (hq : w.req = none) (hh : w.holdUp = false) (hs : w.wakeStep = 0)
    (hf : w.wakeFail = false) (hr : w.regOff = false) (he : (rget d .pwr .pwrWakeEn).getLsbD k = true) : (wakeEvent d k).pwr.wakeStep = 1 := by
  subst hw
  unfold wakeEvent
  dsimp only
  rw [rget_rput_ne _ _ (by decide), he, if_neg (by decide), if_neg (by rw [rput_pwr, hh, hq]; simp), if_neg (by rw [rput_pwr, hq]; simp),
    if_pos (by rw [rput_pwr, hm, hs, hf, hr]; simp)]
  rfl

/-- The feed that is admitted, before its events: the first part of the model's admission. -/
def feedIn (s : State) (b : Bool) (mv : Nat) : State :=
  let s := { s with feed := { s.feed with admitted := s.feed.admitted ||| feedBit b, pairs := s.feed.pairs ||| feedBit b } }
  if rfld s.dev .feed .feedWarn 13 0 ≤ mv then feedWell s b else s

theorem feedIn_feed (s : State) (b : Bool) (mv : Nat) : ∃ degraded, (feedIn s b mv).feed
    = { s.feed with admitted := s.feed.admitted ||| feedBit b, pairs := s.feed.pairs ||| feedBit b, degraded
                    healthy := if rfld s.dev .feed .feedWarn 13 0 ≤ mv then s.feed.healthy ||| feedBit b else s.feed.healthy } := by
  have hp : s.feed.pairs ||| feedBit b ||| feedBit b = s.feed.pairs ||| feedBit b := by rw [BitVec.or_assoc, BitVec.or_self]
  unfold feedIn
  dsimp only
  split
  · refine ⟨s.feed.degraded &&& ~~~(feedBit b), ?_⟩
    unfold feedWell
    dsimp only
    rw [hp]
  · exact ⟨_, rfl⟩

theorem feedIn_dev (s : State) (b : Bool) (mv : Nat) :
    (feedIn s b mv).life = s.life ∧ (feedIn s b mv).dev.pwr = s.dev.pwr ∧ (feedIn s b mv).dev.regs = s.dev.regs := by
  unfold feedIn
  dsimp only
  split
  · refine ⟨rfl, ?_, ?_⟩
    · unfold feedWell
      dsimp only
      split <;> rfl
    · unfold feedWell
      dsimp only
      split <;> rfl
  · exact ⟨rfl, rfl, rfl⟩

/-- The feed admitted, with its events. -/
def fedIn (s : State) (b : Bool) (mv : Nat) : State := feedStart (withDev (feedIn s b mv) (wakeEvent (raiseEvent (feedIn s b mv).dev .feed 2) 3))

theorem exec_feedAdmit {s : State} {b : Bool} {mv : Nat} (ha : s.feed.admitted &&& feedBit b = 0) (hl : rfld s.dev .feed .feedLevels 13 0 ≤ mv) :
    exec (.feedAdmit b mv) s = .next (settled (fedIn s b mv)) := by
  show execFeedAdmit b mv s = _
  unfold execFeedAdmit
  rw [if_neg (by simp [ha, hl])]
  rfl

/-- A feed that is lost, before its state is looked at: the first part of the model's loss. -/
def feedOut (s : State) (b : Bool) : State :=
  feedEvent { feedSick s b with feed := { (feedSick s b).feed with
    admitted := (feedSick s b).feed.admitted &&& ~~~(feedBit b), pairs := (feedSick s b).feed.pairs &&& ~~~(feedBit b) } } 2

theorem feedOut_feed (s : State) (b : Bool) : ∃ degraded ran done began warnPin, (feedOut s b).feed
    = { s.feed with healthy := s.feed.healthy &&& ~~~(feedBit b), degraded, ran, done, began, warnPin
                    admitted := s.feed.admitted &&& ~~~(feedBit b), pairs := s.feed.pairs &&& ~~~(feedBit b) } := by
  obtain ⟨d, r, e, g, w, h⟩ := feedSick_feed s b
  refine ⟨d, r, e, g, w, ?_⟩
  show ({ (feedSick s b).feed with
    admitted := (feedSick s b).feed.admitted &&& ~~~(feedBit b), pairs := (feedSick s b).feed.pairs &&& ~~~(feedBit b) } : Feed) = _
  rw [h]

theorem exec_feedLost {s : State} {b : Bool} (ha : s.feed.admitted &&& feedBit b ≠ 0) : exec (.feedLost b) s
    = .next (settled (if (feedOut s b).feed.admitted = 0 ∧ (feedOut s b).feed.st ≠ 6 then feedOff (feedOut s b) 0 else feedOut s b)) := by
  show execFeedLost b s = _
  unfold execFeedLost
  rw [if_neg ha]
  rfl

theorem exec_feedUnhealthy {s : State} {b : Bool} (h : s.feed.healthy &&& feedBit b ≠ 0) (off : Feed)
    (ho : off = { s.feed with healthy := s.feed.healthy &&& ~~~(feedBit b), degraded := s.feed.degraded ||| feedBit b }) :
    exec (.feedUnhealthy b) s = .next (settled (warnCheck { s with feed := off, dev := raise s.dev .feed 3 .none (feedCtx s.dev off) true })) := by
  show execFeedUnhealthy b s = _
  unfold execFeedUnhealthy feedSick
  rw [if_neg h, feedDone_settled, ho]
  rfl

theorem warnCheck_quiet {s : State} (h : s.feed.healthy ≠ 0 ∨ s.feed.powerGood = false ∨ s.feed.warnPin = true) : warnCheck s = s := by
  unfold warnCheck
  refine if_neg ?_
  rintro ⟨h1, h2, h3⟩
  rcases h with h | h | h
  · exact h h2
  · rw [h] at h1
    exact absurd h1 (by decide)
  · exact h3 h

/-- Settles O49. -/
theorem feedsComeAndGo : Obligations.FeedsComeAndGo := by
  refine ⟨fun s b mv ha hl => ?_, fun s b mv h => ?_, fun s b ha => ?_, fun s b h => ?_, fun s b ha hh => ?_, fun s b hl => ?_⟩
  · obtain ⟨deg, hf⟩ := feedIn_feed s b mv
    obtain ⟨hlife, hpwr, hregs⟩ := feedIn_dev s b mv
    have ht := feedStart_feed (s := withDev (feedIn s b mv) (wakeEvent (raiseEvent (feedIn s b mv).dev .feed 2) 3)) hf ones_or_feedBit
    refine ⟨fedIn s b mv, exec_feedAdmit ha hl, (feedStart_life _).trans hlife, ?_, fun hs => ?_, fun hs => ?_, ?_, fun hm hq hh hs hfl hr he => ?_⟩
    · unfold fedIn
      by_cases hs : s.feed.st = 0
      · rw [ht, if_pos hs]
      · rw [ht, if_neg hs]
    · unfold fedIn
      rw [ht, if_pos hs]
      exact ⟨rfl, rfl⟩
    · unfold fedIn
      rw [ht, if_neg hs]
      exact ⟨rfl, rfl⟩
    · unfold fedIn
      by_cases hs : s.feed.st = 0
      · rw [ht, if_pos hs]
      · rw [ht, if_neg hs]
    · unfold fedIn
      rw [feedStart_dev]
      exact wakeEvent_starts hpwr hm hq hh hs hfl hr ((congrArg (·.getLsbD 3) (rget_congr hregs ..)).trans he)
  · show execFeedAdmit b mv s = _
    exact if_pos h
  · obtain ⟨dg, r, e, g, w, hf⟩ := feedOut_feed s b
    refine ⟨_, exec_feedLost ha, ?_, ?_, fun h0 h6 => ?_, fun h0 => ?_⟩
    · split
      · rw [feedOff_feed, hf]
      · rw [hf]
    · split
      · rw [feedOff_feed, hf]
      · rw [hf]
    · have hc : (feedOut s b).feed.admitted = 0 ∧ (feedOut s b).feed.st ≠ 6 := by
        refine ⟨?_, by rw [hf]; exact h6⟩
        revert h0
        split
        · rename_i hc
          exact fun _ => hc.1
        · exact id
      rw [if_pos hc, feedOff_feed]
      exact ⟨rfl, rfl, rfl, rfl⟩
    · have hc : ¬ ((feedOut s b).feed.admitted = 0 ∧ (feedOut s b).feed.st ≠ 6) := by
        intro hc
        rw [if_pos hc, feedOff_feed] at h0
        exact h0 hc.1
      rw [if_neg hc, hf]
      exact ⟨rfl, rfl, rfl⟩
  · refine ⟨fun hq => ?_, fun h0 hp hw => ?_⟩
    · rw [exec_feedUnhealthy h _ rfl, warnCheck_quiet hq]
    · rw [exec_feedUnhealthy h _ rfl, warnCheck, if_pos ⟨hp, h0, by simp [hw]⟩]
      rfl
  · have he : exec (.feedHealthy b) s = .next (settled (feedWell s b)) := by
      show execFeedHealthy b s = _
      unfold execFeedHealthy
      rw [if_pos ⟨ha, hh⟩, feedDone_settled]
    exact ⟨_, he, rfl, rfl⟩
  · obtain ⟨x, y, hr⟩ := List.length_eq_two.1 hl
    have he : exec (.reverseCurrent b) s = .next (settled (feedRaise { s with feed := { s.feed with
        pairs := s.feed.pairs &&& ~~~(feedBit b), rev := s.feed.rev.set (b2n b) (satInc (s.feed.rev.getD (b2n b) 0)) } } 5)) := rfl
    refine ⟨_, he, rfl, rfl, ?_, ?_⟩
    · show (s.feed.rev.set (b2n b) (satInc (s.feed.rev.getD (b2n b) 0))).getD (b2n b) 0 = satInc (s.feed.rev.getD (b2n b) 0)
      rw [hr]
      cases b <;> rfl
    · show (s.feed.rev.set (b2n b) (satInc (s.feed.rev.getD (b2n b) 0))).getD (1 - b2n b) 0 = s.feed.rev.getD (1 - b2n b) 0
      rw [hr]
      cases b <;> rfl

/-! ## Telemetry (R386) and the hold-up flush (R388 to R390) -/

theorem add3_getD (a b : List Int) {i : Nat} (h : i < 3) : (add3 a b).getD i 0 = a.getD i 0 + b.getD i 0 := by
  unfold add3
  rw [List.getD_eq_getElem?_getD, List.getElem?_map, List.getElem?_range h]
  rfl

/-- The product of voltages and currents, feed by feed. -/
theorem product3_getD (a b : List Int) {i : Nat} (h : i < 3) : ((List.range 3).map fun i => a.getD i 0 * b.getD i 0).getD i 0 = a.getD i 0 * b.getD i 0 := by
  rw [List.getD_eq_getElem?_getD, List.getElem?_map, List.getElem?_range h]
  rfl

theorem map_div_getD (l : List Int) (n : Int) (i : Nat) : (l.map (· / n)).getD i 0 = l.getD i 0 / n := by
  rw [List.getD_eq_getElem?_getD, List.getElem?_map, List.getD_eq_getElem?_getD]
  cases l[i]? with
  | none => exact (Int.zero_ediv n).symm
  | some x => rfl

theorem raise_flash (d : Dev) (b : Block) (bit : Nat) (u : FUnit) (ctx : BitVec 256) (cond inj : Bool) (named : List Nat) :
    (raise d b bit u ctx cond inj named).flash = d.flash := by
  have h := congrArg Dev.flash (raise_unreported d b bit u ctx cond inj named)
  exact h

theorem admitting_holdUp {d : Dev} (h : d.pwr.holdUp = true) : admitting d = false := by
  unfold admitting
  rw [h]
  simp

/-- The flush that starts (R388): its marks, the source raised, and one record more in the flash. -/
theorem holdUpStart_starts {s : State} (h : s.dev.pwr.holdUp = false) : (holdUpStart s).dev.pwr.holdUp = true ∧ (holdUpStart s).dev.pwr.warm = none
    ∧ (holdUpStart s).feed.ran = true ∧ (holdUpStart s).feed.done = false ∧ (holdUpStart s).dev.flt.latched.getLsbD (srcId .feed 4) = true
    ∧ (holdUpStart s).dev.flash.length = s.dev.flash.length + 1 := by
  unfold holdUpStart
  rw [if_neg (by rw [h]; exact Bool.false_ne_true)]
  refine ⟨rfl, rfl, rfl, rfl, raise_latched _ _ _ _ _ _ _ _ (by decide), ?_⟩
  refine List.length_append.trans (congrArg (fun l : List HoldRec => l.length + 1) ?_)
  exact raise_flash ..

theorem holdUpStatus_last {d : Dev} {us : Nat} {h : HoldRec} (hl : h ∈ (holdUpStatus d us).flash.getLast?) : h.prev = 1 ∧ h.us = us := by
  unfold holdUpStatus at hl
  split at hl
  · rename_i hr
    rw [List.reverse_eq_nil_iff.1 hr] at hl
    exact absurd hl (by simp)
  · rw [List.getLast?_reverse] at hl
    cases hl
    exact ⟨rfl, rfl⟩

theorem holdUpStatus_eq (d : Dev) (us : Nat) : holdUpStatus d us = { d with flash := (holdUpStatus d us).flash } := by
  unfold holdUpStatus
  split <;> rfl

theorem holdUpTail_eq (d : Dev) : holdUpTail d = { d with flash := (holdUpTail d).flash } := by
  unfold holdUpTail
  split <;> rfl

theorem exec_holdUpFlushDone {s : State} (h : s.dev.pwr.holdUp = true) : exec .holdUpFlushDone s = .next (settled (holdUpEnd s)) := by
  show execHoldUpFlushDone s = _
  unfold execHoldUpFlushDone
  rw [if_pos h, feedDone_settled]

/-- The end of the flush in Retain, before the wake that waited for it. -/
def flushEnded (d : Dev) (us : Nat) : Dev :=
  let d := holdUpStatus d us
  { d with pwr := { d.pwr with holdUp := false, wakeLatched := false } }

theorem flushEnded_pwr (d : Dev) (us : Nat) : (flushEnded d us).pwr = { d.pwr with holdUp := false, wakeLatched := false } := by
  unfold flushEnded
  rw [holdUpStatus_eq]

/-- The same with the wake. -/
def flushWaking (d : Dev) (us : Nat) : Dev :=
  if d.pwr.wakeLatched = true ∧ d.pwr.wakeStep = 0 ∧ ¬ d.pwr.wakeFail = true then wakeStart (flushEnded d us) else flushEnded d us

theorem flushWaking_shows (d : Dev) (us : Nat) : (flushWaking d us).pwr.holdUp = false ∧ (flushWaking d us).pwr.mode = d.pwr.mode
    ∧ (∀ h ∈ (flushWaking d us).flash.getLast?, h.prev = 1 ∧ h.us = us)
    ∧ (d.pwr.wakeLatched = true → d.pwr.wakeFail = false → d.pwr.wakeStep = 0 → (flushWaking d us).pwr.wakeStep = 1) := by
  have hp := flushEnded_pwr d us
  have hh : (flushEnded d us).pwr.holdUp = false := by rw [hp]
  have hm : (flushEnded d us).pwr.mode = d.pwr.mode := by rw [hp]
  have hl : ∀ r ∈ (flushEnded d us).flash.getLast?, r.prev = 1 ∧ r.us = us := fun r => holdUpStatus_last
  unfold flushWaking
  split
  · exact ⟨hh, hm, hl, fun _ _ _ => rfl⟩
  · rename_i hn
    exact ⟨hh, hm, hl, fun h1 h2 h3 => absurd ⟨h1, h3, by simp [h2]⟩ hn⟩

theorem holdUpEnd_retain {s : State} (hm : s.dev.pwr.mode = .retain) : let us := (clockNs s.dev - s.feed.began) / 1000
    holdUpEnd s = { s with feed := { s.feed with done := true, flushUs := us }, dev := flushWaking s.dev us } := by
  intro us
  have hp : (holdUpStatus s.dev us).pwr = s.dev.pwr := by rw [holdUpStatus_eq]
  unfold holdUpEnd flushWaking
  dsimp only
  rw [if_pos hm, ← hp]
  rfl

theorem holdUpEnd_awake {s : State} (hm : s.dev.pwr.mode ≠ .retain) {d : Dev} (hd : d = if dramTrained s.dev = true then subsToSleep (flushAllQuads s.dev .orderly).1 else s.dev)
    (hh : d.flt.haltRunning = false) : let us := (clockNs s.dev - s.feed.began) / 1000
    holdUpEnd s = { s with feed := { s.feed with done := true, flushUs := us }, dev := enterRetain (holdUpStatus (holdUpTail d) us) } := by
  intro us
  have hf : (holdUpStatus (holdUpTail d) us).flt.haltRunning = false := by
    rw [holdUpStatus_eq, holdUpTail_eq]
    exact hh
  have hd' : (if dramTrained s.dev = true then subsToSleep (if dramTrained s.dev = true then flushAllQuads s.dev .orderly else (s.dev, true)).1
      else (if dramTrained s.dev = true then flushAllQuads s.dev .orderly else (s.dev, true)).1) = d := by
    rw [hd]
    by_cases ht : dramTrained s.dev = true
    · rw [if_pos ht, if_pos ht, if_pos ht]
    · rw [if_neg ht, if_neg ht, if_neg ht]
  unfold holdUpEnd
  dsimp only
  rw [if_neg hm, hd', if_neg (by rw [hf]; exact Bool.false_ne_true)]

theorem holdUpTail_last {d : Dev} {h : HoldRec} {older : List HoldRec} (hf : d.flash = older ++ [h]) :
    holdUpTail d = { d with flash := older ++ [{ h with records := (d.flt.ring.filter fun r => !h.records.contains r) ++ h.records }] } := by
  have hr : d.flash.reverse = h :: older.reverse := by rw [hf, List.reverse_append]; rfl
  unfold holdUpTail
  rw [hr]
  dsimp only
  rw [List.reverse_cons, List.reverse_reverse]

/-- Settles O51. -/
theorem metersAndHoldUp : Obligations.MetersAndHoldUp := by
  refine ⟨fun s mv ma => ?_, fun s hs => ?_, fun s h => ?_, fun s h => if_pos h, fun s h => ⟨fun hm => ?_, fun hm _ hh => ?_⟩, fun s h older hh hm hf => ?_⟩
  · refine ⟨_, rfl, fun i hi => ⟨?_, add3_getD _ _ hi, add3_getD _ _ hi, ?_⟩, rfl⟩
    · rw [add3_getD _ _ hi, product3_getD _ _ hi]
    · rw [add3_getD _ _ hi, product3_getD _ _ hi]
  · refine ⟨_, if_neg hs, fun i => ⟨map_div_getD _ _ i, map_div_getD _ _ i, map_div_getD _ _ i⟩, rfl⟩
  · obtain ⟨h1, h2, h3, h4, h5, h6⟩ := holdUpStart_starts h
    exact ⟨h1, h2, admitting_holdUp h1, h3, h4, h5, h6⟩
  · obtain ⟨h1, h2, h3, h4⟩ := flushWaking_shows s.dev ((clockNs s.dev - s.feed.began) / 1000)
    refine ⟨flushWaking s.dev ((clockNs s.dev - s.feed.began) / 1000), ?_, h1, h2.trans hm, h3, h4⟩
    rw [exec_holdUpFlushDone h, holdUpEnd_retain hm]
    rfl
  · rw [exec_holdUpFlushDone h, holdUpEnd_awake hm rfl hh]
    rfl
  · refine ⟨(s.dev.flt.ring.filter fun r => !h.records.contains r) ++ h.records, ?_, fun r => ?_⟩
    · show execHoldUpEventRecordWrite s = _
      rw [execHoldUpEventRecordWrite, doneIf_next (by simp [hh, hm]), holdUpTail_last hf]
    · rw [List.mem_append, List.mem_filter]
      by_cases hr : r ∈ h.records
      · exact iff_of_true (.inr hr) (.inl hr)
      · simp [hr]

end Sys2Proof.Machine
end

section
/-! PROOFS. Continuity beside recording (R396, R399, R403 to R405, R409, R410, R460). -/

namespace Sys2Proof.Machine

/-! ## Clearing (R403) -/

/-- The bits of LATCHED that a write of word w names. -/
theorem latchedMask_bit (v : Word) (w : Fin 16) {i : Nat} (hi : i < 512) :
    ((v.setWidth 512 <<< (32 * w.val)) : BitVec 512).getLsbD i = (decide (i / 32 = w.val) && v.getLsbD (i % 32)) := by
  rw [BitVec.getLsbD_shiftLeft, BitVec.getLsbD_setWidth]
  by_cases hw : i / 32 = w.val
  · have h1 : ¬ i < 32 * w.val := by omega
    have h2 : i - 32 * w.val = i % 32 := by omega
    rw [h2]
    simp [hi, h1, hw, show i % 32 < 512 by omega]
  · by_cases h1 : i < 32 * w.val
    · simp [h1, hw]
    · rw [BitVec.getLsbD_of_ge v _ (by omega)]
      simp [hw]

/-- A write of LATCHED that leaves a stage stall alone clears what does not assert and shows what it refuses. -/
theorem latchedClear_eq {d : Dev} {mask : BitVec 512} (h : (mask &&& d.flt.latched).getLsbD 0 = false) : latchedClear d mask
    = { d with flt := { d.flt with latched := d.flt.latched &&& ~~~(mask &&& ~~~d.flt.asserting)
                                   clearRefused := d.flt.clearRefused || decide (mask &&& d.flt.latched &&& d.flt.asserting ≠ 0) } } := by
  unfold latchedClear
  rw [h]
  rfl

theorem bitVec_ne_zero_iff {n : Nat} {x : BitVec n} : x ≠ 0 ↔ ∃ i, i < n ∧ x.getLsbD i = true := by
  refine ⟨fun h => ?_, ?_⟩
  · by_contra hn
    refine h (BitVec.eq_of_getLsbD_eq fun i hi => ?_)
    show _ = (0#n).getLsbD i
    rw [BitVec.getLsbD_zero]
    exact Bool.eq_false_iff.2 fun hx => hn ⟨i, hi, hx⟩
  · rintro ⟨i, -, hx⟩ rfl
    exact absurd hx (by simp)

theorem firstClear_eq {d : Dev} {r : Rec} (hr : d.flt.fe = some r) (h0 : r.source ≠ 0) : firstClear d
    = if d.flt.asserting.getLsbD r.source = true then { d with flt := { d.flt with clearRefused := true } }
      else { d with flt := { d.flt with fe := none, feOverflow := false, feCount := 0 } } := by
  unfold firstClear
  rw [hr]
  dsimp only
  rw [if_neg h0]

theorem exec_latchedClear {s : State} {p : Path} {w : Fin 16} (v : Word) (ha : admitted s p .flt .fltLatched w = true) :
    exec (.latchedClear p w v) s = .next (wrote p .flt .fltLatched (withDev s (latchedClear s.dev (v.setWidth 512 <<< (32 * w.val)))) w) := by
  show regCmd s p .flt .fltLatched v w = _
  exact regCmd_device ha rfl (List.mem_append_right _ (show RName.fltLatched ∈ Block.flt.regs by decide)) (show w.val < 16 from w.isLt) (by decide) (by decide) (by decide) rfl (by decide) rfl

theorem exec_firstErrorClear {s : State} {p : Path} (v : Word) (ha : admitted s p .flt .fltFeCtl = true) :
    exec (.firstErrorClear p v) s = .next (wrote p .flt .fltFeCtl (withDev s (firstClear s.dev))) := by
  have hd : deviceWrite s.dev p .flt .fltFeCtl 0 (v ||| 1) = some (firstClear s.dev) := by
    show some (if bitOf (v ||| 1) 0 then firstClear s.dev else s.dev) = _
    rw [bitOf_or_one, if_pos rfl]
  show regCmd s p .flt .fltFeCtl (v ||| 1) = _
  exact regCmd_device ha hd (List.mem_append_right _ (show RName.fltFeCtl ∈ Block.flt.regs by decide)) (by decide) (by decide) (by decide) (by decide) rfl (by decide) rfl

/-! ## ALIVE and injection (R404, R405) -/

theorem exec_aliveToggle {s : State} (h0 : domOn s.dev 0 = true) (h : aliveStopped s.dev = false) :
    exec .aliveToggle s = .next (onDev s { s.dev with flt := { s.dev.flt with alive := !s.dev.flt.alive } }) := by
  show execAliveToggle s = _
  rw [execAliveToggle, doneIf_next (by rw [h0, h]; rfl)]

theorem aliveStopped_iff {d : Dev} : aliveStopped d = true ↔ ∃ i, i < 420 ∧ d.flt.latched.getLsbD i = true ∧ max 1 (rfld d .flt .fltCfg 1 0) ≤ sevOf d i := by
  unfold aliveStopped
  simp only [Bool.and_eq_true, decide_eq_true_eq, List.any_eq_true, List.mem_range]
  refine ⟨fun h => h.2, fun h => ⟨?_, h⟩⟩
  obtain ⟨i, hi, hl, -⟩ := h
  exact bitVec_ne_zero_iff.2 ⟨i, by omega, hl⟩

theorem exec_sourceInject {s : State} {p : Path} {v : Word} {b : Block} {bit : Nat} (ha : admitted s p .flt .fltInj = true)
    (hs : srcOf s.dev.marwen (fld v 8 0) = some (b, bit)) (hb : bit < b.sources) :
    let d := bumpFree (rput s.dev .flt .fltInj (v &&& 0x1FF))
    exec (.sourceInject p v) s = .next (wrote p .flt .fltInj (withDev s (raise d b bit (srcUnit b bit (Config.free (fresh s.dev))) (ctxKind 0 b) false true))) := by
  intro d
  have hbit : ∀ i, i < 9 → (v ||| 0x80000000).getLsbD i = v.getLsbD i := fun i hi => by
    rw [BitVec.getLsbD_or, show (0x80000000 : Word).getLsbD i = false by revert i; decide, Bool.or_false]
  have hv : (v ||| 0x80000000) &&& 0x1FF = v &&& 0x1FF := by
    refine BitVec.eq_of_getLsbD_eq fun i hi => ?_
    rw [BitVec.getLsbD_and, BitVec.getLsbD_and]
    by_cases h : i < 9
    · rw [hbit i h]
    · rw [show (0x1FF : Word).getLsbD i = false by revert i; decide, Bool.and_false, Bool.and_false]
  have hf : fld (v ||| 0x80000000) 8 0 = fld v 8 0 := fld_low hbit
  have hd : deviceWrite s.dev p .flt .fltInj 0 (v ||| 0x80000000) = some (raise d b bit (srcUnit b bit (Config.free (fresh s.dev))) (ctxKind 0 b) false true) := by
    show some (injWrite s.dev (v ||| 0x80000000)) = _
    unfold injWrite
    dsimp only
    rw [hv, hf, if_neg (by rw [BitVec.getLsbD_or]; simp), show (rput s.dev .flt .fltInj (v &&& 0x1FF)).marwen = s.dev.marwen from rfl, hs]
    dsimp only
    rw [if_neg (Nat.not_le.2 hb)]
    rfl
  show regCmd s p .flt .fltInj (v ||| 0x80000000) = _
  exact regCmd_device ha hd (List.mem_append_right _ (show RName.fltInj ∈ Block.flt.regs by decide)) (by decide) (by decide) (by decide) (by decide) rfl (by decide) rfl

/-! ## Checkers and supplies (R409, R460) -/

theorem exec_checkerSample_one {s : State} {m : BitVec 9} {b : Block} {bit : Nat} (h3 : domOn s.dev 3 = true)
    (hs : srcOf s.dev.marwen m.toNat = some (b, bit)) (hc : isChecker b bit = true) : let n := Config.free (fresh s.dev)
    exec (.checkerSample [m]) s = .next (onDev s (raise (bumpFree s.dev) b bit (srcUnit b bit n) (ctxChecker b (n / 4) (n % 4)))) := by
  intro n
  show execCheckerSample [m] s = _
  rw [execCheckerSample, doneIf_next h3]
  show Host.Outcome.next (onDev s (checkerRaise s.dev m.toNat)) = _
  unfold checkerRaise
  rw [hs]
  dsimp only
  rw [if_pos hc]

theorem exec_supplyFaultEnd (s : State) (c : Fin 3) : exec (.supplyFaultEnd c) s
    = .next (onDev s (if s.dev.supply &&& ~~~(BitVec.ofNat 3 (2 ^ c.val)) = 0 then deassert { s.dev with supply := s.dev.supply &&& ~~~(BitVec.ofNat 3 (2 ^ c.val)) } .flt 3
      else { s.dev with supply := s.dev.supply &&& ~~~(BitVec.ofNat 3 (2 ^ c.val)) })) := rfl

theorem raise_supply (d : Dev) (b : Block) (bit : Nat) (u : FUnit) (ctx : BitVec 256) (cond inj : Bool) (named : List Nat) :
    (raise d b bit u ctx cond inj named).supply = d.supply := by
  have h := congrArg Dev.supply (raise_unreported d b bit u ctx cond inj named)
  exact h

/-! ## Halt and BIST (R399, R410) -/

theorem exec_haltFlushDone {s : State} (hr : s.dev.flt.haltRunning = true) (hh : s.dev.pwr.holdUp = false) {e : Dev} {ok : Bool}
    (h1 : (if dramTrained s.dev = true then flushAllQuads s.dev .dead else (s.dev, true)).2 = ok)
    (he : (if dramTrained s.dev = true then subsToSleep (if dramTrained s.dev = true then flushAllQuads s.dev .dead else (s.dev, true)).1
      else (if dramTrained s.dev = true then flushAllQuads s.dev .dead else (s.dev, true)).1) = e) :
    exec .haltFlushDone s = .next (onDev s (let d := calStop e
      { d with flt := { d.flt with haltRunning := false, haltOn := true, halted := true, haltFlushed := ok } })) := by
  show execHaltFlushDone s = _
  rw [execHaltFlushDone, doneIf_next (by rw [hr, hh]; rfl)]
  dsimp only
  rw [he, h1]

theorem exec_sramBist {s : State} {q : Fin 4} {array : Nat} {way : Fin 16} (hg : granted s.dev 7 = true) (hq : quadFenced s.dev q = false)
    (ha : array < 12288) (hw : (array, way.val) ∉ (quad s.dev q).waysOut) : exec (.sramBist q array way) s = match wayOut s.dev q array way with
      | some d => done s d
      | none => still s := by
  show execSramBist q array way s = _
  unfold execSramBist
  rw [if_pos ⟨hg, by simp [hq], ha, hw⟩] <;> rfl

/-- What takes a way out of use. -/
theorem wayOut_eq (d : Dev) (q set way : Nat) : (wayLine d q set way = none → wayOut d q set way = some (qmod d q fun s => { s with waysOut := s.waysOut ++ [(set, way)] }))
    ∧ (∀ line x, wayLine d q set way = some (line, x) → (lineLocked d line = true → wayOut d q set way = none)
      ∧ (lineLocked d line = false → x.dirty = false → wayOut d q set way = some (qmod (stageDrop d line) q fun s => { s with waysOut := s.waysOut ++ [(set, way)] }))
      ∧ (lineLocked d line = false → x.dirty = true → (flushLine d .orderly line x.data).2 = true →
        wayOut d q set way = some (qmod (stageDrop (flushLine d .orderly line x.data).1 line) q fun s => { s with waysOut := s.waysOut ++ [(set, way)] }))) := by
  unfold wayOut
  refine ⟨fun h => by rw [h], fun line x h => ?_⟩
  rw [h]
  dsimp only
  refine ⟨fun hl => ?_, fun hl hd => ?_, fun hl hd hf => ?_⟩
  · rw [if_pos hl]
  · rw [hl, hd]
    rfl
  · rw [hl, hd, if_neg Bool.false_ne_true, if_pos rfl, hf]
    rfl

/-- Settles O52. -/
theorem continuityUpkeep : Obligations.ContinuityUpkeep := by
  refine ⟨⟨fun s p w v ha hn => ?_, fun s p v ha => ⟨fun hf => ?_, fun r hr h0 => ⟨fun hs => ?_, fun hs => ?_⟩⟩, fun s h0 => ⟨fun h => exec_aliveToggle h0 ?_, fun i hi hl hs => ?_⟩,
    fun s p v b bit ha hs hb => exec_sourceInject ha hs hb, fun s m b bit h3 hs hc => exec_checkerSample_one h3 hs hc, fun s h3 => ?_, fun s c => ⟨fun hm h0 => ?_, fun h => ?_, fun h => ?_⟩⟩,
    fun s hr hh => ⟨fun ht => ?_, fun ht => ?_⟩, fun s q array way hg hq ha hw => ?_, fun s q array way hw hb => ⟨?_, ?_⟩⟩
  · have hm : ((v.setWidth 512 <<< (32 * w.val)) &&& s.dev.flt.latched).getLsbD 0 = false := by
      rw [BitVec.getLsbD_and, latchedMask_bit v w (by decide)]
      refine Bool.eq_false_iff.2 fun h => hn ?_
      simp only [Bool.and_eq_true, decide_eq_true_eq] at h
      exact ⟨h.1.1.symm, h.1.2, h.2⟩
    refine ⟨_, exec_latchedClear v ha, ?_⟩
    rw [latchedClear_eq hm]
    refine ⟨rfl, fun i hi => ?_, ?_⟩
    · show (s.dev.flt.latched &&& ~~~((v.setWidth 512 <<< (32 * w.val)) &&& ~~~s.dev.flt.asserting)).getLsbD i = _
      rw [BitVec.getLsbD_and, BitVec.getLsbD_not, BitVec.getLsbD_and, BitVec.getLsbD_not, latchedMask_bit v w hi]
      simp [hi]
    · show (s.dev.flt.clearRefused || decide ((v.setWidth 512 <<< (32 * w.val)) &&& s.dev.flt.latched &&& s.dev.flt.asserting ≠ 0)) = true ↔ _
      rw [Bool.or_eq_true, decide_eq_true_eq, bitVec_ne_zero_iff]
      refine or_congr_right ⟨?_, ?_⟩
      · rintro ⟨i, hi, h⟩
        rw [BitVec.getLsbD_and, BitVec.getLsbD_and, latchedMask_bit v w hi] at h
        simp only [Bool.and_eq_true, decide_eq_true_eq] at h
        obtain ⟨⟨⟨hw, hv⟩, hl⟩, ha⟩ := h
        have hi' : 32 * w.val + i % 32 = i := by omega
        exact ⟨i % 32, Nat.mod_lt _ (by decide), hv, by rw [hi', hl], by rw [hi', ha]⟩
      · rintro ⟨j, hj, hv, hl, ha⟩
        refine ⟨32 * w.val + j, by omega, ?_⟩
        rw [BitVec.getLsbD_and, BitVec.getLsbD_and, latchedMask_bit v w (by omega), hl, ha, show (32 * w.val + j) / 32 = w.val by omega,
          show (32 * w.val + j) % 32 = j by omega, hv]
        simp
  · refine (exec_firstErrorClear v ha).trans ?_
    unfold firstClear
    rw [hf]
  · rw [exec_firstErrorClear v ha, firstClear_eq hr h0, if_pos hs]
  · rw [exec_firstErrorClear v ha, firstClear_eq hr h0, if_neg (by rw [hs]; exact Bool.false_ne_true)]
  · refine Bool.eq_false_iff.2 fun hs => ?_
    obtain ⟨i, hi, hl, hv⟩ := aliveStopped_iff.1 hs
    exact absurd (h i hi hl) (Nat.not_lt.2 hv)
  · show execAliveToggle s = _
    have hst : aliveStopped s.dev = true := aliveStopped_iff.2 ⟨i, hi, hl, hs⟩
    rw [execAliveToggle, doneIf_neg _ _ _ (by rw [hst]; simp)]
  · show execCheckerSample [] s = _
    rw [execCheckerSample, doneIf_next h3]
    rfl
  · have he : exec (.supplyFault c) s = .next (onDev s (raise { s.dev with supply := s.dev.supply ||| BitVec.ofNat 3 (2 ^ c.val) } .flt 3 .none (ctxKind 0 .flt) true)) := by
      show execSupplyFault c s = _
      rw [execSupplyFault, doneIf_next (by simp [hm, h0])]
    exact ⟨_, he, raise_supply .., raise_latched _ _ _ _ _ _ _ _ (by decide), raise_asserts _ _ _ _ _ _ _ (by decide)⟩
  · have he := exec_supplyFaultEnd s c
    rw [if_pos h] at he
    exact ⟨_, he, h, deassert_asserting _ .flt 3, rfl⟩
  · rw [exec_supplyFaultEnd, if_neg h]
  · exact exec_haltFlushDone hr hh (by rw [if_pos ht]) (by rw [if_pos ht, if_pos ht])
  · have ht' : ¬ dramTrained s.dev = true := by rw [ht]; exact Bool.false_ne_true
    exact exec_haltFlushDone hr hh (by rw [if_neg ht']) (by rw [if_neg ht', if_neg ht'])
  · obtain ⟨hnone, hsome⟩ := wayOut_eq s.dev q array way
    rw [exec_sramBist hg hq ha hw]
    refine ⟨fun h => by rw [hnone h]; rfl, fun line x h => ?_⟩
    obtain ⟨h1, h2, h3⟩ := hsome line x h
    exact ⟨fun hl => by rw [h1 hl]; rfl, fun hl hd => by rw [h2 hl hd]; rfl, fun hl hd hf => by rw [h3 hl hd hf]; rfl⟩
  · show execSramBistDone q array way true s = _
    unfold execSramBistDone
    dsimp only
    rw [doneIf_next (by simp [hw, hb]), if_pos rfl]
  · show execSramBistDone q array way false s = _
    unfold execSramBistDone
    dsimp only
    rw [doneIf_next (by simp [hw, hb]), if_neg Bool.false_ne_true]

end Sys2Proof.Machine
end

section
/-! PROOFS. The calibration store (R425, R427 to R429). -/

namespace Sys2Proof.Machine

theorem calSector_sectorMod {c : Cal} {i : Nat} (f : Sector → Sector) (hi : i < c.sectors.length) (j : Nat) :
    calSector (sectorMod c i f) j = if j = i then f (calSector c j) else calSector c j := by
  unfold calSector sectorMod
  rw [List.getD_eq_getElem?_getD, List.getElem?_set]
  by_cases h : j = i
  · subst h
    rw [if_pos rfl, if_pos hi, if_pos rfl]
    rfl
  · rw [if_neg (Ne.symm h), if_neg h, List.getD_eq_getElem?_getD]

theorem exec_calRecordProgrammed {s : State} (h : calWrites s.dev = true) : exec .calRecordProgrammed s = .next (onDev s (calProgram s.dev)) := by
  show execCalRecordProgrammed s = _
  rw [execCalRecordProgrammed, doneIf_next h]

section
variable {d : Dev} {r : CalRec} {rest : List CalRec} (hq : d.cal.queue = r :: rest)

include hq

theorem calProgram_fits (hc : newestCount d.cal r.kind r.key < 0xFFFFFFFF) (hu : unitsUsed (calSector d.cal d.cal.writeAt) + r.units ≤ 255) :
    calProgram d = appendRecord d r rest := by
  unfold calProgram
  rw [hq]
  dsimp only
  rw [if_neg (Nat.not_le.2 hc)]
  exact if_pos hu

theorem calProgram_ended (hc : 0xFFFFFFFF ≤ newestCount d.cal r.kind r.key) : calProgram d
    = if (r.kind, r.key) ∈ d.cal.ended then { d with cal := { d.cal with queue := rest } }
      else raise0 { d with cal := { d.cal with queue := rest, ended := (r.kind, r.key) :: d.cal.ended } } .cal 3 := by
  unfold calProgram
  rw [hq]
  dsimp only
  rw [if_pos hc]
  by_cases h : (r.kind, r.key) ∈ d.cal.ended
  · rw [if_pos h, if_pos (List.contains_iff_mem.2 h)]
  · rw [if_neg h, if_neg (fun h' => h (List.contains_iff_mem.1 h'))]

end

/-- Settles O55. -/
theorem calibrationStore : Obligations.CalibrationStore := by
  refine ⟨fun s r rest hw hq => ⟨fun hc hu hl => ?_, fun hc => ⟨fun he => ?_, fun he => ?_⟩⟩, fun s hw => ?_, fun s i he hi => ?_⟩
  · rw [exec_calRecordProgrammed hw, calProgram_fits hq hc hu]
    have hs := calSector_sectorMod (fun x => { x with recs := x.recs ++ [(r, newestCount s.dev.cal r.kind r.key + 1)] }) hl
    exact ⟨_, rfl, rfl, List.length_set, fun i => hs i⟩
  · rw [exec_calRecordProgrammed hw, calProgram_ended hq hc, if_pos he]
  · rw [exec_calRecordProgrammed hw, calProgram_ended hq hc, if_neg he]
  · show execCalRecordProgrammed s = _
    rw [execCalRecordProgrammed, doneIf_neg _ _ _ hw]
  · have hx : exec .calSectorEraseDone s = .next (onDev s { s.dev with cal :=
        { sectorMod s.dev.cal i fun x => { x with recs := [], erases := x.erases + 1 } with erasing := none } }) := by
      show execCalSectorEraseDone s = _
      unfold execCalSectorEraseDone
      rw [he]
      rfl
    have hs := calSector_sectorMod (fun x => { x with recs := [], erases := x.erases + 1 }) hi
    exact ⟨_, hx, rfl, fun j => hs j⟩

end Sys2Proof.Machine
end

section
/-! PROOFS. What flushes, lost links and the home take from the state: one rule for each function of the model, in the model's order. A view holds the
power state, what holds a DRAM gate, and a read queue; most functions leave it, the others take at most what a charge of the gate and a read behind it
take. -/

namespace Sys2Proof.Machine

/-- What of the state the home, the directory and the links hardly touch. -/
structure View where
  pwr : Pwr
  tight : Bool
  gate : Gate
  reads : List RdEnt

/-- The power state, what holds the DRAM gate of quadrant `Q`, and the read queue of sub-channel `U`. -/
def view (Q U : Nat) (d : Dev) : View :=
  { pwr := d.pwr, tight := d.reg.oversub, gate := (quad d Q).gate, reads := (subc d U).rq }

section
variable {Q U : Nat}

@[simp] theorem qmod_view (d : Dev) (q : Nat) {f : Quad → Quad} (h : ∀ s, (f s).gate = s.gate) : view Q U (qmod d q f) = view Q U d := by
  have hg : (quad (qmod d q f) Q).gate = (quad d Q).gate := by
    by_cases hq : Q = q
    · subst hq
      simp [h]
    · rw [quad_qmod_ne d f hq]
  unfold view
  rw [hg]
  rfl

@[simp] theorem umod_view (d : Dev) (u : Nat) {f : Sub → Sub} (h : ∀ s, (f s).rq = s.rq) : view Q U (umod d u f) = view Q U d := by
  have hr : (subc (umod d u f) U).rq = (subc d U).rq := by
    by_cases hu : U = u
    · subst hu
      simp [h]
    · rw [subc_umod_ne d f hu]
  unfold view
  rw [hr]
  rfl

@[simp] theorem raise_view (d : Dev) (b : Block) (bit : Nat) (u : FUnit) (ctx : BitVec 256) (cond inj : Bool) (named : List Nat) :
    view Q U (raise d b bit u ctx cond inj named) = view Q U d := by
  have h := congrArg (view Q U) (raise_unreported d b bit u ctx cond inj named)
  exact h

@[simp] theorem raiseEvent_view (d : Dev) (b : Block) (i : Nat) : view Q U (raiseEvent d b i) = view Q U d := rfl
@[simp] theorem rput_view (d : Dev) (b : Block) (n : RName) (v : Word) (i : Nat) : view Q U (rput d b n v i) = view Q U d := rfl
@[simp] theorem bumpFree_view (d : Dev) : view Q U (bumpFree d) = view Q U d := rfl
@[simp] theorem send_view (d : Dev) (m : Out) : view Q U (send d m) = view Q U d := rfl
@[simp] theorem pmod_view (d : Dev) (b : Block) (f : PageSt → PageSt) : view Q U (pmod d b f) = view Q U d := rfl
@[simp] theorem portMod_view (d : Dev) (p : Nat) (f : HPort → HPort) : view Q U (portMod d p f) = view Q U d := rfl
@[simp] theorem mportMod_view (d : Dev) (b : Nat) (f : MPort → MPort) : view Q U (mportMod d b f) = view Q U d := rfl

@[simp] theorem with_flt_view (d : Dev) (x : Flt) : view Q U { d with flt := x } = view Q U d := rfl
@[simp] theorem with_cal_view (d : Dev) (x : Cal) : view Q U { d with cal := x } = view Q U d := rfl
@[simp] theorem with_tags_view (d : Dev) (x : Tab (Option TagUse)) : view Q U { d with tags := x } = view Q U d := rfl
@[simp] theorem with_nextId_view (d : Dev) (x : Nat) : view Q U { d with nextId := x } = view Q U d := rfl
theorem with_waits_ioReads_view (d : Dev) (x : List Waiting) (y : List IoRead) : view Q U { d with waits := x, ioReads := y } = view Q U d := rfl
@[simp] theorem with_ioReads_view (d : Dev) (x : List IoRead) : view Q U { d with ioReads := x } = view Q U d := rfl
@[simp] theorem with_poison_view (d : Dev) (x : List PRec) : view Q U { d with poison := x } = view Q U d := rfl
@[simp] theorem with_daily_view (d : Dev) (x : Daily) : view Q U { d with daily := x } = view Q U d := rfl
@[simp] theorem with_mwKeys_view (d : Dev) (x : Tab (Option (BitVec 256))) : view Q U { d with mwKeys := x } = view Q U d := rfl

/-- A fold of steps that leave the power state leaves it. -/
theorem foldl_view {α : Type} {f : Dev → α → Dev} (h : ∀ d x, view Q U (f d x) = view Q U d) (l : List α) (d : Dev) : view Q U (l.foldl f d) = view Q U d := by
  induction l generalizing d with
  | nil => rfl
  | cons x l ih => exact (ih _).trans (h d x)

theorem foldl_fst_view {α β : Type} {f : Dev × β → α → Dev × β} (h : ∀ a x, view Q U (f a x).1 = view Q U a.1) (l : List α) (a : Dev × β) : view Q U (l.foldl f a).1 = view Q U a.1 := by
  induction l generalizing a with
  | nil => rfl
  | cons x l ih => exact (ih _).trans (h a x)

/-! ## Registers, reports and the places of DRAM -/

@[simp] theorem rbump_view (d : Dev) (b : Block) (n : RName) : view Q U (rbump d b n) = view Q U d := rfl

@[simp] theorem logEvent_view (d : Dev) (p log : Nat) (ev : Ev) : view Q U (logEvent d p log ev) = view Q U d := rfl

@[simp] theorem logEvents_view (d : Dev) (ps : List Nat) (log : Nat) (ev : Ev) : view Q U (logEvents d ps log ev) = view Q U d := by
  unfold logEvents
  exact foldl_view (fun d p => logEvent_view d p log ev) ps d

@[simp] theorem record_view (d : Dev) (id sev : Nat) (ctx : BitVec 256) (injected : Bool) : view Q U (record d id sev ctx injected) = view Q U d := by
  unfold record
  dsimp only
  (repeat' split) <;> simp

@[simp] theorem raise0_view (d : Dev) (b : Block) (bit : Nat) : view Q U (raise0 d b bit) = view Q U d := by
  simp [raise0]

@[simp] theorem poisonFull_view (d : Dev) : view Q U (poisonFull d) = view Q U d := by
  simp [poisonFull]
  rfl

@[simp] theorem addPoison_view (d : Dev) (line lines : Nat) (src : PSource) (located : Bool) : view Q U (addPoison d line lines src located).1 = view Q U d := by
  unfold addPoison
  (repeat' split) <;> simp

@[simp] theorem dropPoison_view (d : Dev) (line : Nat) : view Q U (dropPoison d line) = view Q U d := rfl

@[simp] theorem dramPut_view (d : Dev) (loc : Nat) (w : Stored) : view Q U (dramPut d loc w) = view Q U d := rfl

@[simp] theorem dramWrite_view (d : Dev) (loc : Nat) (w : Stored) : view Q U (dramWrite d loc w) = view Q U d := by
  unfold dramWrite
  dsimp only
  split <;> simp

@[simp] theorem pushWrite_view (d : Dev) (loc : Nat) (w : Stored) : view Q U (pushWrite d loc w) = view Q U d := by
  unfold pushWrite
  dsimp only
  (repeat' split) <;> simp

/-! ## Units and their errors -/

@[simp] theorem countDevice_view (d : Dev) (loc dev : Nat) : view Q U (countDevice d loc dev) = view Q U d := by
  unfold countDevice
  dsimp only
  (repeat' split) <;> simp

@[simp] theorem calPut_view (d : Dev) (kind key : Nat) (body : List Nat) : view Q U (calPut d kind key body) = view Q U d := by
  unfold calPut
  split <;> simp

@[simp] theorem repairRecord_view (d : Dev) (loc : Nat) : view Q U (repairRecord d loc) = view Q U d := by
  simp [repairRecord]

@[simp] theorem spareRemap_view (d : Dev) (loc : Nat) : view Q U (spareRemap d loc).1 = view Q U d := by
  unfold spareRemap
  dsimp only
  split <;> simp

@[simp] theorem hardLine_view (d : Dev) (loc : Nat) : view Q U (hardLine d loc) = view Q U d := by
  unfold hardLine
  dsimp only
  (repeat' split) <;> simp

@[simp] theorem patchUpdate_view (d : Dev) (loc : Nat) (w : Stored) (dirty : Bool) : view Q U (patchUpdate d loc w dirty) = view Q U d := by
  unfold patchUpdate
  dsimp only
  (repeat' split) <;> simp

@[simp] theorem corrected_view (d : Dev) (page loc : Nat) (old new : Stored) (dirty : Bool) : view Q U (corrected d page loc old new dirty) = view Q U d := by
  unfold corrected
  dsimp only
  split <;> simp

@[simp] theorem trialDevices_view (d : Dev) (page addr loc : Nat) (w : Stored) : view Q U (trialDevices d page addr loc w) = view Q U d := by
  unfold trialDevices
  dsimp only
  (repeat' split) <;> simp

@[simp] theorem parityFresh_view (d : Dev) (page : Nat) (e : DWord) : view Q U (parityFresh d page e) = view Q U d := by
  unfold parityFresh
  split <;> simp

@[simp] theorem writeUnit_view (d : Dev) (page : Nat) (e : DWord) (i : Nat) (w : Stored) : view Q U (writeUnit d page e i w) = view Q U d := by
  unfold writeUnit
  (repeat' split) <;> simp

@[simp] theorem poisonUnit_view (d : Dev) (page : Nat) (e : DWord) (i : Nat) : view Q U (poisonUnit d page e i) = view Q U d := by
  simp [poisonUnit]

@[simp] theorem readUnit_view (d : Dev) (f : Finder) (p slate page : Nat) (e : DWord) (i : Nat) (w : Stored) (dirty : Bool) : view Q U (readUnit d f p slate page e i w dirty).1 = view Q U d := by
  have hw : ∀ (ws : List (Nat × Stored)) (d : Dev), view Q U (ws.foldl (fun d u => pushWrite d (unitLoc d page e u.1) u.2) d) = view Q U d :=
    foldl_view fun d u => pushWrite_view d _ _
  unfold readUnit
  extract_lets q loc addr line
  have hc : ∀ (c : Bool) (v : Stored), view Q U (if c then corrected d page loc w v dirty else d) = view Q U d := fun c v => by split <;> simp
  split
  · exact hc ..
  · exact hc ..
  · next step v c _ =>
    extract_lets d1 d2 d3 d4 bit
    have h2 : view Q U d2 = view Q U d1 := by unfold d2; split <;> simp
    have h4 : view Q U d4 = view Q U d3 := by unfold d4; split <;> simp
    have h : view Q U d4 = view Q U d := h4.trans ((rbump_view ..).trans (h2.trans (hc ..)))
    clear_value d4
    (repeat' split) <;> grind [raise_view, poisonUnit_view, addPoison_view]

@[simp] theorem putShare_view (d : Dev) (q lp : Nat) (e : DWord) : view Q U (putShare d q lp e) = view Q U d := rfl

/-! ## Map and Stage -/

@[simp] theorem setEntry_view (d : Dev) (page : Nat) (e : DWord) : view Q U (setEntry d page e) = view Q U d := by
  unfold setEntry
  dsimp only
  split <;> simp

@[simp] theorem setEntryThrough_view (d : Dev) (page : Nat) (e : DWord) : view Q U (setEntryThrough d page e) = view Q U d := by
  simp [setEntryThrough]

@[simp] theorem mapCheckFail_view (d : Dev) (page : Nat) : view Q U (mapCheckFail d page) = view Q U d := by
  unfold mapCheckFail
  dsimp only
  split <;> simp

@[simp] theorem mapTouch_view (d : Dev) (page : Nat) : view Q U (mapTouch d page) = view Q U d := by
  refine qmod_view _ _ fun s => ?_
  dsimp only
  (repeat' split) <;> rfl

@[simp] theorem addHeat_view (d : Dev) (page inc : Nat) : view Q U (addHeat d page inc) = view Q U d := by
  unfold addHeat
  dsimp only
  split <;> simp

@[simp] theorem heatSample_view (d : Dev) (page : Nat) (hit : Bool) (heatW : Nat) : view Q U (heatSample d page hit heatW) = view Q U d := by
  unfold heatSample
  dsimp only
  (repeat' split) <;> simp

@[simp] theorem endRun_view (d : Dev) (q frame : Nat) : view Q U (endRun d q frame) = view Q U d := qmod_view _ _ fun _ => rfl

theorem takeAny_view {d e : Dev} {q m : Nat} (h : takeAny d q = some (e, m)) : view Q U e = view Q U d := by
  unfold takeAny at h
  grind [bumpFree_view, endRun_view]

theorem takePage_view {d e : Dev} {page m : Nat} {bind : Bool} (h : takePage d page bind = some (e, m)) : view Q U e = view Q U d := by
  unfold takePage at h
  grind [bumpFree_view, qmod_view, takeAny_view]

@[simp] theorem setUse_view (d : Dev) (q mpn : Nat) (u : MUse) : view Q U (setUse d q mpn u) = view Q U d := qmod_view _ _ fun _ => rfl

@[simp] theorem freePlace_view (d : Dev) (page : Nat) (e : DWord) : view Q U (freePlace d page e) = view Q U d := by
  unfold freePlace
  dsimp only
  (repeat' split) <;> simp

@[simp] theorem stageMod_view (d : Dev) (line : Nat) (f : ASet SLine → ASet SLine) : view Q U (stageMod d line f) = view Q U d := qmod_view _ _ fun _ => rfl

@[simp] theorem stageDrop_view (d : Dev) (line : Nat) : view Q U (stageDrop d line) = view Q U d := by
  simp [stageDrop]

@[simp] theorem wbPush_view (d : Dev) (line : Nat) (data : Line) (cls : Option Nat) (keep : Bool) : view Q U (wbPush d line data cls keep) = view Q U d := qmod_view _ _ fun _ => rfl

theorem stagePut_view {d e : Dev} {line : Nat} {data : Line} {dirty : Bool} {cls : Option Nat} (h : stagePut d line data dirty cls = some e) : view Q U e = view Q U d := by
  unfold stagePut at h
  dsimp only at h
  (repeat' split at h) <;> simp at h <;> subst h <;> simp

@[simp] theorem stagePut_getD_view (d : Dev) (line : Nat) (data : Line) (dirty : Bool) (cls : Option Nat) :
    view Q U ((stagePut d line data dirty cls).getD d) = view Q U d := by
  cases h : stagePut d line data dirty cls with
  | none => rfl
  | some e => exact stagePut_view h

@[simp] theorem stageTouch_view (d : Dev) (line : Nat) : view Q U (stageTouch d line) = view Q U d := by
  unfold stageTouch
  split <;> simp

@[simp] theorem flipApply_view (d : Dev) (page : Nat) (loc : Nat) (w : Stored) : view Q U (flipApply d page loc w).1 = view Q U d := by
  unfold flipApply
  grind [raiseEvent_view, rput_view, qmod_view]

@[simp] theorem storeOpenLine_view (d : Dev) (line : Nat) (e : DWord) (plain : Line) : view Q U (storeOpenLine d line e plain) = view Q U d := by
  simp [storeOpenLine]

@[simp] theorem poisonLine_view (d : Dev) (line : Nat) (src : PSource) : view Q U (poisonLine d line src).1 = view Q U d := by
  unfold poisonLine
  dsimp only
  split <;> simp

@[simp] theorem settleMarks_view (d : Dev) (page : Nat) (e : DWord) : view Q U (settleMarks d page e) = view Q U d := by
  unfold settleMarks
  exact foldl_view (fun d i => poisonUnit_view d page e i) _ d

@[simp] theorem storePage_view (d : Dev) (page : Nat) (e : DWord) (lines : Nat → Line) : view Q U (storePage d page e lines) = view Q U d := by
  have hw := foldl_view (Q := Q) (U := U) (fun d i => pushWrite_view d (unitLoc d page e i) (lineWord d (page * 64 + i) (lines i))) (List.range 64) d
  unfold storePage
  dsimp only
  split
  · exact (parityFresh_view ..).trans hw
  · exact hw

@[simp] theorem frameWholeSet_view (d : Dev) (page : Nat) : view Q U (frameWholeSet d page) = view Q U d := by
  unfold frameWholeSet
  split
  · rfl
  · split
    · exact foldl_view (fun d p => setEntryThrough_view d p (withWhole (entryNow d p) true)) _ d
    · rfl

theorem bindStart_view {d e : Dev} {page : Nat} (h : bindStart d page = some e) : view Q U e = view Q U d := by
  unfold bindStart at h
  grind [qmod_view, storePage_view, setUse_view, takePage_view]

@[simp] theorem bindDone_view (d : Dev) (page mpn : Nat) : view Q U (bindDone d page mpn) = view Q U d := by
  simp [bindDone]

theorem bindNow_view {d e : Dev} {page : Nat} (h : bindNow d page = some e) : view Q U e = view Q U d := by
  unfold bindNow at h
  grind [bindDone_view, bindStart_view]

@[simp] theorem packedFail_view (d : Dev) (page n : Nat) : view Q U (packedFail d page n) = view Q U d := by
  unfold packedFail
  dsimp only
  split <;> simp

@[simp] theorem packedUnits_view (d : Dev) (f : Finder) (page : Nat) (e : DWord) : view Q U (packedUnits d f page e).1 = view Q U d := by
  unfold packedUnits
  refine foldl_fst_view (fun a i => ?_) _ _
  have h := readUnit_view (Q := Q) (U := U) a.1 f 0 0 page e i (wordAt a.1 (unitLoc a.1 page e i)) false
  dsimp only
  split <;> exact h

@[simp] theorem decodePacked_view (d : Dev) (f : Finder) (page : Nat) (e : DWord) : view Q U (decodePacked d f page e).1 = view Q U d := by
  have h := packedUnits_view (Q := Q) (U := U) d f page e
  unfold decodePacked
  grind

theorem unfailed_view (d : Dev) (q page : Nat) : view Q U (qmod d q fun s => { s with failedPages := s.failedPages.filter (· ≠ page) }) = view Q U d :=
  qmod_view _ _ fun _ => rfl

@[simp] theorem storeLine_view (d : Dev) (line : Nat) (data : Line) : view Q U (storeLine d line data) = view Q U d := by
  have hp : ∀ (d : Dev) (page : Nat) (e : DWord), view Q U ((List.range 64).foldl (fun d i => poisonUnit d page e i) d) = view Q U d :=
    fun d page e => foldl_view (fun d i => poisonUnit_view d page e i) _ d
  unfold storeLine
  extract_lets page toOpen e
  have hopen : ∀ d : Dev, view Q U (toOpen d) = view Q U d := by
    intro d
    unfold toOpen
    dsimp only
    split
    · exact (stagePut_view ‹_›).trans (dropPoison_view ..)
    · exact (storeOpenLine_view ..).trans (dropPoison_view ..)
  clear_value toOpen
  split
  · exact hopen d
  · exact stagePut_getD_view ..
  · split
    · exact (hopen _).trans (bindNow_view ‹_›)
    · exact poisonLine_view ..
  · split
    · exact poisonLine_view ..
    · rename_i d1 mpn htake
      have h1 : view Q U d1 = view Q U d := by
        split at htake
        · exact takePage_view htake
        · cases htake
      have h2 := decodePacked_view (Q := Q) (U := U) d1 .dolly page e
      rw [hopen, unfailed_view, settleMarks_view, freePlace_view, setEntry_view]
      split
      · rw [storePage_view, setUse_view]
        split
        · exact (packedFail_view ..).trans (h2.trans h1)
        · exact h2.trans h1
      · rw [addPoison_view, hp, setUse_view]
        split
        · exact (packedFail_view ..).trans (h2.trans h1)
        · exact h2.trans h1

/-! ## Counters and packets -/

@[simp] theorem countUp_view (d : Dev) (key n : Nat) : view Q U (countUp d key n) = view Q U d := rfl

@[simp] theorem countHost_view (d : Dev) (p t n : Nat) : view Q U (countHost d p t n) = view Q U d := rfl

@[simp] theorem countClass_view (d : Dev) (c t n : Nat) : view Q U (countClass d c t n) = view Q U d := rfl

@[simp] theorem countSet_view (d : Dev) (slate t n : Nat) : view Q U (countSet d slate t n) = view Q U d := by
  unfold countSet
  split <;> simp

@[simp] theorem countBw_view (d : Dev) (port : Nat) (out : Bool) (n : Nat) : view Q U (countBw d port out n) = view Q U d := by
  unfold countBw
  split <;> simp

@[simp] theorem mwtErr_view (d : Dev) (b cause op src dst : Nat) : view Q U (mwtErr d b cause op src dst) = view Q U d := by
  unfold mwtErr
  split <;> simp

@[simp] theorem mwtRaise_view (d : Dev) (b bit cause op src dst : Nat) : view Q U (mwtRaise d b bit cause op src dst) = view Q U d := by
  simp [mwtRaise]

@[simp] theorem noRoute_view (d : Dev) (b op src dst : Nat) : view Q U (noRoute d b op src dst) = view Q U d := by
  simp [noRoute]

theorem queueTx_view {d e : Dev} {slots : List (BitVec 128)} (h : queueTx d slots = some e) : view Q U e = view Q U d := by
  unfold queueTx at h
  grind [send_view, mportMod_view, raiseEvent_view]

@[simp] theorem mwSend_view (d : Dev) (dst op slate tag high : Nat) (payload : List (BitVec 128)) : view Q U (mwSend d dst op slate tag high payload) = view Q U d := by
  unfold mwSend
  split
  · exact queueTx_view ‹_›
  · simp

theorem mwRequest_view {d e : Dev} {dst op slate high : Nat} {payload : List (BitVec 128)} {use : TagFor}
    (h : mwRequest d dst op slate high payload use = some e) : view Q U e = view Q U d := by
  unfold mwRequest at h
  dsimp only at h
  split at h
  · cases h
  · simp only [Option.some.injEq] at h
    subst h
    split <;> simp

@[simp] theorem mwRequest_getD_view (d : Dev) (dst op slate high : Nat) (payload : List (BitVec 128)) (use : TagFor) :
    view Q U ((mwRequest d dst op slate high payload use).getD d) = view Q U d := by
  cases h : mwRequest d dst op slate high payload use with
  | none => rfl
  | some e => exact mwRequest_view h

/-! ## Answers -/

@[simp] theorem freeLine_view (d : Dev) : view Q U (freeLine d).1 = view Q U d := rfl

@[simp] theorem ioPart_view (d : Dev) (p : Fin 16) (tag line : Nat) (bytes : List Byte) (poison : Bool) : view Q U (ioPart d p tag line bytes poison) = view Q U d := by
  unfold ioPart
  dsimp only
  (repeat' split) <;> simp

@[simp] theorem mwAnswer_view (d : Dev) (b dev tag code slate status : Nat) (data : Option Line) (grant : Nat) (orig : BitVec 128) : view Q U (mwAnswer d b dev tag code slate status data grant orig) = view Q U d := by
  unfold mwAnswer
  (repeat' split) <;> simp

@[simp] theorem ringInterrupt_view (d : Dev) (q ring : Nat) : view Q U (ringInterrupt d q ring) = view Q U d := by
  unfold ringInterrupt
  dsimp only
  (repeat' split) <;> simp

@[simp] theorem respondRead_view (d : Dev) (r : Req) (x : Option Line) : view Q U (respondRead d r x) = view Q U d := by
  unfold respondRead
  dsimp only
  (repeat' split) <;> simp

@[simp] theorem respondWrite_view (d : Dev) (r : Req) (status : Nat) : view Q U (respondWrite d r status) = view Q U d := by
  unfold respondWrite
  (repeat' split) <;> simp

@[simp] theorem respondAtomic_view (d : Dev) (r : Req) (orig : BitVec 128) (poison : Bool) : view Q U (respondAtomic d r orig poison) = view Q U d := by
  unfold respondAtomic
  (repeat' split) <;> simp

@[simp] theorem respondRefused_view (d : Dev) (r : Req) (status : Nat) : view Q U (respondRefused d r status) = view Q U d := by
  unfold respondRefused
  dsimp only
  (repeat' split) <;> simp

@[simp] theorem dirPut_view (d : Dev) (line : Nat) (e : DEnt) : view Q U (dirPut d line e) = view Q U d := qmod_view _ _ fun _ => rfl

@[simp] theorem transMod_view (d : Dev) (line : Nat) (f : Trans → Trans) : view Q U (transMod d line f) = view Q U d := qmod_view _ _ fun _ => rfl

@[simp] theorem transDel_view (d : Dev) (line : Nat) : view Q U (transDel d line) = view Q U d := qmod_view _ _ fun _ => rfl

@[simp] theorem closeFor_view (d : Dev) (r : Req) : view Q U (closeFor d r) = view Q U d := by
  unfold closeFor
  split <;> simp

@[simp] theorem finishRead_view (d : Dev) (r : Req) (x : Option Line) (hit : Bool) : view Q U (finishRead d r x hit) = view Q U d := by
  unfold finishRead
  dsimp only
  (repeat' split) <;> simp

@[simp] theorem finishWrite_view (d : Dev) (r : Req) (hit : Bool) : view Q U (finishWrite d r hit) = view Q U d := by
  unfold finishWrite
  split <;> simp

@[simp] theorem finishAtomic_view (d : Dev) (r : Req) (orig : BitVec 128) (poison hit : Bool) : view Q U (finishAtomic d r orig poison hit) = view Q U d := by
  simp [finishAtomic]

@[simp] theorem finishLost_view (d : Dev) (r : Req) : view Q U (finishLost d r) = view Q U d := by
  unfold finishLost
  split <;> simp

@[simp] theorem park_view (d : Dev) (r : Req) (w : Wait) : view Q U (park d r w) = view Q U d := rfl

theorem portGate_view {d e : Dev} {p c b : Nat} (h : portGate d p c b = some e) : view Q U e = view Q U d := by
  have hr : ∀ (d : Dev) (g : Tab Gate), view Q U { d with reg := { d.reg with ports := g } } = view Q U d := fun _ _ => rfl
  unfold portGate at h
  grind [countClass_view]

/-! ## Moves -/

@[simp] theorem journalIdle_view (d : Dev) (q : Nat) : view Q U (journalIdle d q) = view Q U d := qmod_view _ _ fun _ => rfl

@[simp] theorem forgetAsked_view (d : Dev) (q : Nat) : view Q U (forgetAsked d q) = view Q U d := rfl

@[simp] theorem abandonMove_view (d : Dev) (q : Nat) (cool : Bool) : view Q U (abandonMove d q cool) = view Q U d := by
  unfold abandonMove
  dsimp only
  (repeat' split) <;> simp

@[simp] theorem urgentPromote_view (d : Dev) (page : Nat) : view Q U (urgentPromote d page) = view Q U d := by
  unfold urgentPromote
  split
  · simp
  · refine qmod_view _ _ fun s => ?_
    split <;> rfl

/-! ## The home -/

@[simp] theorem mapLookup_view (d : Dev) (r : Req) : view Q U (mapLookup d r).1 = view Q U d := by
  unfold mapLookup
  dsimp only
  (repeat' split) <;> simp

theorem fillStage_view {d e : Dev} {r : Req} {x : Line} {dirty : Bool} (h : fillStage d r x dirty = some e) : view Q U e = view Q U d := by
  unfold fillStage at h
  grind [stagePut_view]

@[simp] theorem serveData_view (d : Dev) (r : Req) (x : Option Line) (hit : Bool) : view Q U (serveData d r x hit) = view Q U d := by
  unfold serveData
  grind [finishRead_view, finishWrite_view, finishAtomic_view, finishLost_view, fillStage_view, stagePut_view, storeOpenLine_view, park_view]

@[simp] theorem wordServe_view (d : Dev) (r : Req) (w : Stored) : view Q U (wordServe d r w) = view Q U d := by
  unfold wordServe
  dsimp only
  (repeat' split) <;> simp

@[simp] theorem wordArrived_view (d : Dev) (r : Req) (w : Stored) : view Q U (wordArrived d r w) = view Q U d := by
  unfold wordArrived
  dsimp only
  split <;> simp

@[simp] theorem panicSettle_view (d : Dev) (u : Nat) : view Q U (panicSettle d u) = view Q U d := by
  unfold panicSettle
  dsimp only
  (repeat' split) <;> simp

@[simp] theorem markDecode_view (d : Dev) (q : Nat) : view Q U (markDecode d q) = view Q U d := by
  unfold markDecode
  dsimp only
  (repeat' split) <;> simp

@[simp] theorem askPeer_view (d : Dev) (r : Req) (code : Nat) : view Q U (askPeer d r code) = view Q U d := by
  unfold askPeer
  grind [mwRequest_view, transMod_view, park_view]

@[simp] theorem writePacked_view (d : Dev) (r : Req) : view Q U (writePacked d r) = view Q U d := by
  unfold writePacked
  dsimp only
  (repeat' split) <;> simp

@[simp] theorem writeSpan_view (d : Dev) (r : Req) : view Q U (writeSpan d r) = view Q U d := by
  unfold writeSpan
  grind [askPeer_view, stagePut_view, finishWrite_view, park_view, serveData_view, addPoison_view, stageDrop_view]

@[simp] theorem aboveEdge_view (d : Dev) (r : Req) : view Q U (aboveEdge d r) = view Q U d := by
  unfold aboveEdge
  split <;> simp

/-! ## The directory -/

@[simp] theorem perr_view (d : Dev) (cause st agent line : Nat) : view Q U (perr d cause st agent line) = view Q U d := by
  unfold perr
  dsimp only
  split <;> simp

@[simp] theorem staleHit_view (d : Dev) (line : Nat) : view Q U (staleHit d line) = view Q U d := rfl

@[simp] theorem snoopAgent_view (d : Dev) (line agent : Nat) (e : DEnt) (how fwdDst fwdTag : Nat) : view Q U (snoopAgent d line agent e how fwdDst fwdTag).1 = view Q U d := by
  unfold snoopAgent
  split
  · split <;> simp
  · split
    · exact qmod_view _ _ fun _ => rfl
    · exact foldl_view (fun d p => mwRequest_getD_view d p (0x50 + how) 0 _ [] (.span line)) _ d

@[simp] theorem snoopAll_view (d : Dev) (line : Nat) (agents : List Nat) (e : DEnt) (how fwdDst fwdTag : Nat) : view Q U (snoopAll d line agents e how fwdDst fwdTag).1 = view Q U d := by
  unfold snoopAll
  refine foldl_fst_view (fun a g => ?_) agents _
  exact snoopAgent_view a.1 line g e how fwdDst fwdTag

@[simp] theorem grantClose_view (d : Dev) (t : Trans) : view Q U (grantClose d t) = view Q U d := by
  unfold grantClose
  split <;> simp

/-! ## Links that go down -/

@[simp] theorem cmod_view (d : Dev) (q : Nat) (f : Cluster → Cluster) : view Q U (cmod d q f) = view Q U d := qmod_view _ _ fun _ => rfl

@[simp] theorem setLane_view (d : Dev) (q l : Nat) (j : Option Job) : view Q U (setLane d q l j) = view Q U d := cmod_view ..

@[simp] theorem spanLost_view (d : Dev) (line : Nat) : view Q U (spanLost d line) = view Q U d := by
  unfold spanLost
  exact (foldl_view (fun d (w : Waiting) => finishLost_view d w.req) _ _).trans (transMod_view ..)

@[simp] theorem xferFail_view (d : Dev) (q lane status : Nat) : view Q U (xferFail d q lane status) = view Q U d := by
  unfold xferFail
  split <;> simp

@[simp] theorem linkTry_view (d : Dev) (b : Nat) : view Q U (linkTry d b) = view Q U d := by
  unfold linkTry
  split <;> simp

/-! ## Flushes -/

@[simp] theorem writeBackOpen_view (d : Dev) (line : Nat) (data : Line) : view Q U (writeBackOpen d line data) = view Q U d := by
  unfold writeBackOpen
  dsimp only
  split <;> simp

@[simp] theorem flushLine_view (d : Dev) (how : FlushHow) (line : Nat) (data : Line) : view Q U (flushLine d how line data).1 = view Q U d := by
  unfold flushLine
  grind [poisonLine_view, writeBackOpen_view, mwRequest_view]

@[simp] theorem flushStage_view (d : Dev) (q : Nat) (how : FlushHow) : view Q U (flushStage d q how).1 = view Q U d := by
  unfold flushStage
  dsimp only
  rw [qmod_view _ _ (by intro; rfl)]
  refine foldl_fst_view (fun a l => ?_) (dirtyLines (quad d q)) (d, true)
  exact flushLine_view a.1 how l.1 l.2

@[simp] theorem drainSub_view (d : Dev) (u : Nat) : view Q U (drainSub d u) = view Q U d := by
  unfold drainSub
  refine (foldl_view (fun d e => ?_) _ _).trans (umod_view _ _ (by intro; rfl))
  exact dramWrite_view ..

@[simp] theorem flushMap_view (d : Dev) (q : Nat) : view Q U (flushMap d q) = view Q U d := by
  unfold flushMap
  generalize List.range 512 = is
  refine foldl_view (fun d e => ?_) _ d
  split
  · split
    · exact putShare_view ..
    · rfl
  · split
    · refine foldl_view (fun d i => ?_) is d
      dsimp only
      split
      · rfl
      · exact putShare_view ..
    · rfl

@[simp] theorem flushQuad_view (d : Dev) (q : Nat) (how : FlushHow) : view Q U (flushQuad d q how).1 = view Q U d := by
  unfold flushQuad
  dsimp only
  split
  · simp
  · exact (with_flt_view _ _).trans (by simp)

@[simp] theorem closeBanks_view (d : Dev) (u : Nat) : view Q U (closeBanks d u) = view Q U d := rfl

@[simp] theorem subsToSleep_view (d : Dev) : view Q U (subsToSleep d) = view Q U d := by
  unfold subsToSleep
  refine foldl_view (fun d u => ?_) _ d
  rw [umod_view _ _ (by intro; rfl), closeBanks_view]
  split <;> simp

@[simp] theorem flushAllQuads_view (d : Dev) (how : FlushHow) : view Q U (flushAllQuads d how).1 = view Q U d := by
  unfold flushAllQuads
  refine foldl_fst_view (fun a q => ?_) _ _
  grind [flushQuad_view]

@[simp] theorem directoryPoison_view (d : Dev) (q : Nat) : view Q U (directoryPoison d q) = view Q U d := by
  unfold directoryPoison
  refine foldl_view (fun d e => ?_) _ d
  exact poisonLine_view d e.1 .internal

@[simp] theorem warmFlush_view (d : Dev) : view Q U (warmFlush d) = view Q U d := by
  have hd := foldl_view (Q := Q) (U := U) (f := fun d q => if quadFenced d q then d else directoryPoison d q) (fun d q => by grind [directoryPoison_view]) (List.range 4) d
  unfold warmFlush
  grind [subsToSleep_view, flushAllQuads_view]

end

/-! ## What takes at most a charge and a read -/

/-- What a gate's charge, a read that enters a queue behind it, and reads that leave a queue take from a property of the view at most: it
held before. -/
structure Back (P : View → Prop) (Q U : Nat) : Prop where
  gate : ∀ {d e : Dev} {q c b : Nat}, b ≤ 4096 → dramGate d q c b = some e → P (view Q U e) → P (view Q U d)
  read : ∀ {d e : Dev} {r : Req} {w : DWord}, dramGate d (homeOf (pageOfLine r.line)) r.cls 64 = some e → P (view Q U (dramRead e r w)) → P (view Q U d)
  drop : ∀ {d : Dev} {u : Nat} {f : Sub → Sub}, (∀ s, (f s).rq ⊆ s.rq) → P (view Q U (umod d u f)) → P (view Q U d)

theorem slotCount_lt (e : DWord) : slotCount e < 16 := Nat.mod_lt _ (by decide)

/-- A fold of steps that take at most a property keeps that. -/
theorem foldl_back {P : View → Prop} {Q U : Nat} {α : Type} {f : Dev → α → Dev} (h : ∀ d x, P (view Q U (f d x)) → P (view Q U d)) (l : List α) (d : Dev) :
    P (view Q U (l.foldl f d)) → P (view Q U d) := by
  induction l generalizing d with
  | nil => exact id
  | cons x l ih => exact fun hl => h d x (ih _ hl)

section
variable {P : View → Prop} {Q U : Nat} (hP : Back P Q U)
include hP

theorem packedRead_back (d : Dev) (r : Req) (e : DWord) : P (view Q U (packedRead d r e false)) → P (view Q U d) := by
  have hb : 256 * slotCount e ≤ 4096 := by
    have := slotCount_lt e
    omega
  unfold packedRead
  dsimp only
  (repeat' split) <;> simp
  exact hP.gate hb ‹_›

theorem homeRead_back (d : Dev) (r : Req) : P (view Q U (homeRead d r false)) → P (view Q U d) := by
  have hp := packedRead_back hP
  have hr := @hP.read
  unfold homeRead
  grind [finishRead_view, finishLost_view, mapCheckFail_view, stageTouch_view, serveData_view, mapLookup_view, askPeer_view, park_view]

theorem writeOpen_back (d : Dev) (r : Req) (e : DWord) : P (view Q U (writeOpen d r e false)) → P (view Q U d) := by
  have hg : ∀ {d e : Dev} {q c : Nat}, dramGate d q c 64 = some e → P (view Q U e) → P (view Q U d) := fun h => hP.gate (by decide) h
  have hr := @hP.read
  unfold writeOpen
  grind [poisonLine_view, finishWrite_view, stagePut_view, dropPoison_view, park_view, storeOpenLine_view, stageTouch_view, serveData_view, finishLost_view]

theorem homeWrite_back (d : Dev) (r : Req) : P (view Q U (homeWrite d r false)) → P (view Q U d) := by
  unfold homeWrite
  extract_lets page q
  split
  · simp
  · have hm := mapLookup_view (Q := Q) (U := U) d r
    split
    · next h =>
      rw [h] at hm
      exact fun hp => hm ▸ hp
    · next e x h =>
      rw [h] at hm
      rw [← hm]
      split
      · simp
      · split
        · split
          · simp
          · split
            · next hb => simp [bindStart_view hb]
            · simp
        · dsimp only
          intro hw
          have hw := writeOpen_back hP _ _ _ hw
          split at hw
          · split at hw
            · simpa using hw
            · exact hw
          · exact hw
        · simp
        · simp

theorem atHome_back (d : Dev) (r : Req) : P (view Q U (atHome d r false)) → P (view Q U d) := by
  have h1 := homeRead_back hP d r
  have h2 := homeWrite_back hP d r
  unfold atHome
  split
  · simp
  · split
    · exact h1
    · exact h2
    · exact h2
    · exact h2
    · exact h2
    · simp

/-! ## The directory -/

theorem transNext_back (d : Dev) (line : Nat) : P (view Q U (transNext d line)) → P (view Q U d) := by
  have h1 := homeRead_back hP
  have h2 := atHome_back hP
  unfold transNext
  grind [transMod_view, grantClose_view]

theorem dirStart_back (d : Dev) (r : Req) (e : DEnt) : P (view Q U (dirStart d r e)) → P (view Q U d) := by
  have hs : ∀ (d : Dev) (l : List Nat), view Q U (l.foldl (fun d a => dirPut d r.line { dirEnt d r.line with vector := (dirEnt d r.line).vector &&& ~~~(agentBit a) }) d) = view Q U d :=
    fun d l => foldl_view (fun d a => dirPut_view d r.line _) l d
  have h1 := transNext_back hP
  have h2 := homeRead_back hP
  have h3 := atHome_back hP
  unfold dirStart
  extract_lets own d1 others openT owned gate local_ owner ownerPort
  have hd : view Q U d1 = view Q U d := by unfold d1; split <;> simp
  have ho : ∀ d st w ps, view Q U (openT d st w ps) = view Q U d := fun _ _ _ _ => qmod_view _ _ (by intro; rfl)
  clear_value d1 openT
  grind [dirPut_view, snoopAgent_view, snoopAll_view, grantClose_view, askPeer_view, with_tags_view]

theorem evictDone_back (d : Dev) (r : Req) (victim : Nat) : P (view Q U (evictDone d r victim)) → P (view Q U d) := by
  unfold evictDone
  extract_lets e ent dirty pay d0 d1 swap d2
  have h1 : view Q U d1 = view Q U d := by
    unfold d1
    split
    · rfl
    · rw [stageDrop_view]
      exact mwRequest_getD_view ..
  have h2 : view Q U d2 = view Q U d1 := qmod_view _ _ (by intro; rfl)
  intro h
  rw [← h1, ← h2]
  exact dirStart_back hP _ _ _ h

theorem snoopAnswer_back (d : Dev) (line agent peer : Nat) (keepS miss fwd : Bool) (data : Option Line) :
    P (view Q U (snoopAnswer d line agent peer keepS miss fwd data)) → P (view Q U d) := by
  have hn := transNext_back hP
  have he := evictDone_back hP
  unfold snoopAnswer
  split
  · simp
  · rename_i t _
    split
    · simp
    · extract_lets inv fwdE e d1 d2 ps rest gone d3 upd d4
      have h1 : view Q U d1 = view Q U d := by unfold d1; split <;> simp
      have h2 : view Q U d2 = view Q U d1 := by unfold d2; split <;> simp
      have h3 : view Q U d3 = view Q U d2 := by unfold d3; split <;> simp
      have h4 : view Q U d4 = view Q U d := (qmod_view _ _ (by intro; rfl)).trans (h3.trans (h2.trans h1))
      clear_value d4
      have hi : ∀ (c : Prop) [Decidable c], P (view Q U (if c then transNext d4 t.line else d4)) → P (view Q U d) := fun c _ => by
        split
        · exact fun h => h4 ▸ hn _ _ h
        · exact fun h => h4 ▸ h
      split
      · simp
      · split
        · simp
        · split
          · exact fun h => h4 ▸ h
          · split
            · exact fun h => h4 ▸ he _ _ _ h
            · split
              · split
                · simp [h4]
                · exact hi _
              · exact fun h => h4 ▸ hn _ _ h
            · exact fun h => h4 ▸ hn _ _ h

theorem unanswered_back (d : Dev) (line agent : Nat) : P (view Q U (unanswered d line agent)) → P (view Q U d) := by
  unfold unanswered
  split
  · exact id
  · split
    · exact id
    · extract_lets e lost d1 upd d2 d3
      have h1 : view Q U d1 = view Q U d := by unfold d1; split <;> simp
      have h2 : view Q U d2 = view Q U d1 := qmod_view _ _ (by intro; rfl)
      have h3 : view Q U d3 = view Q U d2 := by
        unfold d3
        split
        · exact qmod_view _ _ (by intro; rfl)
        · rfl
      intro h
      rw [← h1, ← h2, ← h3]
      exact snoopAnswer_back hP _ _ _ _ _ _ _ _ h

theorem unansweredAll_back (d : Dev) (agent : Nat) : P (view Q U (unansweredAll d agent)) → P (view Q U d) := by
  unfold unansweredAll
  exact foldl_back (fun d l => unanswered_back hP d l agent) _ d

/-! ## Links that go down -/

theorem hostDown_back (d : Dev) (p : Nat) : P (view Q U (hostDown d p)) → P (view Q U d) := by
  unfold hostDown
  split
  · exact id
  · intro h
    simp only [raise_view, raiseEvent_view] at h
    have h := unansweredAll_back hP _ _ h
    rwa [send_view, with_waits_ioReads_view, portMod_view] at h

theorem peerUnanswered_back (d : Dev) (line peer : Nat) : P (view Q U (peerUnanswered d line peer)) → P (view Q U d) := by
  unfold peerUnanswered
  split
  · exact id
  · split
    · exact id
    · split
      · exact unanswered_back hP _ _ _
      · exact snoopAnswer_back hP _ _ _ _ _ _ _ _

theorem forwardLost_back (d : Dev) (line : Nat) : P (view Q U (forwardLost d line)) → P (view Q U d) := by
  unfold forwardLost
  split
  · exact id
  · split
    · exact id
    · intro h
      exact (transMod_view (Q := Q) (U := U) d line _) ▸ transNext_back hP _ _ h

theorem tagTimeout_back (d : Dev) (t : Nat) : P (view Q U (tagTimeout d t)) → P (view Q U d) := by
  have h1 := forwardLost_back hP
  have h2 := peerUnanswered_back hP
  unfold tagTimeout
  grind [mwtRaise_view, rbump_view, spanLost_view, abandonMove_view, xferFail_view, with_tags_view]

theorem lostAsHome_back (d : Dev) (peer : Nat) : P (view Q U (lostAsHome d peer)) → P (view Q U d) := by
  have h2 := peerUnanswered_back hP
  unfold lostAsHome
  refine foldl_back (fun d e => ?_) _ d
  grind [dirPut_view, poisonLine_view]

theorem lostAsHolder_back (d : Dev) (peer : Nat) : P (view Q U (lostAsHolder d peer)) → P (view Q U d) := by
  have h2 := dirStart_back hP
  unfold lostAsHolder
  refine foldl_back (fun d e => ?_) _ d
  grind [dirPut_view, stageDrop_view, with_nextId_view]

theorem peerLost_back (d : Dev) (b peer : Nat) : P (view Q U (peerLost d b peer)) → P (view Q U d) := by
  unfold peerLost
  dsimp only
  intro h
  have h := foldl_back (tagTimeout_back hP) _ _ (lostAsHome_back hP _ _ (lostAsHolder_back hP _ _ h))
  simpa using h

theorem mwDown_back (d : Dev) (b : Nat) (down : Bool) : P (view Q U (mwDown d b down)) → P (view Q U d) := by
  unfold mwDown
  extract_lets m d0 before fresh d1 d2 d3 snoops d4 after d5
  have h0 : view Q U d0 = view Q U d := by unfold d0; split <;> simp
  clear_value d0
  have h2 : view Q U d2 = view Q U d0 := with_mwKeys_view d1 _
  have h3 : view Q U d3 = view Q U d2 := by
    unfold d3
    split
    · exact raise_view ..
    · rfl
  clear_value d3
  have h4 : P (view Q U d4) → P (view Q U d3) := by
    have h1 := forwardLost_back hP
    have h2 := peerUnanswered_back hP
    refine foldl_back (fun d e => ?_) _ d3
    grind [with_tags_view]
  have h5 : P (view Q U d5) → P (view Q U d4) := foldl_back (fun d p => peerLost_back hP d b p) _ d4
  split
  · exact id
  · intro h
    rw [linkTry_view] at h
    rw [← h0, ← h2, ← h3]
    exact h4 (h5 h)

theorem brickDown_back (d : Dev) (b : Nat) : P (view Q U (brickDown d b)) → P (view Q U d) := by
  unfold brickDown
  split
  · exact mwDown_back hP d b true
  · exact foldl_back (hostDown_back hP) _ d

theorem allLinksDown_back (d : Dev) : P (view Q U (allLinksDown d)) → P (view Q U d) := by
  unfold allLinksDown
  exact fun h => foldl_back (hostDown_back hP) _ d (foldl_back (fun d b => mwDown_back hP d b true) _ _ h)

end
/-! ## The gate of a quadrant and the read queue behind it -/

/-- A charge where the Oversubscribed state holds what has no tokens. -/
theorem gateCharge_tight {g g' : Gate} {w c b : Nat} {x : Bool} (h : gateCharge g true w c b = some (g', x)) :
    0 < tabGet 0 g.tokens c ∧ g'.tokens = tabPut 0 g.tokens c (tabGet 0 g.tokens c - b) := by
  unfold gateCharge at h
  dsimp only at h
  split at h
  · next ht =>
    simp only [Option.some.injEq, Prod.mk.injEq] at h
    exact ⟨ht, by rw [← h.1]⟩
  · cases h

theorem dramGate_view {Q U : Nat} {d e : Dev} {q c b : Nat} (h : dramGate d q c b = some e) : ∃ g, view Q U e = { view Q U d with gate := g }
    ∧ (q ≠ Q → g = (view Q U d).gate) ∧ (q = Q → ∃ w x, gateCharge (view Q U d).gate (view Q U d).tight w c b = some (g, x)) := by
  unfold dramGate at h
  split at h
  · cases h
  · next g x hg =>
    have he : view Q U e = view Q U (qmod d q fun s => { s with gate := g }) := by
      simp only [Option.some.injEq] at h
      rw [← h]
      split
      · rw [countClass_view, countClass_view]
      · rw [countClass_view]
    rw [he]
    by_cases hq : q = Q
    · subst hq
      refine ⟨g, ?_, fun hn => absurd rfl hn, fun _ => ⟨_, x, hg⟩⟩
      unfold view
      rw [quad_qmod_self]
      rfl
    · refine ⟨(view Q U d).gate, ?_, fun _ => rfl, fun h => absurd h hq⟩
      unfold view
      rw [quad_qmod_ne _ _ (Ne.symm hq)]
      rfl

/-- A read at most enters the queue. -/
theorem dramRead_view {Q U : Nat} (d : Dev) (r : Req) (w : DWord) : view Q U (dramRead d r w) = view Q U d
    ∨ ∃ y : RdEnt, y.purpose = .req r ∧ view Q U (dramRead d r w) = { view Q U d with reads := (view Q U d).reads ++ [y] } := by
  unfold dramRead
  extract_lets page loc u s
  split
  · exact .inl (serveData_view ..)
  · split
    · exact .inl (park_view ..)
    · split
      · exact .inl (wordArrived_view ..)
      · split
        · rw [panicSettle_view]
          by_cases hu : u = U
          · refine .inr ⟨{ loc, line := r.line, purpose := .req r, panic := r.panic }, rfl, ?_⟩
            unfold view
            subst hu
            rw [subc_umod_self]
            rfl
          · refine .inl ?_
            unfold view
            rw [subc_umod_ne _ _ (Ne.symm hu)]
            rfl
        · exact .inl (park_view ..)

/-- A request that its quadrant's DRAM gate holds stands in the read queue all the same: it entered before the gate was shut. -/
def Trapped (x : Req) (v : View) : Prop := (v.tight = true ∧ tabGet 0 v.gate.tokens x.cls < -4095) ∧ ∃ y ∈ v.reads, y.purpose = .req x

/-- The power state stays under whatever takes at most the property that it does not stand as it does. -/
theorem back_pwr (p : Pwr) (Q U : Nat) : Back (fun v => v.pwr ≠ p) Q U where
  gate _ h hp := by
    obtain ⟨g, he, -⟩ := dramGate_view (Q := Q) (U := U) h
    rwa [he] at hp
  read {d e r w} h hp := by
    obtain ⟨g, he, -⟩ := dramGate_view (Q := Q) (U := U) h
    rcases dramRead_view (Q := Q) (U := U) e r w with hr | ⟨y, -, hr⟩
    · rwa [hr, he] at hp
    · rwa [hr, he] at hp
  drop _ hp := hp

/-- No gate is shut by a charge of 4096 bytes at most that it let through. -/
theorem shut_gate {Q U : Nat} {d e : Dev} {q c b k : Nat} (hb : b ≤ 4096) (h : dramGate d q c b = some e) (ht : (view Q U e).tight = true)
    (hk : tabGet 0 (view Q U e).gate.tokens k < -4095) : (view Q U d).tight = true ∧ tabGet 0 (view Q U d).gate.tokens k < -4095 ∧ (q = Q → c ≠ k) := by
  obtain ⟨g, he, hne, heq⟩ := dramGate_view (Q := Q) (U := U) h
  rw [he] at ht hk
  refine ⟨ht, ?_⟩
  by_cases hq : q = Q
  · obtain ⟨w, x, hc⟩ := heq hq
    rw [ht] at hc
    obtain ⟨hpos, hg⟩ := gateCharge_tight hc
    dsimp only at hk
    rw [hg] at hk
    by_cases hck : c = k
    · subst hck
      rw [tabGet_tabPut_self] at hk
      omega
    · rw [tabGet_tabPut_ne _ _ _ _ (Ne.symm hck)] at hk
      exact ⟨hk, fun _ => hck⟩
  · rw [← hne hq]
    exact ⟨hk, fun h => absurd h hq⟩

theorem back_trapped (x : Req) (U : Nat) : Back (Trapped x) (homeOf (pageOfLine x.line)) U where
  gate hb h hp := by
    obtain ⟨⟨ht, hk⟩, hy⟩ := hp
    obtain ⟨g, he, -⟩ := dramGate_view (Q := homeOf (pageOfLine x.line)) (U := U) h
    obtain ⟨h1, h2, -⟩ := shut_gate hb h ht hk
    rw [he] at hy
    exact ⟨⟨h1, h2⟩, hy⟩
  read {d e r w} h hp := by
    obtain ⟨g, he, -⟩ := dramGate_view (Q := homeOf (pageOfLine x.line)) (U := U) h
    rcases dramRead_view (Q := homeOf (pageOfLine x.line)) (U := U) e r w with hr | ⟨z, hz, hr⟩
    · rw [hr] at hp
      obtain ⟨⟨ht, hk⟩, hy⟩ := hp
      obtain ⟨h1, h2, -⟩ := shut_gate (by decide) h ht hk
      rw [he] at hy
      exact ⟨⟨h1, h2⟩, hy⟩
    · rw [hr] at hp
      obtain ⟨⟨ht, hk⟩, y, hy, hyx⟩ := hp
      obtain ⟨h1, h2, hne⟩ := shut_gate (by decide) h ht hk
      refine ⟨⟨h1, h2⟩, y, ?_, hyx⟩
      rcases List.mem_append.1 hy with hy | hy
      · rw [he] at hy
        exact hy
      · rw [List.mem_singleton] at hy
        rw [hy, hz] at hyx
        cases hyx
        exact absurd rfl (hne rfl)
  drop {d u f} hf hp := by
    obtain ⟨hs, y, hy, hyx⟩ := hp
    refine ⟨hs, y, ?_, hyx⟩
    by_cases hu : U = u
    · subst hu
      change y ∈ (subc (umod d U f) U).rq at hy
      rw [subc_umod_self] at hy
      exact hf _ hy
    · change y ∈ (subc (umod d u f) U).rq at hy
      rw [subc_umod_ne _ _ hu] at hy
      exact hy

/-! ## The power state -/

section
variable {d : Dev}

/-- What takes at most a property of the view leaves the power state. -/
theorem pwr_of_back {e : Dev} (h : ∀ P : View → Prop, Back P 0 0 → P (view 0 0 e) → P (view 0 0 d)) : e.pwr = d.pwr :=
  Classical.byContradiction fun hn => h _ (back_pwr d.pwr 0 0) hn rfl

theorem brickDown_pwr (b : Nat) : (brickDown d b).pwr = d.pwr := pwr_of_back fun _ hP => brickDown_back hP d b

theorem allLinksDown_pwr : (allLinksDown d).pwr = d.pwr := pwr_of_back fun _ hP => allLinksDown_back hP d

/-- What leaves the view leaves the power state. -/
theorem pwr_of_view {e : Dev} (h : view 0 0 e = view 0 0 d) : e.pwr = d.pwr := by
  have hp := congrArg View.pwr h
  unfold view at hp
  exact hp

theorem linkTry_pwr (b : Nat) : (linkTry d b).pwr = d.pwr := pwr_of_view (linkTry_view d b)

theorem warmFlush_pwr : (warmFlush d).pwr = d.pwr := pwr_of_view (warmFlush_view d)

@[simp] theorem raise0_pwr (b : Block) (bit : Nat) : (raise0 d b bit).pwr = d.pwr := pwr_of_view (raise0_view d b bit)

end

end Sys2Proof.Machine
end

section
/-! PROOFS. Power domains that go off and come on: what stays of the power state and of the registers (R44, R357, R358). -/

namespace Sys2Proof.Machine

/-! ## What a domain loses -/

theorem umods_eq (g : Nat → Nat) (f : Sub → Sub) (l : List Nat) (d : Dev) :
    l.foldl (fun d i => umod d (g i) f) d = { d with subs := (l.foldl (fun d i => umod d (g i) f) d).subs } := by
  induction l generalizing d with
  | nil => rfl
  | cons i l ih => exact ih (umod d (g i) f)

theorem wipePages_eq (d : Dev) (k : Nat) :
    wipePages d k = { d with regs := (wipePages d k).regs, staged := (wipePages d k).staged, pages := (wipePages d k).pages } := by
  unfold wipePages
  dsimp only
  split <;> rfl

/-- The calibration state decides nothing about the registers. -/
theorem wipePages_cal (d : Dev) (k : Nat) (c : Cal) : (wipePages { d with cal := c } k).regs = (wipePages d k).regs := by
  unfold wipePages
  dsimp only
  by_cases h : (decide (12 ≤ k) && !d.marwen.getLsbD (k - 12)) = true
  · rw [if_pos h, if_pos h]
    rfl
  · rw [if_neg h, if_neg h]
    rfl

theorem wipeQuad_eq (d : Dev) (q : Nat) : (wipeQuad d q).pwr = d.pwr ∧ (wipeQuad d q).regs = d.regs ∧ (wipeQuad d q).dram = d.dram
    ∧ (wipeQuad d q).waits = d.waits := by
  unfold wipeQuad
  extract_lets d1 d2
  have h2 : d2 = { d1 with subs := d2.subs } := umods_eq (8 * q + ·) _ (List.range 8) d1
  split
  · rw [h2]
    exact ⟨rfl, rfl, rfl, rfl⟩
  · rw [h2]
    exact ⟨rfl, rfl, rfl, rfl⟩

/-- A domain that loses what it holds loses neither the power state nor what DRAM holds; of the registers it loses those of its pages. -/
theorem wipe_eq (d : Dev) (k : Nat) : (wipe d k).pwr = d.pwr ∧ (wipe d k).regs = (wipePages d k).regs ∧ (wipe d k).dram = d.dram := by
  unfold wipe
  extract_lets c d1 d2
  have h2 : d2.pwr = d.pwr ∧ d2.regs = (wipePages d k).regs ∧ d2.dram = d.dram := by
    have he : d2 = { d1 with regs := d2.regs, staged := d2.staged, pages := d2.pages } := wipePages_eq d1 k
    refine ⟨?_, ?_, ?_⟩
    · rw [he]
    · exact wipePages_cal ..
    · rw [he]
  have hq : ∀ q, (wipeQuad d2 q).pwr = d.pwr ∧ (wipeQuad d2 q).regs = (wipePages d k).regs ∧ (wipeQuad d2 q).dram = d.dram := fun q => by
    obtain ⟨h3, h4, h5, -⟩ := wipeQuad_eq d2 q
    rw [h3, h4, h5]
    exact h2
  match k with
  | 4 | 5 | 6 | 7 => exact hq _
  | 0 | 1 | 2 | 3 | 8 | 9 | 10 | 11 | _ + 12 => exact h2

/-- A register outside the bricks' pages after a wipe of its domain or another. -/
theorem wipe_rget (d : Dev) (k : Nat) {b : Block} {n : RName} {i : Nat} (hp : regKey b n i / 4096 < 0x80) :
    rget (wipe d k) b n i = if (!inDomain d k (regKey b n i / 4096) || keptKey d (regKey b n i)) = true then rget d b n i else resetAt n i := by
  have hw : rget (wipe d k) b n i = rget (wipePages d k) b n i := rget_congr (wipe_eq d k).2.1 b n i
  have hf := tabGet_filter (resetAt n i) d.regs (fun j => !inDomain d k (j / 4096) || keptKey d j) (regKey b n i)
  rw [hw]
  unfold wipePages
  dsimp only
  split
  · have hne : regKey b n i ≠ regKey (.hpt (k - 12)) .hptCfg 0 := by
      intro h
      have h80 : 0x80 ≤ regKey (.hpt (k - 12)) .hptCfg 0 / 4096 := by
        show 0x80 ≤ ((0x80 + (k - 12)) * 0x1000 + RName.hptCfg.row.off + 0 * RName.hptCfg.row.stride) / 4096
        omega
      omega
    exact (rget_rput_ne _ _ hne).trans hf
  · exact hf

/-! ## Domains that go off -/

theorem domBit (k j : Nat) (v : BitVec 20) : (v &&& ~~~BitVec.ofNat 20 (2 ^ k)).getLsbD j = (v.getLsbD j && decide (j ≠ k)) := by
  rw [BitVec.getLsbD_and, BitVec.getLsbD_not, BitVec.getLsbD_ofNat, Nat.testBit_two_pow]
  by_cases hj : j < 20
  · by_cases h : j = k
    · simp [h]
    · simp [hj, h, Ne.symm h]
  · rw [BitVec.getLsbD_of_ge v j (by omega)]
    simp

/-- A domain that is on as it loses its power, before a fenced quadrant is marked again: the middle of the model's domainOff. -/
def domainLost (d : Dev) (k : Nat) : Dev :=
  let d := if k = 3 then timeKeep d else d
  let d := { d with pwr := { d.pwr with dom := d.pwr.dom &&& ~~~(BitVec.ofNat 20 (2 ^ k)), clkStop := d.pwr.clkStop &&& ~~~(BitVec.ofNat 20 (2 ^ k)) } }
  wipe (rput d .seci .seciClaim (rget d .seci .seciClaim &&& ~~~(BitVec.ofNat 32 (2 ^ k)))) k

theorem domainOff_lost {d : Dev} {k : Nat} (h : domOn d k = true) : ∃ pages, domainOff d k = { domainLost d k with pages } := by
  unfold domainOff
  rw [if_neg (by simp [h])]
  dsimp only
  split
  · exact ⟨_, rfl⟩
  · exact ⟨_, rfl⟩

theorem domainLost_pwr (d : Dev) (k : Nat) : (domainLost d k).pwr = { d.pwr with
    dom := d.pwr.dom &&& ~~~(BitVec.ofNat 20 (2 ^ k)), clkStop := d.pwr.clkStop &&& ~~~(BitVec.ofNat 20 (2 ^ k))
    kept := (domainLost d k).pwr.kept, aoTicks := (domainLost d k).pwr.aoTicks } := by
  unfold domainLost
  dsimp only
  rw [(wipe_eq ..).1, rput_pwr]
  split <;> rfl

/-- What a domain that goes off leaves of the power state. -/
theorem domainOff_pwr (d : Dev) (k : Nat) : (domainOff d k).pwr = { d.pwr with
    dom := d.pwr.dom &&& ~~~(BitVec.ofNat 20 (2 ^ k))
    clkStop := if domOn d k = true then d.pwr.clkStop &&& ~~~(BitVec.ofNat 20 (2 ^ k)) else d.pwr.clkStop
    kept := (domainOff d k).pwr.kept, aoTicks := (domainOff d k).pwr.aoTicks } := by
  by_cases h : domOn d k = true
  · obtain ⟨pages, he⟩ := domainOff_lost h
    rw [he, if_pos h]
    exact domainLost_pwr d k
  · have hd : d.pwr.dom &&& ~~~(BitVec.ofNat 20 (2 ^ k)) = d.pwr.dom := by
      refine BitVec.eq_of_getLsbD_eq fun j _ => ?_
      rw [domBit]
      by_cases hj : j = k
      · rw [hj, show d.pwr.dom.getLsbD k = false from Bool.eq_false_iff.2 h, Bool.false_and]
      · simp [hj]
    unfold domainOff
    rw [if_pos h, hd, if_neg h]

theorem domOn_domainOff (d : Dev) (k j : Nat) : domOn (domainOff d k) j = (domOn d j && decide (j ≠ k)) := by
  show (domainOff d k).pwr.dom.getLsbD j = _
  rw [domainOff_pwr]
  exact domBit k j d.pwr.dom

/-- A register that no domain loses: it is not on a brick's page, its key is kept, and it is not the list of claims. -/
theorem domainOff_rget {d : Dev} (k : Nat) {b : Block} {n : RName} {i : Nat} (hp : regKey b n i / 4096 < 0x80) (hk : ∀ d : Dev, keptKey d (regKey b n i) = true)
    (hc : regKey b n i ≠ regKey .seci .seciClaim 0) : rget (domainOff d k) b n i = rget d b n i := by
  by_cases h : domOn d k = true
  · obtain ⟨pages, he⟩ := domainOff_lost h
    have h1 : rget (domainLost d k) b n i = rget d b n i := by
      unfold domainLost
      dsimp only
      rw [wipe_rget _ _ hp, hk, Bool.or_true, if_pos rfl, rget_rput_ne _ _ hc]
      split <;> rfl
    rw [he]
    exact h1
  · unfold domainOff
    rw [if_pos h]

theorem domainOff_dram (d : Dev) (k : Nat) : (domainOff d k).dram = d.dram := by
  by_cases h : domOn d k = true
  · obtain ⟨pages, he⟩ := domainOff_lost h
    rw [he]
    unfold domainLost
    dsimp only
    rw [(wipe_eq ..).2.2]
    show (if k = 3 then timeKeep d else d).dram = _
    split <;> rfl
  · unfold domainOff
    rw [if_pos h]

/-! ## All domains but AO off (R367, R412) -/

/-- The domains 1 to 19 go off, one after the other. -/
def eachOff (l : List Nat) (d : Dev) : Dev := l.foldl (fun d i => domainOff d (i + 1)) d

theorem eachOff_pwr (l : List Nat) (d : Dev) : (eachOff l d).pwr = { d.pwr with
    dom := (eachOff l d).pwr.dom, clkStop := (eachOff l d).pwr.clkStop, kept := (eachOff l d).pwr.kept, aoTicks := (eachOff l d).pwr.aoTicks } := by
  induction l generalizing d with
  | nil => rfl
  | cons i l ih =>
    have h := ih (domainOff d (i + 1))
    rw [domainOff_pwr] at h
    exact h

theorem domOn_eachOff (l : List Nat) (d : Dev) (j : Nat) : domOn (eachOff l d) j = (domOn d j && !(l.map (· + 1)).contains j) := by
  induction l generalizing d with
  | nil => simp [eachOff]
  | cons i l ih =>
    refine (ih (domainOff d (i + 1))).trans ?_
    rw [domOn_domainOff, Bool.and_assoc, List.map_cons, List.contains_cons]
    by_cases h : j = i + 1
    · simp [h]
    · rw [show (j == i + 1) = false from beq_false_of_ne h, decide_eq_true h, Bool.true_and, Bool.false_or]

theorem eachOff_rget (l : List Nat) (d : Dev) {b : Block} {n : RName} {i : Nat} (hp : regKey b n i / 4096 < 0x80) (hk : ∀ d : Dev, keptKey d (regKey b n i) = true)
    (hc : regKey b n i ≠ regKey .seci .seciClaim 0) : rget (eachOff l d) b n i = rget d b n i := by
  induction l generalizing d with
  | nil => rfl
  | cons j l ih => exact (ih (domainOff d (j + 1))).trans (domainOff_rget _ hp hk hc)

theorem eachOff_dram (l : List Nat) (d : Dev) : (eachOff l d).dram = d.dram := by
  induction l generalizing d with
  | nil => rfl
  | cons j l ih => exact (ih (domainOff d (j + 1))).trans (domainOff_dram ..)

theorem allOff_eq (d : Dev) : ∃ regs, allOff d = { eachOff (List.range 19) d with regs, waits := [], ioReads := [], react := [], streams := [] } := ⟨_, rfl⟩

theorem allOff_pwr (d : Dev) : (allOff d).pwr = { d.pwr with
    dom := (allOff d).pwr.dom, clkStop := (allOff d).pwr.clkStop, kept := (allOff d).pwr.kept, aoTicks := (allOff d).pwr.aoTicks } := by
  obtain ⟨regs, he⟩ := allOff_eq d
  rw [he]
  exact eachOff_pwr (List.range 19) d

theorem domOn_allOff (d : Dev) {j : Nat} (hj : j < 20) : domOn (allOff d) j = (decide (j = 0) && domOn d 0) := by
  have h : domOn (allOff d) j = domOn (eachOff (List.range 19) d) j := by
    obtain ⟨regs, he⟩ := allOff_eq d
    rw [he]
    rfl
  rw [h, domOn_eachOff]
  by_cases h0 : j = 0
  · subst h0
    simp
  · have hm : ((List.range 19).map (· + 1)).contains j = true := by
      rw [List.contains_iff_mem, List.mem_map]
      exact ⟨j - 1, List.mem_range.2 (by omega), by omega⟩
    rw [hm]
    simp [h0]

theorem allOff_rget (d : Dev) {b : Block} {n : RName} {i : Nat} (hp : regKey b n i / 4096 < 0x80) (hk : ∀ d : Dev, keptKey d (regKey b n i) = true)
    (hc : regKey b n i ≠ regKey .seci .seciClaim 0) : rget (allOff d) b n i = rget d b n i := by
  have hf := tabGet_filter (resetAt n i) (eachOff (List.range 19) d).regs (fun k => ¬ (0x90 ≤ k / 4096 ∧ k / 4096 < 0x98) || (match findReg (.mwt 0) (k % 4096) with
      | some (n, _) => n.row.persist
      | none => false)) (regKey b n i)
  have hp' : ¬ (0x90 ≤ regKey b n i / 4096 ∧ regKey b n i / 4096 < 0x98) := by omega
  rw [decide_eq_true hp', Bool.true_or, if_pos rfl] at hf
  exact hf.trans (eachOff_rget (List.range 19) d hp hk hc)

end Sys2Proof.Machine
end

section
/-! PROOFS. The entry to Retain and the events that wake (R367 to R370, R372). -/

namespace Sys2Proof.Machine

theorem exec_retainFlushDone {s : State} (hq : s.dev.pwr.req = some .retain) (hp : s.dev.pwr.ponr = false) (hh : s.dev.pwr.holdUp = false)
    (hd : drained s.dev = true) : let d := subsToSleep (flushAllQuads s.dev .orderly).1
    exec .retainFlushDone s = .next (onDev s { d with pwr := { d.pwr with ponr := true } }) := by
  show execRetainFlushDone s = _
  rw [execRetainFlushDone, doneIf_next (by simp [hq, hp, hh, hd])]

/-- The device with its pads held, its links down and every domain but AO off: the first part of the model's enterRetain. -/
def retainDark (d : Dev) : Dev := allOff (allLinksDown { d with pwr := { d.pwr with pads := 0x7F } })

theorem retainDark_pwr (d : Dev) : (retainDark d).pwr.pads = 0x7F ∧ ∀ i, i < 20 → domOn (retainDark d) i = (decide (i = 0) && domOn d 0) := by
  unfold retainDark
  refine ⟨?_, fun i hi => ?_⟩
  · rw [allOff_pwr, allLinksDown_pwr]
  · rw [domOn_allOff _ hi]
    unfold domOn
    rw [allLinksDown_pwr]

/-- The device in Retain before the wake that waited, where a Retain request is under way. -/
def retainEntered (d : Dev) : Dev :=
  reqDone (modeTo { d with
    pwr := { d.pwr with vrEn := false, req := none, holdUp := false, ponr := false, cutBy := 0, activating := none, wakeLatched := false }
    boot := {} } .retain) 0

theorem enterRetain_eq {d : Dev} (h : d.pwr.req = some .retain) : enterRetain d = if (retainDark d).pwr.wakeLatched = true
    then { retainEntered (retainDark d) with pwr := { (retainEntered (retainDark d)).pwr with wakeStep := 1, wakeAttempts := 0, vrEn := true } }
    else retainEntered (retainDark d) := by
  unfold enterRetain
  rw [h]
  rfl

theorem exec_retainPointOfNoReturn {s : State} (hq : s.dev.pwr.req = some .retain) (hp : s.dev.pwr.ponr = true) (hh : s.dev.pwr.holdUp = false) :
    exec .retainPointOfNoReturn s = .next (onDev s (enterRetain s.dev)) := by
  show execRetainPointOfNoReturn s = _
  rw [execRetainPointOfNoReturn, doneIf_next (by simp [hq, hp, hh])]

theorem enterRetain_shows {d : Dev} (h : d.pwr.req = some .retain) : (enterRetain d).pwr.mode = .retain ∧ (enterRetain d).pwr.req = none
    ∧ (enterRetain d).pwr.pads = 0x7F ∧ (enterRetain d).pwr.reqResult = 0 ∧ (∀ i, i < 20 → domOn (enterRetain d) i = (decide (i = 0) && domOn d 0))
    ∧ (enterRetain d).waits = [] ∧ ((enterRetain d).pwr.vrEn = true → (enterRetain d).pwr.wakeStep = 1) := by
  obtain ⟨hpads, hdom⟩ := retainDark_pwr d
  have hw : (retainDark d).waits = [] := rfl
  rw [enterRetain_eq h]
  generalize retainDark d = x at hpads hdom hw
  split
  · exact ⟨rfl, rfl, hpads, rfl, hdom, hw, fun _ => rfl⟩
  · exact ⟨rfl, rfl, hpads, rfl, hdom, hw, fun hv => absurd hv Bool.false_ne_true⟩

/-! ## Wake events (R369, R370) -/

/-- The device with a wake event recorded. -/
def wakeSeen (d : Dev) (k : Nat) : Dev := rput d .pwr .pwrWakeSrc (rget d .pwr .pwrWakeSrc ||| BitVec.ofNat 32 (2 ^ k))

theorem wakeEvent_eq (d : Dev) (k : Nat) : wakeEvent d k = if ¬ (rget d .pwr .pwrWakeEn).getLsbD k = true then wakeSeen d k
    else if d.pwr.holdUp = true ∨ (d.pwr.req = some .retain ∧ d.pwr.ponr = true) then
      rput { wakeSeen d k with pwr := { (wakeSeen d k).pwr with wakeLatched := true } } .pwr .pwrWakeSrc (rget (wakeSeen d k) .pwr .pwrWakeSrc ||| 0x80000000)
    else if d.pwr.req = some .retain then retainAbort (wakeSeen d k)
    else if d.pwr.mode = .retain ∧ d.pwr.wakeStep = 0 ∧ ¬ d.pwr.wakeFail = true ∧ ¬ d.pwr.regOff = true then wakeStart (wakeSeen d k)
    else wakeSeen d k := by
  have hen : rget (wakeSeen d k) .pwr .pwrWakeEn = rget d .pwr .pwrWakeEn := rget_rput_ne _ _ (by decide)
  rw [← hen]
  rfl

/-- What each of the commands of a wake event hands to it. -/
theorem exec_wake {s : State} {k : Nat} {c : Instr} {d : Dev}
    (h : (c, k, d) ∈ [(Instr.sidebandAddressMatch, 0, if s.dev.pwr.mode = .retain then send s.dev .nack else s.dev), (.wakeNLow, 1, s.dev), (.wakeTimerExpiry, 4, s.dev)])
    (hm : s.dev.pwr.mode = .retain ∨ (k ≠ 4 ∧ s.dev.pwr.req = some .retain)) (ht : k = 4 → rget s.dev .pwr .pwrWakeTimer ≠ 0) :
    exec c s = .next (onDev s (wakeEvent d k)) ∧ d.pwr = s.dev.pwr ∧ d.regs = s.dev.regs := by
  simp only [List.mem_cons, List.not_mem_nil, or_false, Prod.mk.injEq] at h
  rcases h with ⟨rfl, rfl, rfl⟩ | ⟨rfl, rfl, rfl⟩ | ⟨rfl, rfl, rfl⟩
  · refine ⟨?_, ?_, ?_⟩
    · show execSidebandAddressMatch s = _
      rw [execSidebandAddressMatch, doneIf_next (by
        rcases hm with h | h
        · simp [h]
        · simp [h.2])]
      rfl
    · split <;> rfl
    · split <;> rfl
  · exact ⟨rfl, rfl, rfl⟩
  · refine ⟨?_, rfl, rfl⟩
    have hr : s.dev.pwr.mode = .retain := hm.resolve_right fun h => h.1 rfl
    show execWakeTimerExpiry s = _
    rw [execWakeTimerExpiry, doneIf_next (by rw [decide_eq_true hr, decide_eq_true (ht rfl)]; rfl)]

theorem exec_padRelease {s : State} {p : Path} (v : Word) (ha : admitted s p .pwr .pwrPadRelease = true) :
    exec (.padRelease p v) s = .next (wrote p .pwr .pwrPadRelease (withDev s (padReleaseWrite s.dev v))) := by
  show regCmd s p .pwr .pwrPadRelease v = _
  exact regCmd_device ha rfl (List.mem_append_right _ (show RName.pwrPadRelease ∈ Block.pwr.regs by decide)) (by decide) (by decide) (by decide) (by decide) rfl (by decide) rfl

/-- Settles O46. -/
theorem retainAndWakeEvents : Obligations.RetainAndWakeEvents := by
  refine ⟨fun s hq hp hh hd => exec_retainFlushDone hq hp hh hd, fun s hq hp hh => ⟨_, exec_retainPointOfNoReturn hq hp hh, enterRetain_shows hq⟩,
    fun s k c d hc hm ht => ?_, fun s p v ha => exec_padRelease v ha⟩
  obtain ⟨he, hpw, hre⟩ := exec_wake hc hm ht
  have hen : rget d .pwr .pwrWakeEn = rget s.dev .pwr .pwrWakeEn := rget_congr hre ..
  have hw := wakeEvent_eq d k
  rw [hen, hpw] at hw
  refine ⟨fun h => ?_, fun h hl => ?_, fun h hh hq hp => ?_, fun h hh hq hm => ⟨fun h0 hf hr => ?_, fun hn => ?_⟩⟩
  · rw [he, hw, if_pos (by rw [h]; exact Bool.false_ne_true)]
    rfl
  · rw [he, hw, if_neg (not_not.2 h), if_pos hl]
    rfl
  · rw [he, hw, if_neg (not_not.2 h), if_neg (by simp [hh, hp]), if_pos hq]
    rfl
  · rw [he, hw, if_neg (not_not.2 h), if_neg (by simp [hh, hq]), if_neg (by simp [hq]), if_pos (by simp [hm, h0, hf, hr])]
    rfl
  · rw [he, hw, if_neg (not_not.2 h), if_neg (by simp [hh, hq]), if_neg (by simp [hq]), if_neg]
    · rfl
    · rintro ⟨-, h0, hf, hr⟩
      rcases hn with hn | hn | hn
      · exact hn h0
      · exact hf hn
      · exact hr hn

end Sys2Proof.Machine
end

section
/-! PROOFS. Requests on a power domain (R357, R358, R349). -/

namespace Sys2Proof.Machine

/-! ## The request (R358) -/

theorem fld_packW_domReq (dom : Fin 32) (op : Fin 4) : fld (packW [(0, dom.val), (5, op.val)]) 4 0 = dom.val ∧ fld (packW [(0, dom.val), (5, op.val)]) 6 5 = op.val := by
  revert dom op
  decide

/-- A write of DOM_REQ that the window admits. -/
theorem domCmd_next {s : State} {p : Path} (dom : BitVec 5) {op : Nat} (ho : op < 4) (ha : admitted s p .pwr .pwrDomReq = true) :
    domCmd s p dom op = .next (wrote p .pwr .pwrDomReq (withDev s (domRequest s.dev p dom.toNat op))) := by
  obtain ⟨h1, h2⟩ := fld_packW_domReq ⟨dom.toNat, dom.isLt⟩ ⟨op, ho⟩
  unfold domCmd
  refine (regCmd_device ha rfl (List.mem_append_right _ (show RName.pwrDomReq ∈ regsPwr by decide)) (by decide) (by decide) (by decide) (by decide) rfl
    (by decide) rfl).trans ?_
  rw [h1, h2]

theorem exec_domCmd {s : State} {p : Path} {c : Instr} {dom : BitVec 5} {op : Nat}
    (h : (c, op) ∈ [(Instr.domainPowerOn p dom, 0), (.domainPowerOff p dom, 1), (.domainClockStop p dom, 2), (.domainClockStart p dom, 3)])
    (ha : admitted s p .pwr .pwrDomReq = true) :
    exec c s = .next (wrote p .pwr .pwrDomReq (withDev s (domRequest s.dev p dom.toNat op))) ∧ op < 4 := by
  simp only [List.mem_cons, List.not_mem_nil, or_false, Prod.mk.injEq] at h
  rcases h with ⟨rfl, rfl⟩ | ⟨rfl, rfl⟩ | ⟨rfl, rfl⟩ | ⟨rfl, rfl⟩
  · exact ⟨domCmd_next dom (by decide) ha, by decide⟩
  · exact ⟨domCmd_next dom (by decide) ha, by decide⟩
  · exact ⟨domCmd_next dom (by decide) ha, by decide⟩
  · exact ⟨domCmd_next dom (by decide) ha, by decide⟩

section
variable {d : Dev} {p : Path} {k op : Nat}

theorem domRequest_busy (h : d.pwr.domReq.isSome = true) : domRequest d p k op = domDone d 1 := if_pos h

theorem domRequest_free (h : d.pwr.domReq = none) : domRequest d p k op = if k < 4 then domDone d 4 else if 20 ≤ k then domDone d 3
    else if p ≠ .secure ∧ (op = 1 ∨ op = 2) ∧ claimed d k = true then domDone (claimRefused d k (op - 1) (Path.code p)) 2
    else if ¬ domAllowed d k op = true then domDone d 3 else { d with pwr := { d.pwr with domReq := some (k, op) } } := by
  unfold domRequest
  rw [if_neg (by rw [h]; exact Bool.false_ne_true)]

end

/-! ## The conditions (R357) -/

/-- Whether a domain may lose its power or its clocks: the second line of the model's domAllowed. -/
def mayStop (d : Dev) (k : Nat) : Bool :=
  if k < 8 then quadFenced d (k - 4)
  else if k < 12 then !domOn d (k - 4) || (List.range 4).all fun j => subFenced d (2 * (4 * (k - 8) + j)) && subFenced d (2 * (4 * (k - 8) + j) + 1)
  else true

theorem domAllowed_eq (d : Dev) (k : Nat) : domAllowed d k 1 = mayStop d k ∧ domAllowed d k 2 = (decide (8 ≤ k) && domOn d k && mayStop d k)
    ∧ domAllowed d k 3 = (decide (8 ≤ k) && domOn d k) := ⟨rfl, rfl, rfl⟩

theorem domAllowed_stop (d : Dev) {k : Nat} (h4 : 4 ≤ k) : domAllowed d k 1 = true ↔ 12 ≤ k ∨ (k < 8 ∧ quadFenced d (k - 4) = true)
    ∨ (8 ≤ k ∧ k < 12 ∧ (domOn d (k - 4) = false ∨ ∀ u, 8 * (k - 8) ≤ u → u < 8 * (k - 8) + 8 → subFenced d u = true)) := by
  rw [(domAllowed_eq d k).1]
  unfold mayStop
  by_cases h8 : k < 8
  · rw [if_pos h8]
    exact ⟨fun h => .inr (.inl ⟨h8, h⟩), fun h => by
      rcases h with h | h | h
      · omega
      · exact h.2
      · omega⟩
  · rw [if_neg h8]
    by_cases h12 : k < 12
    · rw [if_pos h12, Bool.or_eq_true, Bool.not_eq_true', List.all_eq_true]
      have hu : (∀ j ∈ List.range 4, (subFenced d (2 * (4 * (k - 8) + j)) && subFenced d (2 * (4 * (k - 8) + j) + 1)) = true)
          ↔ ∀ u, 8 * (k - 8) ≤ u → u < 8 * (k - 8) + 8 → subFenced d u = true := by
        refine ⟨fun h u hl hr => ?_, fun h j hj => ?_⟩
        · have hj := h ((u - 8 * (k - 8)) / 2) (List.mem_range.2 (by omega))
          rw [Bool.and_eq_true] at hj
          rcases Nat.mod_two_eq_zero_or_one u with hm | hm
          · rw [show u = 2 * (4 * (k - 8) + (u - 8 * (k - 8)) / 2) by omega]
            exact hj.1
          · rw [show u = 2 * (4 * (k - 8) + (u - 8 * (k - 8)) / 2) + 1 by omega]
            exact hj.2
        · have hj := List.mem_range.1 hj
          rw [h _ (by omega) (by omega), h _ (by omega) (by omega)]
          rfl
      rw [hu]
      exact ⟨fun h => .inr (.inr ⟨by omega, h12, h⟩), fun h => by
        rcases h with h | h | h
        · omega
        · omega
        · exact h.2.2⟩
    · rw [if_neg h12]
      exact ⟨fun _ => .inl (by omega), fun _ => rfl⟩

theorem domAllowed_clocks (d : Dev) (k : Nat) : (domAllowed d k 2 = true ↔ 8 ≤ k ∧ domOn d k = true ∧ domAllowed d k 1 = true)
    ∧ (domAllowed d k 3 = true ↔ 8 ≤ k ∧ domOn d k = true) := by
  obtain ⟨h1, h2, h3⟩ := domAllowed_eq d k
  rw [h1, h2, h3]
  simp only [Bool.and_eq_true, decide_eq_true_eq, and_assoc]
  exact ⟨trivial, trivial⟩

theorem claimRefused_capture (d : Dev) (dom kind path : Nat) : rget (claimRefused d dom kind path) .seci .seciClaimRefused
    = if (rget d .seci .seciClaimRefused).getLsbD 31 then rget d .seci .seciClaimRefused else packW [(0, dom), (5, kind), (8, path), (31, 1)] := by
  unfold claimRefused
  dsimp only
  rw [rget_congr (raiseEvent_regs ..), raise0, raise_rget _ _ _ _ _ _ _ _ (by decide)]
  split
  · rfl
  · rw [rget_rput_self]

/-! ## The end of a request (R44, R349, R358) -/

theorem domainOn_pwr_of_off {d : Dev} {k : Nat} (h : domOn d k = false) : (domainOn d k).pwr.dom = d.pwr.dom ||| BitVec.ofNat 20 (2 ^ k)
    ∧ (domainOn d k).pwr.clkStop = d.pwr.clkStop ∧ (domainOn d k).pwr.domReq = d.pwr.domReq := by
  have hr : ∀ e : Dev, (timeRestore e).pwr.dom = e.pwr.dom ∧ (timeRestore e).pwr.clkStop = e.pwr.clkStop ∧ (timeRestore e).pwr.domReq = e.pwr.domReq := fun e => by
    unfold timeRestore
    dsimp only
    split <;> exact ⟨rfl, rfl, rfl⟩
  unfold domainOn
  rw [if_neg (by rw [h]; exact Bool.false_ne_true)]
  dsimp only
  split
  · obtain ⟨h1, h2, h3⟩ := hr (wipe { d with pwr := { d.pwr with dom := d.pwr.dom ||| BitVec.ofNat 20 (2 ^ k) } } k)
    rw [h1, h2, h3, (wipe_eq ..).1]
    exact ⟨rfl, rfl, rfl⟩
  · rw [(wipe_eq ..).1]
    exact ⟨rfl, rfl, rfl⟩

theorem domainOn_rget {d : Dev} {k : Nat} (h : domOn d k = false) {b : Block} {n : RName} {i : Nat} (hp : regKey b n i / 4096 < 0x80)
    (hi : inDomain d k (regKey b n i / 4096) = true) (hk : keptKey d (regKey b n i) = false) : rget (domainOn d k) b n i = resetAt n i := by
  have hw := wipe_rget { d with pwr := { d.pwr with dom := d.pwr.dom ||| BitVec.ofNat 20 (2 ^ k) } } k hp
  have hc : (!inDomain { d with pwr := { d.pwr with dom := d.pwr.dom ||| BitVec.ofNat 20 (2 ^ k) } } k (regKey b n i / 4096)
      || keptKey { d with pwr := { d.pwr with dom := d.pwr.dom ||| BitVec.ofNat 20 (2 ^ k) } } (regKey b n i)) = false := by
    show (!inDomain d k (regKey b n i / 4096) || keptKey d (regKey b n i)) = false
    rw [hi, hk]
    rfl
  rw [hc, if_neg Bool.false_ne_true] at hw
  unfold domainOn
  rw [if_neg (by rw [h]; exact Bool.false_ne_true)]
  dsimp only
  split
  · exact hw
  · exact hw

/-- A fold of steps that change the table of entries alone. -/
theorem foldl_mapShare {α : Type} {f : Dev → α → Dev} (h : ∀ d x, f d x = { d with mapShare := (f d x).mapShare }) (l : List α) (d : Dev) :
    l.foldl f d = { d with mapShare := (l.foldl f d).mapShare } := by
  induction l generalizing d with
  | nil => rfl
  | cons x l ih =>
    have hx := ih (f d x)
    rw [h d x] at hx
    rw [List.foldl_cons, h d x]
    exact hx

theorem clearMoving_eq (d : Dev) (q : Nat) : clearMoving d q = { d with mapShare := (clearMoving d q).mapShare } := by
  unfold clearMoving
  exact foldl_mapShare (fun _ _ => rfl) _ d

/-- The journals of a quadrant that comes on touch neither the power state nor a register but the count of records. -/
theorem dollyReconcile_keeps (d : Dev) (q : Nat) : (dollyReconcile d q true).pwr = d.pwr
    ∧ ∀ b n i, regKey b n i ≠ regKey .flt .fltEvtCount 0 → rget (dollyReconcile d q true) b n i = rget d b n i := by
  have hm : ∀ e f : Dev, f.pwr = e.pwr → (∀ b n i, regKey b n i ≠ regKey .flt .fltEvtCount 0 → rget f b n i = rget e b n i) →
      (rebuildUse (clearMoving (qmod f q fun s => { s with journal := none, move := none }) q) q).pwr = e.pwr
      ∧ ∀ b n i, regKey b n i ≠ regKey .flt .fltEvtCount 0 → rget (rebuildUse (clearMoving (qmod f q fun s => { s with journal := none, move := none }) q) q) b n i = rget e b n i := by
    intro e f hp hr
    have hc := clearMoving_eq (qmod f q fun s => { s with journal := none, move := none }) q
    generalize clearMoving (qmod f q fun s => { s with journal := none, move := none }) q = g at hc
    refine ⟨?_, fun b n i hk => ?_⟩
    · show g.pwr = _
      rw [hc]
      exact hp
    · refine Eq.trans ?_ (hr b n i hk)
      refine rget_congr ?_ b n i
      show g.regs = f.regs
      rw [hc]
      rfl
  have hraise : ∀ b n i, regKey b n i ≠ regKey .flt .fltEvtCount 0 → rget (raise0 d (.dolly 0) 0) b n i = rget d b n i := fun b n i hk => raise_rget _ _ _ _ _ _ _ _ hk
  unfold dollyReconcile
  dsimp only
  refine hm d _ ?_ fun b n i hk => ?_
  · split
    · rfl
    · split
      · exact raise0_pwr ..
      · split <;> rfl
  · split
    · rfl
    · split
      · exact hraise b n i hk
      · split <;> rfl

/-- A DMC register of a quadrant is lost with its domain. -/
theorem dmc_lost (d : Dev) {m : Fin 16} {n : RName} {i : Nat} (hn : n ∈ regsHeader ++ (Block.dmc m).regs) (hi : i < n.row.count) (hp : n.row.persist = false) :
    regKey (.dmc m) n i / 4096 = 0x40 + m ∧ inDomain d (Block.dmc m).domain (regKey (.dmc m) n i / 4096) = true ∧ keptKey d (regKey (.dmc m) n i) = false := by
  have hpage : regKey (.dmc m) n i / 4096 = 0x40 + m := regKey_page hn hi
  have hb : blockAt d.marwen (0x40 + m.val) = some (.dmc m) := by
    unfold blockAt
    rw [if_neg (by omega), if_neg (by omega), if_neg (by omega), if_neg (by omega), if_neg (by omega), if_pos (by omega), Nat.add_sub_cancel_left]
  have hf := findReg_regKey hn hi
  have hr : n ≠ .fltResetCause ∧ n ≠ .seciPageRights := by
    have hall : ∀ n ∈ regsHeader ++ regsDmc, n ≠ RName.fltResetCause ∧ n ≠ RName.seciPageRights := by decide
    exact hall n hn
  refine ⟨hpage, ?_, ?_⟩
  · unfold inDomain
    rw [hpage, hb]
    exact decide_eq_true rfl
  · unfold keptKey
    rw [hpage, if_neg (by omega), hb]
    dsimp only
    rw [hf]
    dsimp only
    rw [hp, decide_eq_false hr.1, decide_eq_false hr.2]
    rfl

theorem domApply_zero (d : Dev) (k : Nat) : domApply d k 0 = if domOn d k then d
    else if k < 8 then dollyReconcile (domainOn d k) (k - 4) true else domainOn d k := by
  unfold domApply
  simp

/-- What a power on does. -/
theorem domApply_on (d : Dev) {k : Nat} (hk : k < 20) : (domApply d k 0).pwr.domReq = d.pwr.domReq ∧ (∀ j, domOn (domApply d k 0) j = (domOn d j || decide (j = k)))
    ∧ (domApply d k 0).pwr.clkStop = d.pwr.clkStop := by
  by_cases h : domOn d k = true
  · rw [domApply_zero, if_pos h]
    refine ⟨rfl, fun j => ?_, rfl⟩
    by_cases hj : j = k
    · rw [hj, h, Bool.true_or]
    · simp [hj]
  · have he : (domApply d k 0).pwr = (domainOn d k).pwr := by
      rw [domApply_zero, if_neg h]
      split
      · exact (dollyReconcile_keeps ..).1
      · rfl
    obtain ⟨h1, h2, h3⟩ := domainOn_pwr_of_off (Bool.eq_false_iff.2 h)
    refine ⟨by rw [he, h3], fun j => ?_, by rw [he, h2]⟩
    show (domApply d k 0).pwr.dom.getLsbD j = _
    rw [he, h1, BitVec.getLsbD_or, BitVec.getLsbD_ofNat, Nat.testBit_two_pow]
    show (domOn d j || _) = _
    by_cases hj : j = k
    · simp [hj, hk]
    · simp [hj, Ne.symm hj]

/-- The device whose brick, where the domain is one, is down. -/
def brickOff (d : Dev) (k : Nat) : Dev := if 12 ≤ k then brickDown d (k - 12) else d

theorem brickOff_pwr (d : Dev) (k : Nat) : (brickOff d k).pwr = d.pwr := by
  unfold brickOff
  split
  · exact brickDown_pwr ..
  · rfl

theorem domApply_off (d : Dev) (k : Nat) : domApply d k 1 = domainOff (brickOff d k) k := by
  unfold domApply brickOff
  dsimp only
  simp

theorem domApply_stop (d : Dev) (k : Nat) : (domApply d k 2).pwr = { d.pwr with clkStop := d.pwr.clkStop ||| BitVec.ofNat 20 (2 ^ k) } := by
  have he : domApply d k 2 = { brickOff d k with pwr := { (brickOff d k).pwr with clkStop := (brickOff d k).pwr.clkStop ||| BitVec.ofNat 20 (2 ^ k) } } := by
    unfold domApply brickOff
    dsimp only
    simp
  rw [he]
  dsimp only
  rw [brickOff_pwr]

theorem domApply_start (d : Dev) (k : Nat) : (domApply d k 3).pwr = { d.pwr with clkStop := d.pwr.clkStop &&& ~~~(BitVec.ofNat 20 (2 ^ k)) } := by
  have he : domApply d k 3 = if 12 ≤ k then linkTry { d with pwr := { d.pwr with clkStop := d.pwr.clkStop &&& ~~~(BitVec.ofNat 20 (2 ^ k)) } } (k - 12)
      else { d with pwr := { d.pwr with clkStop := d.pwr.clkStop &&& ~~~(BitVec.ofNat 20 (2 ^ k)) } } := by
    unfold domApply
    simp
  rw [he]
  split
  · rw [linkTry_pwr]
  · rfl

/-! ## The whole statement -/

section
variable {s : State} {p : Path} {c : Instr} {dom : BitVec 5} {op : Nat}

theorem exec_domCmd_ends {r : Nat} (hm : (c, op) ∈ [(Instr.domainPowerOn p dom, 0), (.domainPowerOff p dom, 1), (.domainClockStop p dom, 2), (.domainClockStart p dom, 3)])
    (ha : admitted s p .pwr .pwrDomReq = true) {e : Dev} (h : domRequest s.dev p dom.toNat op = domDone e r) :
    exec c s = .next (wrote p .pwr .pwrDomReq (withDev s (raiseEvent { e with pwr := { e.pwr with domResult := r } } .pwr 2))) := by
  rw [(exec_domCmd hm ha).1, h]
  rfl

end

/-- What the end of a request leaves of the power state, for each operation. -/
theorem domApply_pwr (d : Dev) {k op : Nat} (hk : k < 20) (ho : op ≤ 3) : (domApply d k op).pwr.domReq = d.pwr.domReq
    ∧ (domOn (domApply d k op) k = if op = 0 then true else if op = 1 then false else domOn d k)
    ∧ (∀ j, j ≠ k → domOn (domApply d k op) j = domOn d j ∧ (domApply d k op).pwr.clkStop.getLsbD j = d.pwr.clkStop.getLsbD j)
    ∧ (op = 2 → (domApply d k op).pwr.clkStop.getLsbD k = true) ∧ (op = 3 → (domApply d k op).pwr.clkStop.getLsbD k = false)
    ∧ (op = 1 → domOn d k = true → (domApply d k op).pwr.clkStop.getLsbD k = false) := by
  have hcases : op = 0 ∨ op = 1 ∨ op = 2 ∨ op = 3 := by omega
  rcases hcases with rfl | rfl | rfl | rfl
  · obtain ⟨hr, hd, hc⟩ := domApply_on d hk
    exact ⟨hr, by rw [hd]; simp, fun j hj => ⟨by rw [hd]; simp [hj], by rw [hc]⟩, nofun, nofun, nofun⟩
  · have hp := domainOff_pwr (brickOff d k) k
    have hb := brickOff_pwr d k
    have hon : ∀ j, domOn (brickOff d k) j = domOn d j := fun j => by
      unfold domOn
      rw [hb]
    have hclk : (domainOff (brickOff d k) k).pwr.clkStop
        = if domOn d k = true then d.pwr.clkStop &&& ~~~(BitVec.ofNat 20 (2 ^ k)) else d.pwr.clkStop := by
      rw [hp, hon, hb]
    rw [domApply_off]
    refine ⟨by rw [hp, hb], by rw [domOn_domainOff]; simp, fun j hj => ⟨by rw [domOn_domainOff, hon]; simp [hj], ?_⟩, nofun, nofun, fun _ h => ?_⟩
    · rw [hclk]
      split
      · rw [domBit]
        simp [hj]
      · rfl
    · rw [hclk, if_pos h, domBit]
      simp
  · have hp := domApply_stop d k
    have hon : ∀ j, domOn (domApply d k 2) j = domOn d j := fun j => by
      unfold domOn
      rw [hp]
    refine ⟨by rw [hp], hon k, fun j hj => ⟨hon j, ?_⟩, fun _ => ?_, nofun, nofun⟩
    · rw [hp, BitVec.getLsbD_or, BitVec.getLsbD_ofNat, Nat.testBit_two_pow]
      simp [Ne.symm hj]
    · rw [hp, BitVec.getLsbD_or, BitVec.getLsbD_ofNat, Nat.testBit_two_pow]
      simp [hk]
  · have hp := domApply_start d k
    have hon : ∀ j, domOn (domApply d k 3) j = domOn d j := fun j => by
      unfold domOn
      rw [hp]
    refine ⟨by rw [hp], hon k, fun j hj => ⟨hon j, ?_⟩, nofun, fun _ => ?_, nofun⟩
    · rw [hp, domBit]
      simp [hj]
    · rw [hp, domBit]
      simp

/-- A power on of a quadrant brings its DMC pages up with their reset values. -/
theorem domApply_dmc {d : Dev} {m : Fin 16} {n : RName} {i : Nat} (hon : domOn d (Block.dmc m).domain = false) (hn : n ∈ regsHeader ++ (Block.dmc m).regs)
    (hi : i < n.row.count) (hp : n.row.persist = false) : rget (domApply d (Block.dmc m).domain 0) (.dmc m) n i = resetAt n i := by
  obtain ⟨hpage, hin, hkept⟩ := dmc_lost d hn hi hp
  have hlt : (Block.dmc m).domain < 8 := by
    show 4 + m.val / 4 < 8
    omega
  have hflt : regKey .flt .fltEvtCount 0 / 4096 = 2 := by decide
  rw [domApply_zero, if_neg (by rw [hon]; exact Bool.false_ne_true), if_pos hlt, (dollyReconcile_keeps ..).2 _ _ _ (fun h => by
    rw [h] at hpage
    omega), domainOn_rget hon (by omega) hin hkept]

theorem exec_domainRequestDone {s : State} {k op : Nat} (h : s.dev.pwr.domReq = some (k, op)) : exec .domainRequestDone s
    = .next (onDev s (domDone (domApply { s.dev with pwr := { s.dev.pwr with domReq := none } } k op) 0)) := by
  show execDomainRequestDone s = _
  unfold execDomainRequestDone
  rw [h]
  rfl

/-- Settles O44: the request by the branches of the rule, its end by what each operation does to the power state. -/
theorem domainRequests : Obligations.DomainRequests := by
  unfold Obligations.DomainRequests
  refine ⟨⟨fun s p c dom op hm ha => ?_, fun d k h4 _ => ⟨rfl, domAllowed_stop d h4, domAllowed_clocks d k⟩, claimRefused_capture⟩, fun s k op hr h4 hk ho => ?_⟩
  · refine ⟨fun hb => exec_domCmd_ends hm ha (domRequest_busy hb), fun hfree => ?_⟩
    have heq := domRequest_free (p := p) (k := dom.toNat) (op := op) hfree
    have ho := (exec_domCmd hm ha).2
    refine ⟨fun h4 => exec_domCmd_ends hm ha (by rw [heq, if_pos h4]), fun h20 => exec_domCmd_ends hm ha (by rw [heq, if_neg (by omega), if_pos h20]),
      fun h4 h20 => ?_⟩
    rw [if_neg (by omega), if_neg (by omega)] at heq
    refine ⟨fun hp hc hop => exec_domCmd_ends hm ha (by rw [heq, if_pos ⟨hp, hop, hc⟩]), fun hfree => ?_⟩
    have hnot : ¬ (p ≠ .secure ∧ (op = 1 ∨ op = 2) ∧ claimed s.dev dom.toNat = true) := by
      rintro ⟨h1, h2, h3⟩
      rcases hfree with h | h | h | h
      · exact h1 h
      · rw [h] at h3
        exact Bool.false_ne_true h3
      · omega
      · omega
    rw [if_neg hnot] at heq
    refine ⟨fun hd => exec_domCmd_ends hm ha (by rw [heq, if_pos (by rw [hd]; exact Bool.false_ne_true)]), fun hd => ?_⟩
    rw [(exec_domCmd hm ha).1, heq, if_neg (not_not.2 hd)]
  · have hp := domApply_pwr { s.dev with pwr := { s.dev.pwr with domReq := none } } hk ho
    obtain ⟨hreq, hon, hoff, hstop, hstart, hlost⟩ := hp
    refine ⟨_, exec_domainRequestDone hr, hreq, hon, hoff, hstop, hstart, hlost, ?_⟩
    rintro rfl hd m n i rfl hn hi hpers
    exact domApply_dmc hd hn hi hpers

end Sys2Proof.Machine
end

section
/-! PROOFS. Cold and warm resets (R344, R411, R412, R415, R459). -/

namespace Sys2Proof.Machine

/-! ## The cold reset (R411, R416) -/

theorem coldDev_eq (d : Dev) (cause : Word) (kept : Bool) : ∃ e : Dev, e.regs = (if kept then d.regs.filter fun e => feedKey e.1 else [])
    ∧ coldDev d cause kept = { rput (rput e .flt .fltResetCause cause) .sbi .sbiBootStat 1 with boot := { active := true } } := ⟨_, rfl, rfl⟩

section
variable {b : Block} {n : RName} {i : Nat}

theorem feedKey_page (hn : n ∈ regsHeader ++ b.regs) (hi : i < n.row.count) : feedKey (regKey b n i) = decide (b = .feed) := by
  unfold feedKey
  rw [regKey_page hn hi]
  congr 1
  apply propext
  cases b <;> simp [Block.page] <;> omega

/-- A register after a cold reset: the one of the feed controller that stayed powered is kept, and two are written. -/
theorem coldReset_rget (s : State) (cause : Word) (kept : Bool) (hn : n ∈ regsHeader ++ b.regs) (hi : i < n.row.count)
    (hc : regKey b n i ≠ regKey .flt .fltResetCause 0) (hs : regKey b n i ≠ regKey .sbi .sbiBootStat 0) :
    rget (coldReset s cause kept).dev b n i = if kept = true ∧ b = .feed then rget s.dev b n i else resetAt n i := by
  have hr : rget (coldReset s cause kept).dev b n i = tabGet (resetAt n i) (if kept then s.dev.regs.filter fun e => feedKey e.1 else []) (regKey b n i) := by
    obtain ⟨e, hr, he⟩ := coldDev_eq s.dev cause kept
    show rget (coldDev s.dev cause kept) b n i = _
    rw [← hr, he]
    exact (rget_rput_ne (rput e .flt .fltResetCause cause) 1 hs).trans (rget_rput_ne e cause hc)
  rw [hr]
  cases kept
  · simp
  · rw [if_pos rfl, tabGet_filter, feedKey_page hn hi]
    simp [rget]

end

theorem coldReset_fixed (s : State) (cause : Word) (kept : Bool) : rget (coldReset s cause kept).dev .flt .fltResetCause = cause
    ∧ rget (coldReset s cause kept).dev .sbi .sbiBootStat = 1 := by
  obtain ⟨e, -, he⟩ := coldDev_eq s.dev cause kept
  show rget (coldDev s.dev cause kept) .flt .fltResetCause = cause ∧ rget (coldDev s.dev cause kept) .sbi .sbiBootStat = 1
  rw [he]
  show rget (rput (rput e .flt .fltResetCause cause) .sbi .sbiBootStat 1) .flt .fltResetCause = cause
    ∧ rget (rput (rput e .flt .fltResetCause cause) .sbi .sbiBootStat 1) .sbi .sbiBootStat = 1
  rw [rget_rput_ne _ _ (by decide), rget_rput_self, rget_rput_self]
  exact ⟨rfl, rfl⟩

theorem lifeCold_eq (l : Life) : (lifeCold l).state = l.burn.getD l.state ∧ (lifeCold l).burn = none ∧ (lifeCold l).unlocked = 0 ∧ (lifeCold l).nonces = []
    ∧ (lifeCold l).testSecret = (l.testSecret || decide (l.burn = some 2)) ∧ (lifeCold l).cores.length = 4 := by
  unfold lifeCold
  cases h : l.burn with
  | none => simp [lifeReset, h]
  | some c => simp [lifeReset]

theorem exec_aoPowerUp (s : State) : exec .aoPowerUp s = .next (settled (coldReset s (packW [(0, 0), (2, 0), (5, 0)]) (decide (s.feed.admitted ≠ 0)))) := rfl

/-! ## RESET_CTL (R411) -/

theorem exec_coldReset {s : State} {p : Path} (v : Word) (ha : admitted s p .flt .fltResetCtl = true) :
    exec (.coldReset p v) s = .next (wrote p .flt .fltResetCtl (coldReset { s with dev := flashRecords s.dev 3 } (packW [(0, 1), (2, Path.code p), (5, 0)]) true)) := by
  refine regCmd_state ha ?_ (List.mem_append_right _ (show RName.fltResetCtl ∈ regsFlt by decide)) (by decide) (by decide) (by decide) (by decide) rfl (by decide)
    rfl rfl
  show some (resetCtlWrite s p (v ||| 2)) = _
  unfold resetCtlWrite
  rw [if_pos (by simp)]
  rfl

theorem exec_warmReset {s : State} {p : Path} {v : Word} (ha : admitted s p .flt .fltResetCtl = true) (hv : v.getLsbD 1 = false) :
    exec (.warmReset p v) s = .next (wrote p .flt .fltResetCtl (if ¬ s.dev.pwr.holdUp ∧ s.dev.pwr.warm = none ∧ s.dev.pwr.mode ≠ .retain then
      withDev s (allLinksDown { s.dev with pwr := { s.dev.pwr with warm := some (Path.code p) } }) else s)) := by
  refine regCmd_state ha ?_ (List.mem_append_right _ (show RName.fltResetCtl ∈ regsFlt by decide)) (by decide) (by decide) (by decide) (by decide) rfl (by decide)
    rfl rfl
  show some (resetCtlWrite s p (v ||| 1)) = _
  unfold resetCtlWrite
  have h1 : (v ||| 1).getLsbD 1 = false := by
    rw [BitVec.getLsbD_or, hv]
    rfl
  have h0 : (v ||| 1).getLsbD 0 = true := by
    rw [BitVec.getLsbD_or]
    simp
  rw [h1, h0, if_neg Bool.false_ne_true]
  simp only [true_and]
  rfl

/-! ## The end of a warm reset (R412) -/

theorem exec_warmResetTimeout {s : State} {path : Nat} (h : s.dev.pwr.warm = some path) :
    exec .warmResetTimeout s = .next (settled (coldReset s (packW [(0, 3), (2, path), (5, 2)]) true)) := by
  show execWarmResetTimeout s = _
  unfold execWarmResetTimeout
  rw [h]
  rfl

theorem exec_warmResetFlushDone {s : State} {path : Nat} (h : s.dev.pwr.warm = some path) :
    exec .warmResetFlushDone s = if (warmFlush s.dev).flt.lossQ ≠ 0
      then .next (settled (coldReset { s with dev := warmFlush s.dev } (packW [(0, 3), (2, path), (5, 1)]) true))
      else .next (onDev s (warmDown (warmFlush s.dev) path)) := by
  show execWarmResetFlushDone s = _
  unfold execWarmResetFlushDone
  rw [h]
  rfl

theorem exec_warmReset_none {s : State} (h : s.dev.pwr.warm = none) : exec .warmResetFlushDone s = .next s ∧ exec .warmResetTimeout s = .next s := by
  refine ⟨?_, ?_⟩
  · show execWarmResetFlushDone s = _
    unfold execWarmResetFlushDone
    rw [h]
    rfl
  · show execWarmResetTimeout s = _
    unfold execWarmResetTimeout
    rw [h]
    rfl

/-- The device whose domains are off, its halt and its requests over: the first part of the model's warmDown. -/
def warmOff (d : Dev) (path : Nat) : Dev :=
  let e := allOff (rput d .flt .fltResetCause (packW [(0, 2), (2, path), (5, 0)]))
  { e with
    flt := { e.flt with haltOn := false, haltRunning := false }
    pwr := { e.pwr with warm := none, ponr := false, cutBy := 0, activating := none, domReq := none } }

/-- The mode request under way, if any, is dropped. -/
def reqDropped (d : Dev) : Dev := if d.pwr.req.isSome then reqEnd d 3 else d

theorem warmDown_eq (d : Dev) (path : Nat) : warmDown d path = bootEnter (reqDropped (warmOff d path)) 1 true := rfl

theorem reqDropped_eq (d : Dev) : (reqDropped d).pwr.req = none ∧ (reqDropped d).pwr.warm = d.pwr.warm ∧ (reqDropped d).pwr.dom = d.pwr.dom
    ∧ (reqDropped d).flt = d.flt ∧ (reqDropped d).regs = d.regs ∧ (reqDropped d).waits = d.waits ∧ (reqDropped d).dram = d.dram := by
  unfold reqDropped
  split
  · exact ⟨rfl, rfl, rfl, rfl, rfl, rfl, rfl⟩
  next h => exact ⟨Option.not_isSome_iff_eq_none.1 h, rfl, rfl, rfl, rfl, rfl, rfl⟩

theorem warmOff_rget (d : Dev) (path : Nat) : rget (warmOff d path) .flt .fltResetCause = packW [(0, 2), (2, path), (5, 0)] :=
  (allOff_rget (rput d .flt .fltResetCause (packW [(0, 2), (2, path), (5, 0)])) (by decide) (fun _ => rfl) (by decide)).trans (rget_rput_self ..)

theorem warmOff_dram (d : Dev) (path : Nat) : (warmOff d path).dram = d.dram ∧ (warmOff d path).waits = [] := by
  obtain ⟨regs, he⟩ := allOff_eq (rput d .flt .fltResetCause (packW [(0, 2), (2, path), (5, 0)]))
  unfold warmOff
  dsimp only
  rw [he]
  exact ⟨eachOff_dram .., rfl⟩

theorem domOn_warmOff (d : Dev) (path : Nat) {j : Nat} (hj : j < 20) : domOn (warmOff d path) j = (decide (j = 0) && domOn d 0) :=
  domOn_allOff (rput d .flt .fltResetCause (packW [(0, 2), (2, path), (5, 0)])) hj

/-- BOOT_STAT at the entry to Boot at step 1 on the warm path, whatever PREV is. -/
theorem bootStat_first (prev : Nat) {i : Nat} (hi : i < 16) : (packW [(0, 1), (5, 1), (16, prev)]).getLsbD i = (0x21 : Word).getLsbD i := by
  have hs : (BitVec.ofNat 32 (prev <<< 16)).getLsbD i = false := by
    rw [BitVec.getLsbD_ofNat, Nat.testBit_shiftLeft]
    simp [Nat.not_le.2 hi]
  have hp : packW [(0, 1), (5, 1), (16, prev)] = 0x21 ||| BitVec.ofNat 32 (prev <<< 16) := by
    show (((0 : Word) ||| 1) ||| 32) ||| BitVec.ofNat 32 (prev <<< 16) = _
    rfl
  rw [hp, BitVec.getLsbD_or, hs, Bool.or_false]
  rfl

theorem bootEnter_rget (d : Dev) {b : Block} {n : RName} {i : Nat} (h1 : regKey b n i ≠ regKey .sbi .sbiBootStat 0) (h2 : regKey b n i ≠ regKey .sbi .sbiBootMs 0) :
    rget (bootEnter d 1 true) b n i = rget d b n i := by
  show rget (rput (rput d .sbi .sbiBootStat (packW [(0, 1), (5, b2n true), (16, rfld d .sbi .sbiBootStat 17 16)])) .sbi .sbiBootMs 0) b n i = _
  rw [rget_rput_ne _ _ h2, rget_rput_ne _ _ h1]

theorem bootEnter_bootStat (d : Dev) : rget (bootEnter d 1 true) .sbi .sbiBootStat = packW [(0, 1), (5, 1), (16, rfld d .sbi .sbiBootStat 17 16)] := by
  show rget (rput (rput d .sbi .sbiBootStat (packW [(0, 1), (5, b2n true), (16, rfld d .sbi .sbiBootStat 17 16)])) .sbi .sbiBootMs 0) .sbi .sbiBootStat = _
  rw [rget_rput_ne _ _ (by decide), rget_rput_self]
  rfl

/-- Boot entered at step 1 on the warm path (R453). -/
theorem bootEnter_first (d : Dev) : (bootEnter d 1 true).pwr = { d.pwr with mode := .boot } ∧ (bootEnter d 1 true).boot.active = true
    ∧ (bootEnter d 1 true).flt = d.flt ∧ (bootEnter d 1 true).waits = d.waits ∧ (bootEnter d 1 true).dram = d.dram
    ∧ rfld (bootEnter d 1 true) .sbi .sbiBootStat 3 0 = 1 ∧ bitOf (rget (bootEnter d 1 true) .sbi .sbiBootStat) 5 = true := by
  refine ⟨rfl, rfl, rfl, rfl, rfl, ?_, ?_⟩
  · unfold rfld
    rw [bootEnter_bootStat, fld_low (w := 0x21) fun i hi => bootStat_first _ (by omega)]
    rfl
  · unfold bitOf
    rw [bootEnter_bootStat, bootStat_first _ (by decide)]
    rfl

/-- The device at the end of a warm reset's flush, where nothing was lost. -/
theorem warmDown_spec (d : Dev) (path : Nat) : (warmDown d path).pwr.mode = .boot ∧ (warmDown d path).boot.active = true ∧ (warmDown d path).pwr.warm = none
    ∧ (warmDown d path).pwr.req = none ∧ (∀ i, i < 20 → domOn (warmDown d path) i = (decide (i = 0) && domOn d 0))
    ∧ (warmDown d path).flt.haltOn = false ∧ (warmDown d path).flt.haltRunning = false
    ∧ rget (warmDown d path) .flt .fltResetCause = packW [(0, 2), (2, path), (5, 0)] ∧ rfld (warmDown d path) .sbi .sbiBootStat 3 0 = 1
    ∧ bitOf (rget (warmDown d path) .sbi .sbiBootStat) 5 = true ∧ (warmDown d path).waits = [] ∧ (warmDown d path).dram = d.dram := by
  rw [warmDown_eq]
  obtain ⟨r1, r2, r3, r4, r5, r6, r7⟩ := reqDropped_eq (warmOff d path)
  obtain ⟨b1, b2, b3, b4, b5, b6, b7⟩ := bootEnter_first (reqDropped (warmOff d path))
  obtain ⟨o1, o2⟩ := warmOff_dram d path
  refine ⟨by rw [b1], b2, ?_, by rw [b1, ← r1], fun i hi => ?_, ?_, ?_, ?_, b6, b7, by rw [b4, r6, o2], by rw [b5, r7, o1]⟩
  · rw [b1]
    exact r2
  · rw [← domOn_warmOff d path hi]
    unfold domOn
    rw [b1]
    exact congrArg (·.getLsbD i) r3
  · rw [b3, r4]
    rfl
  · rw [b3, r4]
    rfl
  · rw [bootEnter_rget _ (by decide) (by decide), rget_congr r5, warmOff_rget]

/-! ## The warm path's step 7 (R415) -/

theorem exec_warmPathReconcile {s : State} (hm : s.dev.pwr.mode = .boot) (ha : s.dev.boot.active = true) (h5 : (rget s.dev .sbi .sbiBootStat).getLsbD 5 = true)
    (h4 : (rget s.dev .sbi .sbiBootStat).getLsbD 4 = false) (h7 : fld (rget s.dev .sbi .sbiBootStat) 3 0 = 7) (hr : s.dev.boot.reconciled = false)
    (hp : s.dev.pwr.pads &&& 0xF = 0) : exec .warmPathReconcile s
      = .next (onDev s (warmReconcile { (List.range 32).foldl (fun d u => umod d u fun x => { x with selfRefresh := false }) s.dev with
        boot := { s.dev.boot with reconciled := true } })) := by
  show execWarmPathReconcile s = _
  unfold execWarmPathReconcile
  dsimp only
  rw [doneIf_next (by rw [ha, h5, h4, hr, decide_eq_true hm, decide_eq_true h7, decide_eq_true hp]; rfl)]
  rw [show (List.range 32).foldl (fun d u => umod d u fun x => { x with selfRefresh := false }) s.dev = _ from
    umods_eq id (fun x => { x with selfRefresh := false }) (List.range 32) s.dev]

/-! ## The whole statement -/

/-- Settles O53: the cold reset by its definition, the warm reset by what its flush leaves and what its last step switches off. -/
theorem resets : Obligations.Resets := by
  unfold Obligations.Resets
  refine ⟨⟨fun s p v ha => exec_coldReset v ha, exec_aoPowerUp, fun s => ?_, fun s cause kept => ?_⟩,
    ⟨fun s p v ha hv => ⟨fun h1 h2 h3 => ?_, fun hb => ?_⟩, fun s path hw _ => ⟨exec_warmResetTimeout hw, fun hq => ?_, fun hq => ?_⟩,
      fun s hw => exec_warmReset_none hw, fun s hm ha h5 h4 h7 hr hp => exec_warmPathReconcile hm ha h5 h4 h7 hr hp⟩⟩
  · refine ⟨_, rfl, rfl, rfl, rfl, fun i => BitVec.getLsbD_zero, ?_, rfl, (lifeCold_eq s.life).2.2.2.2.2⟩
    show (if feedPowered s.feed then s.feed else {}) = _
    by_cases h : s.feed.admitted = 0 <;> simp [feedPowered, h]
  · obtain ⟨l1, l2, l3, l4, l5, -⟩ := lifeCold_eq s.life
    obtain ⟨c1, c2⟩ := coldReset_fixed s cause kept
    refine ⟨rfl, rfl, rfl, rfl, rfl, rfl, rfl, rfl, rfl, rfl, rfl, rfl, fun b n i hb hn hi hc hs => ?_, c1, c2, fun n i hn hi => ?_, rfl, l1, l2, l3, l4, l5⟩
    · rw [coldReset_rget s cause kept hn hi hc hs, if_neg fun h => hb h.2]
    · have hpage : regKey .feed n i / 4096 = 5 := regKey_page hn hi
      have hne : ∀ k, k / 4096 ≠ 5 → regKey .feed n i ≠ k := fun k hk h => hk (h ▸ hpage)
      rw [coldReset_rget s cause kept hn hi (hne _ (by decide)) (hne _ (by decide))]
      simp
  · rw [exec_warmReset ha hv, if_pos ⟨by rw [h1]; exact Bool.false_ne_true, h2, h3⟩]
  · rw [exec_warmReset ha hv, if_neg]
    rintro ⟨h1, h2, -⟩
    rcases hb with h | h
    · exact h1 h
    · rw [h2] at h
      exact Bool.false_ne_true h
  · rw [exec_warmResetFlushDone hw, if_pos hq]
  · obtain ⟨w1, w2, w3, w4, w5, w6⟩ := warmDown_spec (warmFlush s.dev) path
    have hdom : domOn (warmFlush s.dev) 0 = domOn s.dev 0 := by
      unfold domOn
      rw [warmFlush_pwr]
    have he : exec .warmResetFlushDone s = .next (onDev s (warmDown (warmFlush s.dev) path)) := by
      rw [exec_warmResetFlushDone hw, if_neg (not_not.2 hq)]
    refine ⟨_, he, w1, w2, w3, w4, fun i h0 hi => ?_, ?_, w6⟩
    · rw [w5 i hi, decide_eq_false (by omega), Bool.false_and]
    · rw [w5 0 (by decide), decide_eq_true rfl, Bool.true_and, hdom]

end Sys2Proof.Machine
end

section
/-! PROOFS. What the end of a step takes from a property of the view (R397, R399, R406): reactions, fences, halts, and requests that go on; and the
scheduler of a sub-channel (R187, R188). -/

namespace Sys2Proof.Machine

section
variable {Q U : Nat}

@[simp] theorem conflictScore_view (d : Dev) (r : Req) : view Q U (conflictScore d r) = view Q U d := qmod_view _ _ (by intro; rfl)

@[simp] theorem atmRemember_view (d : Dev) (r : Req) : view Q U (atmRemember d r) = view Q U d := qmod_view _ _ (by intro; rfl)

@[simp] theorem accessRefused_view (d : Dev) (page master p slate : Nat) : view Q U (accessRefused d page master p slate) = view Q U d := by
  unfold accessRefused
  dsimp only
  (repeat' split) <;> simp

@[simp] theorem respondLost_view (d : Dev) (r : Req) : view Q U (respondLost d r) = view Q U d := by
  unfold respondLost
  dsimp only
  (repeat' split) <;> simp

@[simp] theorem fencePage_view (d : Dev) (b : Block) (src : Nat) : view Q U (fencePage d b src) = view Q U d := rfl

@[simp] theorem decodesLost_view (d : Dev) (q : Nat) : view Q U (decodesLost d q) = view Q U d := by
  unfold decodesLost
  split
  · rfl
  · dsimp only
    rw [foldl_view fun d (w : Waiting) => serveData_view d w.req none false, raise0_view]
    exact qmod_view _ _ (by intro; rfl)

@[simp] theorem abandonByFence_view (d : Dev) (q : Nat) : view Q U (abandonByFence d q) = view Q U d := by
  unfold abandonByFence
  split
  · rfl
  · dsimp only
    split
    · exact (qmod_view _ _ (by intro; rfl)).trans (abandonMove_view ..)
    · exact abandonMove_view ..

theorem with_react_view (d : Dev) (x : List React) : view Q U { d with react := x } = view Q U d := rfl

@[simp] theorem flashRecords_view (d : Dev) (prev : Nat) : view Q U (flashRecords d prev) = view Q U d := rfl

@[simp] theorem settleLevels_view (d : Dev) : view Q U (settleLevels d) = view Q U d := by
  unfold settleLevels
  extract_lets b was now d1 moved d2 d3
  have h1 : view Q U d1 = view Q U d := foldl_view (fun d q => qmod_view _ _ (by intro; rfl)) _ _
  have h2 : view Q U d2 = view Q U d1 := by unfold d2; split <;> rfl
  have h3 : view Q U d3 = view Q U d2 := by unfold d3; split <;> rfl
  have h : view Q U d3 = view Q U d := h3.trans (h2.trans h1)
  split
  · rfl
  · split
    · exact h
    · exact h

end

section
variable {P : View → Prop} {Q U : Nat} (hP : Back P Q U)
include hP

theorem dirOpen_back (d : Dev) (r : Req) : P (view Q U (dirOpen d r)) → P (view Q U d) := by
  unfold dirOpen
  extract_lets q set w busy
  split
  · exact dirStart_back hP _ _ _
  · split
    · dsimp only
      intro h
      have h := dirStart_back hP _ _ _ h
      rwa [qmod_view _ _ (by intro; rfl)] at h
    · split
      · simp
      · split
        · simp
        · next victim e _ =>
          split
          next d1 aw ps hs =>
          have h1 : view Q U d1 = view Q U d := by
            rw [← snoopAll_view (Q := Q) (U := U) d victim (agentsOf e.vector) e 0 0 0, hs]
          dsimp only
          split
          · intro h
            have h := evictDone_back hP _ _ _ h
            rwa [qmod_view _ _ (by intro; rfl), h1] at h
          · rw [qmod_view _ _ (by intro; rfl), h1]
            exact id

theorem dirNotice_back (d : Dev) (r : Req) : P (view Q U (dirNotice d r)) → P (view Q U d) := by
  have hw := homeWrite_back hP
  unfold dirNotice
  extract_lets e v d1
  have h1 : view Q U d1 = view Q U d := by
    unfold d1
    (repeat' split) <;> simp
  split
  · next t _ =>
    extract_lets here d2 kept d3
    have h2 : view Q U d2 = view Q U d := by
      unfold d2
      split
      · exact qmod_view _ _ (by intro; rfl)
      · split <;> simp
    have h3 : view Q U d3 = view Q U d := qmod_view _ _ (by intro; rfl)
    split
    · simp [h2]
    · split
      · exact fun h => h3 ▸ hw _ _ h
      · simp
  · split
    · simp [h1]
    · intro h
      have h := hw _ _ h
      rwa [dirPut_view] at h

theorem dirAdmit_back (d : Dev) (r : Req) : P (view Q U (dirAdmit d r)) → P (view Q U d) := by
  have hn := dirNotice_back hP
  have ho := dirOpen_back hP
  unfold dirAdmit
  grind [conflictScore_view, perr_view, atmRemember_view, park_view]

theorem enterHome_back (d : Dev) (r : Req) : P (view Q U (enterHome d r)) → P (view Q U d) := by
  have ha := dirAdmit_back hP
  have hh := atHome_back hP
  unfold enterHome
  grind [respondLost_view, with_flt_view, park_view, respondRefused_view, accessRefused_view, finishRead_view, aboveEdge_view, respondWrite_view]

theorem completeJob_back (d : Dev) (q : Nat) (j : Job) (status flags done result : Nat) :
    P (view Q U (completeJob d q j status flags done result)) → P (view Q U d) := by
  unfold completeJob
  extract_lets d1 d2 dpa rec16 off pol op src r
  intro h
  have h := enterHome_back hP _ _ h
  have h2 : view Q U d2 = view Q U d := (countSet_view ..).trans (rbump_view ..)
  rw [← h2]
  exact h

theorem fenceCluster_back (d : Dev) (q : Nat) : P (view Q U (fenceCluster d q)) → P (view Q U d) := by
  unfold fenceCluster
  dsimp only
  intro h
  have h := foldl_back (fun d (j : Job) => completeJob_back hP d q j 7 0 0 0) _ _ h
  rwa [cmod_view] at h

theorem dropQueued_back (d : Dev) (f : Req → Bool) : P (view Q U (dropQueued d f)) → P (view Q U d) := by
  unfold dropQueued
  extract_lets keep d1
  have h2 : view Q U ((List.range 4).foldl (fun d q => qmod d q fun s => { s with rebuilds := s.rebuilds.filter keep }) d1) = view Q U d1 :=
    foldl_view (fun d q => qmod_view _ _ (by intro; rfl)) _ _
  intro h
  rw [h2] at h
  refine foldl_back (fun d u => ?_) _ _ h
  exact hP.drop fun s => List.filter_subset_self _

theorem dropSub_back (d : Dev) (u : Nat) : P (view Q U (dropSub d u)) → P (view Q U d) := by
  unfold dropSub
  extract_lets s lost d1 lossy d2
  have h2 : view Q U d2 = view Q U d1 := by unfold d2; split <;> rfl
  intro h
  have h : P (view Q U d2) := by
    refine foldl_back (fun d x => ?_) _ _ h
    split <;> simp
  rw [h2] at h
  exact hP.drop (fun s => List.nil_subset _) h

theorem fenceSub_back (d : Dev) (u : Nat) : P (view Q U (fenceSub d u)) → P (view Q U d) := by
  unfold fenceSub
  intro h
  have h := dropSub_back hP _ _ h
  rwa [umod_view _ _ (by intro; rfl)] at h

theorem fenceQuad_back (d : Dev) (q src : Nat) (soft : Bool) : P (view Q U (fenceQuad d q src soft)) → P (view Q U d) := by
  unfold fenceQuad
  split
  · exact id
  · extract_lets home mine reqs ids open_ d1 d2 d3 d4
    have h2 : view Q U d2 = view Q U d1 := qmod_view _ _ (by intro; rfl)
    have h3 : view Q U d3 = view Q U d2 := fencePage_view ..
    have h4 : view Q U d4 = view Q U d3 := foldl_view (fun d r => respondLost_view d r) _ _
    split
    next d5 ok hf =>
    have h5 : view Q U d5 = view Q U d4 := by
      rw [← flushStage_view (Q := Q) (U := U) d4 q, hf]
    extract_lets lossy d6
    have h6 : view Q U d6 = view Q U d5 := by unfold d6; split <;> rfl
    intro h
    have h : P (view Q U d6) := by
      split at h
      · exact h
      · exact h
    rw [h6, h5, h4, h3, h2] at h
    have h := dropQueued_back hP _ _ h
    exact h

theorem workFenced_back (d : Dev) (q : Nat) (w : PackWork) : P (view Q U (workFenced d q w)) → P (view Q U d) := by
  unfold workFenced
  split
  · rw [qmod_view _ _ (by intro; rfl)]
    exact id
  · simp
  · simp
  · split
    · intro h
      have h := completeJob_back hP _ _ _ _ _ _ _ h
      rwa [setLane_view] at h
    · exact id

theorem fenceEngine_back (d : Dev) (q e : Nat) : P (view Q U (fenceEngine d q e)) → P (view Q U d) := by
  unfold fenceEngine
  extract_lets x d1 d2 d3
  intro h
  rw [decodesLost_view] at h
  have h := foldl_back (fun d w => workFenced_back hP d q w) _ _ (foldl_back (fun d w => workFenced_back hP d q w) _ _ h)
  rwa [qmod_view _ _ (by intro; rfl)] at h

theorem fenceUnit_back (d : Dev) (u : FUnit) (src : Nat) (soft : Bool) : P (view Q U (fenceUnit d u src soft)) → P (view Q U d) := by
  unfold fenceUnit
  split
  · exact id
  · exact fenceQuad_back hP _ _ _ _
  · exact fenceEngine_back hP _ _ _
  · rw [qmod_view _ _ (by intro; rfl)]
    exact id
  · intro h
    have h := fenceCluster_back hP _ _ h
    rwa [fencePage_view] at h
  · intro h
    have h := dropSub_back hP _ _ (dropSub_back hP _ _ h)
    rwa [fencePage_view] at h
  · exact fenceSub_back hP _ _
  · intro h
    have h := brickDown_back hP _ _ h
    rwa [fencePage_view] at h

theorem haltStart_back (d : Dev) : P (view Q U (haltStart d)) → P (view Q U d) := by
  unfold haltStart
  split
  · exact id
  · split
    · exact id
    · intro h
      rw [flashRecords_view] at h
      have h := allLinksDown_back hP _ h
      exact h

theorem runReacts_back (n : Nat) (d : Dev) : P (view Q U (runReacts n d)) → P (view Q U d) := by
  induction n generalizing d with
  | zero => exact id
  | succ n ih =>
    unfold runReacts
    split
    · exact id
    · next r rest _ =>
      intro h
      have h := ih _ h
      unfold reactOne at h
      rw [← with_react_view d rest]
      split at h
      · exact fenceUnit_back hP _ _ _ _ h
      · exact fenceUnit_back hP _ _ _ _ h
      · exact haltStart_back hP _ h

/-- Requests that waited for an older write of their line, brought back. -/
theorem retry_back (d : Dev) {p : Waiting → Bool} (hp : ∀ w, p w = true → w.wait = .line) : P (view Q U (retry d p)) → P (view Q U d) := by
  unfold retry
  extract_lets sel d1
  intro h
  have hsel : ∀ w ∈ sel, w.wait = .line := fun w hw => hp w (List.mem_filter.1 hw).2
  have hs : ∀ (l : List Waiting), (∀ w ∈ l, w.wait = .line) → ∀ d : Dev, P (view Q U (l.foldl (fun d w =>
      { resume d w with waits := mapIf (fun x => x.req.id = w.req.id) (fun x => { x with since := w.since }) (resume d w).waits }) d)) → P (view Q U d) := by
    intro l hl
    induction l with
    | nil => exact fun _ h => h
    | cons w l ih =>
      intro d h
      have h := ih (fun w hw => hl w (List.mem_cons_of_mem _ hw)) _ h
      have hw := hl w List.mem_cons_self
      have h : P (view Q U (resume d w)) := h
      unfold resume at h
      rw [hw] at h
      exact atHome_back hP _ _ h
  exact hs sel hsel d1 h

theorem settleLines_back (n : Nat) (d : Dev) : P (view Q U (settleLines n d)) → P (view Q U d) := by
  induction n generalizing d with
  | zero => exact id
  | succ n ih =>
    unfold settleLines
    split
    · exact fun h => retry_back hP _ (fun w hw => by simpa using (Bool.and_eq_true_iff.1 hw).2) (ih _ h)
    · exact id

/-- The end of a step, for a property that the mode does not decide. -/
theorem finish_back (hM : ∀ v m, P { v with pwr := m } → P v) (d : Dev) : P (view Q U (finish d)) → P (view Q U d) := by
  unfold finish
  extract_lets d1
  intro h
  rw [settleLevels_view] at h
  have h : P (view Q U (runReacts 64 d1)) := by
    generalize runReacts 64 d1 = e at h ⊢
    unfold settleMode at h
    extract_lets want at h
    split at h
    · exact hM (view Q U e) _ h
    · exact h
  have h := runReacts_back hP _ _ h
  unfold d1 at h
  split at h
  · exact settleLines_back hP _ _ h
  · exact h

end

/-! ## The scheduler with a request that waits for its read queue (R187, R188) -/

/-- A read of line 0 that its quadrant's DRAM gate let pass and that waits for the read queue. -/
def waitingRead : Req := { id := 1, src := .host 0 7, kind := .rc, op := .read, line := 0, agent := 0, cls := 5 }

/-- The read of the Sander that stands in the queue alone. -/
def queuedRead : RdEnt := { loc := 448, line := 0, purpose := .sander, panic := false }

/-- Page 0 is Open at media page 7; the row of its first line is open, the Sander's read of it waits, and so does a request for room in the queue,
while the gate of the quadrant is shut. -/
def fullQueueDev : Dev :=
  { regs := [(regKey (.map 0) .mapRsvBase 0, 1000000), (regKey (.map 0) .mapLimit 0, 4)]
    pwr := { mode := .service, dom := 0xFFFFF }
    pages := (List.range 256).map fun p => (p, some { run := .rolling })
    quads := [(0, { mapSets := [(0, { ways := [(0, 0, .small (openEntry 7 0) false)] })], gate := { tokens := [(5, -5000)] } })]
    subs := [(6, { rq := [queuedRead] })]
    banks := [(bankKey 6 0, { openRow := some 0 })]
    reg := { oversub := true }
    waits := [{ req := waitingRead, wait := .readQueue, q := 0, since := 0 }] }

/-- That device, in a state. -/
def fullQueue : State := { pending := [], dev := fullQueueDev, feed := {}, life := {} }

/-- The state after the scheduler issued the Sander's read. -/
def issuedFrom (s : State) : State := match exec (.dramCommandIssue 6 [0]) s with
  | .next t => t
  | _ => s

theorem fullQueue_meets : subRuns fullQueueDev 6 = true ∧ (subc fullQueueDev 6).rq = [queuedRead] ∧ (subc fullQueueDev 6).wq = []
    ∧ (subc fullQueueDev 6).mode = .read ∧ (subc fullQueueDev 6).panic = false ∧ panicRead fullQueueDev queuedRead = false
    ∧ 0 < rfld fullQueueDev (.dmc 3) .dmcWqHi 6 0 ∧ (bankOf fullQueueDev queuedRead.loc).1 ∈ [0]
    ∧ (bank fullQueueDev 6 (bankOf fullQueueDev queuedRead.loc).1).openRow = some (bankOf fullQueueDev queuedRead.loc).2 := by
  decide +kernel

/-- The waiting request has entered the queue, behind its gate. -/
theorem issuedFrom_fullQueue : (issuedFrom fullQueue).dev.reg.oversub = true ∧ tabGet 0 (quad (issuedFrom fullQueue).dev 0).gate.tokens 5 < -4095
    ∧ { queuedRead with purpose := .req waitingRead } ∈ (subc (issuedFrom fullQueue).dev 6).rq := by
  decide +kernel

/-- Refutes O22: a request that waited for room in the read queue enters it as soon as a read has left, so the queue is not empty afterwards. The DRAM
gate is shut, so no end of a step can have put the read there. -/
theorem not_dramCommands : ¬ Obligations.DramCommands := by
  unfold Obligations.DramCommands
  rintro ⟨⟨hread, -⟩, -⟩
  obtain ⟨h1, h2, h3, h4, h5, h6, h7, h8, h9⟩ := fullQueue_meets
  obtain ⟨e, he, hrq, -⟩ := hread fullQueue 6 [0] queuedRead h1 h2 h3 h4 h5 h6 h7 h8 h9
  have ht : issuedFrom fullQueue = onDev fullQueue e := by
    unfold issuedFrom
    rw [he]
  obtain ⟨c1, c2, c3⟩ := issuedFrom_fullQueue
  rw [ht] at c1 c2 c3
  have hpage : homeOf (pageOfLine waitingRead.line) = 0 := by decide
  have hfin : Trapped waitingRead (view (homeOf (pageOfLine waitingRead.line)) 6 (finish e)) := by
    rw [hpage]
    exact ⟨⟨c1, c2⟩, _, c3, rfl⟩
  obtain ⟨-, y, hy, -⟩ := finish_back (back_trapped waitingRead 6) (fun _ _ h => h) e hfin
  change y ∈ (subc e 6).rq at hy
  rw [show (subc e 6).rq = [] from hrq] at hy
  exact List.not_mem_nil hy

end Sys2Proof.Machine
end
